-- ==== Sys2Proof/Word.lean ====
section
/-! DEFINITION. The word types and the operand types of the DM-1536: what spec/ treats as bits is a bit vector,
what it names is an inductive type. -/

namespace Sys2Proof

abbrev Byte := BitVec 8

/-- A 64-bit scalar value (R44). -/
abbrev Word := BitVec 64

/-- A scalar register number, `s0` to `s31` (R37). -/
abbrev SReg := BitVec 5

/-- An accumulator tile number; 24 to 31 are illegal (R37). -/
abbrev Tile := BitVec 5

/-- A mask number, `m0` to `m15` (R40). -/
abbrev MReg := BitVec 4

/-- A stage-predicate field: 0 is no predicate (R40). -/
abbrev PReg := BitVec 3

/-- Element types (R40). -/
inductive ETy where
  | s8 | s16 | s32 | s64 | z8 | z16 | z32 | z64 | f32 | f16 | bf16 | e4m3 | e5m2 | q4 | q8
  deriving DecidableEq, Repr

/-- The 5-bit code of a type (R40). -/
def ETy.code : ETy → Nat
  | .s8 => 0 | .s16 => 1 | .s32 => 2 | .s64 => 3 | .z8 => 4 | .z16 => 5 | .z32 => 6 | .z64 => 7
  | .f32 => 8 | .f16 => 9 | .bf16 => 10 | .e4m3 => 11 | .e5m2 => 12 | .q4 => 13 | .q8 => 14

/-- The type of a code; 0x0F to 0x1F are illegal (R40). -/
def ETy.ofCode : Nat → Option ETy
  | 0 => some .s8 | 1 => some .s16 | 2 => some .s32 | 3 => some .s64
  | 4 => some .z8 | 5 => some .z16 | 6 => some .z32 | 7 => some .z64
  | 8 => some .f32 | 9 => some .f16 | 10 => some .bf16 | 11 => some .e4m3
  | 12 => some .e5m2 | 13 => some .q4 | 14 => some .q8
  | _ => none

/-- Element width in bits (R54). -/
def ETy.width : ETy → Nat
  | .s64 | .z64 => 64
  | .s32 | .z32 | .f32 => 32
  | .s16 | .z16 | .f16 | .bf16 => 16
  | .s8 | .z8 | .e4m3 | .e5m2 | .q8 => 8
  | .q4 => 4

/-- VLMAX of a type (R54): `.q4` is limited by the masks. -/
def ETy.vlmax : ETy → Nat
  | .s64 | .z64 => 128
  | .s32 | .z32 | .f32 => 256
  | .s16 | .z16 | .f16 | .bf16 => 512
  | .s8 | .z8 | .e4m3 | .e5m2 | .q8 | .q4 => 1024

def ETy.isS : ETy → Bool
  | .s8 | .s16 | .s32 | .s64 => true
  | _ => false

def ETy.isZ : ETy → Bool
  | .z8 | .z16 | .z32 | .z64 => true
  | _ => false

/-- The integer types, codes 0x00 to 0x07. -/
def ETy.isInt (t : ETy) : Bool := t.isS || t.isZ

/-- The types class 0x6 admits (R184). -/
def ETy.isLaneFloat : ETy → Bool
  | .f32 | .f16 | .bf16 => true
  | _ => false

/-- Codes 0x00 to 0x0C: every type but the quantised ones. -/
def ETy.isPlain : ETy → Bool
  | .q4 | .q8 => false
  | _ => true

/-- Scopes (R41, R71). -/
inductive Scope where
  | core | clus | die | pkg | sys
  deriving DecidableEq, Repr

def Scope.code : Scope → Nat
  | .core => 0 | .clus => 1 | .die => 2 | .pkg => 3 | .sys => 4

def Scope.ofCode : Nat → Option Scope
  | 0 => some .core | 1 => some .clus | 2 => some .die | 3 => some .pkg | 4 => some .sys
  | _ => none

/-- Access paths of a core (R9); `.h` is never issued by a core (R41). -/
inductive Path where
  | s | v | m | c | n | f
  deriving DecidableEq, Repr

def Path.code : Path → Nat
  | .s => 0 | .v => 1 | .m => 2 | .c => 3 | .n => 4 | .f => 5

def Path.ofCode : Nat → Option Path
  | 0 => some .s | 1 => some .v | 2 => some .m | 3 => some .c | 4 => some .n | 5 => some .f
  | _ => none

/-- Rounding modes (R41, R60). -/
inductive Rm where
  | rne | rtz | rdn | rup | rna | sr
  deriving DecidableEq, Repr

def Rm.code : Rm → Nat
  | .rne => 0 | .rtz => 1 | .rdn => 2 | .rup => 3 | .rna => 4 | .sr => 5

def Rm.ofCode : Nat → Option Rm
  | 0 => some .rne | 1 => some .rtz | 2 => some .rdn | 3 => some .rup | 4 => some .rna | 5 => some .sr
  | _ => none

/-- Conditions of BR.cc (R157). -/
inductive Cc where
  | eq | ne | lt | ge | ltz | gez
  deriving DecidableEq, Repr

def Cc.code : Cc → Nat
  | .eq => 0 | .ne => 1 | .lt => 2 | .ge => 3 | .ltz => 4 | .gez => 5

def Cc.ofCode : Nat → Option Cc
  | 0 => some .eq | 1 => some .ne | 2 => some .lt | 3 => some .ge | 4 => some .ltz | 5 => some .gez
  | _ => none

/-- Conditions of VCMP and VFCMP (R49). -/
inductive CmpCc where
  | eq | ne | lt | le | gt | ge | un | ord
  deriving DecidableEq, Repr

def CmpCc.code : CmpCc → Nat
  | .eq => 0 | .ne => 1 | .lt => 2 | .le => 3 | .gt => 4 | .ge => 5 | .un => 6 | .ord => 7

def CmpCc.ofCode : Nat → Option CmpCc
  | 0 => some .eq | 1 => some .ne | 2 => some .lt | 3 => some .le | 4 => some .gt | 5 => some .ge
  | 6 => some .un | 7 => some .ord
  | _ => none

/-- AMO operations (R166). -/
inductive AmoOp where
  | add | and | or | xor | min | max | minz | maxz | swap
  deriving DecidableEq, Repr

def AmoOp.code : AmoOp → Nat
  | .add => 0 | .and => 1 | .or => 2 | .xor => 3 | .min => 4 | .max => 5 | .minz => 6 | .maxz => 7 | .swap => 8

def AmoOp.ofCode : Nat → Option AmoOp
  | 0 => some .add | 1 => some .and | 2 => some .or | 3 => some .xor | 4 => some .min | 5 => some .max
  | 6 => some .minz | 7 => some .maxz | 8 => some .swap
  | _ => none

/-- Reduction operations (R230). -/
inductive RedOp where
  | add | min | max | and | or | xor
  deriving DecidableEq, Repr

def RedOp.code : RedOp → Nat
  | .add => 0 | .min => 1 | .max => 2 | .and => 3 | .or => 4 | .xor => 5

def RedOp.ofCode : Nat → Option RedOp
  | 0 => some .add | 1 => some .min | 2 => some .max | 3 => some .and | 4 => some .or | 5 => some .xor
  | _ => none

/-- Near-memory update operations (R302). -/
inductive NOp where
  | add | min | max
  deriving DecidableEq, Repr

def NOp.code : NOp → Nat
  | .add => 0 | .min => 1 | .max => 2

def NOp.ofCode : Nat → Option NOp
  | 0 => some .add | 1 => some .min | 2 => some .max
  | _ => none

/-- Quantised group sizes of MMAQ (R51). -/
inductive Grp where
  | g32 | g64 | g128
  deriving DecidableEq, Repr

def Grp.code : Grp → Nat
  | .g32 => 0 | .g64 => 1 | .g128 => 2

def Grp.ofCode : Nat → Option Grp
  | 0 => some .g32 | 1 => some .g64 | 2 => some .g128
  | _ => none

def Grp.size : Grp → Nat
  | .g32 => 32 | .g64 => 64 | .g128 => 128

/-- Projection sets (R283). -/
inductive PSet where
  | none | simplex | l1ball | l2ball | box | monoUp | monoDn
  deriving DecidableEq, Repr

def PSet.code : PSet → Nat
  | .none => 0 | .simplex => 1 | .l1ball => 2 | .l2ball => 3 | .box => 4 | .monoUp => 5 | .monoDn => 6

def PSet.ofCode : Nat → Option PSet
  | 0 => some .none | 1 => some .simplex | 2 => some .l1ball | 3 => some .l2ball | 4 => some .box
  | 5 => some .monoUp | 6 => some .monoDn
  | _ => Option.none

/-- Output types of Fennel (R51). -/
inductive OutTy where
  | f32 | bf16
  deriving DecidableEq, Repr

def OutTy.code : OutTy → Nat
  | .f32 => 0 | .bf16 => 1

def OutTy.ofCode : Nat → Option OutTy
  | 0 => some .f32 | 1 => some .bf16
  | _ => none

/-- Vector register files as a source (R38). -/
inductive VFile where
  | v | o | l
  deriving DecidableEq, Repr

def VFile.code : VFile → Nat
  | .v => 0 | .o => 1 | .l => 2

def VFile.ofCode : Nat → Option VFile
  | 0 => some .v | 1 => some .o | 2 => some .l
  | _ => none

/-- How many registers a file has (R38). -/
def VFile.count : VFile → Nat
  | .v => 64 | .o => 8 | .l => 4

/-- A replicate (R38): element, 128-bit segment or 512-bit segment of the given index. -/
inductive Rep where
  | none
  | e (k : BitVec 4)
  | seg (k : BitVec 4)
  | w (k : BitVec 4)
  deriving DecidableEq, Repr

/-- A vector source (R38). -/
structure VSrc where
  file : VFile
  reg : BitVec 6
  rep : Rep
  deriving DecidableEq, Repr

/-- A vector destination (R39): `v`, `o`, or `nil`, the last-result file only. -/
inductive VDst where
  | v (r : BitVec 6)
  | o (r : BitVec 3)
  | nil
  deriving DecidableEq, Repr

/-- The second operand of a reduction or scan (R230): an initial value, or with `.seg` the segment-start mask. -/
inductive RedSrc where
  | init (b : VSrc)
  | seg (m : MReg)
  deriving DecidableEq, Repr

/-- Where MDRAIN drains to (R281). -/
inductive DrainTo where
  | pad (base : SReg)
  | vec (d : VDst) (row0 : BitVec 6)
  deriving DecidableEq, Repr

/-- The three vector queues (R177). -/
inductive VQueue where
  | vlq | vxq | vsq
  deriving DecidableEq, Repr

/-- What the Gauntlet's second run of an instruction or of a mitt entry said (R196). -/
inductive Recheck where
  | agree | mismatch
  deriving DecidableEq, Repr

/-- The two units of the matrix queue (R269). -/
inductive MUnit where
  | array | port
  deriving DecidableEq, Repr

/-- The budgets' activities, in the order of R123. -/
inductive Activity where
  | core | hbm | tier | fabric | copy | mitt | matrix
  deriving DecidableEq, Repr

def Activity.index : Activity → Nat
  | .core => 0 | .hbm => 1 | .tier => 2 | .fabric => 3 | .copy => 4 | .mitt => 5 | .matrix => 6

/-- A link with link-level retry: a fabric port (R308) or the link of a Golhan chip (R331). -/
inductive Link where
  | port (n : Nat)
  | golhan (c : Nat)
  deriving DecidableEq, Repr

/-- Inbound 8-byte atomics (R310). -/
inductive HAtomic where
  | add | swap | cas
  deriving DecidableEq, Repr

/-- One firmware image of the boot flash or of FWIMG (R334). -/
structure FwImage where
  body : List Byte
  digest : BitVec 256
  key : List Byte
  sig : List Byte
  deriving DecidableEq, Repr

/-- The places where an error is found (R324, R329: the `unit` byte of a fault record). -/
inductive ErrUnit where
  | controlCore | vector | mitt | matrix | fennel | copy | hbmEngine | golhanEngine | fabricPort | frontEnd
  | scratchpad | accumulator | dram
  deriving DecidableEq, Repr

def ErrUnit.code : ErrUnit → Nat
  | .controlCore => 0 | .vector => 1 | .mitt => 2 | .matrix => 3 | .fennel => 4 | .copy => 5 | .hbmEngine => 6
  | .golhanEngine => 7 | .fabricPort => 8 | .frontEnd => 9 | .scratchpad => 10 | .accumulator => 11 | .dram => 12

/-- What an uncorrectable error struck (R324, R325, R327, R330). -/
inductive ErrSite where
  | mem (pa : Nat)                              -- a codeword or scratchpad granule
  | tileWord (core : Nat) (t : Tile) (w : Nat)  -- a word of the accumulator store
  | vecWord (core : Nat) (reg : Nat) (lane : Nat) (persists : Bool) -- a 64-bit word of the main vector file
  | maskWord (core : Nat) (m : MReg) (w : Nat) (persists : Bool)    -- a 64-bit word of a mask register
  | tableWord (core : Nat) (lane w : Nat) (persists : Bool)         -- a 64-bit word of a lane table store
  | scalar (core : Nat)                         -- a scalar register or the loop stack
  | mittLibrary (core : Nat)                    -- the vendor library at sys.helperbase
  | patrol (pa : Nat)                           -- a poisoned codeword found by patrol scrub
  | global                                      -- state that belongs to no domain, or routing state
  deriving DecidableEq, Repr

/-- What the management port reads (R341). -/
inductive MgmtItem where
  | temperature | power | measurement (k : Nat) | logBase | logWr | logRel | logDrop | failingImage
  deriving DecidableEq, Repr

/-- A target of a TLBINV (R105): a core or the stream dispatcher of a cluster. -/
inductive ShootTarget where
  | core (c : Nat)
  | dispatcher (k : Nat)
  deriving DecidableEq, Repr

/-- Sign-extension of the low `w` bits of a natural number to 64 bits. -/
def sext64 (w n : Nat) : Word := (BitVec.ofNat w n).signExtend 64

/-- Bits `lo` to `lo + w - 1` of a number (the `x<hi:lo>` of R25). -/
def bits (n lo w : Nat) : Nat := n / 2 ^ lo % 2 ^ w

/-- Bit `k` of a number. -/
def bitAt (n k : Nat) : Bool := n / 2 ^ k % 2 = 1

end Sys2Proof
end

