-- ==== Sys2Proof/Machine/Num.lean ====
section
/-! DEFINITION. The numeric rules every engine shares (R54 to R69): formats, rounding once from an exact value, random bits,
flags, saturation, conversions and window sums. Exact values are integers times a power of two; a bit that says "and a
little more" stands for what a quotient or a root leaves. -/

namespace Sys2Proof.Machine

/-- Flag bits, in the places of `sys.vstat` (R64). -/
abbrev Flags := BitVec 8

def fIV : Flags := 0x01
def fDZ : Flags := 0x02
def fOF : Flags := 0x04
def fUF : Flags := 0x08
def fNX : Flags := 0x10
def fSAT : Flags := 0x20
def fHF : Flags := 0x40
def fSM : Flags := 0x80

/-- `f` where `c` holds, no flag otherwise. -/
def Flags.when (f : Flags) (c : Bool) : Flags := if c then f else 0

/-- Element `e` of a register image, `w` bits wide (R54). -/
def elem (x w e : Nat) : Nat := x / 2 ^ (w * e) % 2 ^ w

/-- A register image whose element `e`, for `e` below `n`, is `f e` (R54). -/
def packElems (w : Nat) (f : Nat → Nat) : Nat → Nat
  | 0 => 0
  | n + 1 => packElems w f n + f n % 2 ^ w * 2 ^ (w * n)

/-- The integer a pattern stands for in an `.s` or `.z` type (R55). -/
def toInt (t : ETy) (x : Nat) : Int :=
  if t.isS && decide (2 ^ (t.width - 1) ≤ x % 2 ^ t.width) then (x % 2 ^ t.width : Nat) - (2 ^ t.width : Nat)
  else (x % 2 ^ t.width : Nat)

/-- The low `w` bits of an integer, two's complement. -/
def ofInt (w : Nat) (x : Int) : Nat := (x % (2 ^ w : Nat)).toNat

def minInt (t : ETy) : Int := if t.isS then -(2 ^ (t.width - 1) : Nat) else 0
def maxInt (t : ETy) : Int := if t.isS then (2 ^ (t.width - 1) : Nat) - 1 else (2 ^ t.width : Nat) - 1

/-- Saturation of an integer result (R67). -/
def satInt (t : ETy) (x : Int) : Nat × Flags :=
  if x < minInt t then (ofInt t.width (minInt t), fSAT)
  else if maxInt t < x then (ofInt t.width (maxInt t), fSAT)
  else (ofInt t.width x, 0)

/-- A floating format (R56): exponent bits, fraction bits, bias. -/
structure Fmt where
  eb : Nat
  fb : Nat
  bias : Nat
  deriving DecidableEq, Repr

def fmtOf : ETy → Fmt
  | .f16 => ⟨5, 10, 15⟩
  | .bf16 => ⟨8, 7, 127⟩
  | .e4m3 => ⟨4, 3, 7⟩
  | .e5m2 => ⟨5, 2, 15⟩
  | _ => ⟨8, 23, 127⟩

/-- The canonical NaN of a format (R56). -/
def cnan : ETy → Nat
  | .f16 => 0x7E00
  | .bf16 => 0x7FC0
  | .e4m3 => 0x7F
  | .e5m2 => 0x7E
  | _ => 0x7FC00000

/-- The pattern of the largest finite value (R56). -/
def maxFin : ETy → Nat
  | .f16 => 0x7BFF
  | .bf16 => 0x7F7F
  | .e4m3 => 0x7E
  | .e5m2 => 0x7B
  | _ => 0x7F7FFFFF

/-- What a floating pattern stands for: a NaN (signalling or quiet), an infinity, or ±m·2^e. -/
inductive FVal where
  | nan (signalling : Bool)
  | inf (neg : Bool)
  | fin (neg : Bool) (m : Nat) (e : Int)
  deriving DecidableEq, Repr

/-- The value of a pattern (R56, R57). -/
def decodeF (t : ETy) (x : Nat) : FVal :=
  let f := fmtOf t
  let neg := bitAt x (f.eb + f.fb)
  let ex := bits x f.fb f.eb
  let fr := bits x 0 f.fb
  if decide (t = .e4m3) && decide (ex = 15 ∧ fr = 7) then .nan false
  else if decide (t ≠ .e4m3) && decide (ex = 2 ^ f.eb - 1) then
    if fr = 0 then .inf neg else .nan (!bitAt fr (f.fb - 1))
  else if ex = 0 then .fin neg fr (1 - (f.bias : Int) - f.fb)
  else .fin neg (2 ^ f.fb + fr) ((ex : Int) - f.bias - f.fb)

def isNan (t : ETy) (x : Nat) : Bool :=
  match decodeF t x with
  | .nan _ => true
  | _ => false

/-- An exact magnitude: (m + δ)·2^e, with 0 < δ < 1 where `more`, δ = 0 otherwise. -/
structure Mag where
  m : Nat
  e : Int
  more : Bool
  deriving DecidableEq, Repr

/-- The exponent of the leading bit of a magnitude. -/
def Mag.lead (x : Mag) : Int := (x.m.log2 : Int) + x.e

/-- Rounds a magnitude to a multiple of 2^l in a mode (R60, R61), and says whether anything was lost. `neg` is the sign of
the value, `rho` its 32 random bits. -/
def quant (rm : Rm) (neg : Bool) (rho : Nat) (x : Mag) (l : Int) : Nat × Bool :=
  if l ≤ x.e then (x.m * 2 ^ (x.e - l).toNat, x.more)
  else
    let d := (l - x.e).toNat
    let q := x.m / 2 ^ d
    let r := x.m % 2 ^ d
    let lost := decide (r ≠ 0) || x.more
    let above := decide (2 ^ d < 2 * r) || (decide (2 * r = 2 ^ d) && x.more)
    let tie := decide (2 * r = 2 ^ d) && !x.more
    let up :=
      match rm with
      | .rne => above || (tie && decide (q % 2 = 1))
      | .rtz => false
      | .rdn => neg && lost
      | .rup => !neg && lost
      | .rna => above || tie
      | .sr => decide (2 ^ 32 ≤ r * 2 ^ 32 / 2 ^ d + rho)
    (if up then q + 1 else q, lost)

/-- The pattern of q·2^l in a format, for a value the format holds. -/
def encodeMag (f : Fmt) (neg : Bool) (q : Nat) (l : Int) : Nat :=
  let s := if neg then 2 ^ (f.eb + f.fb) else 0
  if q = 0 then s
  else
    let lead := (q.log2 : Int) + l
    let emin := 1 - (f.bias : Int)
    let shift := fun (u : Int) => if u ≤ l then q * 2 ^ (l - u).toNat else q / 2 ^ (u - l).toNat
    if lead < emin then s + shift (emin - f.fb)
    else s + (lead + f.bias).toNat * 2 ^ f.fb + (shift (lead - f.fb) - 2 ^ f.fb)

/-- The infinity of a format, or its largest finite value where it has none (E4M3). -/
def infBits (t : ETy) (neg : Bool) : Nat :=
  let f := fmtOf t
  (if neg then 2 ^ (f.eb + f.fb) else 0) + (if t = .e4m3 then maxFin t else (2 ^ f.eb - 1) * 2 ^ f.fb)

def maxFinBits (t : ETy) (neg : Bool) : Nat :=
  (if neg then 2 ^ (t.width - 1) else 0) + maxFin t

def zeroBits (t : ETy) (neg : Bool) : Nat := if neg then 2 ^ (t.width - 1) else 0

/-- Rounds a nonzero exact magnitude once to a format (R60, R61, R64, R68): the pattern and OF, UF, NX, SAT. `sat` says
that the destination saturates instead of overflowing: always for E4M3, for E5M2 with e5sat (R67). -/
def roundMag (t : ETy) (rm : Rm) (rho : Nat) (sat : Bool) (neg : Bool) (x : Mag) : Nat × Flags :=
  let f := fmtOf t
  let lead := x.lead
  let emin := 1 - (f.bias : Int)
  let lu := lead - f.fb
  let ld := max lu (emin - f.fb)
  let (q, lost) := quant rm neg rho x ld
  let (qu, _) := quant rm neg rho x lu
  let limit := maxFin t
  let top : Mag :=
    match decodeF t limit with
    | .fin _ m e => ⟨m, e, false⟩
    | _ => ⟨0, 0, false⟩
  let ovf := decide (q ≠ 0) && (if top.e ≤ ld then decide (top.m < q * 2 ^ (ld - top.e).toNat)
    else decide (top.m * 2 ^ (top.e - ld).toNat < q))
  if ovf then
    if sat || decide (t = .e4m3) then (maxFinBits t neg, fSAT ||| fNX)
    else
      let toMax :=
        match rm with
        | .rtz => true
        | .rdn => !neg
        | .rup => neg
        | _ => false
      (if toMax then maxFinBits t neg else infBits t neg, fOF ||| fNX)
  else
    let tiny := decide (qu ≠ 0) && decide ((qu.log2 : Int) + lu < emin)
    (encodeMag f neg q ld, (fNX.when lost) ||| (fUF.when (lost && tiny)))

/-- Rounds an exact signed value; `zneg` is the sign of a zero result that the operation itself gives, if it does (R60). -/
def roundVal (t : ETy) (rm : Rm) (rho : Nat) (sat : Bool) (zneg : Option Bool) (neg : Bool) (x : Mag) : Nat × Flags :=
  if x.m = 0 && !x.more then (zeroBits t (zneg.getD (decide (rm = .rdn))), 0)
  else roundMag t rm rho sat neg x

/-- An exact sum of two finite values: sign and magnitude; zero has sign `false`. -/
def addFin (n1 : Bool) (m1 : Nat) (e1 : Int) (n2 : Bool) (m2 : Nat) (e2 : Int) : Bool × Nat × Int :=
  let e := min e1 e2
  let a : Int := (m1 * 2 ^ (e1 - e).toNat : Nat)
  let b : Int := (m2 * 2 ^ (e2 - e).toNat : Nat)
  let s := (if n1 then -a else a) + (if n2 then -b else b)
  (decide (s < 0), s.natAbs, e)

/-- The conversion of a floating value to a floating format (R68). `e5sat` is `sys.vtype`.e5sat. -/
def cvtFF (t : ETy) (rm : Rm) (rho : Nat) (e5sat : Bool) (v : FVal) : Nat × Flags :=
  let sat := e5sat && decide (t = .e5m2)
  match v with
  | .nan s => (cnan t, fIV.when s)
  | .inf n => if t = .e4m3 ∨ sat then (maxFinBits t n, fSAT) else (infBits t n, 0)
  | .fin n m e => roundVal t rm rho sat (some n) n ⟨m, e, false⟩

/-- The conversion of a floating value to an integer type (R68). -/
def cvtFI (t : ETy) (rm : Rm) (rho : Nat) (v : FVal) : Nat × Flags :=
  match v with
  | .nan _ => (0, fIV ||| fSAT)
  | .inf n => (ofInt t.width (if n then minInt t else maxInt t), fSAT)
  | .fin n m e =>
    let (q, lost) := quant rm n rho ⟨m, e, false⟩ 0
    let i : Int := if n then -(q : Int) else q
    if i < minInt t then (ofInt t.width (minInt t), fSAT)
    else if maxInt t < i then (ofInt t.width (maxInt t), fSAT)
    else (ofInt t.width i, fNX.when lost)

/-- The conversion of an integer to a floating format (R68); zero takes the sign that R60 gives. -/
def cvtIF (t : ETy) (rm : Rm) (rho : Nat) (e5sat : Bool) (x : Int) : Nat × Flags :=
  roundVal t rm rho (e5sat && decide (t = .e5m2)) none (decide (x < 0)) ⟨x.natAbs, 0, false⟩

/-- The fixed mixer (R62). -/
def mix64 (a b : Word) : Word :=
  let z0 := a + b * 0x9E3779B97F4A7C15
  let z1 := (z0 ^^^ (z0 >>> 32)) * 0xA4C352E91F7D36B5
  let z2 := (z1 ^^^ (z1 >>> 29)) * 0xE3F108D647A29C3B
  z2 ^^^ (z2 >>> 32)

/-- The 32 random bits of absolute index `base + e` (R62). -/
def rhoOf (seed base : Word) (e : Nat) : Nat := (mix64 seed (base + BitVec.ofNat 64 e)).toNat / 2 ^ 32

/-- The total value of the finite terms of a window sum, truncated against one exponent (R69): the sum in units of
2^(E-48) and whether a truncation lost a bit. -/
def windowTrunc (ex : Int) : List FVal → Int × Bool
  | [] => (0, false)
  | .fin n m e :: r =>
    let (s, lost) := windowTrunc ex r
    let sh := e + 48 - ex
    let (q, l) := if 0 ≤ sh then (m * 2 ^ sh.toNat, false) else (m / 2 ^ (-sh).toNat, decide (m % 2 ^ (-sh).toNat ≠ 0))
    ((if n then -(q : Int) else q) + s, lost || l)
  | _ :: r => windowTrunc ex r

/-- The largest leading-bit exponent of the nonzero finite terms. -/
def windowLead : List FVal → Option Int
  | [] => none
  | .fin _ m e :: r =>
    if m = 0 then windowLead r
    else
      match windowLead r with
      | none => some ((m.log2 : Int) + e)
      | some x => some (max ((m.log2 : Int) + e) x)
  | _ :: r => windowLead r

/-- The window sum of exact terms, rounded to FP32 (R69). `invalid` says that a term was a product 0·∞; a product's
signalling input makes its term a signalling NaN. -/
def windowSum (ts : List FVal) : Nat × Flags :=
  let nan := ts.any fun t => match t with | .nan _ => true | _ => false
  let snan := ts.any fun t => match t with | .nan true => true | _ => false
  let pinf := ts.any fun t => decide (t = .inf false)
  let ninf := ts.any fun t => decide (t = .inf true)
  if nan then (cnan .f32, fIV.when (snan || (pinf && ninf)))
  else if pinf && ninf then (cnan .f32, fIV)
  else if pinf then (infBits .f32 false, 0)
  else if ninf then (infBits .f32 true, 0)
  else
    match windowLead ts with
    | none =>
      (zeroBits .f32 (ts.all fun t => match t with | .fin true _ _ => true | _ => false), 0)
    | some ex =>
      let (s, lost) := windowTrunc ex ts
      let (r, f) := roundVal .f32 .rne 0 false (some false) (decide (s < 0)) ⟨s.natAbs, ex - 48, false⟩
      (r, f ||| fNX.when lost)

/-- An exact product as a term of a window sum: NaN where an input is NaN (signalling where one is) or for 0·∞, which
counts as an invalid operation (R69). -/
def mulTerm (a b : FVal) : FVal :=
  match a, b with
  | .nan s, .nan u => .nan (s || u)
  | .nan s, _ => .nan s
  | _, .nan s => .nan s
  | .inf n, .inf k => .inf (xor n k)
  | .inf n, .fin k m _ => if m = 0 then .nan true else .inf (xor n k)
  | .fin k m _, .inf n => if m = 0 then .nan true else .inf (xor n k)
  | .fin n m e, .fin k p g => .fin (xor n k) (m * p) (e + g)

/-- The parameters of a quantised group (R59): zero point and scale, or none where the word is malformed. -/
def qParams (t : ETy) (w : Nat) : Option (Nat × FVal) :=
  let zp := bits w 16 8
  match decodeF .f16 (bits w 0 16) with
  | .fin n m e => if bits w 24 8 = 0 ∧ (t = .q8 ∨ zp < 16) then some (zp, .fin n m e) else none
  | _ => none

/-- The exact value σ·(c − z) of a quantised element (R59). -/
def qValue (p : Option (Nat × FVal)) (c : Nat) : FVal :=
  match p with
  | some (z, .fin n m e) =>
    let d : Int := (c : Int) - z
    if d = 0 then .fin false 0 0 else .fin (xor n (decide (d < 0))) (m * d.natAbs) e
  | _ => .nan true

/-- The integer square root, by bits from 2^(k-1) down. -/
def isqrt (n : Nat) : Nat → Nat → Nat
  | 0, r => r
  | k + 1, r =>
    let c := r + 2 ^ k
    isqrt n k (if c * c ≤ n then c else r)

/-- The square root of m·2^e, with 80 bits or more. -/
def sqrtMag (m : Nat) (e : Int) : Mag :=
  let e2 := if e % 2 = 0 then e else e - 1
  let m2 := if e % 2 = 0 then m else 2 * m
  let n := m2 * 2 ^ 160
  let r := isqrt n (n.log2 / 2 + 1) 0
  ⟨r, e2 / 2 - 80, decide (r * r ≠ n)⟩

/-- The quotient m1·2^e1 / (m2·2^e2), with 80 bits or more. -/
def divMag (m1 : Nat) (e1 : Int) (m2 : Nat) (e2 : Int) : Mag :=
  let k := m2.log2 + 96
  let n := m1 * 2 ^ k
  ⟨n / m2, e1 - e2 - k, decide (n % m2 ≠ 0)⟩

/-- The reciprocal square root of m·2^e, with 80 bits or more. -/
def rsqrtMag (m : Nat) (e : Int) : Mag :=
  let e2 := if e % 2 = 0 then e else e - 1
  let m2 := if e % 2 = 0 then m else 2 * m
  let k := m2.log2 + 192
  let k2 := if k % 2 = 0 then k else k + 1
  let n := 2 ^ k2 / m2
  let r := isqrt n (n.log2 / 2 + 1) 0
  ⟨r, -(e2 / 2) - (k2 / 2 : Nat), decide (r * r * m2 ≠ 2 ^ k2)⟩

end Sys2Proof.Machine
end

