-- ==== Sys2Proof/Machine/Fennel.lean ====
section
/-! DEFINITION. Fennel's rows (R282 to R292): projections, adjoints, statistics and records, over exact integers and
quotients. A finite FP32 value is an integer number of units of 2^-149. -/

namespace Sys2Proof.Machine

def OutTy.ety : OutTy → ETy
  | .f32 => .f32
  | .bf16 => .bf16

def OutTy.size (t : OutTy) : Nat := (OutTy.ety t).width / 8

/-- A finite FP32 value in units of 2^-149; zero for the others. -/
def fix149 : FVal → Int
  | .fin n m e => if n then -((m * 2 ^ (e + 149).toNat : Nat) : Int) else (m * 2 ^ (e + 149).toNat : Nat)
  | _ => 0

def FVal.isInf : FVal → Bool
  | .inf _ => true
  | _ => false

def FVal.isNan : FVal → Bool
  | .nan _ => true
  | _ => false

def FVal.isSNan : FVal → Bool
  | .nan true => true
  | _ => false

def FVal.neg : FVal → FVal
  | .nan s => .nan s
  | .inf n => .inf (!n)
  | .fin n m e => .fin (!n) m e

def FVal.signBit : FVal → Bool
  | .inf n => n
  | .fin n _ _ => n
  | _ => false

/-- Rounds n/d·2^e once to a type, RNE; an exact zero is +0. -/
def roundRat (t : ETy) (n : Int) (d : Nat) (e : Int) : Nat × Flags :=
  if n = 0 then (0, 0) else roundMag t .rne 0 false (decide (n < 0)) (divMag n.natAbs e d 0)

/-- Rounds a number of units of 2^-149. -/
def round149 (t : ETy) (n : Int) : Nat × Flags := roundRat t n 1 (-149)

/-- The order of R210 on numbers, −0 below +0: a key that rises with the value. -/
def orderKey (v : FVal) : Int :=
  match v with
  | .inf n => if n then -(2 ^ 400 : Nat) else (2 ^ 400 : Nat)
  | .fin n m e => if n then -(1 + 2 * (m * 2 ^ (e + 149).toNat : Nat) : Int) else 2 * (m * 2 ^ (e + 149).toNat : Nat)
  | .nan _ => 0

/-- The same order with both zeros equal. -/
def realKey (v : FVal) : Int :=
  match v with
  | .inf n => if n then -(2 ^ 400 : Nat) else (2 ^ 400 : Nat)
  | v => fix149 v

/-- What a projection gives for one row (R284 to R287). -/
structure PRow where
  ys : List Nat
  tau : Nat := 0
  count : Nat
  proj : Bool := false
  nan : Bool := false
  inf : Bool := false
  mapA : Nat := 0
  mapB : Nat := 0
  flags : Flags := 0
  deriving DecidableEq, Repr

/-- A NaN row (R285); its record has the maps of its set all the same (R287). -/
def nanRow (ot : OutTy) (len : Nat) (f : Flags) (mapA mapB : Nat := 0) : PRow :=
  { ys := List.replicate len (cnan (OutTy.ety ot)), count := 0, nan := true, mapA := mapA, mapB := mapB, flags := f }

/-- A set of element numbers as a bit map. -/
def bitMap (p : Nat → Bool) : Nat → Nat
  | 0 => 0
  | n + 1 => bitMap p n + if p n then 2 ^ n else 0

def orFlags (fs : List Flags) : Flags := fs.foldl (fun a b => a ||| b) 0

/-- One element gets a value and the others +0 (R285). -/
def hotRow (ot : OutTy) (len c : Nat) (v : FVal) (f : Flags) (mapB : Nat) : PRow :=
  let (y, g) := cvtFF (OutTy.ety ot) .rne 0 false v
  { ys := (List.range len).map fun i => if i = c then y else 0, count := 1, inf := true, mapA := 2 ^ c, mapB := mapB, flags := f ||| g }

/-- SIMPLEX(z) over finite values `vs` (elements where `skip` holds take no part), z in units of 2^-149: the support, the
threshold as a quotient, and its FP32 value (R284). For z = 0 the threshold is the largest value. -/
def threshold (vs : List Int) (skip : Nat → Bool) (z : Int) : (Nat → Bool) × Int × Nat :=
  let ok := (List.range vs.length).filter fun i => !skip i
  let val := fun (i : Nat) => vs.getD i 0
  if z = 0 then
    ((fun _ => false), (ok.map val).foldl (fun a b => if a < b then b else a) (val (ok.headD 0)), 1)
  else
    let inS := fun (i : Nat) => !skip i && decide ((ok.map fun j => max (val j - val i) 0).sum < z)
    let ss := ok.filter inS
    (inS, (ss.map val).sum - z, ss.length)

/-- RNE32 of a threshold n/k in units of 2^-149; −∞ where it lies below the most negative finite FP32 value (R284). -/
def tauOf (n : Int) (k : Nat) : Nat × Flags :=
  let (t, f) := roundRat .f32 n k (-149)
  if n < -(fix149 (decodeF .f32 (maxFin .f32))) * k then (0xFF800000, f) else (t, f)

/-- Outputs of SIMPLEX and of a projected L1BALL over magnitudes, with the sign of each element put back (R284). -/
def thresholdRow (ot : OutTy) (xs : List FVal) (abs : Bool) (skip : Nat → Bool) (z : Int) : PRow :=
  let t := OutTy.ety ot
  let vs := xs.map fun x => if abs then ((fix149 x).natAbs : Int) else fix149 x
  let (inS, n, k) := threshold vs skip z
  let (tau, tf) := tauOf n k
  let outs := (List.range xs.length).map fun i =>
    if inS i then
      let v := vs.getD i 0
      let (y, f) := match decodeF .f32 tau with
        | .fin .. => round149 t (v - fix149 (decodeF .f32 tau))
        | _ => roundRat t (v * k - n) k (-149)
      -- an element at the threshold gives +0, in S or not
      let zero := decide (v = fix149 (decodeF .f32 tau))
      ((if abs && !zero && (xs.getD i (.nan false)).signBit then y ||| 2 ^ (t.width - 1) else y), f)
    else (0, 0)
  { ys := outs.map Prod.fst, tau := tau, count := ((List.range xs.length).filter inS).length, proj := true,
    mapA := bitMap inS xs.length, flags := tf ||| orFlags (outs.map Prod.snd) }

/-- Every element converted (R284, NONE and the unprojected rows). -/
def convRow (ot : OutTy) (xs : List FVal) : PRow :=
  let outs := xs.map (cvtFF (OutTy.ety ot) .rne 0 false)
  { ys := outs.map Prod.fst, count := xs.length, flags := orFlags (outs.map Prod.snd) }

def firstIdx (p : FVal → Bool) (xs : List FVal) : Nat := (xs.findIdx? p).getD xs.length

/-- SIMPLEX (R284, R285). -/
def simplexRow (ot : OutTy) (xs : List FVal) (z : FVal) : PRow :=
  let len := xs.length
  if xs.any FVal.isNan then nanRow ot len fIV
  else if xs.any (fun x => decide (x = .inf false)) then hotRow ot len (firstIdx (fun x => decide (x = .inf false)) xs) z 0 0
  else if xs.all FVal.isInf then
    if fix149 z = 0 then { ys := List.replicate len 0, tau := 0xFF800000, count := 0, proj := true }
    else nanRow ot len fIV
  else thresholdRow ot xs false (fun i => (xs.getD i (.inf true)).isInf) (fix149 z)

/-- L1BALL (R284, R285). DEDUCED (log entry 67): a −∞ is the infinite element of R285's table, and no padding as R282 has it. -/
def l1Row (ot : OutTy) (xs : List FVal) (z : FVal) : PRow :=
  let len := xs.length
  let mapB := bitMap (fun i => decide (orderKey (xs.getD i (.nan false)) < -1)) len
  if xs.any FVal.isNan then nanRow ot len fIV 0 mapB
  else
    let p := xs.any fun x => decide (x = .inf false)
    let n := xs.any fun x => decide (x = .inf true)
    if p && n then { hotRow ot len (firstIdx (fun x => decide (x = .inf false)) xs) z fIV mapB with proj := true }
    else if p || n then
      { hotRow ot len (firstIdx FVal.isInf xs) (if n then z.neg else z) 0 mapB with proj := true }
    else if (xs.map fun x => ((fix149 x).natAbs : Int)).sum ≤ fix149 z then { convRow ot xs with mapB := mapB }
    else { thresholdRow ot xs true (fun _ => false) (fix149 z) with mapB := mapB }

/-- A magnitude rounded RNE to 24 significant bits, the exponent unbounded (R284): q·2^l. -/
def round24 (x : Mag) : Nat × Int :=
  if x.m = 0 then (0, 0) else ((quant .rne false 0 x (x.lead - 23)).1, x.lead - 23)

/-- L2BALL (R284, R285). -/
def l2Row (ot : OutTy) (xs : List FVal) (r : FVal) : PRow :=
  let len := xs.length
  let t := OutTy.ety ot
  if xs.any FVal.isNan then nanRow ot len fIV
  else if xs.any FVal.isInf then
    let m := (xs.filter FVal.isInf).length
    let (h, hf) := match r with
      | .fin _ p e =>
        if p = 0 then (0, 0)
        else
          let k := 2 * 400
          let n := p * p * 2 ^ k / m
          let q := isqrt n (n.log2 / 2 + 1) 0
          roundMag .f32 .rne 0 false false ⟨q, e - 400, decide (q * q * m ≠ p * p * 2 ^ k)⟩
      | _ => (infBits .f32 false, 0)
    let outs := xs.map fun x =>
      match x with
      | .inf n =>
        let v := decodeF .f32 h
        let (y, f) := cvtFF t .rne 0 false (if n then v.neg else v)
        (y, f ||| hf)
      | x => (zeroBits t x.signBit, 0)
    { ys := outs.map Prod.fst, count := len, proj := true, inf := true, flags := orFlags (outs.map Prod.snd) }
  else
    let sq := (xs.map fun x => (fix149 x) * (fix149 x)).sum.natAbs
    let (q, l) := round24 (sqrtMag sq (-298))
    let within := match r with
      | .fin _ m e => if l ≤ e then decide (q ≤ m * 2 ^ (e - l).toNat) else decide (q * 2 ^ (l - e).toNat ≤ m)
      | _ => true
    if within then { convRow ot xs with tau := 0x3F800000 }
    else
      match r with
      | .fin _ m e =>
        let (f, ff) := if m = 0 then (0, 0) else roundMag .f32 .rne 0 false false (divMag m e q l)
        let outs := xs.map fun x =>
          match mulTerm x (decodeF .f32 f) with
          | .fin n p g => roundVal t .rne 0 false (some n) n ⟨p, g, false⟩
          | _ => (0, 0)
        { ys := outs.map Prod.fst, tau := f, count := len, proj := true, flags := ff ||| orFlags (outs.map Prod.snd) }
      | _ => convRow ot xs

/-- BOX (R284). -/
def boxRow (ot : OutTy) (xs : List FVal) (lo hi : FVal) : PRow :=
  let len := xs.length
  let mapA := bitMap (fun i => let x := xs.getD i (.nan false)
    !x.isNan && decide (orderKey lo ≤ orderKey x) && decide (orderKey x ≤ orderKey hi)) len
  if xs.any FVal.isNan then nanRow ot len fIV mapA
  else
    let clamp := fun x =>
      let a := if orderKey x < orderKey lo then lo else x
      if orderKey hi < orderKey a then hi else a
    let outs := xs.map fun x => cvtFF (OutTy.ety ot) .rne 0 false (clamp x)
    { ys := outs.map Prod.fst, count := len, mapA := mapA,
      flags := orFlags (outs.map Prod.snd) }

/-- A block of the pool-adjacent-violators fit: first element, sum, size, infinities held. -/
structure Block' where
  start : Nat
  sum : Int
  n : Nat
  p : Bool
  m : Bool
  deriving DecidableEq, Repr

/-- Whether the mean of `a` is at or above (`up`) or at or below that of `b`: the two pool (R284). -/
def pools (up : Bool) (a b : Block') : Bool :=
  let key := fun (x : Block') => if x.p then (1 : Int) else if x.m then -1 else 0
  if key a ≠ key b then (if up then decide (key b < key a) else decide (key a < key b))
  else if key a ≠ 0 then true
  else if up then decide (b.sum * a.n ≤ a.sum * b.n) else decide (a.sum * b.n ≤ b.sum * a.n)

/-- Pools a block into the stack, last block first. -/
def poolIn (up : Bool) : List Block' → Block' → List Block'
  | [], b => [b]
  | a :: r, b =>
    if pools up a b then poolIn up r ⟨a.start, a.sum + b.sum, a.n + b.n, a.p || b.p, a.m || b.m⟩ else b :: a :: r

/-- The blocks of a row, in order. -/
def pav (up : Bool) (xs : List FVal) : List Block' :=
  ((List.range xs.length).foldl (fun st i =>
    let x := xs.getD i (.nan false)
    poolIn up st ⟨i, fix149 x, 1, decide (x = .inf false), decide (x = .inf true)⟩) []).reverse

/-- MONO (R284, R285). DEDUCED (log entry 67): a row that holds a NaN has no blocks. -/
def monoRow (ot : OutTy) (up : Bool) (xs : List FVal) : PRow :=
  let len := xs.length
  let t := OutTy.ety ot
  if xs.any FVal.isNan then nanRow ot len fIV
  else
    let bs := pav up xs
    let mapA := bitMap (fun c => bs.any fun b => decide (b.start = c)) len
    if bs.any fun b => b.p && b.m then nanRow ot len fIV mapA
    else
      let mean := fun (b : Block') =>
        if b.p then (infBits t false, (0 : Flags)) else if b.m then (infBits t true, 0) else roundRat t b.sum b.n (-149)
      { ys := bs.flatMap fun b => List.replicate b.n (mean b).1, count := bs.length,
        mapA := mapA, flags := orFlags (bs.map fun b => (mean b).2) }

/-- One row of PDRAIN (R284, R285). -/
def projRow (set : PSet) (ot : OutTy) (xs : List FVal) (p hi : FVal) : PRow :=
  match set with
  | .none => convRow ot xs
  | .simplex => simplexRow ot xs p
  | .l1ball => l1Row ot xs p
  | .l2ball => l2Row ot xs p
  | .box => boxRow ot xs p hi
  | .monoUp => monoRow ot true xs
  | .monoDn => monoRow ot false xs

/-- The 512-byte record of a row (R287), as a number. -/
def recordImage (set : PSet) (t : Nat) (par hi : Nat) (len : Nat) (r : PRow) : Nat :=
  r.tau + r.count * 2 ^ 32 + len * 2 ^ 48 + set.code * 2 ^ 64 +
    ((r.proj || decide (set = .simplex)).toNat + 2 * r.nan.toNat + 4 * r.inf.toNat) * 2 ^ 72 + t * 2 ^ 80 + par * 2 ^ 128 + hi * 2 ^ 160 +
    r.mapA * 2 ^ 512 + r.mapB * 2 ^ 2048

/-- The exact sum of terms under the rules of R69 for NaN and infinity. -/
def sumTerms (ts : List FVal) : FVal × Flags :=
  let p := ts.any fun t => decide (t = .inf false)
  let n := ts.any fun t => decide (t = .inf true)
  if ts.any FVal.isNan then (.nan false, fIV.when (ts.any FVal.isSNan || (p && n)))
  else
    if p && n then (.nan false, fIV)
    else if p then (.inf false, 0)
    else if n then (.inf true, 0)
    else
      let lo := ts.foldl (fun a t => match t with | .fin _ _ e => min a e | _ => a) 0
      let s : Int := (ts.map fun t => match t with
        | .fin n m e => (if n then -((m * 2 ^ (e - lo).toNat : Nat) : Int) else ((m * 2 ^ (e - lo).toNat : Nat) : Int))
        | _ => (0 : Int)).sum
      (.fin (decide (s < 0)) s.natAbs lo, 0)

/-- RNE32 of the mean of terms (R289). -/
def mean32 (ts : List FVal) : Nat × Flags :=
  let (v, f) := sumTerms ts
  match v with
  | .nan _ => (cnan .f32, f)
  | .inf n => (infBits .f32 n, f)
  | .fin n m e =>
    let (y, g) := roundRat .f32 (if n then -(m : Int) else m) (max ts.length 1) e
    (y, f ||| g)

/-- round(a − b), exact inside (R289, R291). -/
def subRound (t : ETy) (a b : FVal) : Nat × Flags :=
  let (v, f) := sumTerms [a, b.neg]
  match v with
  | .nan _ => (cnan t, f)
  | .inf n => (infBits t n, f)
  | .fin n m e =>
    let (y, g) := roundRat t (if n then -(m : Int) else m) 1 e
    (y, f ||| g)

def flipSign (t : ETy) (c : Bool) (y : Nat × Flags) : Nat × Flags :=
  if c && !isNan t y.1 then (Nat.xor y.1 (2 ^ (t.width - 1)), y.2) else y

/-- Whether a record has a reserved bit set (R287, R289). -/
def recordReserved (r : Nat) : Bool :=
  decide (bits r 67 5 ≠ 0) || decide (bits r 75 5 ≠ 0) || decide (bits r 88 40 ≠ 0) || decide (bits r 192 320 ≠ 0) ||
    decide (bits r 3584 512 ≠ 0)

/-- y / par where par is no finite value but 0 (R56, R64), exact: an infinity, a zero or a NaN. -/
def edgeQuot (y par : FVal) : FVal × Flags :=
  match y, par with
  | .nan s, .nan u => (.nan (s || u), 0)
  | .nan s, _ => (.nan s, 0)
  | _, .nan s => (.nan s, 0)
  | .inf _, .inf _ => (.nan true, 0)
  | .fin n _ _, .inf k => (.fin (xor n k) 0 0, 0)
  | .inf n, .fin k _ _ => (.inf (xor n k), 0)
  | .fin n m _, .fin k _ _ => if m = 0 then (.nan true, 0) else (.inf (xor n k), fDZ)

/-- A row of PADJ for L2BALL (R289): tau·(g − u·Σ u·g) with u = y/par, exact inside. For a finite par = p·2^pe other than 0 the quotients
are taken at the end, over par²; its sign cancels. -/
def padjL2 (t : ETy) (par tau : FVal) (gs ys : List FVal) : List Nat × Flags :=
  let (us, p, pe, f0) : List FVal × Nat × Int × Flags := match par with
    | .fin n m e =>
      if m = 0 then let q := ys.map fun y => edgeQuot y (.fin n m e); (q.map Prod.fst, 1, 0, orFlags (q.map Prod.snd)) else (ys, m, e, 0)
    | x => let q := ys.map fun y => edgeQuot y x; (q.map Prod.fst, 1, 0, orFlags (q.map Prod.snd))
  let (sv, sf) := sumTerms ((us.zip gs).map fun x => mulTerm x.1 x.2)
  let one := fun (u g : FVal) =>
    let (d, f) : FVal × Flags := match g, mulTerm u sv with
      | .fin gn gm ge, .fin tn tm te =>
        -- the difference over p²
        let ea := ge + 2 * pe
        let lo := min ea te
        let a : Int := (gm * (p * p) * 2 ^ (ea - lo).toNat : Nat)
        let b : Int := (tm * 2 ^ (te - lo).toNat : Nat)
        let n := (if gn then -a else a) - (if tn then -b else b)
        (.fin (decide (n < 0)) n.natAbs (lo - 2 * pe), 0)
      | gv, tv => sumTerms [gv, tv.neg]
    match mulTerm tau d with
    | .nan s => (cnan t, f ||| fIV.when s)
    | .inf n => (infBits t n, f)
    | .fin n m e =>
      let (y, fl) := roundRat t (if n then -(m : Int) else m) (p * p) e
      (y, f ||| fl)
  let o := (us.zip gs).map fun x => one x.1 x.2
  (o.map Prod.fst, f0 ||| sf ||| orFlags (o.map Prod.snd))

/-- One row of PADJ (R289): the record, the gradient row and, for L2BALL, the forward row. -/
def adjRow (ot : OutTy) (rec : Nat) (gs ys : List FVal) : List Nat × Flags :=
  let t := OutTy.ety ot
  let len := gs.length
  let set := bits rec 64 3
  let proj := bitAt rec 72
  let inA := fun (c : Nat) => bitAt rec (512 + c)
  let inB := fun (c : Nat) => bitAt rec (2048 + c)
  let g := fun (c : Nat) => gs.getD c (.nan false)
  let idx := List.range len
  let pack := fun (o : List (Nat × Flags)) (f : Flags) => (o.map Prod.fst, f ||| orFlags (o.map Prod.snd))
  if bitAt rec 73 || decide (bits rec 48 16 ≠ len) || decide (set = 7) || recordReserved rec then
    (List.replicate len (cnan t), fIV)
  else if set = 0 || (!proj && (set = 2 || set = 3)) then pack (gs.map (cvtFF t .rne 0 false)) 0
  else if set = 1 then
    let (m, f) := mean32 ((idx.filter inA).map g)
    pack (idx.map fun c => if inA c then subRound t (g c) (decodeF .f32 m) else (0, 0)) (if (idx.filter inA).isEmpty then 0 else f)
  else if set = 2 then
    let h := fun c => if inB c then (g c).neg else g c
    let (m, f) := mean32 ((idx.filter inA).map h)
    pack (idx.map fun c => if inA c then flipSign t (inB c) (subRound t (h c) (decodeF .f32 m)) else (0, 0))
      (if (idx.filter inA).isEmpty then 0 else f)
  else if set = 3 then
    padjL2 t (decodeF .f32 (bits rec 128 32)) (decodeF .f32 (bits rec 0 32)) (idx.map g) (idx.map fun c => ys.getD c (.nan false))
  else if set = 4 then pack (idx.map fun c => if inA c then cvtFF t .rne 0 false (g c) else (0, 0)) 0
  else
    let starts := idx.filter fun c => inA c || decide (c = 0)
    pack (starts.flatMap fun s0 =>
      let e := (starts.find? fun s1 => decide (s0 < s1)).getD len
      let (v, f) := sumTerms ((List.range (e - s0)).map fun k => g (s0 + k))
      let o := match v with
        | .nan _ => (cnan t, f)
        | .inf n => (infBits t n, f)
        | .fin n m ee =>
          let (y, fl) := roundRat t (if n then -(m : Int) else m) (e - s0) ee
          (y, f ||| fl)
      List.replicate (e - s0) o) 0

/-- The entry PSTAT writes for a row (R290), 128 bytes as a number. -/
def statEntry (abs : Bool) (xs : List FVal) (lo hi : FVal) : Nat :=
  let v := fun (x : FVal) => if abs then (match x with | .fin _ m e => .fin false m e | y => y) else x
  -- zeros of either sign are equal here: compare as reals
  let k : FVal → Int := realKey
  let fins := (xs.filter fun x => !x.isInf && !x.isNan).map v
  let hs := fins.filter fun x => decide (k hi < k x)
  let ms := fins.filter fun x => decide (k lo < k x) && decide (k x ≤ k hi)
  let pick := fun (better : Int → Int → Bool) (dflt : Nat) =>
    match ms with
    | [] => dflt
    | m0 :: r => (roundVal .f32 .rne 0 false
        (some (r.foldl (fun a b => if better (orderKey b) (orderKey a) then b else a) m0).signBit)
        (r.foldl (fun a b => if better (orderKey b) (orderKey a) then b else a) m0).signBit
        (match r.foldl (fun a b => if better (orderKey b) (orderKey a) then b else a) m0 with
          | .fin _ m e => ⟨m, e, false⟩
          | _ => ⟨0, 0, false⟩)).1
  let first := fun (p : FVal → Bool) => ((xs.findIdx? p).getD 0xFFFFFFFF)
  hs.length + ms.length * 2 ^ 32 + (xs.filter FVal.isNan).length * 2 ^ 64 +
    (xs.filter fun x => decide (x = .inf false)).length * 2 ^ 96 + (xs.filter fun x => decide (x = .inf true)).length * 2 ^ 128 +
    pick (fun a b => decide (a < b)) 0x7F800000 * 2 ^ 160 + pick (fun a b => decide (b < a)) 0xFF800000 * 2 ^ 192 +
    first (fun x => decide (x = .inf false)) * 2 ^ 224 + ofInt 320 ((hs.map fix149).sum) * 2 ^ 256 +
    ofInt 320 ((ms.map fix149).sum) * 2 ^ 576 + first (fun x => decide (x = .inf true)) * 2 ^ 896

/-- One row of PFIX (R291): `ent` is the 16-byte entry. -/
def fixRow (set : PSet) (ot : OutTy) (xs : List FVal) (ent : Nat) : List Nat × Flags :=
  let t := OutTy.ety ot
  let len := xs.length
  let val := decodeF .f32 (bits ent 0 32)
  let mode := bits ent 32 32
  let hot := bits ent 64 32
  let pack := fun (o : List (Nat × Flags)) => (o.map Prod.fst, orFlags (o.map Prod.snd))
  let nanAll := (List.replicate len (cnan t), fIV)
  if bits ent 96 32 ≠ 0 then nanAll
  else if mode = 0 then
    pack (xs.map fun x =>
      let m := if set = .l1ball then (match x with | .fin _ a e => .fin false a e | .inf _ => .inf false | y => y) else x
      -- the comparison raises IV for a signalling NaN (R57)
      if x.isNan || val.isNan then (0, fIV.when (x.isSNan || val.isSNan))
      else
        let k : FVal → Int := realKey
        if k val < k m then flipSign t (decide (set = .l1ball) && x.signBit) (subRound t m val) else (0, 0))
  else if mode = 1 then pack (xs.map (cvtFF t .rne 0 false))
  else if mode = 3 then pack ((List.range len).map fun c => if c = hot then cvtFF t .rne 0 false val else (0, 0))
  else nanAll

/-- The packed form of a working record (R292): its bytes and how many; a T of 0 or above 24 counts as 24 with NAN set. -/
def packRecord (r : Nat) : Nat × Nat :=
  let t0 := bits r 80 8
  let bad := decide (t0 = 0) || decide (24 < t0)
  let t := if bad then 24 else t0
  let hd := if bad && !bitAt r 73 then bits r 0 192 + 2 ^ 73 else bits r 0 192
  (hd + bits r 512 (64 * t) * 2 ^ 192 + bits r 2048 (64 * t) * 2 ^ (192 + 64 * t), 24 + 16 * t)

/-- The working form of a packed record (R292), given 408 bytes from its start, and how many it takes. -/
def unpackRecord (p : Nat) : Nat × Nat :=
  let t0 := bits p 80 8
  let bad := decide (t0 = 0) || decide (24 < t0)
  let t := if bad then 24 else t0
  let hd := if bad && !bitAt p 73 then bits p 0 192 + 2 ^ 73 else bits p 0 192
  (hd + bits p 192 (64 * t) * 2 ^ 512 + bits p (192 + 64 * t) (64 * t) * 2 ^ 2048, 24 + 16 * t)

end Sys2Proof.Machine
end

