-- ==== Sys2Proof/Config.lean ====
section
/-! DEFINITION. What one module fixes and the manual does not state: constants without a body, so that a proof holds for every
value of them (DESIGN CHOICE: log entries 4, 7, 8, 46, 80). -/

namespace Sys2Proof.Config

/-- `sys.helperbase`, set by firmware at boot (R180). -/
opaque helperBase : BitVec 57

/-- The free value number `n`: bits the manual calls undefined (R316, R331), drawn at the state's counter. -/
opaque freeByte : Nat → Nat → BitVec 8

/-- SHA3-256, which the manual names and does not describe (R334). -/
opaque sha3 : List (BitVec 8) → BitVec 256

/-- Whether an ML-DSA-44 signature over a digest verifies under a public key (R334). -/
opaque mlDsaVerify (key : List (BitVec 8)) (digest : BitVec 256) (sig : List (BitVec 8)) : Bool

/-- The bytes of a firmware image as it is staged in HBM: body, digest, key and signature (R334, R336). -/
opaque imageBytes (body : List (BitVec 8)) (digest : BitVec 256) (key sig : List (BitVec 8)) : List (BitVec 8)

/-- The ML-DSA-44 signature of the device identity key over a digest (R338). -/
opaque mlDsaSign : BitVec 256 → List (BitVec 8)

/-- The root key hash fused into the package (R334). -/
opaque rootKeyHash : BitVec 256

/-- The 16-byte device serial and the identity key's certificate (R338). -/
opaque serial : BitVec 128
opaque certificate : List (BitVec 8)

/-- Nanoseconds that a port's clock has moved on since it was last read: the manual gives the rate of time no event (R321). -/
opaque elapsed : Nat → Nat

/-- The row of a physical address, the bank of a row and the first address of a row: the DRAM geometry (R332). -/
opaque rowOf : Nat → Nat
opaque bankOf : Nat → Nat
opaque rowBase : Nat → Nat

end Sys2Proof.Config
end

