-- ==== Sys2Proof/Syntax.lean ====
section
/-! DEFINITION. The instructions and steps of the DM-1536: one constructor per row of spec/opcode_table.json.
The Wirath instructions follow R47 to R52, the Beret instructions R129, the device events R108 to R341. -/

namespace Sys2Proof

/-- Every step of the table. A Wirath constructor carries its operands (R37 to R43), a Beret constructor its fields
(R128), an event the inputs it comes with. -/
inductive Instr where
  -- class 0x0: control flow, traps, system registers
  /-- NOP (R160). -/
  | nop
  /-- BR_CC (R157). -/
  | brCc (cc : Cc) (a : SReg) (b : SReg) (tgt : BitVec 24)
  /-- JMP (R157). -/
  | jmp (tgt : BitVec 24)
  /-- JMPR (R157). -/
  | jmpr (a : SReg)
  /-- CALL (R157). -/
  | call (d : SReg) (tgt : BitVec 24)
  /-- RET (R157). -/
  | ret (a : SReg)
  /-- LOOP (R158). -/
  | loop (c : SReg) (tgt : BitVec 24)
  /-- LOOPR (R158). -/
  | loopr (c : SReg) (slip : BitVec 6) (rstep : BitVec 4) (tgt : BitVec 24)
  /-- LEAVE (R158). -/
  | leave
  /-- TRAP (R160). -/
  | trap (code : BitVec 12)
  /-- ERET (R153). -/
  | eret
  /-- SYSRD (R161). -/
  | sysrd (d : SReg) (num : BitVec 12)
  /-- SYSWR (R161). -/
  | syswr (a : SReg) (num : BitVec 12)
  /-- VRESTORE (R203). -/
  | vrestore (a : SReg)
  /-- ICINV (R33). -/
  | icinv (a : SReg)
  /-- TLBINV (R105). -/
  | tlbinv (a : SReg)
  /-- HALT (R160). -/
  | halt
  /-- BRKPT (R160). -/
  | brkpt (code : BitVec 12)
  -- class 0x1: scalar register arithmetic
  /-- ADD (R162). -/
  | add (d : SReg) (a : SReg) (b : SReg)
  /-- SUB (R162). -/
  | sub (d : SReg) (a : SReg) (b : SReg)
  /-- AND (R162). -/
  | and (d : SReg) (a : SReg) (b : SReg)
  /-- OR (R162). -/
  | or (d : SReg) (a : SReg) (b : SReg)
  /-- XOR (R162). -/
  | xor (d : SReg) (a : SReg) (b : SReg)
  /-- ANDN (R162). -/
  | andn (d : SReg) (a : SReg) (b : SReg)
  /-- SHL (R162). -/
  | shl (d : SReg) (a : SReg) (b : SReg)
  /-- SHR (R162). -/
  | shr (d : SReg) (a : SReg) (b : SReg)
  /-- SRA (R162). -/
  | sra (d : SReg) (a : SReg) (b : SReg)
  /-- MUL (R162). -/
  | mul (d : SReg) (a : SReg) (b : SReg)
  /-- MULH (R162). -/
  | mulh (d : SReg) (a : SReg) (b : SReg)
  /-- MULHZ (R162). -/
  | mulhz (d : SReg) (a : SReg) (b : SReg)
  /-- DIV (R162). -/
  | div (d : SReg) (a : SReg) (b : SReg)
  /-- DIVZ (R162). -/
  | divz (d : SReg) (a : SReg) (b : SReg)
  /-- REM (R162). -/
  | rem (d : SReg) (a : SReg) (b : SReg)
  /-- REMZ (R162). -/
  | remz (d : SReg) (a : SReg) (b : SReg)
  /-- MIN (R162). -/
  | min (d : SReg) (a : SReg) (b : SReg)
  /-- MAX (R162). -/
  | max (d : SReg) (a : SReg) (b : SReg)
  /-- MINZ (R162). -/
  | minz (d : SReg) (a : SReg) (b : SReg)
  /-- MAXZ (R162). -/
  | maxz (d : SReg) (a : SReg) (b : SReg)
  /-- SLT (R162). -/
  | slt (d : SReg) (a : SReg) (b : SReg)
  /-- SLTZ (R162). -/
  | sltz (d : SReg) (a : SReg) (b : SReg)
  /-- SEQ (R162). -/
  | seq (d : SReg) (a : SReg) (b : SReg)
  /-- SEL (R163). -/
  | sel (d : SReg) (c : SReg) (a : SReg) (b : SReg)
  /-- CLZ (R163). -/
  | clz (d : SReg) (a : SReg)
  /-- POPC (R163). -/
  | popc (d : SReg) (a : SReg)
  /-- BEXT (R163). -/
  | bext (d : SReg) (a : SReg) (lo : BitVec 6) (wm1 : BitVec 6)
  /-- BINS (R163). -/
  | bins (d : SReg) (a : SReg) (lo : BitVec 6) (wm1 : BitVec 6)
  -- class 0x2: immediates
  /-- ADDI (R164). -/
  | addi (d : SReg) (a : SReg) (imm : BitVec 22)
  /-- ANDI (R164). -/
  | andi (d : SReg) (a : SReg) (imm : BitVec 22)
  /-- ORI (R164). -/
  | ori (d : SReg) (a : SReg) (imm : BitVec 22)
  /-- XORI (R164). -/
  | xori (d : SReg) (a : SReg) (imm : BitVec 22)
  /-- SHLI (R164). -/
  | shli (d : SReg) (a : SReg) (imm : BitVec 6)
  /-- SHRI (R164). -/
  | shri (d : SReg) (a : SReg) (imm : BitVec 6)
  /-- SRAI (R164). -/
  | srai (d : SReg) (a : SReg) (imm : BitVec 6)
  /-- SLTI (R164). -/
  | slti (d : SReg) (a : SReg) (imm : BitVec 22)
  /-- LI (R164). -/
  | li (d : SReg) (imm : BitVec 47)
  /-- LIH (R164). -/
  | lih (d : SReg) (imm : BitVec 32)
  -- class 0x3: scalar memory and atomics
  /-- LD (R165). -/
  | ld (ty : ETy) (d : SReg) (b : SReg) (disp : BitVec 22)
  /-- ST (R165). -/
  | st (ty : ETy) (a : SReg) (b : SReg) (disp : BitVec 22)
  /-- AMO (R166). -/
  | amo (op : AmoOp) (d : SReg) (b : SReg) (a : SReg) (sc : Scope) (w64 : Bool) (disp : BitVec 16)
  /-- CAS (R167). -/
  | cas (d : SReg) (b : SReg) (e : SReg) (n : SReg) (sc : Scope) (w64 : Bool) (disp : BitVec 16)
  -- class 0x4: synchronisation and the task life cycle
  /-- ACQ (R79). -/
  | acq (a : SReg) (sc : Scope)
  /-- TRYACQ (R79). -/
  | tryacq (d : SReg) (a : SReg) (sc : Scope)
  /-- REL (R78). -/
  | rel (a : SReg) (sc : Scope)
  /-- XFENCE (R170). -/
  | xfence (p : Path) (q : Path)
  /-- FENCE (R75). -/
  | fence (sc : Scope)
  /-- WAITC (R170). -/
  | waitc (l : BitVec 4) (st : BitVec 4) (c : BitVec 4) (t : BitVec 4)
  /-- SPAWN (R173). -/
  | spawn (a : SReg)
  /-- JOIN (R173). -/
  | join (a : SReg)
  /-- COMMIT (R142). -/
  | commit
  /-- END (R150). -/
  | endTask
  /-- YIELD (R173). -/
  | yield
  /-- WMPUB (R86). -/
  | wmpub (w : BitVec 3) (a : SReg)
  /-- SIGDEC (R171). -/
  | sigdec (a : SReg) (sc : Scope) (count : BitVec 24)
  /-- SIGWAIT (R171). -/
  | sigwait (a : SReg) (sc : Scope)
  -- class 0x5: vector integer
  /-- VADD (R207). -/
  | vadd (d : VDst) (a : VSrc) (b : VSrc) (m : MReg) (ps : PReg) (ty : ETy)
  /-- VSUB (R207). -/
  | vsub (d : VDst) (a : VSrc) (b : VSrc) (m : MReg) (ps : PReg) (ty : ETy)
  /-- VMUL (R207). -/
  | vmul (d : VDst) (a : VSrc) (b : VSrc) (m : MReg) (ps : PReg) (ty : ETy)
  /-- VMULH (R207). -/
  | vmulh (d : VDst) (a : VSrc) (b : VSrc) (m : MReg) (ps : PReg) (ty : ETy)
  /-- VMULHZ (R207). -/
  | vmulhz (d : VDst) (a : VSrc) (b : VSrc) (m : MReg) (ps : PReg) (ty : ETy)
  /-- VMADD (R207). -/
  | vmadd (d : VDst) (a : VSrc) (b : VSrc) (m : MReg) (ps : PReg) (ty : ETy)
  /-- VMIN (R207). -/
  | vmin (d : VDst) (a : VSrc) (b : VSrc) (m : MReg) (ps : PReg) (ty : ETy)
  /-- VMAX (R207). -/
  | vmax (d : VDst) (a : VSrc) (b : VSrc) (m : MReg) (ps : PReg) (ty : ETy)
  /-- VMINZ (R207). -/
  | vminz (d : VDst) (a : VSrc) (b : VSrc) (m : MReg) (ps : PReg) (ty : ETy)
  /-- VMAXZ (R207). -/
  | vmaxz (d : VDst) (a : VSrc) (b : VSrc) (m : MReg) (ps : PReg) (ty : ETy)
  /-- VABS (R207). -/
  | vabs (d : VDst) (a : VSrc) (m : MReg) (ps : PReg) (ty : ETy)
  /-- VADDS (R207). -/
  | vadds (d : VDst) (a : VSrc) (b : VSrc) (m : MReg) (ps : PReg) (ty : ETy)
  /-- VSUBS (R207). -/
  | vsubs (d : VDst) (a : VSrc) (b : VSrc) (m : MReg) (ps : PReg) (ty : ETy)
  /-- VPOPC (R207). -/
  | vpopc (d : VDst) (a : VSrc) (m : MReg) (ps : PReg) (ty : ETy)
  /-- VCLZ (R207). -/
  | vclz (d : VDst) (a : VSrc) (m : MReg) (ps : PReg) (ty : ETy)
  -- class 0x6: vector floating point
  /-- VFADD (R208). -/
  | vfadd (rm : Rm) (d : VDst) (a : VSrc) (b : VSrc) (m : MReg) (ps : PReg) (ty : ETy)
  /-- VFSUB (R208). -/
  | vfsub (rm : Rm) (d : VDst) (a : VSrc) (b : VSrc) (m : MReg) (ps : PReg) (ty : ETy)
  /-- VFMUL (R208). -/
  | vfmul (rm : Rm) (d : VDst) (a : VSrc) (b : VSrc) (m : MReg) (ps : PReg) (ty : ETy)
  /-- VFMA (R208). -/
  | vfma (rm : Rm) (d : VDst) (a : VSrc) (b : VSrc) (m : MReg) (ps : PReg) (ty : ETy)
  /-- VFMS (R208). -/
  | vfms (rm : Rm) (d : VDst) (a : VSrc) (b : VSrc) (m : MReg) (ps : PReg) (ty : ETy)
  /-- VFNMA (R208). -/
  | vfnma (rm : Rm) (d : VDst) (a : VSrc) (b : VSrc) (m : MReg) (ps : PReg) (ty : ETy)
  /-- VFDIV (R208). -/
  | vfdiv (rm : Rm) (d : VDst) (a : VSrc) (b : VSrc) (m : MReg) (ps : PReg) (ty : ETy)
  /-- VFRCP (R209). -/
  | vfrcp (rm : Rm) (d : VDst) (a : VSrc) (m : MReg) (ps : PReg) (ty : ETy)
  /-- VFSQRT (R209). -/
  | vfsqrt (rm : Rm) (d : VDst) (a : VSrc) (m : MReg) (ps : PReg) (ty : ETy)
  /-- VFRSQ (R209). -/
  | vfrsq (d : VDst) (a : VSrc) (m : MReg) (ps : PReg) (ty : ETy)
  /-- VFEXP2 (R209). -/
  | vfexp2 (d : VDst) (a : VSrc) (m : MReg) (ps : PReg) (ty : ETy)
  /-- VFLOG2 (R209). -/
  | vflog2 (d : VDst) (a : VSrc) (m : MReg) (ps : PReg) (ty : ETy)
  /-- VFSIN (R209). -/
  | vfsin (d : VDst) (a : VSrc) (m : MReg) (ps : PReg) (ty : ETy)
  /-- VFCOS (R209). -/
  | vfcos (d : VDst) (a : VSrc) (m : MReg) (ps : PReg) (ty : ETy)
  /-- VFTANH (R209). -/
  | vftanh (d : VDst) (a : VSrc) (m : MReg) (ps : PReg) (ty : ETy)
  /-- VFMIN (R210). -/
  | vfmin (d : VDst) (a : VSrc) (b : VSrc) (m : MReg) (ps : PReg) (ty : ETy)
  /-- VFMAX (R210). -/
  | vfmax (d : VDst) (a : VSrc) (b : VSrc) (m : MReg) (ps : PReg) (ty : ETy)
  /-- VFABS (R211). -/
  | vfabs (d : VDst) (a : VSrc) (m : MReg) (ps : PReg) (ty : ETy)
  /-- VFNEG (R211). -/
  | vfneg (d : VDst) (a : VSrc) (m : MReg) (ps : PReg) (ty : ETy)
  /-- VFCLASS (R211). -/
  | vfclass (d : VDst) (a : VSrc) (m : MReg) (ps : PReg) (ty : ETy)
  /-- VSCACC (R212). -/
  | vscacc (d : VDst) (a : VSrc) (b : VSrc) (m : MReg) (ps : PReg) (sb : BitVec 3)
  -- class 0x7: conversions, logic, shifts, random bits
  /-- VCVT (R213). -/
  | vcvt (rm : Rm) (d : VDst) (a : VSrc) (td : ETy) (m : MReg) (ps : PReg) (ts : ETy)
  /-- VNARROW (R213). -/
  | vnarrow (rm : Rm) (d : VDst) (a : VSrc) (td : ETy) (m : MReg) (ps : PReg) (ts : ETy)
  /-- VWIDEN (R213). -/
  | vwiden (d : VDst) (a : VSrc) (td : ETy) (m : MReg) (ps : PReg) (ts : ETy)
  /-- VDEQ (R215). -/
  | vdeq (d : VDst) (a : VSrc) (b : VSrc) (m : MReg) (ps : PReg) (ty : ETy)
  /-- VAND (R216). -/
  | vand (d : VDst) (a : VSrc) (b : VSrc) (m : MReg) (ps : PReg) (ty : ETy)
  /-- VOR (R216). -/
  | vor (d : VDst) (a : VSrc) (b : VSrc) (m : MReg) (ps : PReg) (ty : ETy)
  /-- VXOR (R216). -/
  | vxor (d : VDst) (a : VSrc) (b : VSrc) (m : MReg) (ps : PReg) (ty : ETy)
  /-- VANDN (R216). -/
  | vandn (d : VDst) (a : VSrc) (b : VSrc) (m : MReg) (ps : PReg) (ty : ETy)
  /-- VSHL (R216). -/
  | vshl (d : VDst) (a : VSrc) (b : VSrc) (m : MReg) (ps : PReg) (ty : ETy)
  /-- VSHR (R216). -/
  | vshr (d : VDst) (a : VSrc) (b : VSrc) (m : MReg) (ps : PReg) (ty : ETy)
  /-- VSRA (R216). -/
  | vsra (d : VDst) (a : VSrc) (b : VSrc) (m : MReg) (ps : PReg) (ty : ETy)
  /-- VSHLW (R217). -/
  | vshlw (d : VDst) (a : VSrc) (s : SReg) (ty : ETy)
  /-- VSHRW (R217). -/
  | vshrw (d : VDst) (a : VSrc) (s : SReg) (ty : ETy)
  /-- VFUNL (R217). -/
  | vfunl (d : VDst) (a : VSrc) (b : VSrc) (s : SReg) (ty : ETy)
  /-- VFUNR (R217). -/
  | vfunr (d : VDst) (a : VSrc) (b : VSrc) (s : SReg) (ty : ETy)
  /-- VRNDB (R218). -/
  | vrndb (d : VDst) (m : MReg) (ps : PReg) (ty : ETy)
  -- class 0x8: masks, vector state, reductions
  /-- VCMP (R220). -/
  | vcmp (cc : CmpCc) (d : MReg) (a : VSrc) (b : VSrc) (m : MReg) (ps : PReg) (ty : ETy)
  /-- VFCMP (R220). -/
  | vfcmp (cc : CmpCc) (d : MReg) (a : VSrc) (b : VSrc) (m : MReg) (ps : PReg) (ty : ETy)
  /-- VSEL (R221). -/
  | vsel (d : VDst) (a : VSrc) (b : VSrc) (m : MReg) (ps : PReg) (ty : ETy)
  /-- MAND (R222). -/
  | mand (d : MReg) (a : MReg) (b : MReg)
  /-- MOR (R222). -/
  | mor (d : MReg) (a : MReg) (b : MReg)
  /-- MXOR (R222). -/
  | mxor (d : MReg) (a : MReg) (b : MReg)
  /-- MNOT (R222). -/
  | mnot (d : MReg) (a : MReg)
  /-- MCNT (R223). -/
  | mcnt (d : SReg) (a : MReg)
  /-- MFIRST (R223). -/
  | mfirst (d : SReg) (a : MReg)
  /-- VPRES (R224). -/
  | vpres (d : MReg) (a : VSrc) (m : MReg) (ps : PReg) (ty : ETy)
  /-- SETTLE (R228). -/
  | settle (x : VDst) (y : VDst) (w : VDst)
  /-- SETTLE_ALL (R228). -/
  | settleAll
  /-- SETVL (R225). -/
  | setvl (d : SReg) (a : SReg) (ty : ETy)
  /-- SETVT (R226). -/
  | setvt (a : SReg)
  /-- VRED (R230). -/
  | vred (op : RedOp) (d : VDst) (a : VSrc) (b : RedSrc) (m : MReg) (ps : PReg) (ty : ETy)
  /-- VFRED (R230). -/
  | vfred (op : RedOp) (d : VDst) (a : VSrc) (b : RedSrc) (m : MReg) (ps : PReg) (ty : ETy)
  /-- VSCAN (R230). -/
  | vscan (op : RedOp) (d : VDst) (a : VSrc) (b : RedSrc) (m : MReg) (ps : PReg) (ty : ETy)
  /-- VFSCAN (R230). -/
  | vfscan (op : RedOp) (d : VDst) (a : VSrc) (b : RedSrc) (m : MReg) (ps : PReg) (ty : ETy)
  /-- VTHR (R232). -/
  | vthr (d : VDst) (a : VSrc) (b : VSrc) (m : MReg) (ps : PReg) (ty : ETy)
  /-- VMVS (R229). -/
  | vmvs (d : SReg) (a : VSrc) (ty : ETy)
  /-- VSPLAT (R229). -/
  | vsplat (d : VDst) (a : SReg) (m : MReg) (ps : PReg) (ty : ETy)
  /-- VSLIP (R227). -/
  | vslip (nm1 : BitVec 6)
  /-- MCLR (R222). -/
  | mclr (d : MReg)
  -- class 0x9: vector memory
  /-- VLD (R234). -/
  | vld (d : VDst) (b : SReg) (disp : BitVec 14) (m : MReg) (ps : PReg) (ty : ETy)
  /-- VLD_W (R86). -/
  | vldW (d : VDst) (b : SReg) (disp : BitVec 14) (w : BitVec 3) (m : MReg) (ps : PReg) (ty : ETy)
  /-- VLDS (R234). -/
  | vlds (d : VDst) (b : SReg) (x : SReg) (disp : BitVec 14) (m : MReg) (ps : PReg) (ty : ETy)
  /-- VLDFF (R235). -/
  | vldff (d : VDst) (b : SReg) (x : SReg) (disp : BitVec 14) (m : MReg) (ps : PReg) (ty : ETy)
  /-- VST (R234). -/
  | vst (a : VSrc) (b : SReg) (disp : BitVec 12) (m : MReg) (ps : PReg) (ty : ETy)
  /-- VSTS (R234). -/
  | vsts (a : VSrc) (b : SReg) (x : SReg) (disp : BitVec 12) (m : MReg) (ps : PReg) (ty : ETy)
  /-- VGATH (R236). -/
  | vgath (d : VDst) (b : SReg) (idx : VSrc) (k : BitVec 2) (m : MReg) (ps : PReg) (ty : ETy)
  /-- VSCAT (R237). -/
  | vscat (a : VSrc) (idx : VSrc) (b : SReg) (k : BitVec 2) (m : MReg) (ps : PReg) (ty : ETy)
  /-- VSCADD (R237). -/
  | vscadd (a : VSrc) (idx : VSrc) (b : SReg) (k : BitVec 2) (m : MReg) (ps : PReg) (ty : ETy)
  /-- VTLD (R238). -/
  | vtld (d : VDst) (a : VSrc) (m : MReg) (ps : PReg) (ty : ETy)
  /-- VTST (R238). -/
  | vtst (a : VSrc) (b : VSrc) (m : MReg) (ps : PReg) (ty : ETy)
  /-- VFENCE (R239). -/
  | vfence
  /-- VFENCE_ARR (R88). -/
  | vfenceArr (b : SReg) (sc : Scope)
  /-- VSELL (R240). -/
  | vsell (d : VDst) (di : VDst) (b : SReg) (md : MReg) (c : SReg) (ty : ETy)
  -- class 0xA: permutes
  /-- VSLIDEU (R241). -/
  | vslideu (d : VDst) (a : VSrc) (s : SReg) (m : MReg) (ps : PReg) (ty : ETy)
  /-- VSLIDED (R241). -/
  | vslided (d : VDst) (a : VSrc) (s : SReg) (m : MReg) (ps : PReg) (ty : ETy)
  /-- VPERM (R241). -/
  | vperm (d : VDst) (a : VSrc) (b : VSrc) (m : MReg) (ps : PReg) (ty : ETy)
  /-- VXCHG (R241). -/
  | vxchg (d : VDst) (a : VSrc) (j : BitVec 4) (m : MReg) (ps : PReg) (ty : ETy)
  /-- VCOMP (R242). -/
  | vcomp (d : VDst) (a : VSrc) (s : SReg) (m : MReg) (ps : PReg) (ty : ETy)
  /-- VEXP (R241). -/
  | vexp (d : VDst) (a : VSrc) (m : MReg) (ps : PReg) (ty : ETy)
  /-- VFIB (R243). -/
  | vfib (sr : SReg) (sl : SReg) (a : VSrc) (c : SReg) (md : MReg) (ty : ETy)
  -- class 0xB: matrix engine
  /-- MZERO (R274). -/
  | mzero (f : Tile) (l : Tile)
  /-- MMA (R276). -/
  | mma (t : Tile) (a : SReg) (b : SReg) (ty : ETy) (ld : SReg) (ta : Bool) (tb : Bool)
  /-- MMAQ (R279). -/
  | mmaq (t : Tile) (a : SReg) (b : SReg) (z : SReg) (ta : ETy) (tb : ETy) (g : Grp)
  /-- MMAS (R277). -/
  | mmas (t : Tile) (a : SReg) (b : SReg) (md : SReg) (ty : ETy)
  /-- MMAC (R278). -/
  | mmac (rm : Rm) (t : Tile) (src : Tile) (b : SReg) (ty : ETy)
  /-- MSCALE (R280). -/
  | mscale (t : Tile) (src : Tile) (a : SReg) (b : SReg)
  /-- MLD (R275). -/
  | mld (t : Tile) (b : SReg) (disp : BitVec 22)
  /-- MST (R275). -/
  | mst (t : Tile) (b : SReg) (disp : BitVec 22)
  /-- MDRAIN (R281). -/
  | mdrain (rm : Rm) (t : Tile) (tgt : DrainTo) (ty : ETy)
  -- class 0xC: Fennel
  /-- PDRAIN (R288). -/
  | pdrain (f : Tile) (l : Tile) (set : PSet) (o : SReg) (p : SReg) (rb : SReg) (vd : VDst) (oty : OutTy)
  /-- PADJ (R289). -/
  | padj (rb : SReg) (g : SReg) (o : SReg) (ln : SReg) (oty : OutTy)
  /-- PSTAT (R290). -/
  | pstat (f : Tile) (l : Tile) (set : PSet) (p : SReg) (o : SReg)
  /-- PFIX (R291). -/
  | pfix (f : Tile) (l : Tile) (set : PSet) (th : SReg) (o : SReg) (oty : OutTy)
  /-- PRLD (R292). -/
  | prld (b : SReg) (nm1 : BitVec 6)
  /-- PRST (R292). -/
  | prst (b : SReg) (nm1 : BitVec 6)
  -- class 0xD: copy engine
  /-- CBIND (R256). -/
  | cbind (p : BitVec 4) (d : SReg)
  /-- CGO (R257). -/
  | cgo (p : BitVec 4) (tag : BitVec 8) (rg : SReg)
  /-- CGO_MX (R258). -/
  | cgoMx (p : BitVec 4) (tag : BitVec 8) (rg : SReg)
  /-- CGO_AUTO (R256). -/
  | cgoAuto (d : SReg) (tag : BitVec 8) (rg : SReg)
  /-- CGO_AUTO_MX (R258). -/
  | cgoAutoMx (d : SReg) (tag : BitVec 8) (rg : SReg)
  /-- CVLD (R261). -/
  | cvld (vd : VDst) (md : MReg) (d : SReg) (x : SReg) (tag : BitVec 8) (ty : ETy)
  /-- RINIT (R259). -/
  | rinit (rg : SReg) (b : SReg) (z : SReg) (n : SReg)
  /-- AWAIT (R260). -/
  | await (rg : SReg) (n : SReg)
  /-- RELS (R260). -/
  | rels (rg : SReg)
  /-- CCANCEL (R262). -/
  | ccancel (p : BitVec 4)
  -- class 0xE: near-memory and fabric
  /-- NLOOKUP (R300). -/
  | nlookup (d : SReg) (o : SReg) (tag : BitVec 8)
  /-- NADD (R302). -/
  | nadd (op : NOp) (a : SReg) (src : VSrc) (tag : BitVec 8)
  /-- NADDR (R302). -/
  | naddr (op : NOp) (d : VDst) (a : SReg) (src : VSrc) (tag : BitVec 8)
  /-- NFENCE (R304). -/
  | nfence (sc : Scope)
  /-- NFENCE_TAG (R304). -/
  | nfenceTag (sc : Scope) (tag : BitVec 8)
  /-- FPUT (R312). -/
  | fput (r : SReg) (l : SReg) (n : SReg) (tag : BitVec 8)
  /-- FGET (R312). -/
  | fget (r : SReg) (l : SReg) (n : SReg) (tag : BitVec 8)
  /-- FSIG (R313). -/
  | fsig (r : SReg) (count : BitVec 24)
  /-- COLL_ALLREDUCE (R319). -/
  | collAllreduce (g : SReg) (s : SReg) (d : SReg) (tag : BitVec 8) (ty : ETy)
  /-- COLL_REDSCAT (R319). -/
  | collRedscat (g : SReg) (s : SReg) (d : SReg) (tag : BitVec 8) (ty : ETy)
  /-- COLL_ALLGATHER (R318). -/
  | collAllgather (g : SReg) (s : SReg) (d : SReg) (tag : BitVec 8) (ty : ETy)
  /-- COLL_BCAST (R318). -/
  | collBcast (g : SReg) (s : SReg) (d : SReg) (tag : BitVec 8) (ty : ETy)
  /-- FFENCE (R314). -/
  | ffence
  /-- FSTAT (R315). -/
  | fstat (d : SReg) (i : SReg)
  -- Beret (R129)
  /-- MOVB (R129). -/
  | movb (d : BitVec 4) (imm : BitVec 15)
  /-- ADDB (R129). -/
  | addb (d : BitVec 4) (a : BitVec 4) (b : BitVec 4)
  /-- ADDIB (R129). -/
  | addib (d : BitVec 4) (a : BitVec 4) (imm : BitVec 15)
  /-- ANDB (R129). -/
  | andb (d : BitVec 4) (a : BitVec 4) (b : BitVec 4)
  /-- ORB (R129). -/
  | orb (d : BitVec 4) (a : BitVec 4) (b : BitVec 4)
  /-- SHLIB (R129). -/
  | shlib (d : BitVec 4) (a : BitVec 4) (imm : BitVec 6)
  /-- SHRIB (R129). -/
  | shrib (d : BitVec 4) (a : BitVec 4) (imm : BitVec 6)
  /-- BFXB (R129). -/
  | bfxb (d : BitVec 4) (a : BitVec 4) (lo : BitVec 6) (wm1 : BitVec 6)
  /-- LDPB (R129). -/
  | ldpb (d : BitVec 4) (imm : BitVec 15)
  /-- LDQB (R129). -/
  | ldqb (d : BitVec 4) (imm : BitVec 15)
  /-- STQB (R129). -/
  | stqb (a : BitVec 4)
  /-- SRDB (R129). -/
  | srdb (d : BitVec 4) (imm : BitVec 15)
  /-- SDECB (R129). -/
  | sdecb (a : BitVec 4) (imm : BitVec 15)
  /-- SSETB (R129). -/
  | ssetb (a : BitVec 4) (imm : BitVec 15)
  /-- WAITB (R129). -/
  | waitb (d : BitVec 4) (a : BitVec 4)
  /-- PLACEB (R129). -/
  | placeb (res : Bool)
  /-- IMGB (R129). -/
  | imgb
  /-- COPYB (R129). -/
  | copyb
  /-- BEQB (R129). -/
  | beqb (a : BitVec 4) (b : BitVec 4) (imm : BitVec 15)
  /-- BNEB (R129). -/
  | bneb (a : BitVec 4) (b : BitVec 4) (imm : BitVec 15)
  /-- BLTB (R129). -/
  | bltb (a : BitVec 4) (b : BitVec 4) (imm : BitVec 15)
  /-- LOOPB (R129). -/
  | loopb (len : BitVec 7) (count : BitVec 7)
  /-- FWDB (R129). -/
  | fwdb (a : BitVec 4)
  /-- DONEB (R129). -/
  | doneb (a : BitVec 4)
  -- device events
  /-- BERET_STEP_LIMIT: the program of queue q reaches 512 steps (R129). -/
  | beretStepLimit (q : Nat)
  /-- INLINE_PACKET: a 64-byte window write (R108). -/
  | inlinePacket (q : Nat) (bs : List Byte)
  /-- TAIL: doorbell command 0 (R108). -/
  | tail (q : Nat) (arg : Word)
  /-- ENABLE: doorbell command 1 (R108). -/
  | enable (q : Nat)
  /-- DISABLE: doorbell command 2 (R108). -/
  | disable (q : Nat)
  /-- RESUME: doorbell command 3 (R108). -/
  | resume (q : Nat)
  /-- SWAP: doorbell command 4 (R108). -/
  | swap (q : Nat) (arg : Word)
  /-- MALFORMED_WINDOW_WRITE: a window write of another form (R108). -/
  | malformedWindowWrite (q : Nat)
  /-- PACKET_FETCH: the fetcher reads and checks a packet (R114). -/
  | packetFetch (q : Nat)
  /-- PACKET_REFETCH: a failed packet is read again (R114). -/
  | packetRefetch (q : Nat)
  /-- LAUNCH: the stock program processes the packet of queue q (R113, R124). -/
  | launch (q : Nat)
  /-- IMAGE: the stock program processes the packet of queue q (R149). -/
  | image (q : Nat)
  /-- BARRIER: the stock program processes the packet of queue q (R118). -/
  | barrier (q : Nat)
  /-- SIGNAL: the stock program processes the packet of queue q (R113). -/
  | signal (q : Nat)
  /-- COPY: the stock program processes the packet of queue q (R265). -/
  | copy (q : Nat)
  /-- NOP_PACKET: the stock program processes the packet of queue q (R113). -/
  | nopPacket (q : Nat)
  /-- FRAME: the stock program processes the packet of queue q (R131). -/
  | frame (q : Nat)
  /-- BARRIER_EVALUATION: a listed signal notified; the hold of queue q is evaluated (R118). -/
  | barrierEvaluation (q : Nat)
  /-- PLACEMENT_RESUME: room frees for the packet waiting in PROCESS (R124). -/
  | placementResume (q : Nat)
  /-- READY_QUEUE_ARBITRATION: core c falls idle and the arbiter of its cluster decides (R125). -/
  | readyQueueArbitration (c : Nat)
  /-- PREEMPTION_REQUEST: the arbiter of cluster k asks for pre-emption (R144). -/
  | preemptionRequest (k : Nat)
  /-- TASK_SAVE: the committed task of core c reached a pre-emption point (R145). -/
  | taskSave (c : Nat)
  /-- CONTEXT_SPILL: the front end spills the shadow context of core c (R145). -/
  | contextSpill (c : Nat)
  /-- BUDGET_PERIOD: a budget period begins at an arbiter (R123). -/
  | budgetPeriod (rcb : Nat) (act : Activity) (arb : Nat)
  /-- QUEUE_MIGRATION: queue q migrates to another interpreter (R132). -/
  | queueMigration (q : Nat) (itp : Nat)
  /-- SIGNAL_POLL: a waiter of an overflowed signal re-reads it (R116). -/
  | signalPoll (sig : Nat)
  /-- SIGWAIT_WAKE: core c, blocked in SIGWAIT, is notified (R171). -/
  | sigwaitWake (c : Nat)
  /-- LATCH_GRANT: the home of a released latch grants it (R79). -/
  | latchGrant (pa : Nat)
  /-- WATERMARK_RECHECK: the stalled vld.w of core c re-reads pub (R86). -/
  | watermarkRecheck (c : Nat)
  /-- INVALIDATION_REQUEST: the oldest TLBINV request reaches a target (R105). -/
  | invalidationRequest (tg : ShootTarget)
  /-- INVALIDATION_ACK: the acknowledgement of a target returns (R105). -/
  | invalidationAck (tg : ShootTarget)
  /-- LINE_REFETCH: core c fetches a line once more (R35). -/
  | lineRefetch (c : Nat)
  /-- END_COMPLETION: the drains of END on core c finish (R150). -/
  | endCompletion (c : Nat)
  /-- VECTOR_ISSUE: a vector queue of core c issues its oldest instruction (R178). -/
  | vectorIssue (c : Nat) (vq : VQueue) (rc : Recheck)
  /-- VECTOR_LOAD_COMPLETION: the data of a vector load arrives (R11). -/
  | vectorLoadCompletion (c : Nat) (seq : Nat)
  /-- MITT_FILL: a mitt of core c finishes the lowest eligible hole entry (R188). -/
  | mittFill (c : Nat) (rc : Recheck)
  /-- STREAM_START: a copy stream starts (R254). -/
  | streamStart (id : Nat)
  /-- STREAM_COMPLETION: the last byte of a stream lands (R254). -/
  | streamCompletion (id : Nat)
  /-- STREAM_ERROR: a stream stops at a failing element or descriptor (R263). -/
  | streamError (id : Nat)
  /-- MATRIX_ISSUE: the matrix queue of core c issues its oldest command (R269). -/
  | matrixIssue (c : Nat)
  /-- MATRIX_COMPLETION: the oldest command of a unit completes (R269). -/
  | matrixCompletion (c : Nat) (un : MUnit)
  /-- NME_PERFORMED: a near-memory engine performs a command (R298). -/
  | nmePerformed (id : Nat)
  /-- INBOUND_READ: a fabric read arrives (R310). -/
  | inboundRead (node : Nat) (pa : Nat) (n : Nat)
  /-- INBOUND_WRITE: a fabric write arrives (R310). -/
  | inboundWrite (node : Nat) (pa : Nat) (bs : List Byte) (psn : List Nat)
  /-- INBOUND_ATOMIC: a fabric atomic arrives (R310). -/
  | inboundAtomic (node : Nat) (pa : Nat) (op : HAtomic) (x : Word) (y : Word)
  /-- INBOUND_SIGNAL_DECREMENT: a fabric signal decrement arrives (R310). -/
  | inboundSignalDecrement (node : Nat) (pa : Nat) (count : Word)
  /-- FABRIC_ACCEPTANCE: an acceptance, or the bytes of a response, return (R310). -/
  | fabricAcceptance (id : Nat) (bs : List Byte) (psn : List Nat)
  /-- LINK_REPLAY: a flit with a bad CRC is replayed (R308). -/
  | linkReplay (lk : Link)
  /-- LINK_ACK_TIMEOUT: no acknowledgement within 2^20 cycles (R308). -/
  | linkAckTimeout (lk : Link)
  /-- COLL_CHUNK: a chunk of a collective arrives (R319). -/
  | collChunk (id : Nat) (k : Nat) (bs : List Byte) (psn : Bool) (fl : BitVec 8)
  /-- FRAME_INGRESS: an Ethernet frame arrives (R323). -/
  | frameIngress (port : Nat) (bs : List Byte) (fcsOk : Bool)
  /-- PPS_EDGE: a 1PPS edge (R322). -/
  | ppsEdge (port : Nat)
  /-- TCTL: write of TCTL (R322). -/
  | tctl (port : Nat) (v : Word)
  /-- CORRECTED_ERROR: an ECC-corrected error (R324). -/
  | correctedError (un : ErrUnit) (loc : Nat) (pa : Nat)
  /-- UNCORRECTABLE_ERROR: an uncorrectable error (R325). -/
  | uncorrectableError (site : ErrSite)
  /-- ROW_SPARE_SWITCH: the copy of a row is complete (R332). -/
  | rowSpareSwitch (row : Nat)
  /-- SPARE_ABORT: the spare reports an error during the copy (R333). -/
  | spareAbort (row : Nat)
  /-- SPARE: write of the SPARE register (R336). -/
  | spare (pa : Word)
  /-- GLINK: write of the GLINK register (R331). -/
  | glink (v : Word)
  /-- RETRAIN_DONE: a retrain ends (R331). -/
  | retrainDone (chip : Nat) (ok : Bool)
  /-- PARTITION_SWAP: write of the SWAP register (R336). -/
  | partitionSwap (v : Word)
  /-- FWCMD: write of the FWCMD register (R132). -/
  | fwcmd (v : Word)
  /-- DEAD: write of word k of DEAD (R336). -/
  | dead (k : Nat) (v : Word)
  /-- ATTEST: write of the ATTEST mailbox (R338). -/
  | attest (off : Nat) (v : Word)
  /-- ATTEST_REPORT_DONE: the report is written (R338). -/
  | attestReportDone
  /-- PWRCAP: write of PWRCAP (R336). -/
  | pwrcap (v : Word)
  /-- CONFIG_WRITE: write of another configuration register (R336). -/
  | configWrite (off : Nat) (v : Word)
  /-- CLOCK_THROTTLE: the clock steps down or up (R340). -/
  | clockThrottle (down : Bool)
  /-- CRITICAL_TEMPERATURE: the critical temperature is reached (R340). -/
  | criticalTemperature
  /-- CLUSTER_GATE: cluster k is gated (R339). -/
  | clusterGate (k : Nat)
  /-- CLUSTER_WAKE: cluster k starts waking (R339). -/
  | clusterWake (k : Nat)
  /-- CLUSTER_WAKE_DONE: cluster k reaches IDLE (R339). -/
  | clusterWakeDone (k : Nat)
  /-- BOOT: the boot ROM runs on the flash copies (R334). -/
  | boot (copyA : List FwImage) (copyB : List FwImage)
  /-- COLD_RESET: management cold reset (R341). -/
  | coldReset
  /-- BOOT_FROM_B: management boots from copy B only (R341). -/
  | bootFromB (copyB : List FwImage)
  /-- MANAGEMENT_READ: management read (R341). -/
  | managementRead (item : MgmtItem) (sense : Word)
  /-- RESUME_CORE: management resumes a halted core (R341). -/
  | resumeCore (c : Nat)
  /-- VECTOR_STORE_COMPLETION: a vector store reaches its point of visibility (R11). -/
  | vectorStoreCompletion (c : Nat) (seq : Nat)
  /-- SCALAR_DATA_RETURN: the data of an outstanding LD, AMO or CAS returns (R156). -/
  | scalarDataReturn (c : Nat) (v : Word)
  /-- FABRIC_LINK_TRAINED: a fabric port trains (R315). -/
  | fabricLinkTrained (port : Nat) (partner : Nat)
  /-- NODE_ID_ASSIGNMENT: fabric management assigns the node id (R337). -/
  | nodeIdAssignment (id : Nat)
  /-- VIRTUAL_CHANNEL_PAUSE: a receiver pauses or releases a channel (R308). -/
  | virtualChannelPause (port : Nat) (vc : Nat) (on : Bool)
  /-- FIRMWARE_REPLACEMENT_DONE: a hitless firmware replacement finishes (R132). -/
  | firmwareReplacementDone (itp : Nat) (img : FwImage)
  deriving DecidableEq, Repr

end Sys2Proof
end

