-- ==== Sys2Proof/WellFormed.lean ====
section
/-! DEFINITION. When an instruction is well formed: the operand rules the manual makes an illegal-instruction trap of at the head
(R34, R39, R205, R228, R233, R273, R288), apart from those that depend on the state. -/

namespace Sys2Proof

/-- A source names a register of its file (R38). -/
def VSrc.wf (s : VSrc) : Bool := decide (s.reg.toNat < s.file.count)

def RedSrc.wf : RedSrc → Bool
  | .init b => b.wf
  | .seg _ => true

/-- The pairs VCVT admits (R213). -/
def cvtPair (td ts : ETy) : Bool :=
  let flo : ETy → Bool := fun t => !t.isInt && t.isPlain
  (td.isInt && flo ts) || (flo td && ts.isInt) || decide (td = .f16 ∧ ts = .bf16) || decide (td = .bf16 ∧ ts = .f16) ||
    (td.isInt && ts.isInt && decide (td.width = ts.width) && decide (td ≠ ts))

/-- The pairs VNARROW admits (R213). -/
def narrowPair (td ts : ETy) : Bool :=
  (td.isInt && ts.isInt && decide (td.width < ts.width)) ||
    (decide (ts = .f32) && decide (td = .f16 ∨ td = .bf16 ∨ td = .e4m3 ∨ td = .e5m2)) ||
    (decide (ts = .f16 ∨ ts = .bf16) && decide (td = .e4m3 ∨ td = .e5m2))

/-- The pairs VWIDEN admits (R213). -/
def widenPair (td ts : ETy) : Bool :=
  (ts.isS && td.isS && decide (ts.width < td.width)) || (ts.isZ && td.isInt && decide (ts.width < td.width)) ||
    (decide (ts = .e4m3 ∨ ts = .e5m2) && td.isLaneFloat) || (decide (ts = .f16 ∨ ts = .bf16) && decide (td = .f32))

/-- The types of MMA and MMAS (R276). -/
def mmaType (t : ETy) : Bool := !t.isInt && t.isPlain

/-- The forms MDRAIN admits (R281). -/
def drainOk (tgt : DrainTo) (ty : ETy) (rm : Rm) : Bool :=
  (mmaType ty || decide (ty = .s32)) && (decide (ty.width ≠ 32) || decide (rm = .rne)) &&
    match tgt with
    | .pad _ => true
    | .vec d row0 => decide (d ≠ .nil) && decide (row0.toNat + 128 / ty.width ≤ 64)

/-- The parameter register a set admits (R283, R288). -/
def pdrainPar (set : PSet) (p : SReg) : Bool :=
  match set with
  | .none | .monoUp | .monoDn => decide (p = 0)
  | .box => decide (p.toNat ≤ 30)
  | .simplex | .l1ball | .l2ball => true

/-- The well-formed instructions. Beret instructions obey the static limits of R129 and R130; an event is always well formed. -/
def Instr.wf : Instr → Bool
  | .nop => true
  | .brCc _ _ _ _ => true
  | .jmp _ => true
  | .jmpr _ => true
  | .call _ _ => true
  | .ret _ => true
  | .loop _ _ => true
  | .loopr _ _ _ _ => true
  | .leave => true
  | .trap _ => true
  | .eret => true
  | .sysrd _ _ => true
  | .syswr _ num => !(num.toNat == 0x800 || num.toNat == 0x801 || num.toNat == 0x802)
  | .vrestore _ => true
  | .icinv _ => true
  | .tlbinv _ => true
  | .halt => true
  | .brkpt _ => true
  | .add _ _ _ => true
  | .sub _ _ _ => true
  | .and _ _ _ => true
  | .or _ _ _ => true
  | .xor _ _ _ => true
  | .andn _ _ _ => true
  | .shl _ _ _ => true
  | .shr _ _ _ => true
  | .sra _ _ _ => true
  | .mul _ _ _ => true
  | .mulh _ _ _ => true
  | .mulhz _ _ _ => true
  | .div _ _ _ => true
  | .divz _ _ _ => true
  | .rem _ _ _ => true
  | .remz _ _ _ => true
  | .min _ _ _ => true
  | .max _ _ _ => true
  | .minz _ _ _ => true
  | .maxz _ _ _ => true
  | .slt _ _ _ => true
  | .sltz _ _ _ => true
  | .seq _ _ _ => true
  | .sel _ _ _ _ => true
  | .clz _ _ => true
  | .popc _ _ => true
  | .bext _ _ lo wm1 => decide (lo.toNat + wm1.toNat + 1 ≤ 64)
  | .bins _ _ lo wm1 => decide (lo.toNat + wm1.toNat + 1 ≤ 64)
  | .addi _ _ _ => true
  | .andi _ _ _ => true
  | .ori _ _ _ => true
  | .xori _ _ _ => true
  | .shli _ _ _ => true
  | .shri _ _ _ => true
  | .srai _ _ _ => true
  | .slti _ _ _ => true
  | .li _ _ => true
  | .lih _ _ => true
  | .ld ty _ _ _ => ty.isInt
  | .st ty _ _ _ => ty.isInt
  | .amo _ _ _ _ _ _ _ => true
  | .cas _ _ _ _ _ _ _ => true
  | .acq _ _ => true
  | .tryacq _ _ _ => true
  | .rel _ _ => true
  | .xfence p q => decide (p ≠ q)
  | .fence _ => true
  | .waitc _ _ _ _ => true
  | .spawn _ => true
  | .join _ => true
  | .commit => true
  | .endTask => true
  | .yield => true
  | .wmpub _ _ => true
  | .sigdec _ _ count => decide (count.toNat ≠ 0)
  | .sigwait _ _ => true
  | .vadd _ a b _ _ ty => ty.isInt && a.wf && b.wf
  | .vsub _ a b _ _ ty => ty.isInt && a.wf && b.wf
  | .vmul _ a b _ _ ty => ty.isInt && a.wf && b.wf
  | .vmulh _ a b _ _ ty => ty.isS && a.wf && b.wf
  | .vmulhz _ a b _ _ ty => ty.isZ && a.wf && b.wf
  | .vmadd d a b _ _ ty => ty.isInt && decide (d ≠ .nil) && a.wf && b.wf
  | .vmin _ a b _ _ ty => ty.isS && a.wf && b.wf
  | .vmax _ a b _ _ ty => ty.isS && a.wf && b.wf
  | .vminz _ a b _ _ ty => ty.isZ && a.wf && b.wf
  | .vmaxz _ a b _ _ ty => ty.isZ && a.wf && b.wf
  | .vabs _ a _ _ ty => ty.isS && a.wf
  | .vadds _ a b _ _ ty => ty.isInt && a.wf && b.wf
  | .vsubs _ a b _ _ ty => ty.isInt && a.wf && b.wf
  | .vpopc _ a _ _ ty => ty.isInt && a.wf
  | .vclz _ a _ _ ty => ty.isInt && a.wf
  | .vfadd _ _ a b _ _ ty => ty.isLaneFloat && a.wf && b.wf
  | .vfsub _ _ a b _ _ ty => ty.isLaneFloat && a.wf && b.wf
  | .vfmul _ _ a b _ _ ty => ty.isLaneFloat && a.wf && b.wf
  | .vfma _ d a b _ _ ty => ty.isLaneFloat && decide (d ≠ .nil) && a.wf && b.wf
  | .vfms _ d a b _ _ ty => ty.isLaneFloat && decide (d ≠ .nil) && a.wf && b.wf
  | .vfnma _ d a b _ _ ty => ty.isLaneFloat && decide (d ≠ .nil) && a.wf && b.wf
  | .vfdiv _ _ a b _ _ ty => ty.isLaneFloat && a.wf && b.wf
  | .vfrcp _ _ a _ _ ty => ty.isLaneFloat && a.wf
  | .vfsqrt _ _ a _ _ ty => ty.isLaneFloat && a.wf
  | .vfrsq _ a _ _ ty => ty.isLaneFloat && a.wf
  | .vfexp2 _ a _ _ ty => ty.isLaneFloat && a.wf
  | .vflog2 _ a _ _ ty => ty.isLaneFloat && a.wf
  | .vfsin _ a _ _ ty => ty.isLaneFloat && a.wf
  | .vfcos _ a _ _ ty => ty.isLaneFloat && a.wf
  | .vftanh _ a _ _ ty => ty.isLaneFloat && a.wf
  | .vfmin _ a b _ _ ty => ty.isLaneFloat && a.wf && b.wf
  | .vfmax _ a b _ _ ty => ty.isLaneFloat && a.wf && b.wf
  | .vfabs _ a _ _ ty => ty.isLaneFloat && a.wf
  | .vfneg _ a _ _ ty => ty.isLaneFloat && a.wf
  | .vfclass _ a _ _ ty => ty.isLaneFloat && a.wf
  | .vscacc d a b _ _ _ => decide (d ≠ .nil) && a.wf && b.wf
  | .vcvt _ _ a td _ _ ts => cvtPair td ts && a.wf
  | .vnarrow _ _ a td _ _ ts => narrowPair td ts && a.wf
  | .vwiden _ a td _ _ ts => widenPair td ts && a.wf
  | .vdeq _ a b _ _ ty => !ty.isPlain && a.wf && b.wf
  | .vand _ a b _ _ ty => ty.isPlain && a.wf && b.wf
  | .vor _ a b _ _ ty => ty.isPlain && a.wf && b.wf
  | .vxor _ a b _ _ ty => ty.isPlain && a.wf && b.wf
  | .vandn _ a b _ _ ty => ty.isPlain && a.wf && b.wf
  | .vshl _ a b _ _ ty => ty.isInt && a.wf && b.wf
  | .vshr _ a b _ _ ty => ty.isInt && a.wf && b.wf
  | .vsra _ a b _ _ ty => ty.isInt && a.wf && b.wf
  | .vshlw _ a _ ty => ty.isPlain && a.wf
  | .vshrw _ a _ ty => ty.isPlain && a.wf
  | .vfunl _ a b _ ty => ty.isPlain && a.wf && b.wf
  | .vfunr _ a b _ ty => ty.isPlain && a.wf && b.wf
  | .vrndb _ _ _ ty => ty.isInt
  | .vcmp cc _ a b _ _ ty => ty.isInt && decide (cc ≠ .un ∧ cc ≠ .ord) && a.wf && b.wf
  | .vfcmp _ _ a b _ _ ty => ty.isLaneFloat && a.wf && b.wf
  | .vsel _ a b _ _ _ => a.wf && b.wf
  | .mand _ _ _ => true
  | .mor _ _ _ => true
  | .mxor _ _ _ => true
  | .mnot _ _ => true
  | .mcnt _ _ => true
  | .mfirst _ _ => true
  | .vpres _ a _ _ _ => a.wf
  | .settle x y w => decide (x ≠ .nil ∨ y ≠ .nil ∨ w ≠ .nil)
  | .settleAll => true
  | .setvl _ _ _ => true
  | .setvt _ => true
  | .vred _ _ a b _ _ ty => ty.isInt && a.wf && b.wf
  | .vfred op _ a b _ _ ty => decide (ty = .f32) && decide (op = .add ∨ op = .min ∨ op = .max) && a.wf && b.wf
  | .vscan _ _ a b _ _ ty => ty.isInt && a.wf && b.wf
  | .vfscan op _ a b _ _ ty => decide (ty = .f32) && decide (op = .add ∨ op = .min ∨ op = .max) && a.wf && b.wf
  | .vthr _ a b _ _ ty => ty.isLaneFloat && a.wf && b.wf
  | .vmvs _ a _ => a.wf
  | .vsplat _ _ _ _ _ => true
  | .vslip _ => true
  | .mclr _ => true
  | .vld d _ _ _ _ _ => decide (d ≠ .nil)
  | .vldW d _ _ _ _ _ _ => decide (d ≠ .nil)
  | .vlds d _ _ _ _ _ _ => decide (d ≠ .nil)
  | .vldff d _ _ _ _ _ _ => decide (d ≠ .nil)
  | .vst a _ _ _ _ _ => a.wf
  | .vsts a _ _ _ _ _ _ => a.wf
  | .vgath d _ idx _ _ _ ty => ty.isPlain && decide (d ≠ .nil) && idx.wf
  | .vscat a idx _ _ _ _ ty => ty.isPlain && a.wf && idx.wf
  | .vscadd a idx _ _ _ _ ty => decide (ty = .s32 ∨ ty = .z32 ∨ ty = .s64 ∨ ty = .z64 ∨ ty = .f32) && a.wf && idx.wf
  | .vtld _ a _ _ ty => ty.isPlain && a.wf
  | .vtst a b _ _ ty => ty.isPlain && a.wf && b.wf
  | .vfence => true
  | .vfenceArr _ _ => true
  | .vsell d di _ _ _ ty => ty.isPlain && decide (d ≠ .nil) && decide (di ≠ .nil) && decide (d ≠ di)
  | .vslideu _ a _ _ _ _ => a.wf
  | .vslided _ a _ _ _ _ => a.wf
  | .vperm _ a b _ _ ty => ty.isPlain && a.wf && b.wf
  | .vxchg _ a j _ _ _ => decide (j.toNat ≤ 9) && a.wf
  | .vcomp _ a _ _ _ ty => ty.isPlain && a.wf
  | .vexp _ a _ _ ty => ty.isPlain && a.wf
  | .vfib _ _ a _ _ ty => decide (ty = .z16 ∨ ty = .z32 ∨ ty = .z64) && a.wf
  | .mzero f l => decide (f.toNat ≤ l.toNat ∧ l.toNat < 24)
  | .mma t _ _ ty _ _ _ => decide (t.toNat < 24) && mmaType ty
  | .mmaq t _ _ _ ta tb _ => decide (t.toNat < 24) && decide (ta = .s8 ∨ ta = .q8) && decide (tb = .q4 ∨ tb = .q8)
  | .mmas t _ _ _ ty => decide (t.toNat < 24) && mmaType ty
  | .mmac rm t src _ ty => decide (t.toNat < 24) && decide (src.toNat < 24) && decide (t ≠ src) && decide (ty = .bf16 ∨ ty = .e4m3) && decide (rm = .rne ∨ rm = .sr)
  | .mscale t src _ _ => decide (t.toNat < 24) && decide (src.toNat < 24) && decide (t ≠ src)
  | .mld t _ _ => decide (t.toNat < 24)
  | .mst t _ _ => decide (t.toNat < 24)
  | .mdrain rm t tgt ty => decide (t.toNat < 24) && drainOk tgt ty rm
  | .pdrain f l set _ p _ _ _ => decide (f.toNat ≤ l.toNat ∧ l.toNat < 24) && pdrainPar set p
  | .padj _ _ _ _ _ => true
  | .pstat f l set _ _ => decide (f.toNat ≤ l.toNat ∧ l.toNat < 24) && decide (set = .simplex ∨ set = .l1ball)
  | .pfix f l set _ _ _ => decide (f.toNat ≤ l.toNat ∧ l.toNat < 24) && decide (set = .simplex ∨ set = .l1ball)
  | .prld b _ => decide (b.toNat ≠ 31)
  | .prst b _ => decide (b.toNat ≠ 31)
  | .cbind p _ => decide (p.toNat ≠ 12)
  | .cgo p _ _ => decide (p.toNat ≠ 12)
  | .cgoMx p _ _ => decide (p.toNat ≠ 12)
  | .cgoAuto _ _ _ => true
  | .cgoAutoMx _ _ _ => true
  | .cvld vd _ _ _ _ ty => ty.isPlain && decide (vd ≠ .nil)
  | .rinit _ _ _ _ => true
  | .await _ _ => true
  | .rels _ => true
  | .ccancel _ => true
  | .nlookup _ _ _ => true
  | .nadd _ _ src _ => src.wf
  | .naddr _ d _ src _ => decide (d ≠ .nil) && src.wf
  | .nfence _ => true
  | .nfenceTag _ _ => true
  | .fput _ _ _ _ => true
  | .fget _ _ _ _ => true
  | .fsig _ count => decide (count.toNat ≠ 0)
  | .collAllreduce _ _ _ _ ty => decide (ty = .f32 ∨ ty = .bf16)
  | .collRedscat _ _ _ _ ty => decide (ty = .f32 ∨ ty = .bf16)
  | .collAllgather _ _ _ _ ty => ty.isPlain
  | .collBcast _ _ _ _ ty => ty.isPlain
  | .ffence => true
  | .fstat _ _ => true
  | .movb _ _ => true
  | .addb _ _ _ => true
  | .addib _ _ _ => true
  | .andb _ _ _ => true
  | .orb _ _ _ => true
  | .shlib _ _ _ => true
  | .shrib _ _ _ => true
  | .bfxb _ _ lo wm1 => decide (lo.toNat + wm1.toNat + 1 ≤ 64)
  | .ldpb _ imm => decide (imm.toNat % 8 = 0 ∧ imm.toNat < 4096)
  | .ldqb _ imm => decide (imm.toNat % 8 = 0 ∧ imm.toNat < 64)
  | .stqb _ => true
  | .srdb _ imm => decide (imm.toNat < 16)
  | .sdecb _ imm => decide (imm.toNat < 16)
  | .ssetb _ imm => decide (imm.toNat < 16)
  | .waitb _ _ => true
  | .placeb _ => true
  | .imgb => true
  | .copyb => true
  | .beqb _ _ imm => decide (imm.toNat ≥ 1)
  | .bneb _ _ imm => decide (imm.toNat ≥ 1)
  | .bltb _ _ imm => decide (imm.toNat ≥ 1)
  | .loopb len count => decide (len.toNat ≥ 1 ∧ count.toNat ≥ 1 ∧ count.toNat ≤ 64)
  | .fwdb _ => true
  | .doneb _ => true
  | .beretStepLimit _ => true
  | .inlinePacket _ _ => true
  | .tail _ _ => true
  | .enable _ => true
  | .disable _ => true
  | .resume _ => true
  | .swap _ _ => true
  | .malformedWindowWrite _ => true
  | .packetFetch _ => true
  | .packetRefetch _ => true
  | .launch _ => true
  | .image _ => true
  | .barrier _ => true
  | .signal _ => true
  | .copy _ => true
  | .nopPacket _ => true
  | .frame _ => true
  | .barrierEvaluation _ => true
  | .placementResume _ => true
  | .readyQueueArbitration _ => true
  | .preemptionRequest _ => true
  | .taskSave _ => true
  | .contextSpill _ => true
  | .budgetPeriod _ _ _ => true
  | .queueMigration _ _ => true
  | .signalPoll _ => true
  | .sigwaitWake _ => true
  | .latchGrant _ => true
  | .watermarkRecheck _ => true
  | .invalidationRequest _ => true
  | .invalidationAck _ => true
  | .lineRefetch _ => true
  | .endCompletion _ => true
  | .vectorIssue _ _ _ => true
  | .vectorLoadCompletion _ _ => true
  | .mittFill _ _ => true
  | .streamStart _ => true
  | .streamCompletion _ => true
  | .streamError _ => true
  | .matrixIssue _ => true
  | .matrixCompletion _ _ => true
  | .nmePerformed _ => true
  | .inboundRead _ _ _ => true
  | .inboundWrite _ _ _ _ => true
  | .inboundAtomic _ _ _ _ _ => true
  | .inboundSignalDecrement _ _ _ => true
  | .fabricAcceptance _ _ _ => true
  | .linkReplay _ => true
  | .linkAckTimeout _ => true
  | .collChunk _ _ _ _ _ => true
  | .frameIngress _ _ _ => true
  | .ppsEdge _ => true
  | .tctl _ _ => true
  | .correctedError _ _ _ => true
  | .uncorrectableError _ => true
  | .rowSpareSwitch _ => true
  | .spareAbort _ => true
  | .spare _ => true
  | .glink _ => true
  | .retrainDone _ _ => true
  | .partitionSwap _ => true
  | .fwcmd _ => true
  | .dead _ _ => true
  | .attest _ _ => true
  | .attestReportDone => true
  | .pwrcap _ => true
  | .configWrite _ _ => true
  | .clockThrottle _ => true
  | .criticalTemperature => true
  | .clusterGate _ => true
  | .clusterWake _ => true
  | .clusterWakeDone _ => true
  | .boot _ _ => true
  | .coldReset => true
  | .bootFromB _ => true
  | .managementRead _ _ => true
  | .resumeCore _ => true
  | .vectorStoreCompletion _ _ => true
  | .scalarDataReturn _ _ => true
  | .fabricLinkTrained _ _ => true
  | .nodeIdAssignment _ => true
  | .virtualChannelPause _ _ _ => true
  | .firmwareReplacementDone _ _ => true

end Sys2Proof
end

