-- ==== Sys2Proof/Decode.lean ====
section
/-! DEFINITION. Lines, heads and tails (R26 to R29), the opcode map (R47 to R52) and the Beret words (R128, R129): a decoder,
total on any bits and refusing by name, and an encoder written from the same tables. Heads, tails and lines are natural numbers
below 2^16, 2^48 and 2^512, least significant bit first, so that a field is a quotient and a remainder. -/

namespace Sys2Proof

/-- Why bits are no instruction (R34). Each is an illegal-instruction trap. -/
inductive Reject where
  | unassigned   -- class 0xF or an operation number the map does not list
  | tailLength   -- tlen differs from the length the map gives
  | field        -- an unassigned variant, a nonzero reserved bit, or a code outside its table
  | notAdmitted  -- operands the instruction does not admit
  deriving DecidableEq, Repr

def rg (t lo : Nat) : SReg := BitVec.ofNat 5 (bits t lo 5)
def mr (t lo : Nat) : MReg := BitVec.ofNat 4 (bits t lo 4)
def pr (t lo : Nat) : PReg := BitVec.ofNat 3 (bits t lo 3)

/-- A field that a layout marks zero (R43). -/
def zr (t lo w : Nat) : Bool := bits t lo w == 0

def ok (c : Bool) (i : Instr) : Option Instr := if c then some i else none

/-- The replicate of a source field: rsize and ridx (R38). -/
def Rep.ofBits (rsize ridx : Nat) : Option Rep :=
  match rsize with
  | 0 => if ridx = 0 then some .none else Option.none
  | 1 => some (.e (BitVec.ofNat 4 ridx))
  | 2 => some (.seg (BitVec.ofNat 4 ridx))
  | 3 => some (.w (BitVec.ofNat 4 ridx))
  | _ => Option.none

def Rep.toBits : Rep → Nat
  | .none => 0
  | .e k => 16 + k.toNat
  | .seg k => 32 + k.toNat
  | .w k => 48 + k.toNat

/-- A 14-bit source field (R38). -/
def VSrc.ofBits (n : Nat) : Option VSrc := do
  let f ← VFile.ofCode (bits n 12 2)
  let r ← Rep.ofBits (bits n 4 2) (bits n 0 4)
  let s : VSrc := ⟨f, BitVec.ofNat 6 (bits n 6 6), r⟩
  if s.wf then some s else none

def VSrc.toBits (s : VSrc) : Nat := s.file.code * 2 ^ 12 + s.reg.toNat * 2 ^ 6 + s.rep.toBits

/-- An 8-bit destination field (R39). -/
def VDst.ofBits (n : Nat) : Option VDst :=
  match bits n 6 2 with
  | 0 => some (.v (BitVec.ofNat 6 (bits n 0 6)))
  | 1 => if bits n 3 3 = 0 then some (.o (BitVec.ofNat 3 (bits n 0 3))) else none
  | 2 => if bits n 0 6 = 0 then some .nil else none
  | _ => none

def VDst.toBits : VDst → Nat
  | .v r => r.toNat
  | .o r => 64 + r.toNat
  | .nil => 128

/-- Source b of a reduction: with `.seg` (variant bit 3), bits 25:16 zero and the mask in bits 15:12 (R49). -/
def redSrc (var t : Nat) : Option RedSrc :=
  if bitAt var 3 then (if bits t 16 10 = 0 then some (.seg (BitVec.ofNat 4 (bits t 12 4))) else none)
  else (VSrc.ofBits (bits t 12 14)).map .init

def RedSrc.toBits : RedSrc → Nat
  | .init b => b.toBits
  | .seg m => m.toNat

def RedSrc.varBit : RedSrc → Nat
  | .init _ => 0
  | .seg _ => 8

/-- The target fields of MDRAIN: bit 42 target, 41:37 base, 36:29 destination, 28:23 row0 (R281). -/
def drainTo (t : Nat) : Option DrainTo :=
  if bitAt t 42 then (if bits t 37 5 = 0 then (VDst.ofBits (bits t 29 8)).map (fun d => .vec d (BitVec.ofNat 6 (bits t 23 6))) else none)
  else if bits t 23 14 = 0 then some (.pad (rg t 37)) else none

/-- The same fields, from bit 23 up. -/
def DrainTo.toBits : DrainTo → Nat
  | .pad b => b.toNat * 2 ^ 14
  | .vec d r => 2 ^ 19 + d.toBits * 2 ^ 6 + r.toNat

/-- The tail lengths the map gives the operations of a class, from operation 0 up: 0 none, 1 16 bits, 2 32 bits, 3 48 bits
(R47 to R52). -/
def tlens : Nat → List Nat
  | 0x0 => [0, 3, 2, 1, 2, 1, 2, 3, 0, 1, 0, 2, 2, 0, 1]
  | 0x1 => [1, 1, 1, 1, 1, 1, 1, 1, 1, 1, 1, 1, 1, 1, 1, 1, 1, 1, 1, 1, 1, 1, 1, 2, 1, 1, 2, 2]
  | 0x2 => [2, 2, 2, 2, 2, 2, 2, 2, 3, 3]
  | 0x3 => [2, 2, 3, 3]
  | 0x4 => [1, 1, 1, 1, 1, 1, 1, 1, 0, 0, 0, 1, 2]
  | 0x5 => [3, 3, 3, 3, 3, 3, 3, 3, 3, 3, 3, 3, 3, 3, 3]
  | 0x6 => [3, 3, 3, 3, 3, 3, 3, 3, 3, 3, 3, 3, 3, 3, 3, 3, 3, 3, 3, 3, 3]
  | 0x7 => [3, 3, 3, 3, 3, 3, 3, 3, 3, 3, 3, 3, 3, 3, 3, 3]
  | 0x8 => [3, 3, 3, 1, 1, 1, 1, 1, 1, 3, 2, 1, 1, 3, 3, 3, 3, 3, 2, 2, 1, 1]
  | 0x9 => [3, 3, 3, 3, 3, 3, 3, 3, 3, 3, 1, 3]
  | 0xA => [3, 3, 3, 3, 3, 3, 3]
  | 0xB => [1, 3, 3, 3, 3, 3, 2, 2, 3]
  | 0xC => [3, 2, 2, 2, 1, 1]
  | 0xD => [1, 2, 3, 2, 1, 1, 1]
  | 0xE => [2, 3, 3, 1, 3, 3, 2, 2, 0, 1]
  | _ => []

/-- The tail-length code of an operation, none where the map has no such operation. -/
def mapTlen (cls op : Nat) : Option Nat := (tlens cls)[op]?

/-- Class 0x0: control flow, traps, system registers (R47). -/
def decode0 (op var t : Nat) : Option Instr :=
  match op with
  | 0x00 => ok (var == 0) .nop
  | 0x01 => (do let cc ← Cc.ofCode var; ok (zr t 24 14) (.brCc cc (rg t 43) (rg t 38) (BitVec.ofNat 24 (bits t 0 24))))
  | 0x02 => ok (var == 0 && zr t 24 8) (.jmp (BitVec.ofNat 24 (bits t 0 24)))
  | 0x03 => ok (var == 0 && zr t 0 6 && zr t 11 5) (.jmpr (rg t 6))
  | 0x04 => ok (var == 0 && zr t 24 3) (.call (rg t 27) (BitVec.ofNat 24 (bits t 0 24)))
  | 0x05 => ok (var == 0 && zr t 0 6 && zr t 11 5) (.ret (rg t 6))
  | 0x06 => ok (var == 0 && zr t 24 3) (.loop (rg t 27) (BitVec.ofNat 24 (bits t 0 24)))
  | 0x07 => ok (var == 0 && zr t 24 9) (.loopr (rg t 43) (BitVec.ofNat 6 (bits t 37 6)) (BitVec.ofNat 4 (bits t 33 4)) (BitVec.ofNat 24 (bits t 0 24)))
  | 0x08 => ok (var == 0) .leave
  | 0x09 => ok (var == 0 && zr t 12 4) (.trap (BitVec.ofNat 12 (bits t 0 12)))
  | 0x0A => ok (var == 0) .eret
  | 0x0B => ok (var == 0 && zr t 12 15) (.sysrd (rg t 27) (BitVec.ofNat 12 (bits t 0 12)))
  | 0x0C => ok (var == 0 && zr t 12 15 && bits t 0 12 != 0x800 && bits t 0 12 != 0x801 && bits t 0 12 != 0x802) (.syswr (rg t 27) (BitVec.ofNat 12 (bits t 0 12))) <|> ok (var == 0 && zr t 12 15 && bits t 0 12 == 0x800) (.vrestore (rg t 27)) <|> ok (var == 0 && zr t 12 15 && bits t 0 12 == 0x801) (.icinv (rg t 27)) <|> ok (var == 0 && zr t 12 15 && bits t 0 12 == 0x802) (.tlbinv (rg t 27))
  | 0x0D => ok (var == 0) .halt
  | 0x0E => ok (var == 0 && zr t 12 4) (.brkpt (BitVec.ofNat 12 (bits t 0 12)))
  | _ => none

/-- Class 0x1: scalar register arithmetic (R47). -/
def decode1 (op var t : Nat) : Option Instr :=
  match op with
  | 0x00 => ok (var == 0 && zr t 0 1) (.add (rg t 11) (rg t 6) (rg t 1))
  | 0x01 => ok (var == 0 && zr t 0 1) (.sub (rg t 11) (rg t 6) (rg t 1))
  | 0x02 => ok (var == 0 && zr t 0 1) (.and (rg t 11) (rg t 6) (rg t 1))
  | 0x03 => ok (var == 0 && zr t 0 1) (.or (rg t 11) (rg t 6) (rg t 1))
  | 0x04 => ok (var == 0 && zr t 0 1) (.xor (rg t 11) (rg t 6) (rg t 1))
  | 0x05 => ok (var == 0 && zr t 0 1) (.andn (rg t 11) (rg t 6) (rg t 1))
  | 0x06 => ok (var == 0 && zr t 0 1) (.shl (rg t 11) (rg t 6) (rg t 1))
  | 0x07 => ok (var == 0 && zr t 0 1) (.shr (rg t 11) (rg t 6) (rg t 1))
  | 0x08 => ok (var == 0 && zr t 0 1) (.sra (rg t 11) (rg t 6) (rg t 1))
  | 0x09 => ok (var == 0 && zr t 0 1) (.mul (rg t 11) (rg t 6) (rg t 1))
  | 0x0A => ok (var == 0 && zr t 0 1) (.mulh (rg t 11) (rg t 6) (rg t 1))
  | 0x0B => ok (var == 0 && zr t 0 1) (.mulhz (rg t 11) (rg t 6) (rg t 1))
  | 0x0C => ok (var == 0 && zr t 0 1) (.div (rg t 11) (rg t 6) (rg t 1))
  | 0x0D => ok (var == 0 && zr t 0 1) (.divz (rg t 11) (rg t 6) (rg t 1))
  | 0x0E => ok (var == 0 && zr t 0 1) (.rem (rg t 11) (rg t 6) (rg t 1))
  | 0x0F => ok (var == 0 && zr t 0 1) (.remz (rg t 11) (rg t 6) (rg t 1))
  | 0x10 => ok (var == 0 && zr t 0 1) (.min (rg t 11) (rg t 6) (rg t 1))
  | 0x11 => ok (var == 0 && zr t 0 1) (.max (rg t 11) (rg t 6) (rg t 1))
  | 0x12 => ok (var == 0 && zr t 0 1) (.minz (rg t 11) (rg t 6) (rg t 1))
  | 0x13 => ok (var == 0 && zr t 0 1) (.maxz (rg t 11) (rg t 6) (rg t 1))
  | 0x14 => ok (var == 0 && zr t 0 1) (.slt (rg t 11) (rg t 6) (rg t 1))
  | 0x15 => ok (var == 0 && zr t 0 1) (.sltz (rg t 11) (rg t 6) (rg t 1))
  | 0x16 => ok (var == 0 && zr t 0 1) (.seq (rg t 11) (rg t 6) (rg t 1))
  | 0x17 => ok (var == 0 && zr t 0 12) (.sel (rg t 27) (rg t 22) (rg t 17) (rg t 12))
  | 0x18 => ok (var == 0 && zr t 0 6) (.clz (rg t 11) (rg t 6))
  | 0x19 => ok (var == 0 && zr t 0 6) (.popc (rg t 11) (rg t 6))
  | 0x1A => ok (var == 0 && zr t 0 10) (.bext (rg t 27) (rg t 22) (BitVec.ofNat 6 (bits t 16 6)) (BitVec.ofNat 6 (bits t 10 6)))
  | 0x1B => ok (var == 0 && zr t 0 10) (.bins (rg t 27) (rg t 22) (BitVec.ofNat 6 (bits t 16 6)) (BitVec.ofNat 6 (bits t 10 6)))
  | _ => none

/-- Class 0x2: immediates (R47). -/
def decode2 (op var t : Nat) : Option Instr :=
  match op with
  | 0x00 => ok (var == 0) (.addi (rg t 27) (rg t 22) (BitVec.ofNat 22 (bits t 0 22)))
  | 0x01 => ok (var == 0) (.andi (rg t 27) (rg t 22) (BitVec.ofNat 22 (bits t 0 22)))
  | 0x02 => ok (var == 0) (.ori (rg t 27) (rg t 22) (BitVec.ofNat 22 (bits t 0 22)))
  | 0x03 => ok (var == 0) (.xori (rg t 27) (rg t 22) (BitVec.ofNat 22 (bits t 0 22)))
  | 0x04 => ok (var == 0 && zr t 6 16) (.shli (rg t 27) (rg t 22) (BitVec.ofNat 6 (bits t 0 6)))
  | 0x05 => ok (var == 0 && zr t 6 16) (.shri (rg t 27) (rg t 22) (BitVec.ofNat 6 (bits t 0 6)))
  | 0x06 => ok (var == 0 && zr t 6 16) (.srai (rg t 27) (rg t 22) (BitVec.ofNat 6 (bits t 0 6)))
  | 0x07 => ok (var == 0) (.slti (rg t 27) (rg t 22) (BitVec.ofNat 22 (bits t 0 22)))
  | 0x08 => ok (true) (.li (BitVec.ofNat 5 (bits t 47 1 * 16 + var)) (BitVec.ofNat 47 (bits t 0 47)))
  | 0x09 => ok (var == 0 && zr t 32 11) (.lih (rg t 43) (BitVec.ofNat 32 (bits t 0 32)))
  | _ => none

/-- Class 0x3: scalar memory and atomics (R47). -/
def decode3 (op var t : Nat) : Option Instr :=
  match op with
  | 0x00 => (do let ty ← ETy.ofCode var; ok (true) (.ld ty (rg t 27) (rg t 22) (BitVec.ofNat 22 (bits t 0 22))))
  | 0x01 => (do let ty ← ETy.ofCode var; ok (true) (.st ty (rg t 27) (rg t 22) (BitVec.ofNat 22 (bits t 0 22))))
  | 0x02 => (do let op ← AmoOp.ofCode var; let sc ← Scope.ofCode (bits t 30 3); ok (zr t 0 13) (.amo op (rg t 43) (rg t 38) (rg t 33) sc (bitAt t 29) (BitVec.ofNat 16 (bits t 13 16))))
  | 0x03 => (do let sc ← Scope.ofCode (bits t 25 3); ok (var == 0 && zr t 0 8) (.cas (rg t 43) (rg t 38) (rg t 33) (rg t 28) sc (bitAt t 24) (BitVec.ofNat 16 (bits t 8 16))))
  | _ => none

/-- Class 0x4: synchronisation and the task life cycle (R47). -/
def decode4 (op var t : Nat) : Option Instr :=
  match op with
  | 0x00 => (do let sc ← Scope.ofCode (bits t 8 3); ok (var == 0 && zr t 0 8) (.acq (rg t 11) sc))
  | 0x01 => (do let sc ← Scope.ofCode (bits t 3 3); ok (var == 0 && zr t 0 3) (.tryacq (rg t 11) (rg t 6) sc))
  | 0x02 => (do let sc ← Scope.ofCode (bits t 8 3); ok (var == 0 && zr t 0 8) (.rel (rg t 11) sc))
  | 0x03 => (do let p ← Path.ofCode (bits t 13 3); let q ← Path.ofCode (bits t 10 3); ok (var == 0 && zr t 0 10) (.xfence p q))
  | 0x04 => (do let sc ← Scope.ofCode (bits t 13 3); ok (var == 0 && zr t 0 13) (.fence sc))
  | 0x05 => ok (var == 0) (.waitc (BitVec.ofNat 4 (bits t 12 4)) (BitVec.ofNat 4 (bits t 8 4)) (BitVec.ofNat 4 (bits t 4 4)) (BitVec.ofNat 4 (bits t 0 4)))
  | 0x06 => ok (var == 0 && zr t 0 11) (.spawn (rg t 11))
  | 0x07 => ok (var == 0 && zr t 0 11) (.join (rg t 11))
  | 0x08 => ok (var == 0) .commit
  | 0x09 => ok (var == 0) .endTask
  | 0x0A => ok (var == 0) .yield
  | 0x0B => ok (var == 0 && zr t 0 8) (.wmpub (BitVec.ofNat 3 (bits t 13 3)) (rg t 8))
  | 0x0C => (do let sc ← Scope.ofCode (bits t 24 3); ok (var == 0 && bits t 0 24 != 0) (.sigdec (rg t 27) sc (BitVec.ofNat 24 (bits t 0 24)))) <|> (do let sc ← Scope.ofCode (bits t 24 3); ok (var == 0 && bits t 0 24 == 0) (.sigwait (rg t 27) sc))
  | _ => none

/-- Class 0x5: vector integer (R48). -/
def decode5 (op var t : Nat) : Option Instr :=
  match op with
  | 0x00 => (do let d ← VDst.ofBits (bits t 40 8); let a ← VSrc.ofBits (bits t 26 14); let b ← VSrc.ofBits (bits t 12 14); let ty ← ETy.ofCode (bits t 0 5); ok (var == 0) (.vadd d a b (mr t 8) (pr t 5) ty))
  | 0x01 => (do let d ← VDst.ofBits (bits t 40 8); let a ← VSrc.ofBits (bits t 26 14); let b ← VSrc.ofBits (bits t 12 14); let ty ← ETy.ofCode (bits t 0 5); ok (var == 0) (.vsub d a b (mr t 8) (pr t 5) ty))
  | 0x02 => (do let d ← VDst.ofBits (bits t 40 8); let a ← VSrc.ofBits (bits t 26 14); let b ← VSrc.ofBits (bits t 12 14); let ty ← ETy.ofCode (bits t 0 5); ok (var == 0) (.vmul d a b (mr t 8) (pr t 5) ty))
  | 0x03 => (do let d ← VDst.ofBits (bits t 40 8); let a ← VSrc.ofBits (bits t 26 14); let b ← VSrc.ofBits (bits t 12 14); let ty ← ETy.ofCode (bits t 0 5); ok (var == 0) (.vmulh d a b (mr t 8) (pr t 5) ty))
  | 0x04 => (do let d ← VDst.ofBits (bits t 40 8); let a ← VSrc.ofBits (bits t 26 14); let b ← VSrc.ofBits (bits t 12 14); let ty ← ETy.ofCode (bits t 0 5); ok (var == 0) (.vmulhz d a b (mr t 8) (pr t 5) ty))
  | 0x05 => (do let d ← VDst.ofBits (bits t 40 8); let a ← VSrc.ofBits (bits t 26 14); let b ← VSrc.ofBits (bits t 12 14); let ty ← ETy.ofCode (bits t 0 5); ok (var == 0) (.vmadd d a b (mr t 8) (pr t 5) ty))
  | 0x06 => (do let d ← VDst.ofBits (bits t 40 8); let a ← VSrc.ofBits (bits t 26 14); let b ← VSrc.ofBits (bits t 12 14); let ty ← ETy.ofCode (bits t 0 5); ok (var == 0) (.vmin d a b (mr t 8) (pr t 5) ty))
  | 0x07 => (do let d ← VDst.ofBits (bits t 40 8); let a ← VSrc.ofBits (bits t 26 14); let b ← VSrc.ofBits (bits t 12 14); let ty ← ETy.ofCode (bits t 0 5); ok (var == 0) (.vmax d a b (mr t 8) (pr t 5) ty))
  | 0x08 => (do let d ← VDst.ofBits (bits t 40 8); let a ← VSrc.ofBits (bits t 26 14); let b ← VSrc.ofBits (bits t 12 14); let ty ← ETy.ofCode (bits t 0 5); ok (var == 0) (.vminz d a b (mr t 8) (pr t 5) ty))
  | 0x09 => (do let d ← VDst.ofBits (bits t 40 8); let a ← VSrc.ofBits (bits t 26 14); let b ← VSrc.ofBits (bits t 12 14); let ty ← ETy.ofCode (bits t 0 5); ok (var == 0) (.vmaxz d a b (mr t 8) (pr t 5) ty))
  | 0x0A => (do let d ← VDst.ofBits (bits t 40 8); let a ← VSrc.ofBits (bits t 26 14); let ty ← ETy.ofCode (bits t 0 5); ok (var == 0 && zr t 12 14) (.vabs d a (mr t 8) (pr t 5) ty))
  | 0x0B => (do let d ← VDst.ofBits (bits t 40 8); let a ← VSrc.ofBits (bits t 26 14); let b ← VSrc.ofBits (bits t 12 14); let ty ← ETy.ofCode (bits t 0 5); ok (var == 0) (.vadds d a b (mr t 8) (pr t 5) ty))
  | 0x0C => (do let d ← VDst.ofBits (bits t 40 8); let a ← VSrc.ofBits (bits t 26 14); let b ← VSrc.ofBits (bits t 12 14); let ty ← ETy.ofCode (bits t 0 5); ok (var == 0) (.vsubs d a b (mr t 8) (pr t 5) ty))
  | 0x0D => (do let d ← VDst.ofBits (bits t 40 8); let a ← VSrc.ofBits (bits t 26 14); let ty ← ETy.ofCode (bits t 0 5); ok (var == 0 && zr t 12 14) (.vpopc d a (mr t 8) (pr t 5) ty))
  | 0x0E => (do let d ← VDst.ofBits (bits t 40 8); let a ← VSrc.ofBits (bits t 26 14); let ty ← ETy.ofCode (bits t 0 5); ok (var == 0 && zr t 12 14) (.vclz d a (mr t 8) (pr t 5) ty))
  | _ => none

/-- Class 0x6: vector floating point (R48). -/
def decode6 (op var t : Nat) : Option Instr :=
  match op with
  | 0x00 => (do let rm ← Rm.ofCode var; let d ← VDst.ofBits (bits t 40 8); let a ← VSrc.ofBits (bits t 26 14); let b ← VSrc.ofBits (bits t 12 14); let ty ← ETy.ofCode (bits t 0 5); ok (true) (.vfadd rm d a b (mr t 8) (pr t 5) ty))
  | 0x01 => (do let rm ← Rm.ofCode var; let d ← VDst.ofBits (bits t 40 8); let a ← VSrc.ofBits (bits t 26 14); let b ← VSrc.ofBits (bits t 12 14); let ty ← ETy.ofCode (bits t 0 5); ok (true) (.vfsub rm d a b (mr t 8) (pr t 5) ty))
  | 0x02 => (do let rm ← Rm.ofCode var; let d ← VDst.ofBits (bits t 40 8); let a ← VSrc.ofBits (bits t 26 14); let b ← VSrc.ofBits (bits t 12 14); let ty ← ETy.ofCode (bits t 0 5); ok (true) (.vfmul rm d a b (mr t 8) (pr t 5) ty))
  | 0x03 => (do let rm ← Rm.ofCode var; let d ← VDst.ofBits (bits t 40 8); let a ← VSrc.ofBits (bits t 26 14); let b ← VSrc.ofBits (bits t 12 14); let ty ← ETy.ofCode (bits t 0 5); ok (true) (.vfma rm d a b (mr t 8) (pr t 5) ty))
  | 0x04 => (do let rm ← Rm.ofCode var; let d ← VDst.ofBits (bits t 40 8); let a ← VSrc.ofBits (bits t 26 14); let b ← VSrc.ofBits (bits t 12 14); let ty ← ETy.ofCode (bits t 0 5); ok (true) (.vfms rm d a b (mr t 8) (pr t 5) ty))
  | 0x05 => (do let rm ← Rm.ofCode var; let d ← VDst.ofBits (bits t 40 8); let a ← VSrc.ofBits (bits t 26 14); let b ← VSrc.ofBits (bits t 12 14); let ty ← ETy.ofCode (bits t 0 5); ok (true) (.vfnma rm d a b (mr t 8) (pr t 5) ty))
  | 0x06 => (do let rm ← Rm.ofCode var; let d ← VDst.ofBits (bits t 40 8); let a ← VSrc.ofBits (bits t 26 14); let b ← VSrc.ofBits (bits t 12 14); let ty ← ETy.ofCode (bits t 0 5); ok (true) (.vfdiv rm d a b (mr t 8) (pr t 5) ty))
  | 0x07 => (do let rm ← Rm.ofCode var; let d ← VDst.ofBits (bits t 40 8); let a ← VSrc.ofBits (bits t 26 14); let ty ← ETy.ofCode (bits t 0 5); ok (zr t 12 14) (.vfrcp rm d a (mr t 8) (pr t 5) ty))
  | 0x08 => (do let rm ← Rm.ofCode var; let d ← VDst.ofBits (bits t 40 8); let a ← VSrc.ofBits (bits t 26 14); let ty ← ETy.ofCode (bits t 0 5); ok (zr t 12 14) (.vfsqrt rm d a (mr t 8) (pr t 5) ty))
  | 0x09 => (do let d ← VDst.ofBits (bits t 40 8); let a ← VSrc.ofBits (bits t 26 14); let ty ← ETy.ofCode (bits t 0 5); ok (var == 0 && zr t 12 14) (.vfrsq d a (mr t 8) (pr t 5) ty))
  | 0x0A => (do let d ← VDst.ofBits (bits t 40 8); let a ← VSrc.ofBits (bits t 26 14); let ty ← ETy.ofCode (bits t 0 5); ok (var == 0 && zr t 12 14) (.vfexp2 d a (mr t 8) (pr t 5) ty))
  | 0x0B => (do let d ← VDst.ofBits (bits t 40 8); let a ← VSrc.ofBits (bits t 26 14); let ty ← ETy.ofCode (bits t 0 5); ok (var == 0 && zr t 12 14) (.vflog2 d a (mr t 8) (pr t 5) ty))
  | 0x0C => (do let d ← VDst.ofBits (bits t 40 8); let a ← VSrc.ofBits (bits t 26 14); let ty ← ETy.ofCode (bits t 0 5); ok (var == 0 && zr t 12 14) (.vfsin d a (mr t 8) (pr t 5) ty))
  | 0x0D => (do let d ← VDst.ofBits (bits t 40 8); let a ← VSrc.ofBits (bits t 26 14); let ty ← ETy.ofCode (bits t 0 5); ok (var == 0 && zr t 12 14) (.vfcos d a (mr t 8) (pr t 5) ty))
  | 0x0E => (do let d ← VDst.ofBits (bits t 40 8); let a ← VSrc.ofBits (bits t 26 14); let ty ← ETy.ofCode (bits t 0 5); ok (var == 0 && zr t 12 14) (.vftanh d a (mr t 8) (pr t 5) ty))
  | 0x0F => (do let d ← VDst.ofBits (bits t 40 8); let a ← VSrc.ofBits (bits t 26 14); let b ← VSrc.ofBits (bits t 12 14); let ty ← ETy.ofCode (bits t 0 5); ok (var == 0) (.vfmin d a b (mr t 8) (pr t 5) ty))
  | 0x10 => (do let d ← VDst.ofBits (bits t 40 8); let a ← VSrc.ofBits (bits t 26 14); let b ← VSrc.ofBits (bits t 12 14); let ty ← ETy.ofCode (bits t 0 5); ok (var == 0) (.vfmax d a b (mr t 8) (pr t 5) ty))
  | 0x11 => (do let d ← VDst.ofBits (bits t 40 8); let a ← VSrc.ofBits (bits t 26 14); let ty ← ETy.ofCode (bits t 0 5); ok (var == 0 && zr t 12 14) (.vfabs d a (mr t 8) (pr t 5) ty))
  | 0x12 => (do let d ← VDst.ofBits (bits t 40 8); let a ← VSrc.ofBits (bits t 26 14); let ty ← ETy.ofCode (bits t 0 5); ok (var == 0 && zr t 12 14) (.vfneg d a (mr t 8) (pr t 5) ty))
  | 0x13 => (do let d ← VDst.ofBits (bits t 40 8); let a ← VSrc.ofBits (bits t 26 14); let ty ← ETy.ofCode (bits t 0 5); ok (var == 0 && zr t 12 14) (.vfclass d a (mr t 8) (pr t 5) ty))
  | 0x14 => (do let d ← VDst.ofBits (bits t 40 8); let a ← VSrc.ofBits (bits t 26 14); let b ← VSrc.ofBits (bits t 12 14); ok (var == 0 && zr t 3 2) (.vscacc d a b (mr t 8) (pr t 5) (BitVec.ofNat 3 (bits t 0 3))))
  | _ => none

/-- Class 0x7: conversions, logic, shifts, random bits (R48). -/
def decode7 (op var t : Nat) : Option Instr :=
  match op with
  | 0x00 => (do let rm ← Rm.ofCode var; let d ← VDst.ofBits (bits t 40 8); let a ← VSrc.ofBits (bits t 26 14); let td ← ETy.ofCode (bits t 12 5); let ts ← ETy.ofCode (bits t 0 5); ok (zr t 17 9) (.vcvt rm d a td (mr t 8) (pr t 5) ts))
  | 0x01 => (do let rm ← Rm.ofCode var; let d ← VDst.ofBits (bits t 40 8); let a ← VSrc.ofBits (bits t 26 14); let td ← ETy.ofCode (bits t 12 5); let ts ← ETy.ofCode (bits t 0 5); ok (zr t 17 9) (.vnarrow rm d a td (mr t 8) (pr t 5) ts))
  | 0x02 => (do let d ← VDst.ofBits (bits t 40 8); let a ← VSrc.ofBits (bits t 26 14); let td ← ETy.ofCode (bits t 12 5); let ts ← ETy.ofCode (bits t 0 5); ok (var == 0 && zr t 17 9) (.vwiden d a td (mr t 8) (pr t 5) ts))
  | 0x03 => (do let d ← VDst.ofBits (bits t 40 8); let a ← VSrc.ofBits (bits t 26 14); let b ← VSrc.ofBits (bits t 12 14); let ty ← ETy.ofCode (bits t 0 5); ok (var == 0) (.vdeq d a b (mr t 8) (pr t 5) ty))
  | 0x04 => (do let d ← VDst.ofBits (bits t 40 8); let a ← VSrc.ofBits (bits t 26 14); let b ← VSrc.ofBits (bits t 12 14); let ty ← ETy.ofCode (bits t 0 5); ok (var == 0) (.vand d a b (mr t 8) (pr t 5) ty))
  | 0x05 => (do let d ← VDst.ofBits (bits t 40 8); let a ← VSrc.ofBits (bits t 26 14); let b ← VSrc.ofBits (bits t 12 14); let ty ← ETy.ofCode (bits t 0 5); ok (var == 0) (.vor d a b (mr t 8) (pr t 5) ty))
  | 0x06 => (do let d ← VDst.ofBits (bits t 40 8); let a ← VSrc.ofBits (bits t 26 14); let b ← VSrc.ofBits (bits t 12 14); let ty ← ETy.ofCode (bits t 0 5); ok (var == 0) (.vxor d a b (mr t 8) (pr t 5) ty))
  | 0x07 => (do let d ← VDst.ofBits (bits t 40 8); let a ← VSrc.ofBits (bits t 26 14); let b ← VSrc.ofBits (bits t 12 14); let ty ← ETy.ofCode (bits t 0 5); ok (var == 0) (.vandn d a b (mr t 8) (pr t 5) ty))
  | 0x08 => (do let d ← VDst.ofBits (bits t 40 8); let a ← VSrc.ofBits (bits t 26 14); let b ← VSrc.ofBits (bits t 12 14); let ty ← ETy.ofCode (bits t 0 5); ok (var == 0) (.vshl d a b (mr t 8) (pr t 5) ty))
  | 0x09 => (do let d ← VDst.ofBits (bits t 40 8); let a ← VSrc.ofBits (bits t 26 14); let b ← VSrc.ofBits (bits t 12 14); let ty ← ETy.ofCode (bits t 0 5); ok (var == 0) (.vshr d a b (mr t 8) (pr t 5) ty))
  | 0x0A => (do let d ← VDst.ofBits (bits t 40 8); let a ← VSrc.ofBits (bits t 26 14); let b ← VSrc.ofBits (bits t 12 14); let ty ← ETy.ofCode (bits t 0 5); ok (var == 0) (.vsra d a b (mr t 8) (pr t 5) ty))
  | 0x0B => (do let d ← VDst.ofBits (bits t 40 8); let a ← VSrc.ofBits (bits t 26 14); let ty ← ETy.ofCode (bits t 0 5); ok (var == 0 && zr t 5 2 && zr t 12 14) (.vshlw d a (rg t 7) ty))
  | 0x0C => (do let d ← VDst.ofBits (bits t 40 8); let a ← VSrc.ofBits (bits t 26 14); let ty ← ETy.ofCode (bits t 0 5); ok (var == 0 && zr t 5 2 && zr t 12 14) (.vshrw d a (rg t 7) ty))
  | 0x0D => (do let d ← VDst.ofBits (bits t 40 8); let a ← VSrc.ofBits (bits t 26 14); let b ← VSrc.ofBits (bits t 12 14); let ty ← ETy.ofCode (bits t 0 5); ok (var == 0 && zr t 5 2) (.vfunl d a b (rg t 7) ty))
  | 0x0E => (do let d ← VDst.ofBits (bits t 40 8); let a ← VSrc.ofBits (bits t 26 14); let b ← VSrc.ofBits (bits t 12 14); let ty ← ETy.ofCode (bits t 0 5); ok (var == 0 && zr t 5 2) (.vfunr d a b (rg t 7) ty))
  | 0x0F => (do let d ← VDst.ofBits (bits t 40 8); let ty ← ETy.ofCode (bits t 0 5); ok (var == 0 && zr t 12 28) (.vrndb d (mr t 8) (pr t 5) ty))
  | _ => none

/-- Class 0x8: masks, vector state, reductions (R49). -/
def decode8 (op var t : Nat) : Option Instr :=
  match op with
  | 0x00 => (do let cc ← CmpCc.ofCode var; let a ← VSrc.ofBits (bits t 26 14); let b ← VSrc.ofBits (bits t 12 14); let ty ← ETy.ofCode (bits t 0 5); ok (zr t 44 4) (.vcmp cc (mr t 40) a b (mr t 8) (pr t 5) ty))
  | 0x01 => (do let cc ← CmpCc.ofCode var; let a ← VSrc.ofBits (bits t 26 14); let b ← VSrc.ofBits (bits t 12 14); let ty ← ETy.ofCode (bits t 0 5); ok (zr t 44 4) (.vfcmp cc (mr t 40) a b (mr t 8) (pr t 5) ty))
  | 0x02 => (do let d ← VDst.ofBits (bits t 40 8); let a ← VSrc.ofBits (bits t 26 14); let b ← VSrc.ofBits (bits t 12 14); let ty ← ETy.ofCode (bits t 0 5); ok (var == 0) (.vsel d a b (mr t 8) (pr t 5) ty))
  | 0x03 => ok (var == 0 && zr t 0 4) (.mand (mr t 12) (mr t 8) (mr t 4))
  | 0x04 => ok (var == 0 && zr t 0 4) (.mor (mr t 12) (mr t 8) (mr t 4))
  | 0x05 => ok (var == 0 && zr t 0 4) (.mxor (mr t 12) (mr t 8) (mr t 4))
  | 0x06 => ok (var == 0 && zr t 0 8) (.mnot (mr t 12) (mr t 8))
  | 0x07 => ok (var == 0 && zr t 0 7) (.mcnt (rg t 11) (mr t 7))
  | 0x08 => ok (var == 0 && zr t 0 7) (.mfirst (rg t 11) (mr t 7))
  | 0x09 => (do let a ← VSrc.ofBits (bits t 26 14); let ty ← ETy.ofCode (bits t 0 5); ok (var == 0 && zr t 12 14 && zr t 44 4) (.vpres (mr t 40) a (mr t 8) (pr t 5) ty))
  | 0x0A => (do let x ← VDst.ofBits (bits t 24 8); let y ← VDst.ofBits (bits t 16 8); let w ← VDst.ofBits (bits t 8 8); ok (var == 0 && zr t 0 8) (.settle x y w)) <|> ok (var == 1 && zr t 0 32) .settleAll
  | 0x0B => (do let ty ← ETy.ofCode (bits t 1 5); ok (var == 0 && zr t 0 1) (.setvl (rg t 11) (rg t 6) ty))
  | 0x0C => ok (var == 0 && zr t 0 11) (.setvt (rg t 11))
  | 0x0D => (do let op ← RedOp.ofCode (var % 8); let d ← VDst.ofBits (bits t 40 8); let a ← VSrc.ofBits (bits t 26 14); let b ← redSrc var t; let ty ← ETy.ofCode (bits t 0 5); ok (true) (.vred op d a b (mr t 8) (pr t 5) ty))
  | 0x0E => (do let op ← RedOp.ofCode (var % 8); let d ← VDst.ofBits (bits t 40 8); let a ← VSrc.ofBits (bits t 26 14); let b ← redSrc var t; let ty ← ETy.ofCode (bits t 0 5); ok (true) (.vfred op d a b (mr t 8) (pr t 5) ty))
  | 0x0F => (do let op ← RedOp.ofCode (var % 8); let d ← VDst.ofBits (bits t 40 8); let a ← VSrc.ofBits (bits t 26 14); let b ← redSrc var t; let ty ← ETy.ofCode (bits t 0 5); ok (true) (.vscan op d a b (mr t 8) (pr t 5) ty))
  | 0x10 => (do let op ← RedOp.ofCode (var % 8); let d ← VDst.ofBits (bits t 40 8); let a ← VSrc.ofBits (bits t 26 14); let b ← redSrc var t; let ty ← ETy.ofCode (bits t 0 5); ok (true) (.vfscan op d a b (mr t 8) (pr t 5) ty))
  | 0x11 => (do let d ← VDst.ofBits (bits t 40 8); let a ← VSrc.ofBits (bits t 26 14); let b ← VSrc.ofBits (bits t 12 14); let ty ← ETy.ofCode (bits t 0 5); ok (var == 0) (.vthr d a b (mr t 8) (pr t 5) ty))
  | 0x12 => (do let a ← VSrc.ofBits (bits t 13 14); let ty ← ETy.ofCode (bits t 8 5); ok (var == 0 && zr t 0 8) (.vmvs (rg t 27) a ty))
  | 0x13 => (do let d ← VDst.ofBits (bits t 24 8); let ty ← ETy.ofCode (bits t 7 5); ok (var == 0 && zr t 0 7) (.vsplat d (rg t 19) (mr t 15) (pr t 12) ty))
  | 0x14 => ok (var == 0 && zr t 0 10) (.vslip (BitVec.ofNat 6 (bits t 10 6)))
  | 0x15 => ok (var == 0 && zr t 0 12) (.mclr (mr t 12))
  | _ => none

/-- Class 0x9: vector memory (R50). -/
def decode9 (op var t : Nat) : Option Instr :=
  match op with
  | 0x00 => (do let d ← VDst.ofBits (bits t 40 8); let ty ← ETy.ofCode (bits t 0 5); ok (var == 0 && zr t 12 4 && zr t 30 5) (.vld d (rg t 35) (BitVec.ofNat 14 (bits t 16 14)) (mr t 8) (pr t 5) ty)) <|> (do let d ← VDst.ofBits (bits t 40 8); let ty ← ETy.ofCode (bits t 0 5); ok (var == 1 && zr t 15 1 && zr t 30 5) (.vldW d (rg t 35) (BitVec.ofNat 14 (bits t 16 14)) (BitVec.ofNat 3 (bits t 12 3)) (mr t 8) (pr t 5) ty))
  | 0x01 => (do let d ← VDst.ofBits (bits t 40 8); let ty ← ETy.ofCode (bits t 0 5); ok (var == 0 && zr t 12 4) (.vlds d (rg t 35) (rg t 30) (BitVec.ofNat 14 (bits t 16 14)) (mr t 8) (pr t 5) ty))
  | 0x02 => (do let d ← VDst.ofBits (bits t 40 8); let ty ← ETy.ofCode (bits t 0 5); ok (var == 0 && zr t 12 4) (.vldff d (rg t 35) (rg t 30) (BitVec.ofNat 14 (bits t 16 14)) (mr t 8) (pr t 5) ty))
  | 0x03 => (do let a ← VSrc.ofBits (bits t 34 14); let ty ← ETy.ofCode (bits t 0 5); ok (var == 0 && zr t 24 5) (.vst a (rg t 29) (BitVec.ofNat 12 (bits t 12 12)) (mr t 8) (pr t 5) ty))
  | 0x04 => (do let a ← VSrc.ofBits (bits t 34 14); let ty ← ETy.ofCode (bits t 0 5); ok (var == 0) (.vsts a (rg t 29) (rg t 24) (BitVec.ofNat 12 (bits t 12 12)) (mr t 8) (pr t 5) ty))
  | 0x05 => (do let d ← VDst.ofBits (bits t 40 8); let idx ← VSrc.ofBits (bits t 21 14); let ty ← ETy.ofCode (bits t 0 5); ok (var == 0 && zr t 14 7) (.vgath d (rg t 35) idx (BitVec.ofNat 2 (bits t 12 2)) (mr t 8) (pr t 5) ty))
  | 0x06 => (do let a ← VSrc.ofBits (bits t 34 14); let idx ← VSrc.ofBits (bits t 20 14); let ty ← ETy.ofCode (bits t 0 5); ok (var == 0 && zr t 12 1) (.vscat a idx (rg t 15) (BitVec.ofNat 2 (bits t 13 2)) (mr t 8) (pr t 5) ty))
  | 0x07 => (do let a ← VSrc.ofBits (bits t 34 14); let idx ← VSrc.ofBits (bits t 20 14); let ty ← ETy.ofCode (bits t 0 5); ok (var == 0 && zr t 12 1) (.vscadd a idx (rg t 15) (BitVec.ofNat 2 (bits t 13 2)) (mr t 8) (pr t 5) ty))
  | 0x08 => (do let d ← VDst.ofBits (bits t 40 8); let a ← VSrc.ofBits (bits t 26 14); let ty ← ETy.ofCode (bits t 0 5); ok (var == 0 && zr t 12 14) (.vtld d a (mr t 8) (pr t 5) ty))
  | 0x09 => (do let a ← VSrc.ofBits (bits t 26 14); let b ← VSrc.ofBits (bits t 12 14); let ty ← ETy.ofCode (bits t 0 5); ok (var == 0 && zr t 40 8) (.vtst a b (mr t 8) (pr t 5) ty))
  | 0x0A => ok (var == 0 && zr t 0 16) .vfence <|> (do let sc ← Scope.ofCode (bits t 8 3); ok (var == 1 && zr t 0 8) (.vfenceArr (rg t 11) sc))
  | 0x0B => (do let d ← VDst.ofBits (bits t 40 8); let di ← VDst.ofBits (bits t 32 8); let ty ← ETy.ofCode (bits t 0 5); ok (var == 0 && zr t 5 13) (.vsell d di (rg t 27) (mr t 23) (rg t 18) ty))
  | _ => none

/-- Class 0xA: permutes (R50). -/
def decodeA (op var t : Nat) : Option Instr :=
  match op with
  | 0x00 => (do let d ← VDst.ofBits (bits t 40 8); let a ← VSrc.ofBits (bits t 26 14); let ty ← ETy.ofCode (bits t 0 5); ok (var == 0 && zr t 12 9) (.vslideu d a (rg t 21) (mr t 8) (pr t 5) ty))
  | 0x01 => (do let d ← VDst.ofBits (bits t 40 8); let a ← VSrc.ofBits (bits t 26 14); let ty ← ETy.ofCode (bits t 0 5); ok (var == 0 && zr t 12 9) (.vslided d a (rg t 21) (mr t 8) (pr t 5) ty))
  | 0x02 => (do let d ← VDst.ofBits (bits t 40 8); let a ← VSrc.ofBits (bits t 26 14); let b ← VSrc.ofBits (bits t 12 14); let ty ← ETy.ofCode (bits t 0 5); ok (var == 0) (.vperm d a b (mr t 8) (pr t 5) ty))
  | 0x03 => (do let d ← VDst.ofBits (bits t 40 8); let a ← VSrc.ofBits (bits t 26 14); let ty ← ETy.ofCode (bits t 0 5); ok (var == 0 && zr t 16 10) (.vxchg d a (BitVec.ofNat 4 (bits t 12 4)) (mr t 8) (pr t 5) ty))
  | 0x04 => (do let d ← VDst.ofBits (bits t 40 8); let a ← VSrc.ofBits (bits t 26 14); let ty ← ETy.ofCode (bits t 0 5); ok (var == 0 && zr t 12 9) (.vcomp d a (rg t 21) (mr t 8) (pr t 5) ty))
  | 0x05 => (do let d ← VDst.ofBits (bits t 40 8); let a ← VSrc.ofBits (bits t 26 14); let ty ← ETy.ofCode (bits t 0 5); ok (var == 0 && zr t 12 14) (.vexp d a (mr t 8) (pr t 5) ty))
  | 0x06 => (do let a ← VSrc.ofBits (bits t 24 14); let ty ← ETy.ofCode (bits t 0 5); ok (var == 0 && zr t 5 10) (.vfib (rg t 43) (rg t 38) a (rg t 19) (mr t 15) ty))
  | _ => none

/-- Class 0xB: matrix engine (R51). -/
def decodeB (op var t : Nat) : Option Instr :=
  match op with
  | 0x00 => ok (var == 0 && zr t 0 6) (.mzero (rg t 11) (rg t 6))
  | 0x01 => (do let ty ← ETy.ofCode (bits t 28 5); ok (var == 0 && zr t 0 21) (.mma (rg t 43) (rg t 38) (rg t 33) ty (rg t 23) (bitAt t 22) (bitAt t 21)))
  | 0x02 => (do let ta ← ETy.ofCode (bits t 23 5); let tb ← ETy.ofCode (bits t 18 5); let g ← Grp.ofCode (bits t 16 2); ok (var == 0 && zr t 0 16) (.mmaq (rg t 43) (rg t 38) (rg t 33) (rg t 28) ta tb g))
  | 0x03 => (do let ty ← ETy.ofCode (bits t 23 5); ok (var == 0 && zr t 0 23) (.mmas (rg t 43) (rg t 38) (rg t 33) (rg t 28) ty))
  | 0x04 => (do let rm ← Rm.ofCode var; let ty ← ETy.ofCode (bits t 28 5); ok (zr t 0 28) (.mmac rm (rg t 43) (rg t 38) (rg t 33) ty))
  | 0x05 => ok (var == 0 && zr t 0 28) (.mscale (rg t 43) (rg t 38) (rg t 33) (rg t 28))
  | 0x06 => ok (var == 0) (.mld (rg t 27) (rg t 22) (BitVec.ofNat 22 (bits t 0 22)))
  | 0x07 => ok (var == 0) (.mst (rg t 27) (rg t 22) (BitVec.ofNat 22 (bits t 0 22)))
  | 0x08 => (do let rm ← Rm.ofCode var; let tgt ← drainTo t; let ty ← ETy.ofCode (bits t 18 5); ok (zr t 0 18) (.mdrain rm (rg t 43) tgt ty))
  | _ => none

/-- Class 0xC: Fennel (R51). -/
def decodeC (op var t : Nat) : Option Instr :=
  match op with
  | 0x00 => (do let set ← PSet.ofCode (bits t 35 3); let vd ← VDst.ofBits (bits t 12 8); let oty ← OutTy.ofCode (bits t 10 2); ok (var == 0 && zr t 0 10) (.pdrain (rg t 43) (rg t 38) set (rg t 30) (rg t 25) (rg t 20) vd oty))
  | 0x01 => (do let oty ← OutTy.ofCode (bits t 10 2); ok (var == 0 && zr t 0 10) (.padj (rg t 27) (rg t 22) (rg t 17) (rg t 12) oty))
  | 0x02 => (do let set ← PSet.ofCode (bits t 19 3); ok (var == 0 && zr t 0 9) (.pstat (rg t 27) (rg t 22) set (rg t 14) (rg t 9)))
  | 0x03 => (do let set ← PSet.ofCode (bits t 19 3); let oty ← OutTy.ofCode (bits t 7 2); ok (var == 0 && zr t 0 7) (.pfix (rg t 27) (rg t 22) set (rg t 14) (rg t 9) oty))
  | 0x04 => ok (var == 0 && zr t 0 5) (.prld (rg t 11) (BitVec.ofNat 6 (bits t 5 6)))
  | 0x05 => ok (var == 0 && zr t 0 5) (.prst (rg t 11) (BitVec.ofNat 6 (bits t 5 6)))
  | _ => none

/-- Class 0xD: copy engine (R52). -/
def decodeD (op var t : Nat) : Option Instr :=
  match op with
  | 0x00 => ok (var == 0 && zr t 0 7) (.cbind (BitVec.ofNat 4 (bits t 12 4)) (rg t 7))
  | 0x01 => ok (var == 0 && zr t 0 10 && zr t 23 5) (.cgo (BitVec.ofNat 4 (bits t 28 4)) (BitVec.ofNat 8 (bits t 15 8)) (rg t 10)) <|> ok (var == 1 && zr t 0 10 && zr t 23 5) (.cgoMx (BitVec.ofNat 4 (bits t 28 4)) (BitVec.ofNat 8 (bits t 15 8)) (rg t 10)) <|> ok (var == 2 && zr t 0 10 && zr t 28 4) (.cgoAuto (rg t 23) (BitVec.ofNat 8 (bits t 15 8)) (rg t 10)) <|> ok (var == 3 && zr t 0 10 && zr t 28 4) (.cgoAutoMx (rg t 23) (BitVec.ofNat 8 (bits t 15 8)) (rg t 10))
  | 0x02 => (do let vd ← VDst.ofBits (bits t 40 8); let ty ← ETy.ofCode (bits t 0 5); ok (var == 0 && zr t 5 13) (.cvld vd (mr t 36) (rg t 31) (rg t 26) (BitVec.ofNat 8 (bits t 18 8)) ty))
  | 0x03 => ok (var == 0 && zr t 0 12) (.rinit (rg t 27) (rg t 22) (rg t 17) (rg t 12))
  | 0x04 => ok (var == 0 && zr t 0 6) (.await (rg t 11) (rg t 6))
  | 0x05 => ok (var == 0 && zr t 0 11) (.rels (rg t 11))
  | 0x06 => ok (var == 0 && zr t 0 12) (.ccancel (BitVec.ofNat 4 (bits t 12 4)))
  | _ => none

/-- Class 0xE: near-memory and fabric (R52). -/
def decodeE (op var t : Nat) : Option Instr :=
  match op with
  | 0x00 => ok (var == 0 && zr t 0 14) (.nlookup (rg t 27) (rg t 22) (BitVec.ofNat 8 (bits t 14 8)))
  | 0x01 => (do let op ← NOp.ofCode var; let src ← VSrc.ofBits (bits t 29 14); ok (zr t 5 16 && bits t 0 5 == 8) (.nadd op (rg t 43) src (BitVec.ofNat 8 (bits t 21 8))))
  | 0x02 => (do let op ← NOp.ofCode var; let d ← VDst.ofBits (bits t 40 8); let src ← VSrc.ofBits (bits t 21 14); ok (zr t 5 8 && bits t 0 5 == 8) (.naddr op d (rg t 35) src (BitVec.ofNat 8 (bits t 13 8))))
  | 0x03 => (do let sc ← Scope.ofCode (bits t 13 3); ok (var == 0 && zr t 0 13) (.nfence sc)) <|> (do let sc ← Scope.ofCode (bits t 13 3); ok (var == 0 && zr t 0 4 && bits t 4 1 == 1) (.nfenceTag sc (BitVec.ofNat 8 (bits t 5 8))))
  | 0x04 => ok (var == 0 && zr t 0 25) (.fput (rg t 43) (rg t 38) (rg t 33) (BitVec.ofNat 8 (bits t 25 8)))
  | 0x05 => ok (var == 0 && zr t 0 25) (.fget (rg t 43) (rg t 38) (rg t 33) (BitVec.ofNat 8 (bits t 25 8)))
  | 0x06 => ok (var == 0 && zr t 24 3) (.fsig (rg t 27) (BitVec.ofNat 24 (bits t 0 24)))
  | 0x07 => (do let ty ← ETy.ofCode (bits t 4 5); ok (var == 0 && zr t 0 4) (.collAllreduce (rg t 27) (rg t 22) (rg t 17) (BitVec.ofNat 8 (bits t 9 8)) ty)) <|> (do let ty ← ETy.ofCode (bits t 4 5); ok (var == 1 && zr t 0 4) (.collRedscat (rg t 27) (rg t 22) (rg t 17) (BitVec.ofNat 8 (bits t 9 8)) ty)) <|> (do let ty ← ETy.ofCode (bits t 4 5); ok (var == 2 && zr t 0 4) (.collAllgather (rg t 27) (rg t 22) (rg t 17) (BitVec.ofNat 8 (bits t 9 8)) ty)) <|> (do let ty ← ETy.ofCode (bits t 4 5); ok (var == 3 && zr t 0 4) (.collBcast (rg t 27) (rg t 22) (rg t 17) (BitVec.ofNat 8 (bits t 9 8)) ty))
  | 0x08 => ok (var == 0) .ffence
  | 0x09 => ok (var == 0 && zr t 0 6) (.fstat (rg t 11) (rg t 6))
  | _ => none

def decodeClass (cls op var t : Nat) : Option Instr :=
  match cls with
  | 0x0 => decode0 op var t
  | 0x1 => decode1 op var t
  | 0x2 => decode2 op var t
  | 0x3 => decode3 op var t
  | 0x4 => decode4 op var t
  | 0x5 => decode5 op var t
  | 0x6 => decode6 op var t
  | 0x7 => decode7 op var t
  | 0x8 => decode8 op var t
  | 0x9 => decode9 op var t
  | 0xA => decodeA op var t
  | 0xB => decodeB op var t
  | 0xC => decodeC op var t
  | 0xD => decodeD op var t
  | 0xE => decodeE op var t
  | _ => none

/-- The instruction of a head and its tail (R27, R34). -/
def decodeHT (head tail : Nat) : Except Reject Instr :=
  let cls := bits head 10 4
  let op := bits head 4 6
  match mapTlen cls op with
  | none => .error .unassigned
  | some l =>
    if bits head 14 2 ≠ l then .error .tailLength
    else
      match decodeClass cls op (bits head 0 4) tail with
      | none => .error .field
      | some i => if i.wf then .ok i else .error .notAdmitted

/-- A Beret word (R128): bits 31:27 the operation, 26:23 d, 22:19 a, 18:15 b, 14:0 imm; fields an operation does not use are zero. -/
def decodeBeretOp (op t : Nat) : Option Instr :=
  match op with
  | 0x00 => ok (zr t 15 8) (.movb (BitVec.ofNat 4 (bits t 23 4)) (BitVec.ofNat 15 (bits t 0 15)))
  | 0x01 => ok (zr t 0 15) (.addb (BitVec.ofNat 4 (bits t 23 4)) (BitVec.ofNat 4 (bits t 19 4)) (BitVec.ofNat 4 (bits t 15 4)))
  | 0x02 => ok (zr t 15 4) (.addib (BitVec.ofNat 4 (bits t 23 4)) (BitVec.ofNat 4 (bits t 19 4)) (BitVec.ofNat 15 (bits t 0 15)))
  | 0x03 => ok (zr t 0 15) (.andb (BitVec.ofNat 4 (bits t 23 4)) (BitVec.ofNat 4 (bits t 19 4)) (BitVec.ofNat 4 (bits t 15 4)))
  | 0x04 => ok (zr t 0 15) (.orb (BitVec.ofNat 4 (bits t 23 4)) (BitVec.ofNat 4 (bits t 19 4)) (BitVec.ofNat 4 (bits t 15 4)))
  | 0x05 => ok (zr t 6 13) (.shlib (BitVec.ofNat 4 (bits t 23 4)) (BitVec.ofNat 4 (bits t 19 4)) (BitVec.ofNat 6 (bits t 0 6)))
  | 0x06 => ok (zr t 6 13) (.shrib (BitVec.ofNat 4 (bits t 23 4)) (BitVec.ofNat 4 (bits t 19 4)) (BitVec.ofNat 6 (bits t 0 6)))
  | 0x07 => ok (zr t 12 7) (.bfxb (BitVec.ofNat 4 (bits t 23 4)) (BitVec.ofNat 4 (bits t 19 4)) (BitVec.ofNat 6 (bits t 6 6)) (BitVec.ofNat 6 (bits t 0 6)))
  | 0x08 => ok (zr t 15 8) (.ldpb (BitVec.ofNat 4 (bits t 23 4)) (BitVec.ofNat 15 (bits t 0 15)))
  | 0x09 => ok (zr t 15 8) (.ldqb (BitVec.ofNat 4 (bits t 23 4)) (BitVec.ofNat 15 (bits t 0 15)))
  | 0x0A => ok (zr t 23 4 && zr t 15 4 && bits t 0 15 == 56) (.stqb (BitVec.ofNat 4 (bits t 19 4)))
  | 0x0B => ok (zr t 15 8) (.srdb (BitVec.ofNat 4 (bits t 23 4)) (BitVec.ofNat 15 (bits t 0 15)))
  | 0x0C => ok (zr t 23 4 && zr t 15 4) (.sdecb (BitVec.ofNat 4 (bits t 19 4)) (BitVec.ofNat 15 (bits t 0 15)))
  | 0x0D => ok (zr t 23 4 && zr t 15 4) (.ssetb (BitVec.ofNat 4 (bits t 19 4)) (BitVec.ofNat 15 (bits t 0 15)))
  | 0x0E => ok (zr t 0 19) (.waitb (BitVec.ofNat 4 (bits t 23 4)) (BitVec.ofNat 4 (bits t 19 4)))
  | 0x0F => ok (zr t 1 26) (.placeb (bitAt t 0))
  | 0x10 => ok (zr t 0 27) (.imgb)
  | 0x11 => ok (zr t 0 27) (.copyb)
  | 0x12 => ok (zr t 23 4) (.beqb (BitVec.ofNat 4 (bits t 19 4)) (BitVec.ofNat 4 (bits t 15 4)) (BitVec.ofNat 15 (bits t 0 15)))
  | 0x13 => ok (zr t 23 4) (.bneb (BitVec.ofNat 4 (bits t 19 4)) (BitVec.ofNat 4 (bits t 15 4)) (BitVec.ofNat 15 (bits t 0 15)))
  | 0x14 => ok (zr t 23 4) (.bltb (BitVec.ofNat 4 (bits t 19 4)) (BitVec.ofNat 4 (bits t 15 4)) (BitVec.ofNat 15 (bits t 0 15)))
  | 0x15 => ok (zr t 15 12 && zr t 7 1) (.loopb (BitVec.ofNat 7 (bits t 8 7)) (BitVec.ofNat 7 (bits t 0 7)))
  | 0x16 => ok (zr t 23 4 && zr t 0 19) (.fwdb (BitVec.ofNat 4 (bits t 19 4)))
  | 0x17 => ok (zr t 23 4 && zr t 0 19) (.doneb (BitVec.ofNat 4 (bits t 19 4)))
  | _ => none

def decodeBeret (w : Nat) : Except Reject Instr :=
  match decodeBeretOp (bits w 27 5) w with
  | none => .error .field
  | some i => if i.wf then .ok i else .error .notAdmitted

/-- What stands for an instruction in a program: a head and its tail, a Beret word, or nothing (an event). -/
inductive Code where
  | wirath (head tail : Nat)
  | beret (w : Nat)
  | event
  deriving DecidableEq, Repr

/-- A head: tlen·2^14 + class·2^10 + op·2^4 + var (R27). -/
def headOf (tlen cls op var : Nat) : Nat := tlen * 2 ^ 14 + cls * 2 ^ 10 + op * 2 ^ 4 + var

/-- A number made of fields: a position and a value each. -/
def pack : List (Nat × Nat) → Nat
  | [] => 0
  | (lo, v) :: r => v * 2 ^ lo + pack r

/-- The encoding of an instruction, from the same tables. -/
def encode : Instr → Code
  | .nop => .wirath (headOf 0 0x0 0x00 0) (pack [])
  | .brCc cc a b tgt => .wirath (headOf 3 0x0 0x01 (cc.code)) (pack [(43, a.toNat), (38, b.toNat), (0, tgt.toNat)])
  | .jmp tgt => .wirath (headOf 2 0x0 0x02 0) (pack [(0, tgt.toNat)])
  | .jmpr a => .wirath (headOf 1 0x0 0x03 0) (pack [(6, a.toNat)])
  | .call d tgt => .wirath (headOf 2 0x0 0x04 0) (pack [(27, d.toNat), (0, tgt.toNat)])
  | .ret a => .wirath (headOf 1 0x0 0x05 0) (pack [(6, a.toNat)])
  | .loop c tgt => .wirath (headOf 2 0x0 0x06 0) (pack [(27, c.toNat), (0, tgt.toNat)])
  | .loopr c slip rstep tgt => .wirath (headOf 3 0x0 0x07 0) (pack [(43, c.toNat), (37, slip.toNat), (33, rstep.toNat), (0, tgt.toNat)])
  | .leave => .wirath (headOf 0 0x0 0x08 0) (pack [])
  | .trap code => .wirath (headOf 1 0x0 0x09 0) (pack [(0, code.toNat)])
  | .eret => .wirath (headOf 0 0x0 0x0A 0) (pack [])
  | .sysrd d num => .wirath (headOf 2 0x0 0x0B 0) (pack [(27, d.toNat), (0, num.toNat)])
  | .syswr a num => .wirath (headOf 2 0x0 0x0C 0) (pack [(27, a.toNat), (0, num.toNat)])
  | .vrestore a => .wirath (headOf 2 0x0 0x0C 0) (pack [(27, a.toNat), (0, 0x800)])
  | .icinv a => .wirath (headOf 2 0x0 0x0C 0) (pack [(27, a.toNat), (0, 0x801)])
  | .tlbinv a => .wirath (headOf 2 0x0 0x0C 0) (pack [(27, a.toNat), (0, 0x802)])
  | .halt => .wirath (headOf 0 0x0 0x0D 0) (pack [])
  | .brkpt code => .wirath (headOf 1 0x0 0x0E 0) (pack [(0, code.toNat)])
  | .add d a b => .wirath (headOf 1 0x1 0x00 0) (pack [(11, d.toNat), (6, a.toNat), (1, b.toNat)])
  | .sub d a b => .wirath (headOf 1 0x1 0x01 0) (pack [(11, d.toNat), (6, a.toNat), (1, b.toNat)])
  | .and d a b => .wirath (headOf 1 0x1 0x02 0) (pack [(11, d.toNat), (6, a.toNat), (1, b.toNat)])
  | .or d a b => .wirath (headOf 1 0x1 0x03 0) (pack [(11, d.toNat), (6, a.toNat), (1, b.toNat)])
  | .xor d a b => .wirath (headOf 1 0x1 0x04 0) (pack [(11, d.toNat), (6, a.toNat), (1, b.toNat)])
  | .andn d a b => .wirath (headOf 1 0x1 0x05 0) (pack [(11, d.toNat), (6, a.toNat), (1, b.toNat)])
  | .shl d a b => .wirath (headOf 1 0x1 0x06 0) (pack [(11, d.toNat), (6, a.toNat), (1, b.toNat)])
  | .shr d a b => .wirath (headOf 1 0x1 0x07 0) (pack [(11, d.toNat), (6, a.toNat), (1, b.toNat)])
  | .sra d a b => .wirath (headOf 1 0x1 0x08 0) (pack [(11, d.toNat), (6, a.toNat), (1, b.toNat)])
  | .mul d a b => .wirath (headOf 1 0x1 0x09 0) (pack [(11, d.toNat), (6, a.toNat), (1, b.toNat)])
  | .mulh d a b => .wirath (headOf 1 0x1 0x0A 0) (pack [(11, d.toNat), (6, a.toNat), (1, b.toNat)])
  | .mulhz d a b => .wirath (headOf 1 0x1 0x0B 0) (pack [(11, d.toNat), (6, a.toNat), (1, b.toNat)])
  | .div d a b => .wirath (headOf 1 0x1 0x0C 0) (pack [(11, d.toNat), (6, a.toNat), (1, b.toNat)])
  | .divz d a b => .wirath (headOf 1 0x1 0x0D 0) (pack [(11, d.toNat), (6, a.toNat), (1, b.toNat)])
  | .rem d a b => .wirath (headOf 1 0x1 0x0E 0) (pack [(11, d.toNat), (6, a.toNat), (1, b.toNat)])
  | .remz d a b => .wirath (headOf 1 0x1 0x0F 0) (pack [(11, d.toNat), (6, a.toNat), (1, b.toNat)])
  | .min d a b => .wirath (headOf 1 0x1 0x10 0) (pack [(11, d.toNat), (6, a.toNat), (1, b.toNat)])
  | .max d a b => .wirath (headOf 1 0x1 0x11 0) (pack [(11, d.toNat), (6, a.toNat), (1, b.toNat)])
  | .minz d a b => .wirath (headOf 1 0x1 0x12 0) (pack [(11, d.toNat), (6, a.toNat), (1, b.toNat)])
  | .maxz d a b => .wirath (headOf 1 0x1 0x13 0) (pack [(11, d.toNat), (6, a.toNat), (1, b.toNat)])
  | .slt d a b => .wirath (headOf 1 0x1 0x14 0) (pack [(11, d.toNat), (6, a.toNat), (1, b.toNat)])
  | .sltz d a b => .wirath (headOf 1 0x1 0x15 0) (pack [(11, d.toNat), (6, a.toNat), (1, b.toNat)])
  | .seq d a b => .wirath (headOf 1 0x1 0x16 0) (pack [(11, d.toNat), (6, a.toNat), (1, b.toNat)])
  | .sel d c a b => .wirath (headOf 2 0x1 0x17 0) (pack [(27, d.toNat), (22, c.toNat), (17, a.toNat), (12, b.toNat)])
  | .clz d a => .wirath (headOf 1 0x1 0x18 0) (pack [(11, d.toNat), (6, a.toNat)])
  | .popc d a => .wirath (headOf 1 0x1 0x19 0) (pack [(11, d.toNat), (6, a.toNat)])
  | .bext d a lo wm1 => .wirath (headOf 2 0x1 0x1A 0) (pack [(27, d.toNat), (22, a.toNat), (16, lo.toNat), (10, wm1.toNat)])
  | .bins d a lo wm1 => .wirath (headOf 2 0x1 0x1B 0) (pack [(27, d.toNat), (22, a.toNat), (16, lo.toNat), (10, wm1.toNat)])
  | .addi d a imm => .wirath (headOf 2 0x2 0x00 0) (pack [(27, d.toNat), (22, a.toNat), (0, imm.toNat)])
  | .andi d a imm => .wirath (headOf 2 0x2 0x01 0) (pack [(27, d.toNat), (22, a.toNat), (0, imm.toNat)])
  | .ori d a imm => .wirath (headOf 2 0x2 0x02 0) (pack [(27, d.toNat), (22, a.toNat), (0, imm.toNat)])
  | .xori d a imm => .wirath (headOf 2 0x2 0x03 0) (pack [(27, d.toNat), (22, a.toNat), (0, imm.toNat)])
  | .shli d a imm => .wirath (headOf 2 0x2 0x04 0) (pack [(27, d.toNat), (22, a.toNat), (0, imm.toNat)])
  | .shri d a imm => .wirath (headOf 2 0x2 0x05 0) (pack [(27, d.toNat), (22, a.toNat), (0, imm.toNat)])
  | .srai d a imm => .wirath (headOf 2 0x2 0x06 0) (pack [(27, d.toNat), (22, a.toNat), (0, imm.toNat)])
  | .slti d a imm => .wirath (headOf 2 0x2 0x07 0) (pack [(27, d.toNat), (22, a.toNat), (0, imm.toNat)])
  | .li d imm => .wirath (headOf 3 0x2 0x08 (d.toNat % 16)) (pack [(47, d.toNat / 16), (0, imm.toNat)])
  | .lih d imm => .wirath (headOf 3 0x2 0x09 0) (pack [(43, d.toNat), (0, imm.toNat)])
  | .ld ty d b disp => .wirath (headOf 2 0x3 0x00 (ty.code)) (pack [(27, d.toNat), (22, b.toNat), (0, disp.toNat)])
  | .st ty a b disp => .wirath (headOf 2 0x3 0x01 (ty.code)) (pack [(27, a.toNat), (22, b.toNat), (0, disp.toNat)])
  | .amo op d b a sc w64 disp => .wirath (headOf 3 0x3 0x02 (op.code)) (pack [(43, d.toNat), (38, b.toNat), (33, a.toNat), (30, sc.code), (29, w64.toNat), (13, disp.toNat)])
  | .cas d b e n sc w64 disp => .wirath (headOf 3 0x3 0x03 0) (pack [(43, d.toNat), (38, b.toNat), (33, e.toNat), (28, n.toNat), (25, sc.code), (24, w64.toNat), (8, disp.toNat)])
  | .acq a sc => .wirath (headOf 1 0x4 0x00 0) (pack [(11, a.toNat), (8, sc.code)])
  | .tryacq d a sc => .wirath (headOf 1 0x4 0x01 0) (pack [(11, d.toNat), (6, a.toNat), (3, sc.code)])
  | .rel a sc => .wirath (headOf 1 0x4 0x02 0) (pack [(11, a.toNat), (8, sc.code)])
  | .xfence p q => .wirath (headOf 1 0x4 0x03 0) (pack [(13, p.code), (10, q.code)])
  | .fence sc => .wirath (headOf 1 0x4 0x04 0) (pack [(13, sc.code)])
  | .waitc l st c t => .wirath (headOf 1 0x4 0x05 0) (pack [(12, l.toNat), (8, st.toNat), (4, c.toNat), (0, t.toNat)])
  | .spawn a => .wirath (headOf 1 0x4 0x06 0) (pack [(11, a.toNat)])
  | .join a => .wirath (headOf 1 0x4 0x07 0) (pack [(11, a.toNat)])
  | .commit => .wirath (headOf 0 0x4 0x08 0) (pack [])
  | .endTask => .wirath (headOf 0 0x4 0x09 0) (pack [])
  | .yield => .wirath (headOf 0 0x4 0x0A 0) (pack [])
  | .wmpub w a => .wirath (headOf 1 0x4 0x0B 0) (pack [(13, w.toNat), (8, a.toNat)])
  | .sigdec a sc count => .wirath (headOf 2 0x4 0x0C 0) (pack [(27, a.toNat), (24, sc.code), (0, count.toNat)])
  | .sigwait a sc => .wirath (headOf 2 0x4 0x0C 0) (pack [(27, a.toNat), (24, sc.code), (0, 0)])
  | .vadd d a b m ps ty => .wirath (headOf 3 0x5 0x00 0) (pack [(40, d.toBits), (26, a.toBits), (12, b.toBits), (8, m.toNat), (5, ps.toNat), (0, ty.code)])
  | .vsub d a b m ps ty => .wirath (headOf 3 0x5 0x01 0) (pack [(40, d.toBits), (26, a.toBits), (12, b.toBits), (8, m.toNat), (5, ps.toNat), (0, ty.code)])
  | .vmul d a b m ps ty => .wirath (headOf 3 0x5 0x02 0) (pack [(40, d.toBits), (26, a.toBits), (12, b.toBits), (8, m.toNat), (5, ps.toNat), (0, ty.code)])
  | .vmulh d a b m ps ty => .wirath (headOf 3 0x5 0x03 0) (pack [(40, d.toBits), (26, a.toBits), (12, b.toBits), (8, m.toNat), (5, ps.toNat), (0, ty.code)])
  | .vmulhz d a b m ps ty => .wirath (headOf 3 0x5 0x04 0) (pack [(40, d.toBits), (26, a.toBits), (12, b.toBits), (8, m.toNat), (5, ps.toNat), (0, ty.code)])
  | .vmadd d a b m ps ty => .wirath (headOf 3 0x5 0x05 0) (pack [(40, d.toBits), (26, a.toBits), (12, b.toBits), (8, m.toNat), (5, ps.toNat), (0, ty.code)])
  | .vmin d a b m ps ty => .wirath (headOf 3 0x5 0x06 0) (pack [(40, d.toBits), (26, a.toBits), (12, b.toBits), (8, m.toNat), (5, ps.toNat), (0, ty.code)])
  | .vmax d a b m ps ty => .wirath (headOf 3 0x5 0x07 0) (pack [(40, d.toBits), (26, a.toBits), (12, b.toBits), (8, m.toNat), (5, ps.toNat), (0, ty.code)])
  | .vminz d a b m ps ty => .wirath (headOf 3 0x5 0x08 0) (pack [(40, d.toBits), (26, a.toBits), (12, b.toBits), (8, m.toNat), (5, ps.toNat), (0, ty.code)])
  | .vmaxz d a b m ps ty => .wirath (headOf 3 0x5 0x09 0) (pack [(40, d.toBits), (26, a.toBits), (12, b.toBits), (8, m.toNat), (5, ps.toNat), (0, ty.code)])
  | .vabs d a m ps ty => .wirath (headOf 3 0x5 0x0A 0) (pack [(40, d.toBits), (26, a.toBits), (8, m.toNat), (5, ps.toNat), (0, ty.code)])
  | .vadds d a b m ps ty => .wirath (headOf 3 0x5 0x0B 0) (pack [(40, d.toBits), (26, a.toBits), (12, b.toBits), (8, m.toNat), (5, ps.toNat), (0, ty.code)])
  | .vsubs d a b m ps ty => .wirath (headOf 3 0x5 0x0C 0) (pack [(40, d.toBits), (26, a.toBits), (12, b.toBits), (8, m.toNat), (5, ps.toNat), (0, ty.code)])
  | .vpopc d a m ps ty => .wirath (headOf 3 0x5 0x0D 0) (pack [(40, d.toBits), (26, a.toBits), (8, m.toNat), (5, ps.toNat), (0, ty.code)])
  | .vclz d a m ps ty => .wirath (headOf 3 0x5 0x0E 0) (pack [(40, d.toBits), (26, a.toBits), (8, m.toNat), (5, ps.toNat), (0, ty.code)])
  | .vfadd rm d a b m ps ty => .wirath (headOf 3 0x6 0x00 (rm.code)) (pack [(40, d.toBits), (26, a.toBits), (12, b.toBits), (8, m.toNat), (5, ps.toNat), (0, ty.code)])
  | .vfsub rm d a b m ps ty => .wirath (headOf 3 0x6 0x01 (rm.code)) (pack [(40, d.toBits), (26, a.toBits), (12, b.toBits), (8, m.toNat), (5, ps.toNat), (0, ty.code)])
  | .vfmul rm d a b m ps ty => .wirath (headOf 3 0x6 0x02 (rm.code)) (pack [(40, d.toBits), (26, a.toBits), (12, b.toBits), (8, m.toNat), (5, ps.toNat), (0, ty.code)])
  | .vfma rm d a b m ps ty => .wirath (headOf 3 0x6 0x03 (rm.code)) (pack [(40, d.toBits), (26, a.toBits), (12, b.toBits), (8, m.toNat), (5, ps.toNat), (0, ty.code)])
  | .vfms rm d a b m ps ty => .wirath (headOf 3 0x6 0x04 (rm.code)) (pack [(40, d.toBits), (26, a.toBits), (12, b.toBits), (8, m.toNat), (5, ps.toNat), (0, ty.code)])
  | .vfnma rm d a b m ps ty => .wirath (headOf 3 0x6 0x05 (rm.code)) (pack [(40, d.toBits), (26, a.toBits), (12, b.toBits), (8, m.toNat), (5, ps.toNat), (0, ty.code)])
  | .vfdiv rm d a b m ps ty => .wirath (headOf 3 0x6 0x06 (rm.code)) (pack [(40, d.toBits), (26, a.toBits), (12, b.toBits), (8, m.toNat), (5, ps.toNat), (0, ty.code)])
  | .vfrcp rm d a m ps ty => .wirath (headOf 3 0x6 0x07 (rm.code)) (pack [(40, d.toBits), (26, a.toBits), (8, m.toNat), (5, ps.toNat), (0, ty.code)])
  | .vfsqrt rm d a m ps ty => .wirath (headOf 3 0x6 0x08 (rm.code)) (pack [(40, d.toBits), (26, a.toBits), (8, m.toNat), (5, ps.toNat), (0, ty.code)])
  | .vfrsq d a m ps ty => .wirath (headOf 3 0x6 0x09 0) (pack [(40, d.toBits), (26, a.toBits), (8, m.toNat), (5, ps.toNat), (0, ty.code)])
  | .vfexp2 d a m ps ty => .wirath (headOf 3 0x6 0x0A 0) (pack [(40, d.toBits), (26, a.toBits), (8, m.toNat), (5, ps.toNat), (0, ty.code)])
  | .vflog2 d a m ps ty => .wirath (headOf 3 0x6 0x0B 0) (pack [(40, d.toBits), (26, a.toBits), (8, m.toNat), (5, ps.toNat), (0, ty.code)])
  | .vfsin d a m ps ty => .wirath (headOf 3 0x6 0x0C 0) (pack [(40, d.toBits), (26, a.toBits), (8, m.toNat), (5, ps.toNat), (0, ty.code)])
  | .vfcos d a m ps ty => .wirath (headOf 3 0x6 0x0D 0) (pack [(40, d.toBits), (26, a.toBits), (8, m.toNat), (5, ps.toNat), (0, ty.code)])
  | .vftanh d a m ps ty => .wirath (headOf 3 0x6 0x0E 0) (pack [(40, d.toBits), (26, a.toBits), (8, m.toNat), (5, ps.toNat), (0, ty.code)])
  | .vfmin d a b m ps ty => .wirath (headOf 3 0x6 0x0F 0) (pack [(40, d.toBits), (26, a.toBits), (12, b.toBits), (8, m.toNat), (5, ps.toNat), (0, ty.code)])
  | .vfmax d a b m ps ty => .wirath (headOf 3 0x6 0x10 0) (pack [(40, d.toBits), (26, a.toBits), (12, b.toBits), (8, m.toNat), (5, ps.toNat), (0, ty.code)])
  | .vfabs d a m ps ty => .wirath (headOf 3 0x6 0x11 0) (pack [(40, d.toBits), (26, a.toBits), (8, m.toNat), (5, ps.toNat), (0, ty.code)])
  | .vfneg d a m ps ty => .wirath (headOf 3 0x6 0x12 0) (pack [(40, d.toBits), (26, a.toBits), (8, m.toNat), (5, ps.toNat), (0, ty.code)])
  | .vfclass d a m ps ty => .wirath (headOf 3 0x6 0x13 0) (pack [(40, d.toBits), (26, a.toBits), (8, m.toNat), (5, ps.toNat), (0, ty.code)])
  | .vscacc d a b m ps sb => .wirath (headOf 3 0x6 0x14 0) (pack [(40, d.toBits), (26, a.toBits), (12, b.toBits), (8, m.toNat), (5, ps.toNat), (0, sb.toNat)])
  | .vcvt rm d a td m ps ts => .wirath (headOf 3 0x7 0x00 (rm.code)) (pack [(40, d.toBits), (26, a.toBits), (12, td.code), (8, m.toNat), (5, ps.toNat), (0, ts.code)])
  | .vnarrow rm d a td m ps ts => .wirath (headOf 3 0x7 0x01 (rm.code)) (pack [(40, d.toBits), (26, a.toBits), (12, td.code), (8, m.toNat), (5, ps.toNat), (0, ts.code)])
  | .vwiden d a td m ps ts => .wirath (headOf 3 0x7 0x02 0) (pack [(40, d.toBits), (26, a.toBits), (12, td.code), (8, m.toNat), (5, ps.toNat), (0, ts.code)])
  | .vdeq d a b m ps ty => .wirath (headOf 3 0x7 0x03 0) (pack [(40, d.toBits), (26, a.toBits), (12, b.toBits), (8, m.toNat), (5, ps.toNat), (0, ty.code)])
  | .vand d a b m ps ty => .wirath (headOf 3 0x7 0x04 0) (pack [(40, d.toBits), (26, a.toBits), (12, b.toBits), (8, m.toNat), (5, ps.toNat), (0, ty.code)])
  | .vor d a b m ps ty => .wirath (headOf 3 0x7 0x05 0) (pack [(40, d.toBits), (26, a.toBits), (12, b.toBits), (8, m.toNat), (5, ps.toNat), (0, ty.code)])
  | .vxor d a b m ps ty => .wirath (headOf 3 0x7 0x06 0) (pack [(40, d.toBits), (26, a.toBits), (12, b.toBits), (8, m.toNat), (5, ps.toNat), (0, ty.code)])
  | .vandn d a b m ps ty => .wirath (headOf 3 0x7 0x07 0) (pack [(40, d.toBits), (26, a.toBits), (12, b.toBits), (8, m.toNat), (5, ps.toNat), (0, ty.code)])
  | .vshl d a b m ps ty => .wirath (headOf 3 0x7 0x08 0) (pack [(40, d.toBits), (26, a.toBits), (12, b.toBits), (8, m.toNat), (5, ps.toNat), (0, ty.code)])
  | .vshr d a b m ps ty => .wirath (headOf 3 0x7 0x09 0) (pack [(40, d.toBits), (26, a.toBits), (12, b.toBits), (8, m.toNat), (5, ps.toNat), (0, ty.code)])
  | .vsra d a b m ps ty => .wirath (headOf 3 0x7 0x0A 0) (pack [(40, d.toBits), (26, a.toBits), (12, b.toBits), (8, m.toNat), (5, ps.toNat), (0, ty.code)])
  | .vshlw d a s ty => .wirath (headOf 3 0x7 0x0B 0) (pack [(40, d.toBits), (26, a.toBits), (7, s.toNat), (0, ty.code)])
  | .vshrw d a s ty => .wirath (headOf 3 0x7 0x0C 0) (pack [(40, d.toBits), (26, a.toBits), (7, s.toNat), (0, ty.code)])
  | .vfunl d a b s ty => .wirath (headOf 3 0x7 0x0D 0) (pack [(40, d.toBits), (26, a.toBits), (12, b.toBits), (7, s.toNat), (0, ty.code)])
  | .vfunr d a b s ty => .wirath (headOf 3 0x7 0x0E 0) (pack [(40, d.toBits), (26, a.toBits), (12, b.toBits), (7, s.toNat), (0, ty.code)])
  | .vrndb d m ps ty => .wirath (headOf 3 0x7 0x0F 0) (pack [(40, d.toBits), (8, m.toNat), (5, ps.toNat), (0, ty.code)])
  | .vcmp cc d a b m ps ty => .wirath (headOf 3 0x8 0x00 (cc.code)) (pack [(40, d.toNat), (26, a.toBits), (12, b.toBits), (8, m.toNat), (5, ps.toNat), (0, ty.code)])
  | .vfcmp cc d a b m ps ty => .wirath (headOf 3 0x8 0x01 (cc.code)) (pack [(40, d.toNat), (26, a.toBits), (12, b.toBits), (8, m.toNat), (5, ps.toNat), (0, ty.code)])
  | .vsel d a b m ps ty => .wirath (headOf 3 0x8 0x02 0) (pack [(40, d.toBits), (26, a.toBits), (12, b.toBits), (8, m.toNat), (5, ps.toNat), (0, ty.code)])
  | .mand d a b => .wirath (headOf 1 0x8 0x03 0) (pack [(12, d.toNat), (8, a.toNat), (4, b.toNat)])
  | .mor d a b => .wirath (headOf 1 0x8 0x04 0) (pack [(12, d.toNat), (8, a.toNat), (4, b.toNat)])
  | .mxor d a b => .wirath (headOf 1 0x8 0x05 0) (pack [(12, d.toNat), (8, a.toNat), (4, b.toNat)])
  | .mnot d a => .wirath (headOf 1 0x8 0x06 0) (pack [(12, d.toNat), (8, a.toNat)])
  | .mcnt d a => .wirath (headOf 1 0x8 0x07 0) (pack [(11, d.toNat), (7, a.toNat)])
  | .mfirst d a => .wirath (headOf 1 0x8 0x08 0) (pack [(11, d.toNat), (7, a.toNat)])
  | .vpres d a m ps ty => .wirath (headOf 3 0x8 0x09 0) (pack [(40, d.toNat), (26, a.toBits), (8, m.toNat), (5, ps.toNat), (0, ty.code)])
  | .settle x y w => .wirath (headOf 2 0x8 0x0A 0) (pack [(24, x.toBits), (16, y.toBits), (8, w.toBits)])
  | .settleAll => .wirath (headOf 2 0x8 0x0A 1) (pack [])
  | .setvl d a ty => .wirath (headOf 1 0x8 0x0B 0) (pack [(11, d.toNat), (6, a.toNat), (1, ty.code)])
  | .setvt a => .wirath (headOf 1 0x8 0x0C 0) (pack [(11, a.toNat)])
  | .vred op d a b m ps ty => .wirath (headOf 3 0x8 0x0D (op.code + b.varBit)) (pack [(40, d.toBits), (26, a.toBits), (12, b.toBits), (8, m.toNat), (5, ps.toNat), (0, ty.code)])
  | .vfred op d a b m ps ty => .wirath (headOf 3 0x8 0x0E (op.code + b.varBit)) (pack [(40, d.toBits), (26, a.toBits), (12, b.toBits), (8, m.toNat), (5, ps.toNat), (0, ty.code)])
  | .vscan op d a b m ps ty => .wirath (headOf 3 0x8 0x0F (op.code + b.varBit)) (pack [(40, d.toBits), (26, a.toBits), (12, b.toBits), (8, m.toNat), (5, ps.toNat), (0, ty.code)])
  | .vfscan op d a b m ps ty => .wirath (headOf 3 0x8 0x10 (op.code + b.varBit)) (pack [(40, d.toBits), (26, a.toBits), (12, b.toBits), (8, m.toNat), (5, ps.toNat), (0, ty.code)])
  | .vthr d a b m ps ty => .wirath (headOf 3 0x8 0x11 0) (pack [(40, d.toBits), (26, a.toBits), (12, b.toBits), (8, m.toNat), (5, ps.toNat), (0, ty.code)])
  | .vmvs d a ty => .wirath (headOf 2 0x8 0x12 0) (pack [(27, d.toNat), (13, a.toBits), (8, ty.code)])
  | .vsplat d a m ps ty => .wirath (headOf 2 0x8 0x13 0) (pack [(24, d.toBits), (19, a.toNat), (15, m.toNat), (12, ps.toNat), (7, ty.code)])
  | .vslip nm1 => .wirath (headOf 1 0x8 0x14 0) (pack [(10, nm1.toNat)])
  | .mclr d => .wirath (headOf 1 0x8 0x15 0) (pack [(12, d.toNat)])
  | .vld d b disp m ps ty => .wirath (headOf 3 0x9 0x00 0) (pack [(40, d.toBits), (35, b.toNat), (16, disp.toNat), (8, m.toNat), (5, ps.toNat), (0, ty.code)])
  | .vldW d b disp w m ps ty => .wirath (headOf 3 0x9 0x00 1) (pack [(40, d.toBits), (35, b.toNat), (16, disp.toNat), (12, w.toNat), (8, m.toNat), (5, ps.toNat), (0, ty.code)])
  | .vlds d b x disp m ps ty => .wirath (headOf 3 0x9 0x01 0) (pack [(40, d.toBits), (35, b.toNat), (30, x.toNat), (16, disp.toNat), (8, m.toNat), (5, ps.toNat), (0, ty.code)])
  | .vldff d b x disp m ps ty => .wirath (headOf 3 0x9 0x02 0) (pack [(40, d.toBits), (35, b.toNat), (30, x.toNat), (16, disp.toNat), (8, m.toNat), (5, ps.toNat), (0, ty.code)])
  | .vst a b disp m ps ty => .wirath (headOf 3 0x9 0x03 0) (pack [(34, a.toBits), (29, b.toNat), (12, disp.toNat), (8, m.toNat), (5, ps.toNat), (0, ty.code)])
  | .vsts a b x disp m ps ty => .wirath (headOf 3 0x9 0x04 0) (pack [(34, a.toBits), (29, b.toNat), (24, x.toNat), (12, disp.toNat), (8, m.toNat), (5, ps.toNat), (0, ty.code)])
  | .vgath d b idx k m ps ty => .wirath (headOf 3 0x9 0x05 0) (pack [(40, d.toBits), (35, b.toNat), (21, idx.toBits), (12, k.toNat), (8, m.toNat), (5, ps.toNat), (0, ty.code)])
  | .vscat a idx b k m ps ty => .wirath (headOf 3 0x9 0x06 0) (pack [(34, a.toBits), (20, idx.toBits), (15, b.toNat), (13, k.toNat), (8, m.toNat), (5, ps.toNat), (0, ty.code)])
  | .vscadd a idx b k m ps ty => .wirath (headOf 3 0x9 0x07 0) (pack [(34, a.toBits), (20, idx.toBits), (15, b.toNat), (13, k.toNat), (8, m.toNat), (5, ps.toNat), (0, ty.code)])
  | .vtld d a m ps ty => .wirath (headOf 3 0x9 0x08 0) (pack [(40, d.toBits), (26, a.toBits), (8, m.toNat), (5, ps.toNat), (0, ty.code)])
  | .vtst a b m ps ty => .wirath (headOf 3 0x9 0x09 0) (pack [(26, a.toBits), (12, b.toBits), (8, m.toNat), (5, ps.toNat), (0, ty.code)])
  | .vfence => .wirath (headOf 1 0x9 0x0A 0) (pack [])
  | .vfenceArr b sc => .wirath (headOf 1 0x9 0x0A 1) (pack [(11, b.toNat), (8, sc.code)])
  | .vsell d di b md c ty => .wirath (headOf 3 0x9 0x0B 0) (pack [(40, d.toBits), (32, di.toBits), (27, b.toNat), (23, md.toNat), (18, c.toNat), (0, ty.code)])
  | .vslideu d a s m ps ty => .wirath (headOf 3 0xA 0x00 0) (pack [(40, d.toBits), (26, a.toBits), (21, s.toNat), (8, m.toNat), (5, ps.toNat), (0, ty.code)])
  | .vslided d a s m ps ty => .wirath (headOf 3 0xA 0x01 0) (pack [(40, d.toBits), (26, a.toBits), (21, s.toNat), (8, m.toNat), (5, ps.toNat), (0, ty.code)])
  | .vperm d a b m ps ty => .wirath (headOf 3 0xA 0x02 0) (pack [(40, d.toBits), (26, a.toBits), (12, b.toBits), (8, m.toNat), (5, ps.toNat), (0, ty.code)])
  | .vxchg d a j m ps ty => .wirath (headOf 3 0xA 0x03 0) (pack [(40, d.toBits), (26, a.toBits), (12, j.toNat), (8, m.toNat), (5, ps.toNat), (0, ty.code)])
  | .vcomp d a s m ps ty => .wirath (headOf 3 0xA 0x04 0) (pack [(40, d.toBits), (26, a.toBits), (21, s.toNat), (8, m.toNat), (5, ps.toNat), (0, ty.code)])
  | .vexp d a m ps ty => .wirath (headOf 3 0xA 0x05 0) (pack [(40, d.toBits), (26, a.toBits), (8, m.toNat), (5, ps.toNat), (0, ty.code)])
  | .vfib sr sl a c md ty => .wirath (headOf 3 0xA 0x06 0) (pack [(43, sr.toNat), (38, sl.toNat), (24, a.toBits), (19, c.toNat), (15, md.toNat), (0, ty.code)])
  | .mzero f l => .wirath (headOf 1 0xB 0x00 0) (pack [(11, f.toNat), (6, l.toNat)])
  | .mma t a b ty ld ta tb => .wirath (headOf 3 0xB 0x01 0) (pack [(43, t.toNat), (38, a.toNat), (33, b.toNat), (28, ty.code), (23, ld.toNat), (22, ta.toNat), (21, tb.toNat)])
  | .mmaq t a b z ta tb g => .wirath (headOf 3 0xB 0x02 0) (pack [(43, t.toNat), (38, a.toNat), (33, b.toNat), (28, z.toNat), (23, ta.code), (18, tb.code), (16, g.code)])
  | .mmas t a b md ty => .wirath (headOf 3 0xB 0x03 0) (pack [(43, t.toNat), (38, a.toNat), (33, b.toNat), (28, md.toNat), (23, ty.code)])
  | .mmac rm t src b ty => .wirath (headOf 3 0xB 0x04 (rm.code)) (pack [(43, t.toNat), (38, src.toNat), (33, b.toNat), (28, ty.code)])
  | .mscale t src a b => .wirath (headOf 3 0xB 0x05 0) (pack [(43, t.toNat), (38, src.toNat), (33, a.toNat), (28, b.toNat)])
  | .mld t b disp => .wirath (headOf 2 0xB 0x06 0) (pack [(27, t.toNat), (22, b.toNat), (0, disp.toNat)])
  | .mst t b disp => .wirath (headOf 2 0xB 0x07 0) (pack [(27, t.toNat), (22, b.toNat), (0, disp.toNat)])
  | .mdrain rm t tgt ty => .wirath (headOf 3 0xB 0x08 (rm.code)) (pack [(43, t.toNat), (23, tgt.toBits), (18, ty.code)])
  | .pdrain f l set o p rb vd oty => .wirath (headOf 3 0xC 0x00 0) (pack [(43, f.toNat), (38, l.toNat), (35, set.code), (30, o.toNat), (25, p.toNat), (20, rb.toNat), (12, vd.toBits), (10, oty.code)])
  | .padj rb g o ln oty => .wirath (headOf 2 0xC 0x01 0) (pack [(27, rb.toNat), (22, g.toNat), (17, o.toNat), (12, ln.toNat), (10, oty.code)])
  | .pstat f l set p o => .wirath (headOf 2 0xC 0x02 0) (pack [(27, f.toNat), (22, l.toNat), (19, set.code), (14, p.toNat), (9, o.toNat)])
  | .pfix f l set th o oty => .wirath (headOf 2 0xC 0x03 0) (pack [(27, f.toNat), (22, l.toNat), (19, set.code), (14, th.toNat), (9, o.toNat), (7, oty.code)])
  | .prld b nm1 => .wirath (headOf 1 0xC 0x04 0) (pack [(11, b.toNat), (5, nm1.toNat)])
  | .prst b nm1 => .wirath (headOf 1 0xC 0x05 0) (pack [(11, b.toNat), (5, nm1.toNat)])
  | .cbind p d => .wirath (headOf 1 0xD 0x00 0) (pack [(12, p.toNat), (7, d.toNat)])
  | .cgo p tag rg => .wirath (headOf 2 0xD 0x01 0) (pack [(28, p.toNat), (15, tag.toNat), (10, rg.toNat)])
  | .cgoMx p tag rg => .wirath (headOf 2 0xD 0x01 1) (pack [(28, p.toNat), (15, tag.toNat), (10, rg.toNat)])
  | .cgoAuto d tag rg => .wirath (headOf 2 0xD 0x01 2) (pack [(23, d.toNat), (15, tag.toNat), (10, rg.toNat)])
  | .cgoAutoMx d tag rg => .wirath (headOf 2 0xD 0x01 3) (pack [(23, d.toNat), (15, tag.toNat), (10, rg.toNat)])
  | .cvld vd md d x tag ty => .wirath (headOf 3 0xD 0x02 0) (pack [(40, vd.toBits), (36, md.toNat), (31, d.toNat), (26, x.toNat), (18, tag.toNat), (0, ty.code)])
  | .rinit rg b z n => .wirath (headOf 2 0xD 0x03 0) (pack [(27, rg.toNat), (22, b.toNat), (17, z.toNat), (12, n.toNat)])
  | .await rg n => .wirath (headOf 1 0xD 0x04 0) (pack [(11, rg.toNat), (6, n.toNat)])
  | .rels rg => .wirath (headOf 1 0xD 0x05 0) (pack [(11, rg.toNat)])
  | .ccancel p => .wirath (headOf 1 0xD 0x06 0) (pack [(12, p.toNat)])
  | .nlookup d o tag => .wirath (headOf 2 0xE 0x00 0) (pack [(27, d.toNat), (22, o.toNat), (14, tag.toNat)])
  | .nadd op a src tag => .wirath (headOf 3 0xE 0x01 (op.code)) (pack [(43, a.toNat), (29, src.toBits), (21, tag.toNat), (0, 8)])
  | .naddr op d a src tag => .wirath (headOf 3 0xE 0x02 (op.code)) (pack [(40, d.toBits), (35, a.toNat), (21, src.toBits), (13, tag.toNat), (0, 8)])
  | .nfence sc => .wirath (headOf 1 0xE 0x03 0) (pack [(13, sc.code)])
  | .nfenceTag sc tag => .wirath (headOf 1 0xE 0x03 0) (pack [(13, sc.code), (5, tag.toNat), (4, 1)])
  | .fput r l n tag => .wirath (headOf 3 0xE 0x04 0) (pack [(43, r.toNat), (38, l.toNat), (33, n.toNat), (25, tag.toNat)])
  | .fget r l n tag => .wirath (headOf 3 0xE 0x05 0) (pack [(43, r.toNat), (38, l.toNat), (33, n.toNat), (25, tag.toNat)])
  | .fsig r count => .wirath (headOf 2 0xE 0x06 0) (pack [(27, r.toNat), (0, count.toNat)])
  | .collAllreduce g s d tag ty => .wirath (headOf 2 0xE 0x07 0) (pack [(27, g.toNat), (22, s.toNat), (17, d.toNat), (9, tag.toNat), (4, ty.code)])
  | .collRedscat g s d tag ty => .wirath (headOf 2 0xE 0x07 1) (pack [(27, g.toNat), (22, s.toNat), (17, d.toNat), (9, tag.toNat), (4, ty.code)])
  | .collAllgather g s d tag ty => .wirath (headOf 2 0xE 0x07 2) (pack [(27, g.toNat), (22, s.toNat), (17, d.toNat), (9, tag.toNat), (4, ty.code)])
  | .collBcast g s d tag ty => .wirath (headOf 2 0xE 0x07 3) (pack [(27, g.toNat), (22, s.toNat), (17, d.toNat), (9, tag.toNat), (4, ty.code)])
  | .ffence => .wirath (headOf 0 0xE 0x08 0) (pack [])
  | .fstat d i => .wirath (headOf 1 0xE 0x09 0) (pack [(11, d.toNat), (6, i.toNat)])
  | .movb d imm => .beret (pack [(27, 0x00), (23, d.toNat), (0, imm.toNat)])
  | .addb d a b => .beret (pack [(27, 0x01), (23, d.toNat), (19, a.toNat), (15, b.toNat)])
  | .addib d a imm => .beret (pack [(27, 0x02), (23, d.toNat), (19, a.toNat), (0, imm.toNat)])
  | .andb d a b => .beret (pack [(27, 0x03), (23, d.toNat), (19, a.toNat), (15, b.toNat)])
  | .orb d a b => .beret (pack [(27, 0x04), (23, d.toNat), (19, a.toNat), (15, b.toNat)])
  | .shlib d a imm => .beret (pack [(27, 0x05), (23, d.toNat), (19, a.toNat), (0, imm.toNat)])
  | .shrib d a imm => .beret (pack [(27, 0x06), (23, d.toNat), (19, a.toNat), (0, imm.toNat)])
  | .bfxb d a lo wm1 => .beret (pack [(27, 0x07), (23, d.toNat), (19, a.toNat), (6, lo.toNat), (0, wm1.toNat)])
  | .ldpb d imm => .beret (pack [(27, 0x08), (23, d.toNat), (0, imm.toNat)])
  | .ldqb d imm => .beret (pack [(27, 0x09), (23, d.toNat), (0, imm.toNat)])
  | .stqb a => .beret (pack [(27, 0x0A), (19, a.toNat), (0, 56)])
  | .srdb d imm => .beret (pack [(27, 0x0B), (23, d.toNat), (0, imm.toNat)])
  | .sdecb a imm => .beret (pack [(27, 0x0C), (19, a.toNat), (0, imm.toNat)])
  | .ssetb a imm => .beret (pack [(27, 0x0D), (19, a.toNat), (0, imm.toNat)])
  | .waitb d a => .beret (pack [(27, 0x0E), (23, d.toNat), (19, a.toNat)])
  | .placeb res => .beret (pack [(27, 0x0F), (0, res.toNat)])
  | .imgb => .beret (pack [(27, 0x10)])
  | .copyb => .beret (pack [(27, 0x11)])
  | .beqb a b imm => .beret (pack [(27, 0x12), (19, a.toNat), (15, b.toNat), (0, imm.toNat)])
  | .bneb a b imm => .beret (pack [(27, 0x13), (19, a.toNat), (15, b.toNat), (0, imm.toNat)])
  | .bltb a b imm => .beret (pack [(27, 0x14), (19, a.toNat), (15, b.toNat), (0, imm.toNat)])
  | .loopb len count => .beret (pack [(27, 0x15), (8, len.toNat), (0, count.toNat)])
  | .fwdb a => .beret (pack [(27, 0x16), (19, a.toNat)])
  | .doneb a => .beret (pack [(27, 0x17), (19, a.toNat)])
  | .beretStepLimit _ => .event
  | .inlinePacket _ _ => .event
  | .tail _ _ => .event
  | .enable _ => .event
  | .disable _ => .event
  | .resume _ => .event
  | .swap _ _ => .event
  | .malformedWindowWrite _ => .event
  | .packetFetch _ => .event
  | .packetRefetch _ => .event
  | .launch _ => .event
  | .image _ => .event
  | .barrier _ => .event
  | .signal _ => .event
  | .copy _ => .event
  | .nopPacket _ => .event
  | .frame _ => .event
  | .barrierEvaluation _ => .event
  | .placementResume _ => .event
  | .readyQueueArbitration _ => .event
  | .preemptionRequest _ => .event
  | .taskSave _ => .event
  | .contextSpill _ => .event
  | .budgetPeriod _ _ _ => .event
  | .queueMigration _ _ => .event
  | .signalPoll _ => .event
  | .sigwaitWake _ => .event
  | .latchGrant _ => .event
  | .watermarkRecheck _ => .event
  | .invalidationRequest _ => .event
  | .invalidationAck _ => .event
  | .lineRefetch _ => .event
  | .endCompletion _ => .event
  | .vectorIssue _ _ _ => .event
  | .vectorLoadCompletion _ _ => .event
  | .mittFill _ _ => .event
  | .streamStart _ => .event
  | .streamCompletion _ => .event
  | .streamError _ => .event
  | .matrixIssue _ => .event
  | .matrixCompletion _ _ => .event
  | .nmePerformed _ => .event
  | .inboundRead _ _ _ => .event
  | .inboundWrite _ _ _ _ => .event
  | .inboundAtomic _ _ _ _ _ => .event
  | .inboundSignalDecrement _ _ _ => .event
  | .fabricAcceptance _ _ _ => .event
  | .linkReplay _ => .event
  | .linkAckTimeout _ => .event
  | .collChunk _ _ _ _ _ => .event
  | .frameIngress _ _ _ => .event
  | .ppsEdge _ => .event
  | .tctl _ _ => .event
  | .correctedError _ _ _ => .event
  | .uncorrectableError _ => .event
  | .rowSpareSwitch _ => .event
  | .spareAbort _ => .event
  | .spare _ => .event
  | .glink _ => .event
  | .retrainDone _ _ => .event
  | .partitionSwap _ => .event
  | .fwcmd _ => .event
  | .dead _ _ => .event
  | .attest _ _ => .event
  | .attestReportDone => .event
  | .pwrcap _ => .event
  | .configWrite _ _ => .event
  | .clockThrottle _ => .event
  | .criticalTemperature => .event
  | .clusterGate _ => .event
  | .clusterWake _ => .event
  | .clusterWakeDone _ => .event
  | .boot _ _ => .event
  | .coldReset => .event
  | .bootFromB _ => .event
  | .managementRead _ _ => .event
  | .resumeCore _ => .event
  | .vectorStoreCompletion _ _ => .event
  | .scalarDataReturn _ _ => .event
  | .fabricLinkTrained _ _ => .event
  | .nodeIdAssignment _ => .event
  | .virtualChannelPause _ _ _ => .event
  | .firmwareReplacementDone _ _ => .event

/-- Byte `j` of a line. -/
def lineByte (line j : Nat) : Nat := line / 256 ^ j % 256

/-- The line descriptor, bytes 0 and 1 (R26). -/
def lineDesc (line : Nat) : Nat := bits line 0 16

/-- The head count n of a line (R26). -/
def lineN (line : Nat) : Nat := bits line 11 5

/-- Head `i` of a line, bytes 2i and 2i+1 (R26). -/
def lineHead (line i : Nat) : Nat := bits line (16 * i) 16

/-- The tail length of head `i` in bytes (R27). -/
def tailLen (line i : Nat) : Nat := 2 * bits (lineHead line i) 14 2

/-- The sum of the tail lengths of heads 1 to `i` (R28). -/
def tailSum (line : Nat) : Nat → Nat
  | 0 => 0
  | i + 1 => tailSum line i + tailLen line (i + 1)

/-- The tail of head `i`: it ends at byte 63 less the tails of the heads before it (R28). -/
def lineTail (line i : Nat) : Nat := bits line (8 * (64 - tailSum line i)) (8 * tailLen line i)

/-- One bit step of the CRC-8 with polynomial 0x07, most significant bit first (R29). -/
def crcBit (c : Nat) : Nat := if 128 ≤ c then Nat.xor (2 * c % 256) 7 else 2 * c % 256

def crcByte (c b : Nat) : Nat :=
  crcBit (crcBit (crcBit (crcBit (crcBit (crcBit (crcBit (crcBit (Nat.xor c b))))))))

/-- The CRC-8 of `k` bytes from byte `j` up. -/
def crcFrom (line : Nat) : Nat → Nat → Nat → Nat
  | 0, _, c => c
  | k + 1, j, c => crcFrom line k (j + 1) (crcByte c (lineByte line j))

/-- The check byte of a line: the CRC-8 of bytes 2 to 63 (R29). -/
def lineCrc (line : Nat) : Nat := crcFrom line 62 2 0

/-- The check byte matches (R29). -/
def lineIntact (line : Nat) : Bool := lineCrc line == bits line 0 8

/-- Every descriptor, fit and padding check of R28. -/
def lineFormOk (line : Nat) : Bool :=
  let n := lineN line
  let top := 64 - tailSum line n
  n ≠ 0 && n ≠ 31 && bits line 8 3 == 0 && tailSum line n ≤ 64 && 2 * (n + 1) ≤ top &&
    bits line (16 * (n + 1)) (8 * (top - 2 * (n + 1))) == 0

/-- The instruction at slot `i` of a line (R30, R34). -/
def decodeSlot (line i : Nat) : Except Reject Instr := decodeHT (lineHead line i) (lineTail line i)

/-- The head and the tail of a Wirath word as the table numbers it: the head above the tail. -/
def splitWord (nbits w : Nat) : Nat × Nat := (w / 2 ^ (nbits - 16), w % 2 ^ (nbits - 16))

/-- A table word as a core reads it: a head and its tail, of the length the head gives. -/
def tableWirath (nbits w : Nat) : Option Instr :=
  let (h, t) := splitWord nbits w
  match decodeHT h t with
  | .ok i => if 2 ^ 16 ≤ h ∨ nbits ≠ 16 + 16 * bits h 14 2 then none else some i
  | .error _ => none

/-- The instruction of a table word. A word of 16, 48 or 64 bits is a head and its tail. A word of 32 bits is a head of
`tlen` 01 and its 16-bit tail where that is an instruction, and a Beret word otherwise: the two instruction sets share
32-bit numbers, and a core and an interpreter never read each other's code. -/
def decodeTableWord (nbits w : Nat) : Option Instr :=
  match tableWirath nbits w with
  | some i => some i
  | none =>
    if nbits = 32 then
      match decodeBeret w with
      | .ok i => some i
      | .error _ => none
    else none

end Sys2Proof
end

