-- ==== Sys2Proof/Machine/State.lean ====
section
/-! DEFINITION. The state of the DM-1536 as plain data, everything the manual gives the machine, the reasons a step can stop,
and the state after reset. INVENTORY.md lists every piece with the rule that names it. -/

namespace Sys2Proof.Machine

/-- Why a step has no next state: the machine is at an end that the manual gives no continuation for. -/
inductive Fault where
  /-- Raised by LAUNCH, IMAGE, FRAME, PLACEB and IMGB where the RCB names a ready-queue object outside HBM, which R126 says there is
  not. Safe: the run stops where the manual gives no continuation. -/
  | noSuchAddress (pa : Nat)
  deriving DecidableEq, Repr

/-- Why an instruction is refused. -/
inductive Refusal where
  /-- Raised by an arm of `exec` whose instruction has no meaning yet. Safe: the machine stops. -/
  | notModelled (mnemonic : String)
  deriving DecidableEq, Repr

/-! ## What waits and what it waits for -/

/-- The effective fields of an RCB, as resolved when a task is placed (R120 to R122). -/
structure Region where
  rcb : Nat := 0
  prio : Nat := 0
  recheck : Nat := 0        -- 0 always, 1 sampled, 2 off
  sample : Nat := 0         -- N − 1
  tagbase : Nat := 0
  domain : Nat := 0
  weight : Nat := 1
  root : Nat := 0           -- frame of the level-4 table
  asn : Nat := 0
  trap : Word := 0
  rtable : Nat := 0
  readyq : Nat := 0
  rqsize : Nat := 0
  frames : Nat := 0
  fvirt : Nat := 0
  spstart : Nat := 0
  spsize : Nat := 0
  tsstart : Nat := 0
  tssize : Nat := 0
  clusters : Nat := 0
  part : Nat := 0           -- the RCB of the partition this one lies in, 0 for none
  budgetRcb : Nat := 0      -- the RCB whose budget words are drawn on (R121 bit 11)
  deriving DecidableEq, Repr

/-- One loop-stack entry (R135, R148). `count` is the count it was pushed with, which is remaining + index; `outer` is the
slip in force before the push (R158). -/
structure LoopEntry where
  start : Word
  stop : Word
  remaining : Word
  index : Word
  loopr : Bool
  slip : Nat
  step : Nat
  rot : Nat
  outer : Nat
  deriving DecidableEq, Repr

/-- A watermark register's binding (R85): object, base and element size. -/
structure WReg where
  obj : Nat
  base : Nat
  esize : Nat
  deriving DecidableEq, Repr

/-- A latch held by the task (R150): virtual and physical address. -/
structure HeldLatch where
  va : Word
  pa : Nat
  deriving DecidableEq, Repr

/-- A scalar access whose answer is still to come (R156, R168): the register it writes, how the bytes are extended, and its
program-order number. `here` is the physical address of a load from the device's own memory, which is read when the answer comes, `old` what
stood there as it issued; without it the answer comes from host or peer memory. A `posted` access, a store, holds no later `.s` access back; `wr` is what it writes, by
virtual range (R72, R75, R78). -/
structure ReturnSlot where
  d : SReg
  ty : ETy
  num : Nat
  here : Option Nat := none
  posted : Bool := false
  wr : List (Nat × Nat) := []
  pc : Word := 0                -- its head, and its virtual address
  va : Word := 0
  via : Option (Nat × Nat) := none   -- the fabric port it uses, and the virtual channel (R308, R316)
  pinned : Bool := false        -- an acknowledgement of a TLBINV waits for it (R105)
  old : Nat := 0
  deriving DecidableEq, Repr

/-- The access of the head at the PC, sent over the link of a capacity-tier chip and not performed yet: its translation, and whether the
link has failed since (R331). -/
structure Flight where
  pa : Nat
  hs : Bool := false
  ni : Bool := false
  lost : Bool := false
  deriving DecidableEq, Repr

/-- What a core is doing (R160, R344). -/
inductive Mode where
  | idle
  | running
  | held (block : Nat)   -- held for the RESIDENT gang of a launch block (R344)
  | halted               -- debug halted (R160)
  | ending (fault : Bool) -- END has been run, or the task ends with FAULT, and its drains go on (R150, R154)
  deriving DecidableEq, Repr

/-- An order point of XFENCE (R170): accesses on one path numbered below `num` before those on the other numbered above. -/
structure OrderPoint where
  a : Path
  b : Path
  num : Nat
  deriving DecidableEq, Repr

/-- Sequencer and scalar state of a core (R135 to R144). -/
structure Seq where
  pc : Word := 0
  regs : Vector Word 32 := Vector.replicate 32 0
  loops : List LoopEntry := []
  prv : Bool := false
  pprv : Bool := false
  inh : Bool := false
  cmt : Bool := false
  img : Bool := false
  res : Bool := false
  epc : Word := 0
  cause : Word := 0
  tval : Word := 0
  rcbx : BitVec 16 := 0
  tid : BitVec 31 := 0
  w : Vector (Option WReg) 8 := Vector.replicate 8 none
  latches : List HeldLatch := []
  frameLo : Word := 0
  frameLen : Nat := 0
  launch : Nat := 0            -- the launch block of the task, 0 for none
  index : Nat := 0             -- its index in the gang
  record : Nat := 0            -- the spawned record it was started from, 0 for a gang task
  argPtr : Word := 0
  image : Nat := 0             -- the context image an IMAGE task started from, 0 for none
  eff : Region := {}           -- the region values resolved when the task started (R122)
  icache : List (Nat × Nat × Nat) := []   -- address space, line address, line (R33)
  dcache : List (Nat × Nat) := []         -- physical line address, 64 bytes (R73)
  line : Option (Word × Nat) := none      -- the line control is in, as checked at entry (R35)
  vectoring : Bool := false               -- control has yet to enter the line of the trap vector (R153)
  starting : Bool := false                -- control has yet to enter the line of the task's code pointer (R140)
  refetch : Option Word := none           -- a line whose check byte did not match, to be fetched once more (R35)
  busy : List SReg := []                  -- registers an instruction has yet to write (R8)
  returns : List ReturnSlot := []
  flight : Option Flight := none          -- the head at the PC has sent its access over a chip's link (R331)
  preempt : Bool := false                 -- the arbiter has asked for pre-emption (R144)
  yielding : Bool := false                -- the request came from the task's own YIELD (R173)
  atPoint : Bool := false                 -- the last step ended at a pre-emption point (R144)
  ended : Bool := false                   -- the task has run END (R149)
  mode : Mode := .idle
  stall : Bool := false                   -- MODEL: an instruction waits; engines move next
  polls : Bool := false                   -- blocked in SIGWAIT on a signal whose waiter list overflowed (R116)
  deriving DecidableEq, Repr

/-! ## Vector engine -/

/-- What a vector instruction captured at dispatch (R204): its place, the vector system registers, rotation base, stage
predicate and scalar operands. -/
structure VEnv where
  seqn : Nat := 0
  num : Nat := 0
  pc : Word := 0
  head : Nat := 0
  vl : Nat := 0
  vtype : Nat := 0
  vseed : Word := 0
  vbase : Word := 0
  vfill : Word := 0
  rot : Nat := 0
  ps : Bool := true
  slip : Nat := 64
  x : Word := 0
  y : Word := 0
  tag : Nat := 0
  deriving DecidableEq, Repr

/-- A part of an operand that a pending hole will supply: bits lo to lo + w − 1 are bits off to off + w − 1 of entry
`id`'s value. -/
structure Patch where
  id : Nat
  lo : Nat
  off : Nat
  w : Nat
  deriving DecidableEq, Repr

/-- An operand as captured: its bits, and the parts still to come (R186). -/
structure HOp where
  val : Nat
  parts : List Patch := []
  deriving DecidableEq, Repr

/-- An entry of VLQ, VXQ or VSQ. `replay` says that its first run failed the recheck (R197); `pub` is the watermark a
`vld.w` last read (R86); `pa` is the signal of a `vfence.arr` (R239), and `stale` says that its translation has been dropped (R105); `rest` holds the elements, with their operands as captured at
issue, that wait behind a full hole queue or for parents (R186, R192). -/
structure VEntry where
  instr : Instr
  env : VEnv
  replay : Bool := false
  pub : Nat := 0
  pa : Nat := 0
  rest : Option (List (Nat × List HOp)) := none
  stale : Bool := false
  deriving DecidableEq, Repr

/-- The fault mark of a fault hole (R194): its flag bit, whether inherited, the value and the flags its mitt computed. -/
structure HFault where
  bit : Nat
  dep : Bool
  val : Nat
  flags : BitVec 8
  deriving DecidableEq, Repr

/-- A hole entry (R186). Registers are numbered v0-v63 (slots), o0-o7 from 64, l0-l3 from 72. `live` is whether the
destination element's generation is still the recorded one (R188); `lpos` are the places in the last-result file the
element stands at (R181). -/
structure Hole where
  id : Nat
  env : VEnv
  instr : Instr
  elem : Nat
  ops : List HOp
  dest : Option Nat
  w : Nat
  live : Bool
  lpos : List Nat
  replay : Bool := false
  fault : Option HFault := none
  gone : Bool := false            -- discarded unfilled as its task ends with FAULT: it takes no entry of the hole queue (R154)
  deriving DecidableEq, Repr

/-- What a deferred store does with the values that come (R190, R237, R238). -/
inductive DeferKind where
  | put
  | add (ty : ETy)
  | table (lane : Nat)
  deriving DecidableEq, Repr

/-- A deferred write of a vector store (R190): its address, bytes, the captured values in ascending element order; for a
`.q4` pair `half` says which nibbles come. -/
structure Defer where
  env : VEnv
  instr : Instr
  addr : Nat
  n : Nat
  vals : List HOp
  kind : DeferKind
  elem : Nat
  ordered : Bool := false       -- on an HS or NI page: later elements wait (R90, R102)
  caps : List Nat := []         -- registers of the holes it captured (R193)
  va : Nat := 0
  stale : Bool := false         -- its translation has been dropped: it translates again (R105)
  psn : Bool := false           -- it writes poisoned data (R326)
  hs : Bool := false            -- on an HS page (R90)
  deriving DecidableEq, Repr

/-- A vector load on its way: for each active element its address (physical), in ascending order (R11). -/
structure VLoad where
  env : VEnv
  instr : Instr
  dests : List Nat                 -- destination registers, none of which may be touched before the data lands
  cells : List (Nat × Nat)         -- element, physical address
  limit : Nat                      -- elements performed (VLDFF), else VL
  hs : Bool := false               -- an element lies on an HS page (R90)
  vas : List Nat := []             -- the virtual addresses of the cells
  stale : Bool := false            -- its translations have been dropped: it translates again (R105)
  md : Option (MReg × Nat) := none -- VSELL: its mask, and the column count of the header where the column is past it (R240)
  deriving DecidableEq, Repr

/-- One write of a vector store on its way. -/
structure VWrite where
  addr : Nat
  n : Nat
  vals : List HOp
  kind : DeferKind
  elem : Nat
  hs : Bool := false
  ordered : Bool := false
  caps : List Nat := []
  va : Nat := 0
  psn : Bool := false
  deriving DecidableEq, Repr

/-- A vector store issued and not yet at its point of visibility (R11). -/
structure VStore where
  env : VEnv
  instr : Instr
  writes : List VWrite
  arr : Option Nat := none         -- the signal a `vfence.arr` decrements
  stale : Bool := false
  deriving DecidableEq, Repr

/-- A record of a memory frame in the making (R199, R202). -/
structure FrameRec where
  vaddr : Nat
  elem : Nat                       -- absolute element index
  head : Nat
  seqn : Nat
  cause : Nat
  bits : Nat                       -- MORE, WR, DEP
  dest : Nat
  pc : Word
  deriving DecidableEq, Repr

/-- Why no later vector instruction is dispatched (R235, R243, R261). -/
structure Block where
  seqn : Nat
  regs : List SReg
  deriving DecidableEq, Repr

/-- Vector state of a core. -/
structure Vec where
  v : Vector (BitVec 8192) 64 := Vector.replicate 64 0
  o : Vector (BitVec 8192) 8 := Vector.replicate 8 0
  l : Vector (BitVec 8192) 4 := Vector.replicate 4 0
  pv : Vector (BitVec 1024) 64 := Vector.replicate 64 (BitVec.allOnes 1024)
  po : Vector (BitVec 1024) 8 := Vector.replicate 8 (BitVec.allOnes 1024)
  pl : Vector (BitVec 1024) 4 := Vector.replicate 4 (BitVec.allOnes 1024)
  m : Vector (BitVec 1024) 16 := Vector.ofFn fun i => if i.val = 0 then BitVec.allOnes 1024 else 0
  table : Vector (BitVec 16384) 64 := Vector.replicate 64 0
  vl : Word := 0
  vtype : BitVec 8 := 0
  vfill : Word := 0
  vseed : Word := 0
  vbase : Word := 0
  vstat : BitVec 8 := 0
  vidx : Vector Word 8 := Vector.replicate 8 (BitVec.allOnes 64)
  vdrop : BitVec 32 := 0
  vdropn : Word := 0
  slip : Nat := 64
  seqn : Nat := 0
  num : Nat := 0
  vlq : List VEntry := []
  vxq : List VEntry := []
  vsq : List VEntry := []
  loads : List VLoad := []
  stores : List VStore := []
  holes : List Hole := []
  holeId : Nat := 0
  defer : List Defer := []
  block : Option Block := none
  points : List OrderPoint := []
  faults : List FrameRec := []     -- a vector memory instruction has faulted: the queues are stopped until the frame is written (R199)
  deriving DecidableEq, Repr
/-! ## Matrix engine, copy engine, near memory, fabric -/

/-- A command of the matrix queue or on a unit (R269): the instruction, what it captured at dispatch (operand registers in
`x`, numbered as its meaning says), its unit, whether it is a follow-on, and the stream such a one waits for (R258). -/
structure MEntry where
  id : Nat
  instr : Instr
  env : VEnv
  x : List Word
  unit : MUnit
  issued : Bool := false
  stream : Option Nat := none
  follow : Bool := false
  deriving DecidableEq, Repr

/-- Matrix state of a core (R266, R269). -/
structure Mat where
  a : Vector (BitVec 131072) 24 := Vector.replicate 24 0
  queue : List MEntry := []
  nextId : Nat := 0
  deriving DecidableEq, Repr

/-- A binding of the port table (R256): descriptor address and dst. -/
structure PortBind where
  core : Nat
  tid : BitVec 31
  port : Nat
  desc : Word
  dst : Word
  deriving DecidableEq, Repr

/-- A registered ring (R253, R259): the live pointers the dispatcher holds and the next slot number to reserve. -/
structure Ring where
  core : Nat
  tid : BitVec 31
  obj : Word
  base : Word
  ssize : Nat
  scount : Nat
  wptr : BitVec 32
  rptr : BitVec 32
  resv : BitVec 32
  done : List (BitVec 32)          -- slots whose streams completed ahead of wptr (R254)
  deriving DecidableEq, Repr

/-- A vector delivery (R261): the register slot, the mask, the type and the lengths. -/
structure Delivery where
  reg : Nat
  m : MReg
  ty : ETy
  vl : Nat
  bad : List Nat := []            -- elements that came poisoned (R326)
  deriving DecidableEq, Repr

/-- A copy stream, queued or running (R249, R257). `launch` is the launch block of a COPY packet's stream, 0 for a core's
(R265). -/
structure Stream where
  id : Nat
  core : Nat
  tid : BitVec 31
  port : Nat
  desc : Word
  tag : Nat
  num : Nat
  ring : Option (Word × BitVec 32)
  deliver : Option Delivery := none
  follow : Bool := false
  running : Bool := false
  image : List Byte := []         -- the descriptor as the dispatcher read it at the start (R252)
  landed : Nat := 0               -- elements enumerated and landed, in transfer order
  sent : Bool := false            -- every element has been moved, and writes to host or peer memory wait for their acceptance (R249)
  ports : List Nat := []          -- the fabric ports of those writes
  -- the stream moves no more: its cause, 0 where it is cancelled, and its address, 1 where CCANCEL waits for it. It ends once the bytes it
  -- has sent are accepted (R262, R263)
  ends : Option (Nat × Word) := none
  lost : Bool := false            -- a port failed under bytes that it had sent (R316)
  launch : Nat := 0
  eff : Region := {}
  deriving DecidableEq, Repr

/-- An error recorded by the dispatcher and not delivered yet (R263). -/
structure CopyError where
  core : Nat
  tid : BitVec 31
  cause : Nat
  tval : Word
  deriving DecidableEq, Repr

structure Copy where
  binds : List PortBind := []
  rings : List Ring := []
  streams : List Stream := []
  errors : List CopyError := []
  nextId : Nat := 0
  deriving DecidableEq, Repr

/-- A near-memory command dispatched and not performed (R298): its rows' physical addresses, and what it captured. `data` is none until the
command has been sent. -/
structure NearCmd where
  id : Nat
  core : Nat
  tid : BitVec 31
  instr : Instr
  env : VEnv
  rows : List Nat
  wts : List Nat                -- FP32 weights of the rows (R300)
  wr : List (Nat × Nat) := []   -- virtual ranges it writes (R78)
  w : Nat                       -- row width in elements
  isMax : Bool
  out : List Nat                -- physical addresses of the output words (NLOOKUP)
  launch : Nat
  eff : Region := {}            -- the region values of its task (R122)
  data : Option (List (Nat × Bool)) := none   -- once sent: the source elements of an update, as the port read them, with their poison
  vrows : List Nat := []        -- virtual addresses of the rows and the output words
  vout : List Nat := []
  stale : Bool := false         -- its translations have been dropped before it was sent (R105)
  deriving DecidableEq, Repr

/-- What a collective has still to send (R319): its check to a neighbour, a chunk that this member starts, or one that it passes to a rank. -/
inductive CollMsg where
  | check (rank : Nat)
  | start (k : Nat)
  | pass (rank k : Nat) (bs : List Byte) (psn : Bool) (fl : BitVec 8)
  deriving DecidableEq, Repr

/-- A fabric operation outstanding (R311): its ranges already translated, as pieces of physical address and length. `ports` are the
ports its requests use (R309). For a COLL, `group` is its descriptor, `gpa` where it stands, `src` its source, `pm` its poison
bitmap, `checks` the neighbours whose check has come (R319), `todo` what it has still to send, `joined` the chunks this member has joined,
`done` and `psn` the result chunks written and those of them that are poisoned. -/
structure FabOp where
  id : Nat
  core : Nat
  tid : BitVec 31
  instr : Instr
  num : Nat
  tag : Nat
  wr : List (Nat × Nat) := []   -- virtual ranges it writes (R78)
  remote : List (Nat × Nat) := []
  locals : List (Nat × Nat) := []
  n : Nat
  ports : List Nat := []
  group : List Byte := []
  gpa : Nat := 0
  src : List (Nat × Nat) := []
  pm : List (Nat × Nat) := []
  checks : List Nat := []
  todo : List CollMsg := []
  joined : List Nat := []
  psn : List Nat := []
  done : List Nat := []
  flags : BitVec 8 := 0
  launch : Nat := 0
  eff : Region := {}            -- the region values of its task (R122)
  vr : Nat := 0                 -- virtual addresses of the remote and the local range
  vl : Nat := 0
  stale : Bool := false         -- its translations have been dropped before it was sent (R105)
  lost : Bool := false          -- it has been lost with its port, which what that writes has still to show (R123, R316)
  deriving DecidableEq, Repr

/-- What an atomic request asks its home to do (R74, R79, R166, R167). -/
inductive AtomicOp where
  | amo (op : AmoOp) (v : Nat)
  | cas (e new : Nat)
  | acquire (tid : Nat)       -- take the latch where it is free, else wait in the order of arrival
  | tryAcquire (tid : Nat)
  | release (bump : Bool)     -- held := 0, and gen + 1 where `bump` says so
  | withdraw (tid : Nat)      -- a waiting request leaves the latch's queue
  deriving DecidableEq, Repr

structure Fab where
  ops : List FabOp := []
  nextId : Nat := 0
  lost : List (BitVec 31 × Nat) := []     -- lost operations of a task (R315)
  refused : Nat := 0                      -- inbound accesses refused (R310)
  posts : List (Nat × AtomicOp) := []     -- releases and withdrawals of latches of a killed domain that wait for a paused channel 2 (R308)
  deriving DecidableEq, Repr

/-- A fabric port (R308, R315): state 0 down, 1 training, 2 up, 3 FAILED. -/
structure FPort where
  st : Nat := 0
  partner : Nat := 0
  retries : Nat := 0
  paused : Nat := 0
  consec : Nat := 0            -- replays in a row of the flit in flight
  deriving DecidableEq, Repr

/-- The link of a Golhan chip (R331). -/
structure GLinkSt where
  failed : Bool := false
  retraining : Bool := false
  consec : Nat := 0
  deriving DecidableEq, Repr

/-! ## Translation -/

/-- Where a translation is held (R100): by one of a core's structures, or a dispatcher. -/
inductive TlbSite where
  | scalar (c : Nat)
  | range (c : Nat)
  | banked (c : Nat)
  | dispatcher (k : Nat)
  deriving DecidableEq, Repr

/-- A leaf mapping held by a structure: virtual page (4 KiB units) and size, frame, and attributes (R97, R100). `line` says that it is one
of the eight pages of a line mapping of the range translator; `bank` is its bank in the banked TLB (R101). -/
structure TlbEntry where
  site : TlbSite
  asn : Nat
  vpage : Nat
  pages : Nat        -- size in 4 KiB units
  frame : Nat
  attr : Nat
  line : Bool := false
  bank : Nat := 0
  deriving DecidableEq, Repr

/-- A pointer held by a walk cache (R100), of which each core and each dispatcher has one (a core's is named by its scalar site): level, the
address bits above it, and the next table's frame. -/
structure WalkEntry where
  site : TlbSite
  asn : Nat
  level : Nat
  prefx : Nat
  frame : Nat
  deriving DecidableEq, Repr

structure Tlb where
  leaves : List TlbEntry := []
  walks : List WalkEntry := []
  deriving DecidableEq, Repr

/-- One TLBINV under way (R105): the core that waits, what to drop, and the targets yet to receive and to acknowledge. -/
structure Shoot where
  core : Nat
  asn : Nat
  vpage : Nat
  extent : Nat
  pending : List ShootTarget
  unacked : List ShootTarget
  deriving DecidableEq, Repr

/-! ## Front end -/

/-- Queue states (R110). -/
inductive QState where
  | disabled | idle | fetch | process | held | skip | integrity
  deriving DecidableEq, Repr

/-- What a queue in HELD or in WAITB waits for (R118, R129). -/
inductive QHold where
  | launch (block : Nat)           -- a packet with the barrier bit, until its launch completes
  | copy (job : Nat)               -- a COPY with the barrier bit
  | barrier                        -- a BARRIER, the packet of the queue
  | waitb (d : BitVec 4) (mask : Nat)
  deriving DecidableEq, Repr

/-- The Beret context of a packet in PROCESS (R129). -/
structure Beret where
  b : Vector Word 16
  steps : Nat := 0
  at_ : Nat := 0                    -- index of the next instruction
  loops : List (Nat × Nat × Nat) := []   -- first index, index after the body, times still to run
  deriving DecidableEq, Repr

/-- A queue as the front end holds it (R107, R110). -/
structure Queue where
  q : Nat
  ringbase : Nat := 0
  ing : Bool := false
  lsize : Nat := 0
  tail : BitVec 32 := 0
  head : BitVec 32 := 0
  rcb : Nat := 0
  qprio : Nat := 0
  prog : Nat := 0
  interp : Nat := 0
  seq : BitVec 32 := 0
  drops : Nat := 0
  errcode : Nat := 0
  refetch : Nat := 0
  port : Nat := 0
  st : QState := .disabled
  pword : Word := 0
  tries : Nat := 0                  -- reads of the packet at head that failed (R114)
  code : List Nat := []             -- the words and the manifest of the program as verified (R130; DEDUCED: log entry 11)
  manifest : List Nat := []
  swap : Option (Nat × List Nat × List Nat) := none  -- a verified program that serves the packets after the current one (R108)
  disabling : Bool := false         -- DISABLE came while a packet is in PROCESS (R108)
  skipping : Bool := false          -- the queue left SKIP for INTEGRITY: it still skips (R118, R134)
  pkt : List Byte := []             -- the packet in PROCESS or HELD
  pktAddr : Nat := 0
  ctx : Option Beret := none
  hold : Option QHold := none
  pass : Option (List Nat × Bool) := none   -- an evaluation of signals on its way: those still to be read; every one read was 0 (R118)
  last : Option QHold := none       -- the launch or COPY the packet in PROCESS placed last and that has not completed
  blocked : Bool := false           -- PROCESS waits for room or for a resource (R124, R138)
  deriving DecidableEq, Repr

/-- An RCB with an index (R138): its handle and, at each cluster, deficit, the end of its last visit, age and promotions (R125). -/
structure RcbHandle where
  idx : Nat
  rcb : Nat
  deficit : List (Nat × Nat) := []
  visit : List (Nat × Nat) := []
  age : List (Nat × Nat) := []
  promo : List (Nat × Nat) := []
  deriving DecidableEq, Repr

/-- A record marked spawned in its launch's state (R173). -/
structure Spawned where
  rec_ : Nat
  launch : Nat
  deriving DecidableEq, Repr

/-- A latch request that waits at its home (R79): latch, core and task, and whether the home has granted it, which the task takes up when
its ACQ runs again. `regions` are the bound regions of a latch in host or peer memory, as its home answered. -/
structure LatchWait where
  pa : Nat
  core : Nat
  tid : BitVec 31
  va : Word
  granted : Bool := false
  regions : List (Nat × Nat) := []
  deriving DecidableEq, Repr

/-- A budget's remaining amount at an arbiter (R123). -/
structure BudgetLeft where
  rcb : Nat
  act : Activity
  arb : Nat
  left : Nat
  deriving DecidableEq, Repr

/-- A COPY under way (R265): its stream's launch number, its completion signal and RCB. -/
structure CopyJob where
  job : Nat
  sig : Nat
  rcb : Nat
  deriving DecidableEq, Repr

structure FrontEnd where
  queues : List Queue := []
  rcbs : List RcbHandle := []
  nextTid : Nat := 1
  spawned : List Spawned := []
  waits : List LatchWait := []
  lostLaunch : List (Nat × Nat) := []     -- launch block, status to report for a lost operation (R316, R331)
  -- items without a record that were pushed at the front of an RCB's full ring: RCB, entry, and the record of the front chain before
  -- which it stands, 0 at the chain's end (R126)
  fronts : List (Nat × Nat × Nat) := []
  turns : List (Nat × Nat) := []          -- the queue each die's queue arbiter served last (R124)
  itpBusy : List Nat := []                -- interpreters whose firmware is being replaced (R132)
  jobs : List CopyJob := []
  cur : Nat := 0                          -- MODEL: the queue whose Beret program moves
  deriving DecidableEq, Repr

/-! ## Configuration, Ethernet, boot, reliability -/

/-- The registers of an Ethernet port (R322). `secs` and `nanos` are its clock; `frames` is k (R323). -/
structure Eth where
  pool : Word := 0
  released : BitVec 32 := 0
  queue : BitVec 16 := 0
  mtu : BitVec 14 := 1518
  tctl : Word := 0
  pps : Word := 0
  frames : BitVec 32 := 0
  dropped : Nat := 0
  secs : Nat := 0
  nanos : Nat := 0
  deriving DecidableEq, Repr

/-- Configuration space (R336). -/
structure Cfg where
  qdbase : Word := 0
  logbase : Word := 0
  logwr : BitVec 32 := 0
  logrel : BitVec 32 := 0
  logdrop : BitVec 32 := 0
  dead : BitVec 256 := 0
  swap : Nat := 0
  swapRcb : Nat := 0
  fwimg : Word := 0
  fwcmd : Nat := 0
  fwItp : Nat := 0
  pwrcap : BitVec 12 := 3200
  clgate : BitVec 96 := 0
  aperture : Vector (BitVec 128) 64 := Vector.replicate 64 0
  infilt : Vector (BitVec 128) 32 := Vector.replicate 32 0
  deriving DecidableEq, Repr

/-- The fields of the capability list that change (R337). -/
structure Caps where
  chips : BitVec 16 := 0xFFFF
  node : Option Nat := none
  deriving DecidableEq, Repr

/-- The attestation mailbox (R338). -/
structure Attest where
  status : Nat := 0
  addr : Word := 0
  nonce : BitVec 256 := 0
  req : Option (Word × BitVec 256) := none   -- the report in the making: its address and nonce
  deriving DecidableEq, Repr

/-- Where the boot chain stands (R334). -/
inductive BootSt where
  | reset
  | up
  | fail (image : Nat)
  | off
  deriving DecidableEq, Repr

/-- Cluster power states (R339). -/
inductive Power where
  | active | idle | gated | waking
  deriving DecidableEq, Repr

/-- One row being copied to a spare (R332). -/
structure SpareJob where
  row : Nat
  spare : Nat
  deriving DecidableEq, Repr

structure Ras where
  corrected : List (Nat × Nat × Nat) := []    -- unit, location, count (R324, R329)
  rows : List (Nat × Nat) := []               -- row, corrected errors since its last reset
  jobs : List SpareJob := []
  retired : List (Nat × Nat) := []            -- row's bank, spare number
  remapped : List (Nat × Nat) := []           -- row, the spare that holds it
  serial : BitVec 32 := 0
  ovf : Bool := false
  deriving DecidableEq, Repr

/-- The opaque engine state of a saved context or fault frame, by where it is kept (R147, R202): the address of the slot,
or a core's shadow slot. -/
structure SavedEngine where
  slot : Nat
  tid : BitVec 31
  seq : Seq
  vec : Vec
  mat : List MEntry
  deriving DecidableEq, Repr

/-- A context in a shadow slot (R145): the task's sequencer, vector and matrix state, and the physical scratchpad share is
left in place. The poison marks of its registers stay with it (R325). -/
structure Shadow where
  seq : Seq
  vec : Vec
  mat : Mat
  psnV : List (Nat × Nat) := []
  psnA : List (Nat × Nat) := []
  par : List (Nat × Nat × Bool) := []
  deriving DecidableEq, Repr

/-- One core (R7). `shadow` is its shadow slot (R145); `psnV` and `psnA` are the poison marks of its vector words (register,
lane) and accumulator words (tile, word) (R325). -/
structure Core where
  id : Nat
  seq : Seq := {}
  vec : Vec := {}
  mat : Mat := {}
  shadow : Option Shadow := none
  psnV : List (Nat × Nat) := []
  psnA : List (Nat × Nat) := []
  psnT : List (Nat × Nat) := []   -- marks of vector words that a replay from the recheck copies removes (R197)
  -- 64-bit words of masks (0 to 15) and lane table stores (16 + lane) whose parity is wrong, and whether a replay leaves them so (R324)
  par : List (Nat × Nat × Bool) := []
  deriving DecidableEq, Repr

/-- What leaves the module: requests to host or peer memory, responses, signal decrements, collective chunks, answers of the
management port. MODEL's record of it. -/
inductive OutMsg where
  | write (node : Nat) (addr : Nat) (bs : List Byte)
  | read (node : Nat) (addr : Nat) (n : Nat)
  | atomic (node : Nat) (addr : Nat) (n : Nat) (op : AtomicOp)
  | signal (node : Nat) (addr : Nat) (count : Nat)
  | put (node : Nat) (addr : Nat) (bs : List Byte) (psn : List Nat)
  | chunk (node : Nat) (key : Nat) (k : Nat) (bs : List Byte) (psn : Bool) (fl : BitVec 8)
  | reply (node : Nat) (bs : List Byte) (psn : List Nat)
  | accept (node : Nat)
  | error (node : Nat)
  | mgmt (v : List Byte)
  deriving DecidableEq, Repr

/-- Who moves next (MODEL): an event with its inputs, a step of a core, a step of a queue's Beret program. -/
inductive Turn where
  | event (i : Instr)
  | core (c : Nat)
  | beret (q : Nat)
  deriving DecidableEq, Repr

/-- The machine. -/
structure State where
  mem : List Host.Cell
  poison : List Nat
  frameSlots : List Nat     -- ring slots whose bytes ingress hardware or FWDB wrote as a FRAME, by address (R113, R115)
  core : Core
  others : List Core
  copy : Copy
  near : List NearCmd
  nearId : Nat
  fab : Fab
  tlb : Tlb
  shoot : List Shoot
  fe : FrontEnd
  cfg : Cfg
  eth : Vector Eth 2
  ports : Vector FPort 24
  glinks : Vector GLinkSt 16
  caps : Caps
  att : Attest
  meas : Vector (BitVec 256) 8
  boot : BootSt
  power : Vector Power 96
  clock : Nat
  ras : Ras
  viral : Bool
  slots : List SavedEngine
  budgets : List BudgetLeft
  agenda : List Turn
  choices : List Bool
  freeCtr : Nat
  replies : List OutMsg     -- responses that wait for a port whose channel 1 is open (R308)
  out : List OutMsg
  deriving DecidableEq, Repr

/-- The machine right after reset (R335, R336, R140): no memory byte listed, no queue enabled, every core idle, the log
registers zero. The values the manual does not state are DESIGN CHOICES: log entries 1, 2, 3 and 5. -/
def State.reset : State where
  mem := []
  poison := []
  frameSlots := []
  core := { id := 0 }
  others := []
  copy := {}
  near := []
  nearId := 0
  fab := {}
  tlb := {}
  shoot := []
  fe := {}
  cfg := {}
  eth := Vector.replicate 2 {}
  ports := Vector.replicate 24 {}
  glinks := Vector.replicate 16 {}
  caps := {}
  att := {}
  meas := Vector.replicate 8 0
  boot := .reset
  power := Vector.replicate 96 .active
  clock := 16
  ras := {}
  viral := false
  slots := []
  budgets := []
  agenda := []
  choices := []
  freeCtr := 0
  replies := []
  out := []

end Sys2Proof.Machine
end

