-- ==== Sys2Proof/Machine/Ops.lean ====
section
/-! DEFINITION. The named operations every meaning is written over: memory, addresses and translation (05, 06), registers,
sequential flow (R30, R136), taking a trap and returning from one (R152 to R154), counters and order (R10 to R13), signals
(R116), fault records (R329). -/

namespace Sys2Proof.Machine

/-- The outcome of a step. -/
abbrev Out := Host.Outcome State Fault Refusal

/-! ## Memory -/

/-- What a byte of memory holds; an unlisted byte reads as zero (DESIGN CHOICE: log entry 5). -/
def memGet : List Host.Cell → Nat → Byte
  | [], _ => 0
  | (k, v) :: r, a => if a = k then v else if a < k then 0 else memGet r a

/-- Writes one byte, keeping the addresses rising and zero bytes unlisted. -/
def memSet : List Host.Cell → Nat → Byte → List Host.Cell
  | [], a, b => if b = 0 then [] else [(a, b)]
  | (k, v) :: r, a, b =>
    if a < k then (if b = 0 then (k, v) :: r else (a, b) :: (k, v) :: r)
    else if a = k then (if b = 0 then r else (a, b) :: r)
    else (k, v) :: memSet r a b

/-- The canonical form: addresses strictly rising, no zero byte listed. -/
abbrev MemWf (m : List Host.Cell) : Prop := (m.map Prod.fst).Pairwise (· < ·) ∧ ∀ c ∈ m, c.2 ≠ 0

/-- `n` bytes from `a` up, little-endian (R25). -/
def memRead (m : List Host.Cell) (a : Nat) : Nat → Nat
  | 0 => 0
  | n + 1 => (memGet m a).toNat + 256 * memRead m (a + 1) n

/-- Writes the low `n` bytes of `x` from `a` up, little-endian. -/
def memWrite (m : List Host.Cell) (a : Nat) : Nat → Nat → List Host.Cell
  | 0, _ => m
  | n + 1, x => memWrite (memSet m a (BitVec.ofNat 8 x)) (a + 1) n (x / 256)

/-- Bytes as a number, and back. -/
def bytesNat : List Byte → Nat
  | [] => 0
  | b :: r => b.toNat + 256 * bytesNat r

def natBytes : Nat → Nat → List Byte
  | 0, _ => []
  | n + 1, x => BitVec.ofNat 8 x :: natBytes n (x / 256)

/-- Bytes `lo` to `lo + n - 1` of a list, as a number. -/
def field (bs : List Byte) (lo n : Nat) : Nat := bytesNat ((bs.drop lo).take n)

/-! ## Physical addresses (R95) -/

def hbmEnd : Nat := 0x00C000000000
def tierBase : Nat := 0x100000000000
def tierEnd : Nat := 0x140000000000
def padBase : Nat := 0x200000000000
def winBase : Nat := 0x300000000000
def cfgBase : Nat := 0x300040000000

/-- What a physical address names (R95). -/
inductive Place where
  | hbm
  | tier (chip : Nat)
  | pad (core off : Nat)
  | window (q off : Nat)
  | config (off : Nat)
  | remote (ap : Nat)
  | none
  deriving DecidableEq, Repr

def place (pa : Nat) : Place :=
  if pa < hbmEnd then .hbm
  else if tierBase ≤ pa ∧ pa < tierEnd then .tier ((pa - tierBase) / 2 ^ 38)
  else if padBase ≤ pa ∧ pa < padBase + 1536 * 0x100000 then .pad ((pa - padBase) / 0x100000) ((pa - padBase) % 0x100000)
  else if winBase ≤ pa ∧ pa < winBase + 0x400000 then .window ((pa - winBase) / 64) ((pa - winBase) % 64)
  else if cfgBase ≤ pa ∧ pa < cfgBase + 0x10000000 then .config (pa - cfgBase)
  else if 0x8000000000000 ≤ pa ∧ pa < 0x10000000000000 then .remote (bits pa 45 6)
  else .none

/-- The tier code of a place (R95). -/
def Place.tier? : Place → Nat
  | .hbm => 0
  | .tier _ => 1
  | .remote _ => 2
  | _ => 3

/-- The engine that owns an address (R295). -/
def engineOf (pa : Nat) : Nat := if pa < hbmEnd then pa / 2 ^ 36 else 16 + (pa - tierBase) / 2 ^ 38

def inHbm (pa n : Nat) : Bool := decide (pa + n ≤ hbmEnd)

/-- HBM or the capacity tier. -/
def inDevice (pa n : Nat) : Bool := inHbm pa n || (decide (tierBase ≤ pa) && decide (pa + n ≤ tierEnd))

/-- The granule of poison an address lies in (R325): 8 bytes in a scratchpad, 64 elsewhere. -/
def granule (pa : Nat) : Nat := if padBase ≤ pa ∧ pa < winBase then 8 else 64

def granuleOf (pa : Nat) : Nat := pa / granule pa * granule pa

def isPoisoned (s : State) (pa n : Nat) : Bool :=
  s.poison.any fun g => decide (g < pa + n) && decide (pa < g + granule g)

/-- Marks the granules of `n` bytes (R325). -/
def markPoison (s : State) (pa n : Nat) : State :=
  let gs := (List.range n).map fun k => granuleOf (pa + k)
  { s with poison := (gs.filter fun g => !s.poison.contains g).eraseDups ++ s.poison }

/-- Clears the marks of granules that a set of writes covers whole (R325). -/
def clearPoison (s : State) (ws : List (Nat × Nat)) : State :=
  { s with poison := s.poison.filter fun g =>
      !((List.range (granule g)).all fun k => ws.any fun w => decide (w.1 ≤ g + k) && decide (g + k < w.1 + w.2)) }

/-- Writes that one instruction, stream step or command has made: together they clear the marks of the granules they cover, but for those
that a poisoned one has written to (R325). -/
def coverPoison (ws : List (Nat × Nat × Bool)) (s : State) : State :=
  (ws.filter fun w => w.2.2).foldl (fun t w => markPoison t w.1 w.2.1) (clearPoison s (ws.map fun w => (w.1, w.2.1)))

/-- `n` bytes at a physical address. -/
def State.rd (s : State) (pa n : Nat) : Nat := memRead s.mem pa n

def State.rdBytes (s : State) (pa n : Nat) : List Byte := natBytes n (s.rd pa n)

/-- The ring slots that `n` written bytes leave as ingress hardware or FWDB wrote them (R115). -/
def keptSlots (l : List Nat) (pa n : Nat) : List Nat := l.filter fun g => !(decide (g < pa + n) && decide (pa < g + 64))

/-- Writes `n` bytes at a physical address (R72, R115, R325). -/
def State.wr (s : State) (pa n x : Nat) : State :=
  clearPoison { s with mem := memWrite s.mem pa n x, frameSlots := keptSlots s.frameSlots pa n } [(pa, n)]

def State.wrBytes (s : State) (pa : Nat) (bs : List Byte) : State := s.wr pa bs.length (bytesNat bs)

/-! ## Cores -/

/-- The core of a number: the current one, one that has run, or one as it stands after reset. -/
def getCore (s : State) (c : Nat) : Core :=
  if s.core.id = c then s.core
  else (s.others.find? fun k => decide (k.id = c)).getD { id := c }

/-- The list of the other cores, in the order of their numbers, with `k` in it. -/
def putCore (k : Core) (l : List Core) : List Core :=
  (l.filter fun o => decide (o.id < k.id)) ++ k :: l.filter fun o => decide (k.id < o.id)

def setCore (s : State) (k : Core) : State :=
  if s.core.id = k.id then { s with core := k }
  else { s with others := putCore k s.others }

/-- Makes core `c` the current one. -/
def focus (s : State) (c : Nat) : State :=
  if s.core.id = c then s
  else { s with core := getCore s c, others := putCore s.core (s.others.filter fun o => decide (o.id ≠ c)) }

/-- Runs `f` with core `c` current, and makes the core that was current so again. -/
def onCore (c : Nat) (f : State → State) (s : State) : State :=
  let t := f (focus s c)
  focus t s.core.id

/-- Every core that has been touched. -/
def allCores (s : State) : List Core := s.core :: s.others

def clusterOf (c : Nat) : Nat := c / 16
def dieOf (c : Nat) : Nat := c / 192

def State.seq (s : State) : Seq := s.core.seq
def State.vec (s : State) : Vec := s.core.vec

def setSeq (s : State) (q : Seq) : State := { s with core := { s.core with seq := q } }
def setVec (s : State) (v : Vec) : State := { s with core := { s.core with vec := v } }
def setMat (s : State) (m : Mat) : State := { s with core := { s.core with mat := m } }
def setCopy (s : State) (c : Copy) : State := { s with copy := c }
def setFe (s : State) (f : FrontEnd) : State := { s with fe := f }
def setFab (s : State) (f : Fab) : State := { s with fab := f }

/-! ## Scalar registers -/

/-- A scalar register: `s0` reads zero (R44). -/
def getS (s : State) (r : SReg) : Word := if r = 0 then 0 else s.core.seq.regs[r.toNat]'r.isLt

/-- Writes a scalar register; a write to `s0` is discarded (R44). -/
def setS (s : State) (r : SReg) (v : Word) : State :=
  if r = 0 then s else setSeq s { s.core.seq with regs := s.core.seq.regs.set r.toNat v r.isLt }

/-! ## Free values and choices -/

/-- The next choice between two outcomes the manual allows; `false` once the list is used up (DESIGN CHOICE: log entry 1). -/
def popChoice (s : State) : Bool × State :=
  match s.choices with
  | [] => (false, s)
  | b :: r => (b, { s with choices := r })

/-- `n` bytes of undefined contents, drawn at the counter (R316, R331). -/
def freeBytes (s : State) (n : Nat) : List Byte × State :=
  ((List.range n).map fun k => Config.freeByte s.freeCtr k, { s with freeCtr := s.freeCtr + 1 })

/-! ## Sequential flow (R30, R136) -/

/-- How many heads the line control is in holds. -/
def curN (s : State) : Nat :=
  match s.core.seq.line with
  | some (_, l) => lineN l
  | none => 30

/-- The PC of the next head in sequential flow (R30). -/
def nextPc (s : State) : Word :=
  let p := s.core.seq.pc.toNat
  if p % 64 / 2 < curN s then BitVec.ofNat 64 (p + 2) else BitVec.ofNat 64 (p / 64 * 64 + 66)

/-- The line address of a PC. -/
def lineBase (p : Word) : Nat := p.toNat / 64 * 64

/-- The slip in force once a LOOPR entry is gone (R158). -/
def popSlip (e : LoopEntry) (slip : Nat) : Nat := if e.loopr then e.outer else slip

/-- What the loop stack does when the head at `pc` completes without transferring control (R136): the stack, whether an
iteration ended, the next PC where a body starts again, and the slip. -/
def endIteration (pc : Word) : List LoopEntry → Nat → List LoopEntry × Bool × Option Word × Nat
  | [], slip => ([], false, none, slip)
  | e :: r, slip =>
    if e.stop = pc then
      let e' := { e with remaining := e.remaining - 1, index := e.index + 1,
                         rot := if e.loopr then (e.rot + 16 - e.step) % 16 else e.rot }
      if 1 < e.remaining.toInt then (e' :: r, true, some e.start, slip)
      else
        let (r', _, nx, slip') := endIteration pc r (popSlip e slip)
        (r', true, nx, slip')
    else (e :: r, false, none, slip)

/-- Goes to `p`, leaving the line where it is another one; a line boundary without an active loop is a pre-emption point
(R144). -/
def goto (s : State) (p : Word) (point : Bool) : State :=
  let q := s.core.seq
  let same := decide (lineBase p = lineBase q.pc)
  setSeq s { q with pc := p, line := if same then q.line else none,
                    atPoint := point || (q.loops.isEmpty && !same) }

/-- Sequential flow after the head at the PC: the loop stack first (R136), then the next head (R30). -/
def advance (s : State) : State :=
  let q := s.core.seq
  let (ls, ended, nx, slip) := endIteration q.pc q.loops s.core.vec.slip
  let t := setVec (setSeq s { q with loops := ls }) { s.core.vec with slip := slip }
  goto t (nx.getD (nextPc s)) ended

/-- An instruction has done its work: sequential flow goes on. -/
def done (s : State) : Out := .next (advance s)

/-- An instruction waits: it will run again. `point` says that it is a pre-emption point while it waits (R144). -/
def stall (point : Bool) (s : State) : Out :=
  .next (setSeq s { s.core.seq with stall := true, atPoint := point })

/-! ## Fault records (R329) -/

/-- The parts of a fault record that its writer gives. -/
structure LogRec where
  kind : Nat
  domain : Nat := 0
  unit : Nat := 0
  psn : Bool := false
  tid : Nat := 0
  at_ : Nat := 0
  count : Nat := 1
  cause : Nat := 0
  addr : Nat := 0
  pc : Nat := 0
  syndrome : Nat := 0
  rcb : Nat := 0
  deriving DecidableEq, Repr

def LogRec.image (r : LogRec) (ovf : Bool) (serial : Nat) : Nat :=
  r.kind + r.domain * 2 ^ 8 + r.unit * 2 ^ 16 + ((if ovf then 1 else 0) + (if r.psn then 2 else 0)) * 2 ^ 24 +
    r.tid * 2 ^ 32 + r.at_ * 2 ^ 64 + r.count * 2 ^ 80 + r.cause * 2 ^ 96 + r.addr * 2 ^ 128 + r.pc * 2 ^ 192 +
    r.syndrome * 2 ^ 256 + r.rcb * 2 ^ 320 + serial * 2 ^ 384

def logK (s : State) : Nat := bits s.cfg.logbase.toNat 0 5
def logBaseAddr (s : State) : Nat := bits s.cfg.logbase.toNat 6 46 * 64

/-- Whether there is a log ring (R329, R336). -/
def logOn (s : State) : Bool := decide (logBaseAddr s ≠ 0) && decide (6 ≤ logK s) && decide (logK s ≤ 20)

/-- Writes a fault record, or counts it as dropped (R329). -/
def logRecord (r : LogRec) (s : State) : State :=
  if !logOn s || decide (2 ^ logK s ≤ (s.cfg.logwr - s.cfg.logrel).toNat) then
    { s with cfg := { s.cfg with logdrop := if s.cfg.logdrop = BitVec.allOnes 32 then s.cfg.logdrop else s.cfg.logdrop + 1 },
             ras := { s.ras with ovf := true } }
  else
    let pa := logBaseAddr s + 64 * (s.cfg.logwr.toNat % 2 ^ logK s)
    let t := s.wr pa 64 (r.image s.ras.ovf s.ras.serial.toNat)
    { t with cfg := { t.cfg with logwr := t.cfg.logwr + 1 },
             ras := { t.ras with ovf := false, serial := t.ras.serial + 1 } }

/-! ## Traps (R152 to R154) -/

/-- The task ends with FAULT (R154): its drains and its latch release follow (R150). -/
def endWithFault (cause : Nat) (epc tval : Word) (s : State) : State :=
  let q := s.core.seq
  let t := logRecord { kind := 4, domain := q.eff.domain, unit := 0, psn := decide (cause = 0x26), tid := q.tid.toNat, at_ := s.core.id, cause := cause,
                       addr := tval.toNat, pc := epc.toNat, rcb := q.eff.rcb } s
  setSeq t { q with mode := .ending true, line := none, stall := true, atPoint := false, refetch := none }

/-- Trap entry (R153): one step. With INH = 1, or a trap vector of 0, the task ends instead (R154). -/
def enterTrap (cause : Nat) (epc tval : Word) (s : State) : State :=
  let q := s.core.seq
  if q.inh || q.eff.trap = 0 then endWithFault cause epc tval s
  else
    setSeq s { q with epc := epc, cause := BitVec.ofNat 64 cause, tval := tval, pprv := q.prv, prv := true, inh := true,
                      pc := q.eff.trap, line := none, stall := false, refetch := none, vectoring := true, starting := false,
                      atPoint := q.loops.isEmpty }

/-- A vector memory instruction of the current core has yet to translate. -/
def transPending (s : State) : Bool :=
  (s.core.vec.vlq ++ s.core.vec.vsq).any fun e => match e.instr with
    | .vtld .. | .vtst .. | .vfence | .vfenceArr .. => false
    | _ => true

/-- Scalar accesses of the current core that have not completed; a store is complete for its core once it has gone out. -/
def returnPending (s : State) : Bool := s.core.seq.returns.any fun r => !r.posted

/-- What a precise trap waits for: every earlier scalar instruction has completed (R35), and every dispatched vector memory instruction
has translated (R201). -/
def trapWaits (s : State) : Bool := transPending s || returnPending s

/-- A precise trap is taken once nothing is left that it waits for; until then the instruction runs again. -/
def raise (cause : Nat) (epc tval : Word) (s : State) : State :=
  if trapWaits s then setSeq s { s.core.seq with stall := true, atPoint := false } else enterTrap cause epc tval s

/-- A precise trap at the head at the PC (R35). -/
def trapHere (cause : Nat) (tval : Word) (s : State) : Out := .next (raise cause s.core.seq.pc tval s)

/-- The head value at the PC, in the line control is in. -/
def curHead (s : State) : Nat :=
  match s.core.seq.line with
  | some (_, l) => lineHead l (s.core.seq.pc.toNat % 64 / 2)
  | none => 0

def illegal (s : State) : Out := trapHere 0x01 (BitVec.ofNat 64 (curHead s)) s
def illegalVal (v : Word) (s : State) : Out := trapHere 0x01 v s
def privilegeTrap (s : State) : Out := trapHere 0x05 (BitVec.ofNat 64 (curHead s)) s

/-- Return from a trap (R153): PRV := PPRV, INH := 0, control at `p`. -/
def trapReturn (p : Word) (s : State) : State :=
  let q := s.core.seq
  let t := setSeq s { q with prv := q.pprv, inh := false }
  goto t p false

/-- Sets CMT (R142). -/
def commitTask (s : State) : State := setSeq s { s.core.seq with cmt := true }

/-! ## Translation (06) -/

/-- What an access does, for the permission check (R102). -/
inductive Acc where
  | r | w | rw | x
  deriving DecidableEq, Repr

def windowBase : Nat := 0x01FFFFFFFFF00000

def inWindow (va : Nat) : Bool := decide (windowBase ≤ va) && decide (va < 2 ^ 57)

/-- A leaf as a walk finds it: first page, size in pages, frame, attributes. -/
structure Leaf where
  vpage : Nat
  pages : Nat
  frame : Nat
  attr : Nat
  deriving DecidableEq, Repr

/-- PTE `i` of the leaf table at `tbl` (R98). -/
def pteAt (s : State) (tbl i : Nat) : Nat := s.rd (tbl + 64 * (i / 8) + 8 + 7 * (i % 8)) 7

def upperAt (s : State) (tbl i : Nat) : Nat := s.rd (tbl + 8 * i) 8

/-- The 16 entries of a group agree (R99): all with group = 1, equal bits 15:0, frames in steps of `step`, the first aligned
to 16 steps. -/
def groupOk (es : List Nat) (step : Nat) : Bool :=
  match es with
  | [] => false
  | e0 :: _ =>
    decide (bits e0 16 40 % (16 * step) = 0) &&
      (List.range es.length).all fun i =>
        let e := es.getD i 0
        bitAt e 4 && decide (bits e 0 16 = bits e0 0 16) && decide (bits e 56 8 = 0) &&
          decide (bits e 16 40 = bits e0 16 40 + i * step)

/-- A line with a nonzero spacing meets the conditions of R98. -/
def lineOkSummary (s : State) (tbl k : Nat) : Bool :=
  let sum := s.rd (tbl + 64 * k) 8
  let sp := (BitVec.ofNat 24 (bits sum 40 24)).toInt
  let f0 := bits (pteAt s tbl (8 * k)) 16 40
  (List.range 8).all fun j =>
    let p := pteAt s tbl (8 * k + j)
    decide (bits p 0 16 = bits sum 24 16) && bitAt p 0 && !bitAt p 4 &&
      decide ((bits p 16 40 : Int) = (f0 : Int) + j * sp)

/-- Level 0 (R96 to R99, R103): the leaves the walk yields, the one for the page first, or a cause. -/
def walkLeaf (s : State) (tbl vp : Nat) : Except Nat (List Leaf) :=
  let i := vp % 512
  let p := pteAt s tbl i
  let sum := s.rd (tbl + 64 * (i / 8)) 8
  if !bitAt p 0 then .error 0x21
  else if bits sum 0 24 ≠ 0 then .error 0x22
  else if bits sum 40 24 ≠ 0 then
    if lineOkSummary s tbl (i / 8) then
      let one := fun j => (⟨vp / 8 * 8 + j, 1, bits (pteAt s tbl (i / 8 * 8 + j)) 16 40, bits p 0 16⟩ : Leaf)
      .ok (one (vp % 8) :: (List.range 8).map one)
    else .error 0x22
  else if bitAt p 4 then
    if groupOk ((List.range 16).map fun j => pteAt s tbl (i / 16 * 16 + j)) 1 then
      .ok [⟨vp / 16 * 16, 16, bits (pteAt s tbl (i / 16 * 16)) 16 40, bits p 0 16⟩]
    else .error 0x22
  else .ok [⟨vp, 1, bits p 16 40, bits p 0 16⟩]

/-- The walk cache a structure walks through: the core's, or the dispatcher's (R100). -/
def walkSite : TlbSite → TlbSite
  | .range c | .banked c => .scalar c
  | x => x

/-- A pointer a walk cache holds (R100). -/
def walkHit (s : State) (site : TlbSite) (asn level vp : Nat) : Option Nat :=
  (s.tlb.walks.find? fun w => decide (w.site = walkSite site ∧ w.asn = asn ∧ w.level = level ∧ w.prefx = vp / 2 ^ (9 * level))).map
    WalkEntry.frame

/-- A pointer enters its walk cache, which holds 32 (R100). -/
def addWalk (s : State) (site : TlbSite) (asn level vp frame : Nat) : State :=
  let e : WalkEntry := ⟨walkSite site, asn, level, vp / 2 ^ (9 * level), frame⟩
  let mine := s.tlb.walks.filter fun w => decide (w.site = e.site) && !(decide (w.asn = asn ∧ w.level = level ∧ w.prefx = e.prefx))
  { s with tlb := { s.tlb with walks := (e :: mine).take 32 ++ s.tlb.walks.filter fun w => decide (w.site ≠ e.site) } }

/-- The walk from level `level` down, at table `tbl` (R96 to R99, R103 steps 2 and 3). A pointer that a walk cache still
holds and that differs from the table's may be followed instead (R100): the next choice says whether. -/
def walk (site : TlbSite) (asn vp : Nat) : Nat → Nat → State → Except Nat (List Leaf) × State
  | 0, tbl, s => if inHbm tbl 4096 then (walkLeaf s tbl vp, s) else (.error 0x22, s)
  | level + 1, tbl, s =>
    if !inHbm tbl 4096 then (.error 0x22, s)
    else
      let lv := level + 1
      let i := vp / 2 ^ (9 * lv) % 512
      let e := upperAt s tbl i
      let ptr := bitAt e 0 && decide (bits e 1 15 = 0) && decide (bits e 56 8 = 0) && inHbm (bits e 16 40 * 4096) 4096
      let hit := walkHit s site asn lv vp
      let stale := match hit with
        | some f => !(ptr && decide (bits e 16 40 = f))
        | none => false
      let (use, s1) := if stale then popChoice s else (false, s)
      match use, hit with
      | true, some f => walk site asn vp level (f * 4096) s1
      | _, _ =>
        if ptr then walk site asn vp level (bits e 16 40 * 4096) (addWalk s1 site asn lv vp (bits e 16 40))
        else if !bitAt e 0 then (.error 0x21, s1)
        else if bits e 56 8 ≠ 0 ∨ bits e 1 3 = 0 then (.error 0x22, s1)
        else if lv = 1 then
          if bitAt e 4 ∨ bits e 16 40 % 512 ≠ 0 then (.error 0x22, s1)
          else (.ok [⟨vp / 512 * 512, 512, bits e 16 40, bits e 0 16⟩], s1)
        else if lv = 2 then
          if bitAt e 4 then
            if groupOk ((List.range 16).map fun j => upperAt s tbl (i / 16 * 16 + j)) (2 ^ 18) then
              (.ok [⟨vp / 2 ^ 22 * 2 ^ 22, 2 ^ 22, bits (upperAt s tbl (i / 16 * 16)) 16 40, bits e 0 16⟩], s1)
            else (.error 0x22, s1)
          else if bits e 16 40 % 2 ^ 18 ≠ 0 then (.error 0x22, s1)
          else (.ok [⟨vp / 2 ^ 18 * 2 ^ 18, 2 ^ 18, bits e 16 40, bits e 0 16⟩], s1)
        else (.error 0x22, s1)

def Leaf.covers (l : Leaf) (vp : Nat) : Bool := decide (l.vpage ≤ vp) && decide (vp < l.vpage + l.pages)

/-- The bank of the banked TLB that a page is looked up in (R101). -/
def bankOfPage (site : TlbSite) (vp : Nat) : Nat :=
  match site with
  | .banked _ => vp % 16
  | _ => 0

/-- The mapping a structure still holds (R100). -/
def tlbHit (s : State) (site : TlbSite) (asn vp : Nat) : Option Leaf :=
  (s.tlb.leaves.find? fun e => decide (e.site = site ∧ e.asn = asn ∧ e.bank = bankOfPage site vp) && decide (e.vpage ≤ vp) &&
      decide (vp < e.vpage + e.pages)).map
    fun e => ⟨e.vpage, e.pages, e.frame, e.attr⟩

/-- A group of 16 pages or of 16 GiB (R99). -/
def TlbEntry.group (e : TlbEntry) : Bool := decide (e.pages = 16) || decide (e.pages = 2 ^ 22)

/-- Entries with one key are one mapping of the range translator: the eight pages of a line, or a single leaf. -/
def TlbEntry.key (e : TlbEntry) : Nat × Nat × Bool := (e.asn, if e.line then e.vpage / 8 else e.vpage, e.line)

/-- What of a structure's entries, the newest first, it has room for (R100): 64 in a scalar TLB, eight mappings or one group in a range
translator, 32 in a bank, 256 in a dispatcher. -/
def tlbRoom (site : TlbSite) (l : List TlbEntry) : List TlbEntry :=
  match site with
  | .scalar _ => l.take 64
  | .dispatcher _ => l.take 256
  | .banked _ =>
    let b := (l.head?.map TlbEntry.bank).getD 0
    (l.filter fun e => decide (e.bank = b)).take 32 ++ l.filter fun e => decide (e.bank ≠ b)
  | .range _ =>
    if (l.head?.map TlbEntry.group).getD false then l.take 1
    else
      let lines := l.filter fun e => !e.group
      let keys := ((lines.map TlbEntry.key).eraseDups).take 8
      lines.filter fun e => keys.contains e.key

/-- The leaves of a walk for page `vp` enter the structure: the first, or in the range translator a whole line (R101). -/
def addLeaves (s : State) (site : TlbSite) (asn vp : Nat) (ls : List Leaf) : State :=
  let line := decide (1 < ls.length)
  let new := match site with
    | .range _ => if line then ls.tail else ls
    | _ => ls.take 1
  let es := new.map fun l => (⟨site, asn, l.vpage, l.pages, l.frame, l.attr, decide (1 < new.length), bankOfPage site vp⟩ : TlbEntry)
  let mine := s.tlb.leaves.filter fun e => decide (e.site = site) && !(decide (e.asn = asn ∧ e.bank = bankOfPage site vp) &&
    (new.any fun l => decide (l.vpage < e.vpage + e.pages) && decide (e.vpage < l.vpage + l.pages)))
  { s with tlb := { s.tlb with leaves := tlbRoom site (es ++ mine) ++ s.tlb.leaves.filter fun e => decide (e.site ≠ site) } }

/-- The leaf of a page: by a walk, or from the structure where it holds a mapping that the walk no longer gives and the next
choice takes it (R100). -/
def findLeaf (site : TlbSite) (root asn vp : Nat) (s : State) : Except Nat Leaf × State :=
  let (fresh, s1) := walk site asn vp 4 (root * 4096) s
  let first : Except Nat Leaf := match fresh with
    | .ok (l :: _) => .ok l
    | .ok [] => .error 0x21
    | .error c => .error c
  let hit := tlbHit s site asn vp
  let same := match first, hit with
    | .ok l, some h => decide (l.attr = h.attr) && decide (l.frame + (vp - l.vpage) = h.frame + (vp - h.vpage))
    | _, none => true
    | _, _ => false
  let (use, s2) := if same then (false, s1) else popChoice s1
  match use, hit, first with
  | true, some h, _ => (.ok h, s2)
  | _, _, .ok l => (.ok l, addLeaves s2 site asn vp (match fresh with | .ok ls => ls | .error _ => []))
  | _, _, .error c => (.error c, s2)

/-- Whether an aperture routes (R309). -/
def routes (s : State) (ap : Nat) : Bool :=
  let e := (s.cfg.aperture[ap]?.getD 0).toNat
  bitAt e 63 && (List.range 24).any fun p => bitAt e (96 + p) && decide ((s.ports[p]?.getD {}).st ≠ 3)

/-- The node and the remote address of a tier-10 address (R309). -/
def remoteOf (s : State) (pa : Nat) : Nat × Nat :=
  let e := (s.cfg.aperture[bits pa 45 6]?.getD 0).toNat
  (bits e 64 12, bits e 0 52 + bits pa 0 45)

/-- A message leaves the module. -/
def send (s : State) (m : OutMsg) : State := { s with out := s.out ++ [m] }

/-- What a read at a home brings: the bytes, as a number, and whether they are poisoned (R326). -/
structure Got where
  val : Nat
  bad : Bool
  deriving DecidableEq, Repr

/-- The answer of host or peer memory: bytes the model does not know, poisoned where the next choice says so. -/
def answer (n : Nat) (s : State) : Got × State :=
  let (bs, t) := freeBytes s n
  let (bad, u) := popChoice t
  (⟨bytesNat bs, bad⟩, u)

/-- A read at the home of an address. -/
def homeRead (pa n : Nat) (s : State) : Got × State :=
  match place pa with
  | .remote _ => answer n (send s (OutMsg.read (remoteOf s pa).1 (remoteOf s pa).2 n))
  | _ => (⟨s.rd pa n, isPoisoned s pa n⟩, s)

/-- A write at the home of an address. -/
def homeWrite (pa n x : Nat) (s : State) : State :=
  match place pa with
  | .remote _ => send s (OutMsg.write (remoteOf s pa).1 (remoteOf s pa).2 (natBytes n x))
  | _ => s.wr pa n x

/-- What only some accesses reach: a launch window, by an 8-byte ST (R343), and the scratchpad frames of a cluster, by its streams on ports
13 to 15 (R102). -/
structure Reach where
  window : Bool := false
  frames : Option Nat := none
  deriving DecidableEq, Repr

/-- The range of chip `c` is unbacked: its link has failed, or it failed training at bring-up (R331, R337). -/
def chipDown (s : State) (c : Nat) : Bool := (s.glinks[c]?.getD {}).failed || !s.caps.chips.getLsbD c

/-- Step 6 of R103: the address is backed. `win` admits a launch window (R343). -/
def backed (s : State) (win : Bool) (pa : Nat) : Bool :=
  match place pa with
  | .hbm => true
  | .tier c => !chipDown s c
  | .pad _ off => decide (off < 0xD8000)
  | .window _ _ => win
  | .config _ => false
  | .remote ap => routes s ap
  | .none => false

/-- The paths that reach a place at all (R93, R102). -/
def pathReaches (p : Path) (pl : Place) : Bool :=
  match pl, p with
  | .hbm, .m => false
  | .hbm, _ => true
  | .tier _, .v | .tier _, .m | .tier _, .f => false
  | .remote _, .v | .remote _, .m | .remote _, .n => false
  | .pad _ _, .c => true
  | .pad _ _, _ => false
  | _, _ => true

/-- Steps 4 to 7 of R103 on a leaf, for the address `pa`. -/
def leafChecks (s : State) (l : Leaf) (p : Path) (a : Acc) (reach : Reach) (pa : Nat) : Option Nat :=
  let pl := place pa
  let perm := match a with
    | .r => bitAt l.attr 1
    | .w => bitAt l.attr 2
    | .rw => bitAt l.attr 1 && bitAt l.attr 2
    | .x => bitAt l.attr 3
  let padFrame := match pl with
    | .pad c _ => decide (bits l.attr 10 6 ≠ 8) || decide (reach.frames ≠ some (clusterOf c))
    | _ => false
  if !perm then some 0x23
  else if !bitAt l.attr (10 + p.code) || padFrame || !pathReaches p pl then some 0x24
  else if !backed s reach.window pa || decide (bits l.attr 8 2 ≠ pl.tier?) then some 0x25
  else if bitAt l.attr 7 then some 0x26
  else none

/-- What a translation yields: the physical address and the page's HS and NI bits. -/
structure Phys where
  pa : Nat
  hs : Bool := false
  ni : Bool := false
  pageEnd : Nat := 2 ^ 57      -- the virtual address after the leaf page
  deriving DecidableEq, Repr

/-- The physical address of an offset in a core's scratchpad share (R94, R95). -/
def padAddr (core : Nat) (eff : Region) (off : Nat) : Nat := padBase + core * 0x100000 + eff.spstart * 1024 + off

/-- Translates an address for an agent (R94, R103). `core` is the core whose scratchpad the local window is; `none` for an
agent without one (R265). -/
def translateFor (site : TlbSite) (core : Option Nat) (eff : Region) (p : Path) (a : Acc) (reach : Reach) (va : Word) (s : State) :
    Except Nat Phys × State :=
  let v := va.toNat
  if 2 ^ 57 ≤ v then (.error 0x20, s)
  else if inWindow v then
    match core with
    | none => (.error 0x24, s)
    | some c =>
      let off := v - windowBase
      if eff.spsize * 1024 ≤ off then (.error 0x27, s) else (.ok { pa := padAddr c eff off }, s)
  else
    let (r, s1) := findLeaf site eff.root eff.asn (v / 4096) s
    match r with
    | .error c => (.error c, s1)
    | .ok l =>
      let pa := (l.frame + (v / 4096 - l.vpage)) * 4096 + v % 4096
      match leafChecks s1 l p a reach pa with
      | some c => (.error c, s1)
      | none => (.ok { pa := pa, hs := bitAt l.attr 5, ni := bitAt l.attr 6, pageEnd := (l.vpage + l.pages) * 4096 }, s1)

/-- A translation by the current core for its running task. -/
def translate (site : Nat → TlbSite) (p : Path) (a : Acc) (va : Word) (s : State) : Except Nat Phys × State :=
  translateFor (site s.core.id) (some s.core.id) s.core.seq.eff p a {} va s

/-- A scalar-path translation, for LD, ST, atomics, latch, signal and record operations (R100). -/
def transS (a : Acc) (va : Word) (s : State) : Except Nat Phys × State := translate .scalar .s a va s

/-! ## Budgets (R16, R123) -/

def unlimited : Nat := 2 ^ 48 - 1

/-- The amount per period that an RCB's budget word gives; all ones is unlimited (R120), and so is what no RCB limits. -/
def amountOf (s : State) (rcb : Nat) (a : Activity) : Nat :=
  if rcb = 0 then unlimited else bits (s.rd (rcb + 80 + 8 * a.index) 8) 0 48

/-- What is left of a budget at an arbiter; nothing drawn yet is the full amount. -/
def budgetLeft (s : State) (r : Region) (a : Activity) (arb : Nat) : Nat :=
  match s.budgets.find? fun b => decide (b.rcb = r.budgetRcb ∧ b.act = a ∧ b.arb = arb) with
  | some b => b.left
  | none => amountOf s r.budgetRcb a

/-- The budget is not exhausted at the arbiter. -/
def budgetOk (s : State) (r : Region) (a : Activity) (arb : Nat) : Bool :=
  decide (amountOf s r.budgetRcb a = unlimited) || decide (budgetLeft s r a arb ≠ 0)

def setBudget (rcb : Nat) (a : Activity) (arb left : Nat) (s : State) : State :=
  { s with budgets := ⟨rcb, a, arb, left⟩ :: s.budgets.filter fun b => !(decide (b.rcb = rcb ∧ b.act = a ∧ b.arb = arb)) }

/-- Work of `n` units passes an arbiter. -/
def chargeBudget (r : Region) (a : Activity) (arb n : Nat) (s : State) : State :=
  if amountOf s r.budgetRcb a = unlimited then s else setBudget r.budgetRcb a arb (budgetLeft s r a arb - n) s

/-- The port that carries a request to host or peer memory (R309). -/
def portOf (s : State) (pa : Nat) : Nat :=
  let e := (s.cfg.aperture[bits pa 45 6]?.getD 0).toNat
  let ps := (List.range 24).filter fun p => bitAt e (96 + p) && decide ((s.ports[p]?.getD {}).st ≠ 3)
  ps.getD (bits (remoteOf s pa).2 12 12 % ps.length) 0

def portSt (s : State) (p : Nat) : Nat := (s.ports[p]?.getD {}).st

/-- A port is up, and the receiver has not paused the virtual channel (R308): 0 requests, 2 signals and atomics, 3 collective chunks. -/
def chanOpen (s : State) (p vc : Nat) : Bool := decide (portSt s p = 2) && !bitAt (s.ports[p]?.getD {}).paused vc

/-- A response leaves on channel 1 of a port, which the manual does not name: it waits while no port is up with that channel open (R308;
DESIGN CHOICE: log entry 71). -/
def replyOpen (s : State) : Bool := (List.range 24).any fun p => chanOpen s p 1

def respond (m : OutMsg) (s : State) : State := if replyOpen s then send s m else { s with replies := s.replies ++ [m] }

/-- The responses that wait go out once they can. -/
def flushReplies (s : State) : State := if replyOpen s then { s with out := s.out ++ s.replies, replies := [] } else s

/-- What goes to an address on a virtual channel can be answered now. -/
def wayOpen (s : State) (pa vc : Nat) : Bool :=
  match place pa with
  | .remote _ => chanOpen s (portOf s pa) vc
  | _ => true

/-- The arbiter that the bytes of an address pass: an HBM controller, a Golhan link or a fabric port (R123). -/
def memArbiter (s : State) (pa : Nat) : Option (Activity × Nat) :=
  match place pa with
  | .hbm => some (.hbm, pa / 2 ^ 36)
  | .tier c => some (.tier, c)
  | .remote _ => some (.fabric, portOf s pa)
  | _ => none

/-- A request to an address need not wait for a budget of its RCB (R123). -/
def memOk (s : State) (r : Region) (pa : Nat) : Bool :=
  match memArbiter s pa with
  | some (a, k) => budgetOk s r a k
  | none => true

/-- The bytes of a request are charged to its RCB where they pass. -/
def chargeMem (r : Region) (pa n : Nat) (s : State) : State :=
  match memArbiter s pa with
  | some (a, k) => chargeBudget r a k n s
  | none => s

/-- The same for several ranges of physical bytes. -/
def bytesOk (s : State) (r : Region) (bs : List (Nat × Nat)) : Bool := bs.all fun b => memOk s r b.1

def chargeAll (r : Region) (bs : List (Nat × Nat)) (s : State) : State := bs.foldl (fun u b => chargeMem r b.1 b.2 u) s

/-! ## Order between accesses of one core (R10 to R13, R89, R170) -/

/-- The number of the next access in program order. -/
def nextNum (s : State) : Nat := s.core.vec.num + 1

def bumpNum (s : State) : State := setVec s { s.core.vec with num := s.core.vec.num + 1 }

/-- `.v` accesses of a vector state that are numbered below `n` and not complete. -/
def Vec.pendingV (v : Vec) (n : Nat) : Bool :=
  (v.vlq ++ v.vsq).any (fun e => decide (e.env.num < n) && (match e.instr with | .vtld .. | .vtst .. => false | _ => true)) ||
    v.loads.any (fun l => decide (l.env.num < n)) || v.stores.any (fun t => decide (t.env.num < n)) ||
    v.defer.any (fun d => decide (d.env.num < n) && (match d.kind with | .table _ => false | _ => true))

/-- Accesses of a core on a path that are numbered below `n` and not complete. -/
def pendingOn (s : State) (k : Core) (p : Path) (n : Nat) : Bool :=
  match p with
  | .s => k.seq.returns.any fun r => decide (r.num < n)
  | .v => k.vec.pendingV n
  | .m => k.mat.queue.any fun e => decide (e.env.num < n)
  | .c => s.copy.streams.any fun t => decide (t.core = k.id ∧ t.tid = k.seq.tid ∧ t.launch = 0) && decide (t.num < n)
  | .n => s.near.any fun c => decide (c.core = k.id ∧ c.tid = k.seq.tid) && decide (c.env.num < n)
  | .f => s.fab.ops.any fun o => decide (o.core = k.id ∧ o.tid = k.seq.tid) && decide (o.num < n)

/-- Core `c` with the context of task `tid`, which may be saved while its commands go on (R145). -/
def ctxCore (s : State) (c : Nat) (tid : BitVec 31) : Core :=
  let k := getCore s c
  let v0 : Vec := {}
  let spilled := match s.slots.find? fun e => decide (e.tid = tid) with
    | some e => { k with seq := e.seq, vec := e.vec }
    | none => { k with vec := v0 }
  if k.seq.tid = tid then k
  else match k.shadow with
    | some x => if x.seq.tid = tid then { k with seq := x.seq, vec := x.vec, mat := x.mat } else spilled
    | none => spilled

/-- `.v` accesses numbered below `n` that a memory frame of core `k`'s task holds (R199). -/
def framedV (s : State) (k : Core) (n : Nat) : Bool := s.slots.any fun e => decide (e.tid = k.seq.tid) && e.vec.pendingV n

/-- What an order point orders after accesses on path `q`, on path `p`, still waits. Commands in the queues of the engines wait for what a
memory frame holds too; the accesses of the control core and of the vector engine do not, without which the fault's handler could not run
(DEDUCED: log entry 84). -/
def pointPending (s : State) (k : Core) (p q : Path) (n : Nat) : Bool :=
  pendingOn s k q n || (decide (q = .v ∧ p ≠ .s ∧ p ≠ .v) && framedV s k n)

/-- An access of core `k` on path `p` numbered `n` has to wait for an order point (R12, R170). -/
def heldByPoint (s : State) (k : Core) (p : Path) (n : Nat) : Bool :=
  k.vec.points.any fun o =>
    decide (o.num < n) &&
      ((decide (o.a = p) && pointPending s k p o.b o.num) || (decide (o.b = p) && pointPending s k p o.a o.num))

/-- Tagged `.v` stores of a vector state with tag `t` and a number below `n`. -/
def Vec.tagPending (v : Vec) (t n : Nat) : Bool :=
  v.vsq.any (fun x => decide (x.env.tag = t ∧ x.env.num < n)) || v.stores.any (fun x => decide (x.env.tag = t ∧ x.env.num < n)) ||
    v.defer.any (fun x => decide (x.env.tag = t ∧ x.env.num < n))

/-- Tagged operations of a core, not performed, with tag `t` and a number below `n` (R89). -/
def tagPending (s : State) (k : Core) (t n : Nat) : Bool :=
  decide (t ≠ 0) &&
    (s.copy.streams.any (fun x => decide (x.core = k.id ∧ x.tag = t ∧ x.num < n ∧ x.launch = 0)) ||
      s.near.any (fun x => decide (x.core = k.id ∧ x.env.tag = t ∧ x.env.num < n)) ||
      s.fab.ops.any (fun x => decide (x.core = k.id ∧ x.tag = t ∧ x.num < n)) || k.vec.tagPending t n)

/-- The same with what a memory frame of the core's task holds (R199), for which the commands of the engines' queues wait (DEDUCED: log
entry 84). -/
def tagHeld (s : State) (k : Core) (t n : Nat) : Bool :=
  tagPending s k t n || (decide (t ≠ 0) && s.slots.any fun e => decide (e.tid = k.seq.tid) && e.vec.tagPending t n)

/-- The counters of R11. -/
def cntLd (k : Core) : Nat :=
  (k.vec.vlq.filter fun e => match e.instr with | .vtld .. => false | _ => true).length + k.vec.loads.length

def cntSt (k : Core) : Nat :=
  let q := (k.vec.vsq.filter fun e => match e.instr with
    | .vtst .. | .vfence | .vfenceArr .. => false
    | _ => true).map fun e => e.env.num
  let f := (k.vec.stores.filter fun t => decide (t.arr = none ∧ t.instr ≠ .vfence)).map fun t => t.env.num
  let d := (k.vec.defer.filter fun d => match d.kind with | .table _ => false | _ => true).map fun d => d.env.num
  (q ++ f ++ d).eraseDups.length

def cntCp (s : State) (k : Core) : Nat :=
  (s.copy.streams.filter fun t => decide (t.core = k.id ∧ t.tid = k.seq.tid ∧ t.launch = 0)).length

def cntMx (k : Core) : Nat := k.mat.queue.length

/-! ## Signals (R116) -/

/-- Applies a change to a signal's value at its home (R74, R116): decrements saturate at −2^63, and a change that first takes
the value below 0 writes the abort code unless one is there. DESIGN CHOICE (log entry 56): a decrement by a negative operand saturates at
2^63 − 1. -/
def sigChange (pa : Nat) (f : Int → Int) (abcode : Nat) (s : State) : State :=
  let old := (BitVec.ofNat 64 (s.rd pa 8)).toInt
  let new := max (-(2 ^ 63 : Int)) (min (2 ^ 63 - 1) (f old))
  let s1 := s.wr pa 8 (ofInt 64 new)
  if new < 0 ∧ 0 ≤ old ∧ s.rd (pa + 8) 4 = 0 then s1.wr (pa + 8) 4 abcode else s1

def sigDec (pa : Nat) (n : Int) (abcode : Nat) (s : State) : State := sigChange pa (fun v => v - n) abcode s

/-- Sets a signal to −1 with an abort code (R117, R118, R345). DEDUCED (log entry 57): so too where it is below 0 already, which keeps its
abort code. -/
def sigAbort (pa : Nat) (abcode : Nat) (s : State) : State := if pa = 0 then s else sigChange pa (fun _ => -1) abcode s

/-- A skipped packet sets its signal to −1 with abort code 1; one below 0 already is left as it is (R118). -/
def sigSkip (pa : Nat) (s : State) : State :=
  if (BitVec.ofNat 64 (s.rd pa 8)).toInt < 0 then s else sigAbort pa 1 s

def sigValue (s : State) (pa : Nat) : Int := (BitVec.ofNat 64 (s.rd pa 8)).toInt

/-- Enters a waiter in a signal's list, or sets ovf (R116). The entry holds its kind in bits 63:62. -/
def addWaiter (pa entry : Nat) (s : State) : State :=
  let es := (List.range 4).map fun i => s.rd (pa + 32 + 8 * i) 8
  if es.contains entry then s
  else
    match (List.range 4).find? fun i => decide (es.getD i 0 = 0) with
    | some i => s.wr (pa + 32 + 8 * i) 8 entry
    | none => s.wr (pa + 31) 1 (s.rd (pa + 31) 1 % 128 + 128)

def delWaiter (pa entry : Nat) (s : State) : State :=
  (List.range 4).foldl (fun t i => if t.rd (pa + 32 + 8 * i) 8 = entry then t.wr (pa + 32 + 8 * i) 8 0 else t) s

def coreWaiter (c : Nat) : Nat := 2 ^ 63 + c
def queueWaiter (q : Nat) : Nat := 2 ^ 62 + q

/-! ## Atomics at a home elsewhere -/

/-- One atomic request to host or peer memory, and its answer. -/
def remoteAtomic (pa n : Nat) (op : AtomicOp) (s : State) : Got × State :=
  answer n (send s (OutMsg.atomic (remoteOf s pa).1 (remoteOf s pa).2 n op))

/-- A request whose answer nobody waits for: it goes out at once, waits while channel 2 of its port is paused, or is lost where no port
leads there (R308, R316). -/
def postAtomic (pa : Nat) (op : AtomicOp) (s : State) : State :=
  if wayOpen s pa 2 then (remoteAtomic pa 8 op s).2
  else if routes s (bits pa 45 6) then { s with fab := { s.fab with posts := s.fab.posts ++ [(pa, op)] } }
  else s

/-- What waits for a port goes out where it can now. -/
def flushPosts (s : State) : State :=
  s.fab.posts.foldl (fun u x => postAtomic x.1 x.2 u) { s with fab := { s.fab with posts := [] } }

/-! ## A chip out of reach (R331, R337) -/

/-- The engine of an address is on a chip out of reach. -/
def engineLost (s : State) (pa : Nat) : Bool :=
  match place pa with
  | .tier c => chipDown s c
  | _ => false

/-- A task's launch ends with TIER_LOST. -/
def tierLost (launch : Nat) (s : State) : State :=
  if launch = 0 ∨ s.fe.lostLaunch.contains (launch, 10) then s
  else setFe s { s.fe with lostLaunch := s.fe.lostLaunch ++ [(launch, 10)] }

def isPad (pa : Nat) : Bool :=
  match place pa with
  | .pad _ _ => true
  | _ => false

def isRemote (pa : Nat) : Bool :=
  match place pa with
  | .remote _ => true
  | _ => false

/-! ## Marks of vector words (R325, R326) -/

/-- The marks of some vector words are gone, with those that a replay would have removed. -/
def dropPsn (p : Nat × Nat → Bool) (k : Core) : Core :=
  { k with psnV := k.psnV.filter fun x => !p x, psnT := k.psnT.filter fun x => !p x }

/-- Vector words take marks that come with their data: the recheck copies hold the same (R326). -/
def addPsn (ws : List (Nat × Nat)) (k : Core) : Core :=
  let t := dropPsn (fun x => ws.contains x) k
  { t with psnV := ws ++ t.psnV }

/-! ## The control-core caches (R5, R73) -/

/-- The lines of 64 bytes that the instruction cache of 48 KiB and the data cache of 16 KiB hold (R5). -/
def icacheLines : Nat := 768
def dcacheLines : Nat := 256

/-- A line of the device's memory enters the data cache. -/
def dcFill (b : Nat) (s : State) : State :=
  let q := s.core.seq
  setSeq s { q with dcache := ((b, s.rd b 64) :: q.dcache.filter fun e => decide (e.1 ≠ b)).take dcacheLines }

def dcDrop (s : State) : State := setSeq s { s.core.seq with dcache := [] }

/-- Updates the cached copy of the line an own access has touched (R73). -/
def dcUpdate (pa : Nat) (s : State) : State :=
  let b := pa / 64 * 64
  setSeq s { s.core.seq with dcache := s.core.seq.dcache.map fun e => if e.1 = b then (b, s.rd b 64) else e }

end Sys2Proof.Machine
end

