-- ==== Sys2Proof/Machine/MatOps.lean ====
section
/-! DEFINITION. The matrix queue (R269, R270), the operand checks of its commands (R267, R268), tiles (R266), and what each
command does when it completes (R274 to R281, R286 to R292). -/

namespace Sys2Proof.Machine

/-- What a command touches: operand bases and pitches to check, byte ranges read and written (window addresses), tiles read
and written, and its unit (R267, R269). -/
structure MUse where
  bases : List Word := []
  pitches : List (Nat × Word) := []
  rd : List (Nat × Nat) := []
  wr : List (Nat × Nat) := []
  tr : List Nat := []
  tw : List Nat := []
  unit : MUnit := .array
  deriving DecidableEq, Repr

def tileRange (f l : Tile) : List Nat := (List.range (l.toNat + 1 - f.toNat)).map fun k => f.toNat + k

/-- K of MMA, MMAS and MMAC (R276). -/
def mmaK (t : ETy) : Nat := if t = .f32 then 32 else 64

/-- The byte length of `n` elements of a type (R54). -/
def elemBytes (t : ETy) (n : Nat) : Nat := (t.width * n + 7) / 8

/-- Rows of an operand: base, pitch, bytes of a row, row count (R268). -/
def rowRanges (base pitch len rows : Nat) : List (Nat × Nat) := (List.range rows).map fun i => (base + i * pitch, len)

/-- The pitches of MMA's operands (R268): a half of the leading-dimension register, or the dense one. -/
def pitchA (t : ETy) (ta : Bool) (ld : Word) : Nat :=
  let p := ld.toNat % 2 ^ 32
  if p = 0 then elemBytes t (if ta then 64 else mmaK t) else p

def pitchB (t : ETy) (tb : Bool) (ld : Word) : Nat :=
  let p := ld.toNat / 2 ^ 32
  if p = 0 then elemBytes t (if tb then mmaK t else 64) else p

/-- Rows drained by MDRAIN to a vector register (R281). -/
def drainRows (t : ETy) : Nat := 128 / t.width

/-- What a matrix or Fennel command touches, from the registers it captured (R267 to R292). -/
def mUse (i : Instr) (x : List Word) : MUse :=
  let a := fun (k : Nat) => (x.getD k 0)
  let n := fun (k : Nat) => (x.getD k 0).toNat
  match i with
  | .mzero f l => { tw := tileRange f l, unit := .port }
  | .mma t _ _ ty _ ta tb =>
    let k := mmaK ty
    { bases := [a 0, a 1], pitches := [((a 2).toNat % 2 ^ 32, a 2), ((a 2).toNat / 2 ^ 32, a 2)],
      rd := rowRanges (n 0) (pitchA ty ta (a 2)) (elemBytes ty (if ta then 64 else k)) (if ta then k else 64) ++
        rowRanges (n 1) (pitchB ty tb (a 2)) (elemBytes ty (if tb then k else 64)) (if tb then 64 else k),
      tr := [t.toNat], tw := [t.toNat] }
  | .mmaq t _ _ _ ta tb g =>
    { bases := [a 0, a 1, a 2],
      rd := [(n 0, elemBytes ta (64 * g.size)), (n 1, elemBytes tb (64 * g.size)), (n 2, 128)], tw := [t.toNat] }
  | .mmas t _ _ _ ty =>
    let k := mmaK ty
    { bases := [a 0, a 1, a 2], rd := [(n 0, elemBytes ty (64 * k)), (n 1, elemBytes ty (32 * k)), (n 2, 8 * k)],
      tr := [t.toNat], tw := [t.toNat] }
  | .mmac _ t src _ ty =>
    { bases := [a 0], rd := [(n 0, elemBytes ty 4096)], tr := [t.toNat, src.toNat], tw := [t.toNat] }
  | .mscale t src _ _ =>
    { bases := [a 0, a 1], rd := [(n 0, 128), (n 1, 128)], tr := [t.toNat, src.toNat], tw := [t.toNat] }
  | .mld t _ _ => { bases := [a 0], rd := [(n 0, 16384)], tw := [t.toNat], unit := .port }
  | .mst t _ _ => { bases := [a 0], wr := [(n 0, 16384)], tr := [t.toNat], unit := .port }
  | .mdrain _ t tgt ty =>
    match tgt with
    | .pad _ => { bases := [a 0], wr := [(n 0, 4096 * (ty.width / 8))], tr := [t.toNat], unit := .port }
    | .vec _ _ => { tr := [t.toNat], unit := .port }
  | .pdrain f l _ _ _ rb _ oty =>
    let len := 64 * (l.toNat - f.toNat + 1)
    { bases := if rb = 0 then [a 0] else [a 0, a 3],
      wr := (n 0, 64 * len * OutTy.size oty) :: (if rb = 0 then [] else [(n 3, 32768)]), tr := tileRange f l, unit := .port }
  | .padj _ _ _ _ oty =>
    let len := (a 3).toNat % 2048
    let rows := bits (a 3).toNat 16 7
    -- the forward rows of L2BALL records, which the checks cover whatever the records turn out to be (DEDUCED: log entry 68)
    { bases := [a 0, a 1, a 2], rd := [(n 0, 512 * rows), (n 1, 4 * len * rows), (n 2, 4 * len * rows)],
      wr := [(n 2, len * rows * OutTy.size oty)], unit := .port }
  | .pstat f l _ _ _ => { bases := [a 1], wr := [(n 1, 8192)], tr := tileRange f l, unit := .port }
  | .pfix f l _ _ _ oty =>
    { bases := [a 0, a 1], rd := [(n 0, 1024)], wr := [(n 1, 4096 * (l.toNat - f.toNat + 1) * OutTy.size oty)],
      tr := tileRange f l, unit := .port }
  | .prld _ nm1 =>
    { bases := [a 0, a 1], rd := [(n 0, 408 * (nm1.toNat + 1))], wr := [(n 1, 512 * (nm1.toNat + 1))], unit := .port }
  | .prst _ nm1 =>
    { bases := [a 0, a 1], rd := [(n 1, 512 * (nm1.toNat + 1))], wr := [(n 0, 408 * (nm1.toNat + 1))], unit := .port }
  | _ => {}

/-- The first byte of ranges outside [lo, hi). -/
def firstOutside (lo hi : Nat) : List (Nat × Nat) → Option Nat
  | [] => none
  | (b, n) :: r =>
    if n = 0 then firstOutside lo hi r
    else if b < lo ∨ hi ≤ b then some b
    else if hi < b + n then some hi
    else firstOutside lo hi r

/-- The checks of R267, in order: cause and `sys.tval` of the first that fails. -/
def mCheck (u : MUse) (spsize : Nat) : Option (Nat × Word) :=
  match u.bases.find? fun b => decide (b.toNat % 64 ≠ 0) with
  | some b => some (0x09, b)
  | none =>
    match u.pitches.find? fun p => decide (p.1 % 16 ≠ 0) with
    | some p => some (0x09, p.2)
    | none =>
      match firstOutside windowBase (2 ^ 57) (u.rd ++ u.wr) with
      | some b => some (0x24, BitVec.ofNat 64 b)
      | none => (firstOutside windowBase (windowBase + spsize * 1024) (u.rd ++ u.wr)).map fun b => (0x27, BitVec.ofNat 64 b)

/-- The registers a command reads at dispatch, in the order its meaning numbers them (R267, R283, R289 to R292). -/
def mRegs (s : State) : Instr → List Word
  | .mma _ a b _ ld _ _ => [getS s a, getS s b, getS s ld]
  | .mmaq _ a b z _ _ _ => [getS s a, getS s b, getS s z]
  | .mmas _ a b md _ => [getS s a, getS s b, getS s md]
  | .mmac _ _ _ b _ => [getS s b]
  | .mscale _ _ a b => [getS s a, getS s b]
  | .mld _ b disp => [getS s b + disp.signExtend 64]
  | .mst _ b disp => [getS s b + disp.signExtend 64]
  | .mdrain _ _ tgt _ =>
    match tgt with
    | .pad b => [getS s b]
    | .vec _ _ => []
  | .pdrain _ _ _ o p rb _ _ => [getS s o, getS s p, getS s (p + 1), getS s rb]
  | .padj rb g o ln _ => [getS s rb, getS s g, getS s o, getS s ln]
  | .pstat _ _ _ p o => [getS s p, getS s o]
  | .pfix _ _ _ th o _ => [getS s th, getS s o]
  | .prld b _ => [getS s b, getS s (b + 1)]
  | .prst b _ => [getS s b, getS s (b + 1)]
  | _ => []

/-- The parameter values a set allows (R283): the register value of the first that is illegal. -/
def parBad (set : PSet) (p hi : Word) : Option Word :=
  let lowV := decodeF .f32 (p.toNat % 2 ^ 32)
  let hiV := decodeF .f32 (hi.toNat % 2 ^ 32)
  let neg := fun v => decide (fix149 v < 0) || decide (v = FVal.inf true)
  match set with
  | .simplex | .l1ball => if lowV.isNan || lowV.isInf || neg lowV then some p else none
  | .l2ball => if lowV.isNan || neg lowV then some p else none
  | .box =>
    if lowV.isNan then some p
    else if hiV.isNan then some hi
    else if orderKey hiV < orderKey lowV then some hi
    else none
  | _ => none

/-- A parameter as its set takes it: −0 stands for +0 (R283). -/
def parOf (set : PSet) (p : Nat) : Nat :=
  match set with
  | .simplex | .l1ball => if p % 2 ^ 32 = 2 ^ 31 then 0 else p % 2 ^ 32
  | _ => p % 2 ^ 32

/-- The illegal-instruction checks of a command that depend on its register values (R283, R289, R290): the value charged. -/
def mIllegal (i : Instr) (x : List Word) : Option Word :=
  let a := fun (k : Nat) => (x.getD k 0)
  match i with
  | .pdrain _ _ set _ _ _ _ _ => parBad set (a 1) (a 2)
  | .padj _ _ _ _ _ =>
    let len := (a 3).toNat % 2048
    let rows := bits (a 3).toNat 16 7
    if (a 3).toNat = len + rows * 2 ^ 16 ∧ len % 64 = 0 ∧ 64 ≤ len ∧ len ≤ 1536 ∧ 1 ≤ rows ∧ rows ≤ 64 then none else some (a 3)
  | .pstat _ _ _ _ _ =>
    let lo := decodeF .f32 ((a 0).toNat % 2 ^ 32)
    let hi := decodeF .f32 ((a 0).toNat / 2 ^ 32)
    if lo.isNan || hi.isNan || decide (realKey hi < realKey lo) then some (a 0) else none
  | _ => none

/-- What a command captures of the vector state at dispatch (R204, R278, R281). -/
def captureEnv (s : State) (head : Nat) (ps : Bool) (x y : Word) (tag : Nat) : VEnv :=
  let v := s.core.vec
  { seqn := v.seqn, num := v.num + 1, pc := s.core.seq.pc, head := head, vl := v.vl.toNat, vtype := v.vtype.toNat,
    vseed := v.vseed, vbase := v.vbase, vfill := v.vfill,
    rot := ((s.core.seq.loops.find? fun e => e.loopr).map LoopEntry.rot).getD 0,
    ps := ps, slip := v.slip, x := x, y := y, tag := tag }

/-- The checks of a command at a head (R267, R283): a cause and `sys.tval`, or the command as it enters the queue. -/
def mPrep (i : Instr) (head : Nat) (s : State) : Except (Nat × Word) MEntry :=
  let x := mRegs s i
  match mIllegal i x with
  | some v => .error (0x01, v)
  | none =>
    let u := mUse i x
    match mCheck u s.core.seq.eff.spsize with
    | some c => .error c
    | none => .ok { id := s.core.mat.nextId, instr := i, env := captureEnv s head true 0 0 0, x := x, unit := u.unit }

def pushMat (e : MEntry) (s : State) : State :=
  setMat (bumpNum s) { s.core.mat with queue := s.core.mat.queue ++ [e], nextId := s.core.mat.nextId + 1 }

/-- Dispatch of a matrix or Fennel command (R267, R269): its checks, then the queue of 16, which holds dispatch when full. -/
def dispatchMat (i : Instr) (s : State) : Out :=
  match mPrep i (curHead s) s with
  | .error (c, v) => trapHere c v s
  | .ok e =>
    if 16 ≤ (s.core.mat.queue.filter fun q => !q.issued && q.stream.isNone).length then stall false s
    else done (pushMat e s)

def overlaps (a b : List (Nat × Nat)) : Bool :=
  a.any fun x => b.any fun y => decide (x.1 < y.1 + y.2) && decide (y.1 < x.1 + x.2) && decide (0 < x.2) && decide (0 < y.2)

/-- The vector registers a command reads or writes as the scoreboard sees them (R270, R286): slots v0-v63, o0-o7 from 64,
`msat` as 95. -/
def mVecRegs (e : MEntry) : List Nat :=
  let slot := fun (d : VDst) => match d with
    | .v r => if 48 ≤ r.toNat then [48 + (r.toNat - 48 + e.env.rot) % 16] else [r.toNat]
    | .o r => [64 + r.toNat]
    | .nil => []
  match e.instr with
  | .mdrain _ _ (.vec d _) _ => 95 :: slot d
  | .pdrain _ _ _ _ _ _ vd _ => slot vd
  | _ => []

/-- The conditions of R269 and R258 between a command and an older one that has not completed. -/
def mBlocks (e older : MEntry) : Bool :=
  let u := mUse e.instr e.x
  let v := mUse older.instr older.x
  let tiles := fun (a b : List Nat) => a.any fun t => b.contains t
  let follow := older.stream.isSome || e.stream.isSome
  let cross := decide (u.unit ≠ v.unit)
  (cross && (tiles (u.tr ++ u.tw) v.tw || tiles u.tw v.tr)) ||
    (follow && tiles (u.tr ++ u.tw) (v.tr ++ v.tw)) ||
    overlaps u.rd v.wr || overlaps u.wr (v.rd ++ v.wr)

/-! ## Tiles -/

def tileBits (m : Mat) (t : Nat) : Nat := (m.a[t]?.getD 0).toNat

def tileWord (x i j : Nat) : Nat := elem x 32 (64 * i + j)

/-- A tile whose words are `f i j`, and the flags of all of them. -/
def tileMap (f : Nat → Nat → Nat × Flags) : BitVec 131072 × Flags :=
  (BitVec.ofNat 131072 (packElems 32 (fun n => (f (n / 64) (n % 64)).1) 4096),
    orFlags ((List.range 4096).map fun n => (f (n / 64) (n % 64)).2))

def setTile (m : Mat) (t : Nat) (x : BitVec 131072) : Mat := { m with a := m.a.setIfInBounds t x }

/-- Bytes of the scratchpad share of a core at a window address, as a number. -/
def padRead (s : State) (k : Core) (va n : Nat) : Nat := s.rd (padAddr k.id k.seq.eff (va - windowBase)) n

def padWrite (s : State) (k : Core) (va n x : Nat) : State := s.wr (padAddr k.id k.seq.eff (va - windowBase)) n x

/-- Element (r, c) of an operand of rows `pitch` bytes apart (R268): nibbles count in half bytes. -/
def opElem (s : State) (k : Core) (t : ETy) (base pitch r c : Nat) : Nat :=
  if t = .q4 then (padRead s k (base + r * pitch + c / 2) 1) / 16 ^ (c % 2) % 16
  else padRead s k (base + r * pitch + c * (t.width / 8)) (t.width / 8)

/-- The window sums of an MMA over operands given as values (R276). -/
def mmaTile (tile k : Nat) (a b : Nat → Nat → FVal) : BitVec 131072 × Flags :=
  tileMap fun i j => windowSum (decodeF .f32 (tileWord tile i j) :: (List.range k).map fun q => mulTerm (a i q) (b q j))

def mmaRun (s : State) (k : Core) (t : Tile) (ty : ETy) (ta tb : Bool) (x : List Word) : BitVec 131072 × Flags :=
  let n := fun q => (x.getD q 0).toNat
  let pa := pitchA ty ta (x.getD 2 0)
  let pb := pitchB ty tb (x.getD 2 0)
  mmaTile (tileBits k.mat t.toNat) (mmaK ty)
    (fun i q => decodeF ty (if ta then opElem s k ty (n 0) pa q i else opElem s k ty (n 0) pa i q))
    (fun q j => decodeF ty (if tb then opElem s k ty (n 1) pb j q else opElem s k ty (n 1) pb q j))

/-- A metadata entry of MMAS (R277). -/
def metaEntry (s : State) (k : Core) (base g j : Nat) : Nat :=
  let n := 64 * g + j
  padRead s k (base + n / 2) 1 / 16 ^ (n % 2) % 16

def mmasRun (s : State) (k : Core) (t : Tile) (ty : ETy) (x : List Word) : BitVec 131072 × Flags × Option Nat :=
  let n := fun q => (x.getD q 0).toNat
  let kk := mmaK ty
  let bad := (List.range (kk / 4 * 64)).filter fun q =>
    let e := metaEntry s k (n 2) (q / 64) (q % 64)
    decide (e % 4 = e / 4)
  let b := fun r j =>
    let e := metaEntry s k (n 2) (r / 4) j
    if e % 4 = e / 4 then .fin false 0 0
    else if r % 4 = e % 4 then decodeF ty (opElem s k ty (n 1) (elemBytes ty 64) (2 * (r / 4)) j)
    else if r % 4 = e / 4 then decodeF ty (opElem s k ty (n 1) (elemBytes ty 64) (2 * (r / 4) + 1) j)
    else .fin false 0 0
  let (o, f) := mmaTile (tileBits k.mat t.toNat) kk (fun i q => decodeF ty (opElem s k ty (n 0) (elemBytes ty kk) i q)) b
  (o, f ||| fSM.when (!bad.isEmpty), bad.head?)

def mmacRun (s : State) (k : Core) (e : MEntry) (rm : Rm) (t src : Tile) (ty : ETy) : BitVec 131072 × Flags :=
  let n := (e.x.getD 0 0).toNat
  let sb := tileBits k.mat src.toNat
  let conv := fun i q => cvtFF ty rm (rhoOf e.env.vseed e.env.vbase (64 * i + q)) (bitAt e.env.vtype 7) (decodeF .f32 (tileWord sb i q))
  let (o, f) := mmaTile (tileBits k.mat t.toNat) 64 (fun i q => decodeF ty (conv i q).1)
    (fun q j => decodeF ty (opElem s k ty n (elemBytes ty 64) q j))
  (o, f ||| orFlags ((List.range 4096).map fun q => (conv (q / 64) (q % 64)).2))

def mmaqRun (s : State) (k : Core) (ta tb : ETy) (g : Grp) (x : List Word) : BitVec 131072 × Flags :=
  let n := fun q => (x.getD q 0).toNat
  let gs := g.size
  tileMap fun i j =>
    let za : Int := if ta = .s8 then 0 else padRead s k (n 2 + i) 1
    let zb := padRead s k (n 2 + 64 + j) 1
    if tb = .q4 ∧ 15 < zb then (0, fIV)
    else
      let v := ((List.range gs).map fun q =>
        (toInt (if ta = .s8 then .s8 else .z8) (opElem s k ta (n 0) gs i q) - za) *
          ((opElem s k tb (n 1) (elemBytes tb 64) q j : Int) - zb)).sum
      (ofInt 32 v, 0)

/-- MSCALE. A term has three factors, which fold from the left (R69 does not say; DESIGN CHOICE: log entry 74). -/
def mscaleRun (s : State) (k : Core) (t src : Tile) (x : List Word) : BitVec 131072 × Flags :=
  let n := fun q => (x.getD q 0).toNat
  let f := tileBits k.mat t.toNat
  let p := tileBits k.mat src.toNat
  tileMap fun i j =>
    let v := toInt .s32 (tileWord p i j)
    let pv : FVal := .fin (decide (v < 0)) v.natAbs 0
    windowSum [decodeF .f32 (tileWord f i j),
      mulTerm (mulTerm pv (decodeF .f16 (padRead s k (n 0 + 2 * i) 2))) (decodeF .f16 (padRead s k (n 1 + 2 * j) 2))]

/-! ## Effects on vector registers -/

/-- The slot a destination names under a rotation base (R182): v0-v63, o0-o7 from 64. -/
def dstSlot (rot : Nat) : VDst → Option Nat
  | .v r => some (if 48 ≤ r.toNat then 48 + (r.toNat - 48 + rot) % 16 else r.toNat)
  | .o r => some (64 + r.toNat)
  | .nil => none

def regImg (v : Vec) (slot : Nat) : Nat :=
  if slot < 64 then (v.v[slot]?.getD 0).toNat else if slot < 72 then (v.o[slot - 64]?.getD 0).toNat
  else (v.l[slot - 72]?.getD 0).toNat

def presImg (v : Vec) (slot : Nat) : Nat :=
  if slot < 64 then (v.pv[slot]?.getD 0).toNat else if slot < 72 then (v.po[slot - 64]?.getD 0).toNat
  else (v.pl[slot - 72]?.getD 0).toNat

def setReg (v : Vec) (slot x pres : Nat) : Vec :=
  if slot < 64 then { v with v := v.v.setIfInBounds slot (BitVec.ofNat 8192 x), pv := v.pv.setIfInBounds slot (BitVec.ofNat 1024 pres) }
  else if slot < 72 then
    { v with o := v.o.setIfInBounds (slot - 64) (BitVec.ofNat 8192 x), po := v.po.setIfInBounds (slot - 64) (BitVec.ofNat 1024 pres) }
  else { v with l := v.l.setIfInBounds (slot - 72) (BitVec.ofNat 8192 x), pl := v.pl.setIfInBounds (slot - 72) (BitVec.ofNat 1024 pres) }

/-- Bits [lo, lo + w) of `x` replaced. -/
def putBits (x lo w y : Nat) : Nat := x - x / 2 ^ lo % 2 ^ w * 2 ^ lo + y % 2 ^ w * 2 ^ lo

/-- The first byte of element `e` and how many presence bits it has (R185). -/
def presLo (w e : Nat) : Nat := w * e / 8
def presLen (w : Nat) : Nat := max (w / 8) 1

/-- Pending fills of bits lo to lo + n − 1 of a register lose their write (R189). -/
def loseFills (v : Vec) (slot lo n : Nat) : Vec :=
  { v with holes := v.holes.map fun h =>
      if h.dest = some slot ∧ h.w * h.elem < lo + n ∧ lo < h.w * h.elem + h.w then { h with live := false } else h }

/-- Writes element `e` of a register, present, and ends any pending fill of it (R185, R189). -/
def putElem (v : Vec) (slot w e x : Nat) : Vec :=
  loseFills (setReg v slot (putBits (regImg v slot) (w * e) w x)
    (putBits (presImg v slot) (presLo w e) (presLen w) (2 ^ presLen w - 1))) slot (w * e) w

/-- Writes elements 0 to n − 1 (R281, R286). -/
def putElems (v : Vec) (slot w : Nat) : List Nat → Nat → Vec
  | [], _ => v
  | x :: r, e => putElems (putElem v slot w e x) slot w r (e + 1)

/-- A mask register as its instruction reads it: `m0` is all ones (R44). -/
def maskImg (v : Vec) (m : MReg) : Nat := if m = 0 then 2 ^ 1024 - 1 else (v.m[m.toNat]'m.isLt).toNat

/-- A write to `m0` is discarded (R39). -/
def setMask (v : Vec) (m : MReg) (x : Nat) : Vec :=
  if m = 0 then v else { v with m := v.m.set m.toNat (BitVec.ofNat 1024 x) m.isLt }

/-! ## What a command does when it completes -/

/-- The FP32 words of row `i` of a tile group (R282). -/
def groupRow (m : Mat) (f l : Tile) (i : Nat) : List FVal :=
  (tileRange f l).flatMap fun t => (List.range 64).map fun j => decodeF .f32 (tileWord (tileBits m t) i j)

/-- A row of outputs as bytes. -/
def packRow (w : Nat) (ys : List Nat) : Nat := packElems w (fun c => ys.getD c 0) ys.length

/-- The effect of a command on core `k` (the current one): the state with tiles, scratchpad and vector registers written, its
flags, and the index of SM if it sets one (R271). -/
def mRun (e : MEntry) (s : State) : State × Flags × Option Nat :=
  let k := s.core
  let n := fun (q : Nat) => (e.x.getD q 0).toNat
  let tile := fun (t : Tile) (r : BitVec 131072 × Flags) =>
    ((setMat s (setTile k.mat t.toNat r.1), r.2, none) : State × Flags × Option Nat)
  match e.instr with
  | .mzero f l => (setMat s ((tileRange f l).foldl (fun m t => setTile m t 0) k.mat), 0, none)
  | .mma t _ _ ty _ ta tb => tile t (mmaRun s k t ty ta tb e.x)
  | .mmaq t _ _ _ ta tb g => tile t (mmaqRun s k ta tb g e.x)
  | .mmas t _ _ _ ty =>
    let (o, f, i) := mmasRun s k t ty e.x
    (setMat s (setTile k.mat t.toNat o), f, i)
  | .mmac rm t src _ ty => tile t (mmacRun s k e rm t src ty)
  | .mscale t src _ _ => tile t (mscaleRun s k t src e.x)
  | .mld t _ _ => (setMat s (setTile k.mat t.toNat (BitVec.ofNat 131072 (padRead s k (n 0) 16384))), 0, none)
  | .mst t _ _ => (padWrite s k (n 0) 16384 (tileBits k.mat t.toNat), 0, none)
  | .mdrain rm t tgt ty =>
    let x := tileBits k.mat t.toNat
    let conv := fun i j => if ty = .s32 then (tileWord x i j, (0 : Flags))
      else cvtFF ty rm (rhoOf e.env.vseed e.env.vbase (64 * i + j)) (bitAt e.env.vtype 7) (decodeF .f32 (tileWord x i j))
    match tgt with
    | .pad _ =>
      (padWrite s k (n 0) (4096 * (ty.width / 8)) (packElems ty.width (fun q => (conv (q / 64) (q % 64)).1) 4096),
        orFlags ((List.range 4096).map fun q => (conv (q / 64) (q % 64)).2), none)
    | .vec d row0 =>
      let cnt := 64 * drainRows ty
      let outs := (List.range cnt).map fun q => conv (row0.toNat + q / 64) (q % 64)
      match dstSlot e.env.rot d with
      | none => (s, 0, none)
      | some slot =>
        let v := putElems k.vec slot ty.width (outs.map Prod.fst) 0
        let sat := bitMap (fun q => decide ((outs.getD q (0, 0)).2 &&& fSAT ≠ 0)) cnt
        (setVec s (setMask v 15 (Nat.lor (maskImg v 15) sat)), orFlags (outs.map Prod.snd), none)
  | .pdrain f l set _ _ rb vd oty =>
    let len := 64 * (l.toNat - f.toNat + 1)
    let par := parOf set (n 1)
    let hi := n 2 % 2 ^ 32
    let par' := match set with | .none | .monoUp | .monoDn => 0 | _ => par
    let rows := (List.range 64).map fun i =>
      projRow set oty (groupRow k.mat f l i) (decodeF .f32 par) (decodeF .f32 hi)
    let w := (OutTy.ety oty).width
    let row := fun i => rows.getD i { ys := [], count := 0 }
    let s1 := (List.range 64).foldl (fun t i =>
      let t1 := padWrite t k (n 0 + i * len * (w / 8)) (len * (w / 8)) (packRow w (row i).ys)
      if rb = 0 then t1
      else padWrite t1 k (n 3 + 512 * i) 512
        (recordImage set (l.toNat - f.toNat + 1) par' (if set = .box then hi else 0) len (row i))) s
    let s2 := match dstSlot e.env.rot vd with
      | none => s1
      | some slot => setVec s1 (putElems s1.core.vec slot 32 (rows.map PRow.count) 0)
    (s2, orFlags (rows.map PRow.flags), none)
  | .padj _ _ _ _ oty =>
    let len := n 3 % 2048
    let cnt := bits (n 3) 16 7
    let w := (OutTy.ety oty).width
    let fl := fun (base i : Nat) => (List.range len).map fun c => decodeF .f32 (padRead s k (base + 4 * len * i + 4 * c) 4)
    let outs := (List.range cnt).map fun i => adjRow oty (padRead s k (n 0 + 512 * i) 512) (fl (n 1) i) (fl (n 2) i)
    ((List.range cnt).foldl (fun t i => padWrite t k (n 2 + i * len * (w / 8)) (len * (w / 8)) (packRow w (outs.getD i ([], 0)).1)) s,
      orFlags (outs.map Prod.snd), none)
  | .pstat f l set _ _ =>
    ((List.range 64).foldl (fun t i => padWrite t k (n 1 + 128 * i) 128
      (statEntry (decide (set = .l1ball)) (groupRow k.mat f l i) (decodeF .f32 (n 0 % 2 ^ 32)) (decodeF .f32 (n 0 / 2 ^ 32)))) s, 0, none)
  | .pfix f l set _ _ oty =>
    let len := 64 * (l.toNat - f.toNat + 1)
    let w := (OutTy.ety oty).width
    let outs := (List.range 64).map fun i => fixRow set oty (groupRow k.mat f l i) (padRead s k (n 0 + 16 * i) 16)
    ((List.range 64).foldl (fun t i => padWrite t k (n 1 + i * len * (w / 8)) (len * (w / 8)) (packRow w (outs.getD i ([], 0)).1)) s,
      orFlags (outs.map Prod.snd), none)
  | .prst _ nm1 =>
    (((List.range (nm1.toNat + 1)).foldl (fun (acc : State × Nat) q =>
      let (p, c) := packRecord (padRead s k (n 1 + 512 * q) 512)
      (padWrite acc.1 k acc.2 c p, acc.2 + c)) (s, n 0)).1, 0, none)
  | .prld _ nm1 =>
    (((List.range (nm1.toNat + 1)).foldl (fun (acc : State × Nat) q =>
      let (p, c) := unpackRecord (padRead s k acc.2 408)
      (padWrite acc.1 k (n 1 + 512 * q) 512 p, acc.2 + c)) (s, n 0)).1, 0, none)
  | _ => (s, 0, none)

/-- PADJ reads the forward row that a record asks for: a projected L2BALL row of its length (R289). -/
def readsForward (len rec : Nat) : Bool :=
  decide (bits rec 64 3 = 3) && bitAt rec 72 && !bitAt rec 73 && decide (bits rec 48 16 = len) && !recordReserved rec

/-- The bytes a command reads: PADJ's forward rows as its records ask for them (R289), and of records to pack or unpack what their T bytes
cover (R292). -/
def mReads (s : State) (k : Core) (e : MEntry) : List (Nat × Nat) :=
  match e.instr with
  | .padj .. =>
    let n := fun (q : Nat) => (e.x.getD q 0).toNat
    let len := n 3 % 2048
    let rows := bits (n 3) 16 7
    [(n 0, 512 * rows), (n 1, 4 * len * rows)] ++
      (((List.range rows).filter fun i => readsForward len (padRead s k (n 0 + 512 * i) 512)).map fun i => (n 2 + 4 * len * i, 4 * len))
  | .prst _ nm1 =>
    (List.range (nm1.toNat + 1)).flatMap fun q =>
      let w := (e.x.getD 1 0).toNat + 512 * q
      let t := ((packRecord (padRead s k w 512)).2 - 24) / 16
      [(w, 24), (w + 64, 8 * t), (w + 256, 8 * t)]
  | .prld _ nm1 =>
    ((List.range (nm1.toNat + 1)).foldl (fun (acc : List (Nat × Nat) × Nat) _ =>
      let c := (unpackRecord (padRead s k acc.2 408)).2
      (acc.1 ++ [(acc.2, c)], acc.2 + c)) ([], (e.x.getD 0 0).toNat)).1
  | _ => (mUse e.instr e.x).rd

/-- Poison a command consumes (R326): a poisoned operand byte or tile word of every command but the ones that move data. -/
def mConsumes (s : State) (k : Core) (e : MEntry) : Bool :=
  let u := mUse e.instr e.x
  let moves := match e.instr with
    | .mld .. | .mst .. | .mdrain .. | .pdrain .. => true
    | _ => false
  !moves && ((mReads s k e).any (fun r => isPoisoned s (padAddr k.id k.seq.eff (r.1 - windowBase)) r.2) ||
    k.psnA.any fun p => u.tr.contains p.1)

/-- Poison that a moving command carries along (R325, R326), the counts of poisoned rows included, and marks that full writes clear. -/
def mMovePoison (e : MEntry) (src : State) (s : State) : State :=
  let k := src.core
  let u := mUse e.instr e.x
  let pa := fun (b : Nat) => padAddr k.id k.seq.eff (b - windowBase)
  let s1 := { s with core := { s.core with psnA := s.core.psnA.filter fun p => !(u.tw.contains p.1) } }
  match e.instr with
  | .mld t _ _ =>
    let base := pa (e.x.getD 0 0).toNat
    let ws := (List.range 4096).filter fun w => isPoisoned src (base + 4 * w) 4
    { s1 with core := { s1.core with psnA := (ws.map fun w => (t.toNat, w)) ++ s1.core.psnA } }
  | .mst t _ _ =>
    let base := pa (e.x.getD 0 0).toNat
    (k.psnA.filter fun p => decide (p.1 = t.toNat)).foldl (fun t p => markPoison t (base + 4 * p.2) 4) s1
  | .mdrain _ t (.pad _) ty =>
    let base := pa (e.x.getD 0 0).toNat
    (k.psnA.filter fun p => decide (p.1 = t.toNat)).foldl (fun t p => markPoison t (base + ty.width / 8 * p.2) (ty.width / 8)) s1
  | .mdrain _ t (.vec d row0) ty =>
    match dstSlot e.env.rot d with
    | none => s1
    | some slot =>
      let ws := (k.psnA.filter fun p => decide (p.1 = t.toNat) && decide (64 * row0.toNat ≤ p.2) &&
        decide (p.2 < 64 * row0.toNat + 64 * drainRows ty)).map fun p => (slot, (p.2 - 64 * row0.toNat) * ty.width / 64)
      { s1 with core := addPsn ws (dropPsn (fun p => decide (p.1 = slot)) s1.core) }
  | .pdrain f l _ _ _ rb vd oty =>
    let len := 64 * (l.toNat - f.toNat + 1)
    let rows := ((k.psnA.filter fun p => (tileRange f l).contains p.1).map fun p => p.2 / 64).eraseDups
    rows.foldl (fun t i =>
      let t1 := markPoison t (pa (e.x.getD 0 0).toNat + i * len * OutTy.size oty) (len * OutTy.size oty)
      if rb = 0 then t1 else markPoison t1 (pa (e.x.getD 3 0).toNat + 512 * i) 512) (match dstSlot e.env.rot vd with
        | none => s1
        | some slot =>
          let k1 := dropPsn (fun p => decide (p.1 = slot) && decide (p.2 < 32)) s1.core
          { s1 with core := addPsn (rows.map fun i => (slot, i / 2)).eraseDups k1 })
  | _ => s1

end Sys2Proof.Machine
end

