-- ==== Sys2Proof/Machine/CopyOps.lean ====
section
/-! DEFINITION. The copy engine (17): descriptors, rings, streams from dispatch to completion, errors and their delivery. -/

namespace Sys2Proof.Machine

/-! ## Descriptors (R250 to R252) -/

/-- One dimension of a descriptor. -/
structure Dim where
  count : Nat
  origin : Int
  extent : Nat
  ss : Int
  ds : Int
  deriving DecidableEq, Repr

def sgn (w n : Nat) : Int := (BitVec.ofNat w n).toInt

def descDim (bs : List Byte) (k : Nat) : Dim :=
  let b := 32 + 32 * k
  ⟨field bs b 4, sgn 32 (field bs (b + 4) 4), field bs (b + 8) 4, sgn 64 (field bs (b + 16) 8), sgn 64 (field bs (b + 24) 8)⟩

def descN (bs : List Byte) : Nat := field bs 16 1 % 8
def descEsize (bs : List Byte) : Nat := 2 ^ (field bs 17 1 % 4)
def descDims (bs : List Byte) : List Dim := (List.range (descN bs)).map (descDim bs)
def descCount (bs : List Byte) : Nat := ((descDims bs).map Dim.count).foldl (· * ·) 1

/-- The indices of element `n`, dimension 0 first (R251). -/
def elemIdx : List Dim → Nat → List Nat
  | [], _ => []
  | d :: r, n => n % d.count :: elemIdx r (n / d.count)

def inRange (ds : List Dim) (ix : List Nat) : Bool :=
  (ds.zip ix).all fun p =>
    let c := p.1.origin + p.2
    decide (p.1.extent = 0) || (decide (0 ≤ c) && decide (c < p.1.extent))

def srcOff (ds : List Dim) (ix : List Nat) : Int := ((ds.zip ix).map fun p => p.1.ss * (p.2 : Int)).sum
def dstOff (ds : List Dim) (ix : List Nat) : Int := ((ds.zip ix).map fun p => p.1.ds * (p.2 : Int)).sum

/-- The least and the greatest offset an in-range element can have along one dimension. -/
def dimEnds (d : Dim) : Option (Int × Int) :=
  let lo : Int := if d.extent = 0 then 0 else max 0 (-d.origin)
  let hi : Int := if d.extent = 0 then (d.count : Int) - 1 else min ((d.count : Int) - 1) (d.extent - 1 - d.origin)
  if hi < lo then none else some (min (d.ds * lo) (d.ds * hi), max (d.ds * lo) (d.ds * hi))

/-- The span of destination offsets of the elements in range, none where no element is in range. -/
def dstSpan (ds : List Dim) : Option (Int × Int) :=
  ds.foldl (fun acc d => match acc, dimEnds d with
    | some (a, b), some (x, y) => some (a + x, b + y)
    | _, _ => none) (some (0, 0))

/-- The format checks of R252: whether the descriptor is refused. `ring` is the slot size, `deliver` the type of a CVLD. -/
def descBad (bs : List Byte) (ring : Option Nat) (deliver : Option ETy) : Bool :=
  let n := field bs 16 1
  let es := field bs 17 1
  let ds := descDims bs
  let e : Nat := descEsize bs
  let z := fun (lo k : Nat) => decide (field bs lo k = 0)
  let reserved := !(decide (field bs 0 8 < 2 ^ 57) && decide (field bs 8 8 < 2 ^ 57) && z 18 6 &&
    (List.range 5).all fun k => if k < n then z (32 + 32 * k + 12) 4 && decide (field bs (32 + 32 * k + 8) 4 < 2 ^ 31) else z (32 + 32 * k) 32)
  reserved || decide (n = 0) || decide (5 < n) || decide (3 < es) ||
    ds.any (fun d => decide (d.count = 0) || decide (2 ^ 24 < d.count)) || decide (2 ^ 32 < descCount bs) ||
    decide (field bs 0 8 % e ≠ 0) || decide (field bs 8 8 % e ≠ 0) ||
    ds.any (fun d => decide (d.ss % e ≠ 0) || decide (d.ds % e ≠ 0)) ||
    (match ring, dstSpan ds with
      | some sz, some (lo, hi) =>
        decide ((field bs 8 8 : Int) + lo < 0) || decide ((sz : Int) - e < (field bs 8 8 : Int) + hi)
      | _, _ => false) ||
    (match deliver with
      | some t => decide (field bs 8 8 ≠ 0) || ds.any (fun d => decide (d.ds ≠ 0)) || decide (8 * e ≠ t.width)
      | none => false)

/-! ## Port classes (R248) -/

inductive PortClass where
  | hbm | tier | fabric | vector | pad
  deriving DecidableEq, Repr

def portClass (p : Nat) : PortClass :=
  if p ≤ 5 then .hbm else if p ≤ 7 then .tier else if p ≤ 11 then .fabric else if p = 12 then .vector else .pad

/-- What an endpoint is: the local scratchpad (a window address), or what its physical address names. -/
inductive EndKind where
  | local_ | hbm | tier | remote | frame (core : Nat) | other
  deriving DecidableEq, Repr

def endKind (va : Nat) (pa : Nat) : EndKind :=
  if inWindow va then .local_
  else
    match place pa with
    | .hbm => .hbm
    | .tier _ => .tier
    | .remote _ => .remote
    | .pad c _ => .frame c
    | _ => .other

/-- Whether the endpoints of an element fit a port's class (R248). -/
def endsFit (p : Nat) (a b : EndKind) : Bool :=
  let hl := fun e => decide (e = EndKind.hbm) || decide (e = EndKind.local_)
  let fr := fun e => match e with
    | EndKind.frame _ => true
    | _ => false
  match portClass p with
  | .hbm => hl a && hl b && (decide (a = .hbm) || decide (b = .hbm))
  | .tier => (hl a || decide (a = .tier)) && (hl b || decide (b = .tier)) && (decide (a = .tier) || decide (b = .tier))
  | .fabric => (hl a && decide (b = .remote)) || (decide (a = .remote) && hl b)
  | .vector => hl a || decide (a = .tier)
  | .pad => (decide (a = .local_) && fr b) || (fr a && decide (b = .local_))

/-- Whether an endpoint fits a port's class as a source, whatever the destination. -/
def sourceFits (p : Nat) (a : EndKind) : Bool :=
  [EndKind.local_, .hbm, .tier, .remote, .frame 0].any fun b => endsFit p a b

/-! ## Streams -/

def getStream (s : State) (id : Nat) : Option Stream := s.copy.streams.find? fun t => decide (t.id = id)

def setStream (s : State) (t : Stream) : State :=
  { s with copy := { s.copy with streams := s.copy.streams.map fun x => if x.id = t.id then t else x } }

def getRing (s : State) (core : Nat) (tid : BitVec 31) (obj : Word) : Option Ring :=
  s.copy.rings.find? fun r => decide (r.core = core ∧ r.tid = tid ∧ r.obj = obj)

def setRing (s : State) (r : Ring) : State :=
  { s with copy := { s.copy with rings := s.copy.rings.map fun x =>
      if x.core = r.core ∧ x.tid = r.tid ∧ x.obj = r.obj then r else x } }

/-- The scratchpad frames a stream reaches: those of its core's cluster, on ports 13 to 15 (R102). A COPY packet's stream is no core's. -/
def streamReach (t : Stream) : Reach :=
  { frames := if t.launch = 0 ∧ 13 ≤ t.port ∧ t.port ≤ 15 then some (clusterOf t.core) else none }

/-- A dispatcher's translation on `.c` for a stream (R100). A COPY packet's stream has no scratchpad (R265). -/
def transC (t : Stream) (a : Acc) (va : Word) (s : State) : Except Nat Phys × State :=
  translateFor (.dispatcher (clusterOf t.core)) (if t.launch = 0 then some t.core else none) t.eff .c a (streamReach t) va s

/-- Writes bytes on `.c` where the address translates, in the module's memory or host or peer memory, charged where they pass (R123). -/
def writeC (t : Stream) (va : Word) (n x : Nat) (s : State) : State :=
  match transC t .w va s with
  | (.ok p, s1) => homeWrite p.pa n x (chargeMem t.eff p.pa n s1)
  | (.error _, s1) => s1

/-- A dispatcher's write need not wait for a budget or a channel (R123, R308). -/
def wordOk (t : Stream) (va : Word) (s : State) : Bool :=
  match (transC t .w va s).1 with
  | .ok p => memOk s t.eff p.pa && wayOpen s p.pa 0
  | .error _ => true

/-- The same for a stream's status word and the pointers of its ring. -/
def statusOk (t : Stream) (s : State) : Bool :=
  wordOk t (t.desc + 24) s && (match t.ring with
    | some (obj, _) => wordOk t (obj + 16) s
    | none => true)

def statusWord (done cause st : Nat) : Nat := st + cause * 2 ^ 16 + done * 2 ^ 32

def putStatus (t : Stream) (done cause st : Nat) (s : State) : State :=
  writeC t (t.desc + 24) 8 (statusWord (done % 2 ^ 32) cause st) s

/-- The pointers of a ring go to its object (R253). -/
def putRing (t : Stream) (r : Ring) (s : State) : State :=
  writeC t (r.obj + 16) 8 (r.wptr.toNat + r.rptr.toNat * 2 ^ 32) s

/-- wptr moves past the slots whose streams have completed, in order (R254). -/
def ringFill (r : Ring) : Nat → Ring
  | 0 => r
  | n + 1 => if r.done.contains r.wptr then
      ringFill { r with wptr := r.wptr + 1, done := r.done.filter fun v => decide (v ≠ r.wptr) } n
    else r

/-- The virtual addresses of element `n` of a stream: source and destination (R251, R254). -/
def streamAddrs (s : State) (t : Stream) (n : Nat) : Word × Word :=
  let ds := descDims t.image
  let ix := elemIdx ds n
  let base : Nat := match t.ring with
    | some (obj, v) =>
      match getRing s t.core t.tid obj with
      | some r => r.base.toNat + r.ssize * (v.toNat % r.scount)
      | none => 0
    | none => 0
  (BitVec.ofInt 64 ((field t.image 0 8 : Int) + srcOff ds ix),
    BitVec.ofInt 64 ((base : Int) + field t.image 8 8 + dstOff ds ix))

/-- What becomes of one element of a stream: moved, with what the stream then is; a cause and an address that stop it; or a wait for a
budget or a channel (R123, R308). -/
inductive Moved where
  | ok (t : Stream) (s : State)
  | bad (cause : Nat) (va : Word)
  | wait
  deriving DecidableEq, Repr

/-- A request of a stream may pass to an address. -/
def streamOk (t : Stream) (s : State) (pa : Nat) : Bool := memOk s t.eff pa && wayOpen s pa 0

/-- An element read goes into the register of a CVLD (R261). -/
def deliverElem (t : Stream) (d : Delivery) (n : Nat) (x : Got) (s : State) : Moved :=
  if d.vl ≤ n then .ok t s
  else
    .ok { t with deliver := some { d with bad := if x.bad then n :: d.bad else d.bad } } (onCore t.core (fun u =>
      let v := putElem u.core.vec d.reg d.ty.width n x.val
      let u1 := setVec u (setMask v d.m (putBits (maskImg v d.m) n 1 1))
      if x.bad then { u1 with core := addPsn [(d.reg, n * d.ty.width / 64)] u1.core } else u1) s)

/-- An element is written at its destination, with its mark (R326). -/
def writeElem (t : Stream) (pa e : Nat) (x : Got) (s : State) : Moved :=
  let s1 := chargeMem t.eff pa e s
  if isRemote pa then
    .ok { t with ports := if t.ports.contains (portOf s pa) then t.ports else portOf s pa :: t.ports }
      (send s1 (OutMsg.put (remoteOf s pa).1 (remoteOf s pa).2 (natBytes e x.val) (if x.bad then List.range e else [])))
  else
    let s2 := s1.wr pa e x.val
    .ok t (if x.bad then markPoison s2 pa e else s2)

/-- Element `n` of a stream (R248, R249, R251, R263). -/
def moveElem (t : Stream) (n : Nat) (s : State) : Moved :=
  let ds := descDims t.image
  let e := descEsize t.image
  if !inRange ds (elemIdx ds n) then
    match t.deliver with
    | some d =>
      if n < d.vl then
        .ok t (onCore t.core (fun u => setVec u (setMask u.core.vec d.m (putBits (maskImg u.core.vec d.m) n 1 0))) s)
      else .ok t s
    | none => .ok t s
  else
    let (sa, da) := streamAddrs s t n
    match transC t .r sa s with
    | (.error c, _) => .bad c sa
    | (.ok p, s1) =>
      let ka := endKind sa.toNat p.pa
      if !streamOk t s1 p.pa then .wait
      else
        match t.deliver with
        | some d =>
          if !endsFit t.port ka .local_ then .bad 0x24 sa
          else
            let (x, s2) := homeRead p.pa e (chargeMem t.eff p.pa e s1)
            deliverElem t d n x s2
        | none =>
          match transC t .w da s1 with
          | (.error c, _) => .bad c da
          | (.ok q, s2) =>
            if !endsFit t.port ka (endKind da.toNat q.pa) then .bad 0x24 (if sourceFits t.port ka then da else sa)
            else if !streamOk t s2 q.pa then .wait
            else
              let (x, s3) := homeRead p.pa e (chargeMem t.eff p.pa e s2)
              writeElem t q.pa e x s3

/-- Moves at most `k` more elements of a stream: the state and the stream as it then is, and what stopped it, with cause 0 where it
waits. -/
def moveElems : Nat → Stream → State → State × Stream × Option (Nat × Word)
  | 0, t, s => (s, t, none)
  | k + 1, t, s =>
    match moveElem t t.landed s with
    | .bad c va => (s, t, some (c, va))
    | .wait => (s, t, some (0, 0))
    | .ok u s1 => moveElems k { u with landed := t.landed + 1 } s1

/-- The write that element `n` makes, with its poison. -/
def elemWrite (t : Stream) (n : Nat) (s : State) : List (Nat × Nat × Bool) :=
  let ds := descDims t.image
  let e := descEsize t.image
  if t.deliver.isSome || !inRange ds (elemIdx ds n) then []
  else
    match transC t .r (streamAddrs s t n).1 s with
    | (.error _, _) => []
    | (.ok p, s1) =>
      match transC t .w (streamAddrs s t n).2 s1 with
      | (.error _, _) => []
      | (.ok q, s2) => [(q.pa, e, (homeRead p.pa e (chargeMem t.eff p.pa e s2)).1.bad)]

/-- The writes of what `moveElems` moves. -/
def moveWrites : Nat → Stream → State → List (Nat × Nat × Bool)
  | 0, _, _ => []
  | k + 1, t, s =>
    match moveElem t t.landed s with
    | .ok u s1 => elemWrite t t.landed s ++ moveWrites k { u with landed := t.landed + 1 } s1
    | _ => []

/-- Removes a stream. -/
def dropStream (id : Nat) (s : State) : State :=
  { s with copy := { s.copy with streams := s.copy.streams.filter fun t => decide (t.id ≠ id) } }

/-- Changes the matrix queue of a task, wherever its context is: on a core, in a shadow slot, or spilled (R145). -/
def mapMat (tid : BitVec 31) (f : List MEntry → List MEntry) (s : State) : State :=
  let onMat := fun (m : Mat) => { m with queue := f m.queue }
  let onShadow := fun (x : Shadow) => if x.seq.tid = tid then { x with mat := onMat x.mat } else x
  let go := fun (k : Core) => { k with mat := if k.seq.tid = tid then onMat k.mat else k.mat, shadow := k.shadow.map onShadow }
  let slots := s.slots.map (fun e => if e.tid = tid then { e with mat := f e.mat } else e)
  { s with core := go s.core, others := s.others.map go, slots := slots }

/-- The follow-on of a stream leaves the matrix queue (R258). -/
def dropFollow (t : Stream) (s : State) : State := mapMat t.tid (fun q => q.filter fun e => decide (e.stream ≠ some t.id)) s

/-- The follow-on of a stream may go to the array (R258). -/
def freeFollow (t : Stream) (s : State) : State :=
  mapMat t.tid (fun q => q.map fun e => if e.stream = some t.id then { e with stream := none } else e) s

/-- The vector block of a delivery is over (R261). -/
def unblock (n : Nat) (v : Vec) : Vec :=
  match v.block with
  | some b => if b.seqn = n then { v with block := none } else v
  | none => v

def clearBusy (r : SReg) (q : Seq) : Seq := { q with busy := q.busy.erase r }

/-- A CVLD that ends before its descriptor has been read gives no VL; dispatch goes on (R261). -/
def endDelivery (t : Stream) (s : State) : State :=
  if t.deliver.isSome && !t.running then
    onCore t.core (fun u =>
      match u.core.vec.block with
      | some b => setVec (setSeq u (b.regs.foldl (fun q r => clearBusy r q) u.core.seq)) (unblock b.seqn u.core.vec)
      | none => u) s
  else s

/-- A stream that is cancelled and ends once what it has sent is accepted and its status can be written: its reservation is withdrawn
already, and its slot may be another stream's by now (R262). -/
def withdrawn (t : Stream) : Bool :=
  match t.ends with
  | some (0, _) => true
  | _ => false

/-- A reservation and every later one of its ring are withdrawn (R262): the streams that hold them. -/
def laterOnRing (s : State) (t : Stream) : List Nat :=
  match (if withdrawn t then none else t.ring) with
  | none => []
  | some (obj, v) =>
    match getRing s t.core t.tid obj with
    | none => []
    | some r => (s.copy.streams.filter fun x =>
        !withdrawn x && decide (x.core = t.core ∧ x.tid = t.tid) && (match x.ring with
          | some (o, u) => decide (o = obj) && decide ((v - r.wptr).toNat ≤ (u - r.wptr).toNat)
          | none => false)).map Stream.id

/-- The reservation count of a ring returns to slot `v` (R262). -/
def unreserve (t : Stream) (s : State) : State :=
  match (if withdrawn t then none else t.ring) with
  | none => s
  | some (obj, v) =>
    match getRing s t.core t.tid obj with
    | none => s
    | some r => if (v - r.wptr).toNat ≤ (r.resv - r.wptr).toNat then
        setRing s { r with resv := v, done := r.done.filter fun u => decide ((u - r.wptr).toNat < (v - r.wptr).toNat) }
      else s

/-- One stream is cancelled (R262): its status, its reservation and its follow-on. -/
def cancelOne (id : Nat) (s : State) : State :=
  match getStream s id with
  | none => s
  | some t =>
    let s1 := putStatus t t.landed 0 3 s
    endDelivery t (dropFollow t (dropStream id (unreserve t s1)))

/-- Streams and every stream reserved on the same rings after them (R262). -/
def withLater (ids : List Nat) (s : State) : List Nat :=
  (ids ++ ids.flatMap fun id => match getStream s id with
    | some t => laterOnRing s t
    | none => []).eraseDups

/-- A stream is cancelled at once, or, where bytes that it has sent to host or peer memory are not accepted yet or its status has to wait, moves
no more until then; its reservation and its follow-on are withdrawn at once (R262). `by_` is 1 where CCANCEL waits for it. -/
def cancelSoon (by_ : Word) (id : Nat) (s : State) : State :=
  match getStream s id with
  | none => s
  | some t => if t.ports.isEmpty && statusOk t s then cancelOne id s
    else setStream (dropFollow t (unreserve t s)) { t with ends := some (0, by_) }

/-- Cancels streams and every stream reserved on the same rings after them (R262). -/
def cancelStreams (by_ : Word) (ids : List Nat) (s : State) : State := (withLater ids s).foldl (fun t id => cancelSoon by_ id t) s

/-- The same for a domain that is killed: nothing is waited for, and what has been sent completes (R328). -/
def cancelNow (ids : List Nat) (s : State) : State := (withLater ids s).foldl (fun t id => cancelOne id t) s

/-- The streams of a core's task on a port. -/
def streamsOn (s : State) (core p : Nat) : List Stream :=
  s.copy.streams.filter fun t => decide (t.core = core ∧ t.port = p ∧ t.launch = 0)

def coreStreams (s : State) (core : Nat) : List Stream :=
  s.copy.streams.filter fun t => decide (t.core = core ∧ t.launch = 0)

/-- The streams that a core's dispatcher queues hold: the running task's and those that run, not what lies with a saved context (R145). -/
def queuedStreams (s : State) (k : Core) : List Stream :=
  (coreStreams s k.id).filter fun t => t.running || decide (t.tid = k.seq.tid)

/-- The streams of one task, on whatever core it dispatched them. -/
def taskStreams (s : State) (tid : BitVec 31) : List Stream :=
  s.copy.streams.filter fun t => decide (t.tid = tid ∧ t.launch = 0)

/-- Records an error for the task (R263), or fails the launch of a COPY packet (R265). -/
def copyError (t : Stream) (cause : Nat) (tval : Word) (s : State) : State :=
  if t.launch ≠ 0 then s
  else { s with copy := { s.copy with errors := s.copy.errors ++ [⟨t.core, t.tid, cause, tval⟩] } }

/-- A stream stops with an error after `n` elements (R252, R263): the status where it can be written, the withdrawal of its
reservations, and the error for its task. -/
def stopStream (t : Stream) (n cause : Nat) (tval : Word) (readable : Bool) (s : State) : State :=
  let s1 := if readable then putStatus t n cause 4 s else s
  let later := (laterOnRing s1 t).filter fun i => decide (i ≠ t.id)
  let s2 := endDelivery t (dropFollow t (dropStream t.id (unreserve t s1)))
  copyError t cause tval (later.foldl (fun u i => cancelSoon 0 i u) s2)

/-- The oldest error of the running task, taken out (R263). -/
def takeError (s : State) : Option (CopyError × State) :=
  match s.copy.errors.find? fun e => decide (e.core = s.core.id ∧ e.tid = s.core.seq.tid) with
  | none => none
  | some e => some (e, { s with copy := { s.copy with errors := s.copy.errors.erase e } })

/-- The instruction has issued and waits for what it has sent, so that no error is delivered at it: an access on its way, or a CCANCEL. -/
def hasIssued (s : State) : Bool :=
  s.core.seq.flight.isSome || (coreStreams s s.core.id).any fun t => decide (t.ends = some (0, 1))

/-- An instruction at which a recorded copy error is delivered (R263): the trap, or what the instruction does. -/
def withCopyError (f : State → Out) (s : State) : Out :=
  match (if hasIssued s then none else takeError s) with
  | some (e, t) => if trapWaits s then stall false s else trapHere e.cause e.tval t
  | none => f s

/-- Whether an address lies in the task frame: [s1, s1 + stride) as delivered, or the local window (R142). -/
def inTaskFrame (s : State) (a : Word) : Bool :=
  inWindow a.toNat || (decide (s.core.seq.frameLo.toNat ≤ a.toNat) && decide (a.toNat < s.core.seq.frameLo.toNat + s.core.seq.frameLen))

def getBind (s : State) (p : Nat) : Option PortBind :=
  s.copy.binds.find? fun b => decide (b.core = s.core.id ∧ b.tid = s.core.seq.tid ∧ b.port = p)

def setBind (b : PortBind) (s : State) : State :=
  { s with copy := { s.copy with binds := b :: s.copy.binds.filter fun x => !(decide (x.core = b.core ∧ x.tid = b.tid ∧ x.port = b.port)) } }

/-- The tier of an endpoint for the choice of a port (R256); an address that does not translate counts as HBM. A scratchpad frame is asked
for as the ports of its class see it. -/
def autoKind (t : Stream) (va : Word) (s : State) : EndKind :=
  let t1 := { t with port := 13 }
  match transC t1 .r va s with
  | (.ok p, _) => endKind va.toNat p.pa
  | (.error _, _) => match transC t1 .w va s with
    | (.ok p, _) => endKind va.toNat p.pa
    | (.error _, _) => .hbm

/-- The port `cgo.auto` takes (R256): the lowest idle port of the class that fits, or the least loaded one. A saved task's queued streams lie
with its context and load no port (R145). -/
def autoPort (t : Stream) (src dst : Word) (s : State) : Nat :=
  let a := autoKind t src s
  let b := autoKind t dst s
  let isPad := fun e => match e with
    | EndKind.local_ | EndKind.frame _ => true
    | _ => false
  let ports : List Nat :=
    if a = .remote ∨ b = .remote then [8, 9, 10, 11]
    else if a = .tier ∨ b = .tier then [6, 7]
    else if isPad a && isPad b then [13, 14, 15]
    else [0, 1, 2, 3, 4, 5]
  let load := fun p => (s.copy.streams.filter fun x => decide (x.core = t.core ∧ x.port = p) && decide ((x.launch = 0) = (t.launch = 0)) &&
    (x.running || decide (x.launch ≠ 0) || decide (x.tid = t.tid))).length
  ports.foldl (fun best p => if load p < load best then p else best) (ports.headD 0)

/-- The next head of the line, where a follow-on stands (R53): its head, and the instruction if it is one. -/
def nextHead (s : State) : Option (Nat × Option Instr) :=
  match s.core.seq.line with
  | none => none
  | some (_, l) =>
    let i := s.core.seq.pc.toNat % 64 / 2
    if i < lineN l then
      some (lineHead l (i + 1), match decodeSlot l (i + 1) with
        | .ok j => some j
        | .error _ => none)
    else none

/-- What R53 finds wrong with the place of a follow-on: the value the trap shows, the CGO's head where it is the last of its line
and the next head otherwise. It is an encoding, checked before the port (DEDUCED: log entry 13). -/
def misplaced (mx : Bool) (s : State) : Option Nat :=
  if mx then
    match nextHead s with
    | none => some (curHead s)
    | some (h, some i) =>
      match i with
      | .mma .. | .mmaq .. | .mmas .. | .pdrain .. => none
      | _ => some h
    | some (h, none) => some h
  else none

/-- A CGO whose follow-on, if it has one, stands in its place. -/
def placed (mx : Bool) (f : State → Out) (s : State) : Out :=
  match misplaced mx s with
  | some h => trapHere 0x01 (BitVec.ofNat 64 h) s
  | none => f s

/-- The follow-on of a CGO `.mx` (R53): the command as it enters the matrix order, or the trap at the CGO, which for an illegal instruction
shows the follow-on's head. -/
def followOn (s : State) : Except (Nat × Word) MEntry :=
  match nextHead s with
  | some (h, some i) => (mPrep i h s).mapError fun c => if c.1 = 0x01 then (0x01, BitVec.ofNat 64 h) else c
  | some (h, none) => .error (0x01, BitVec.ofNat 64 h)
  | none => .error (0x01, BitVec.ofNat 64 (curHead s))

/-- Sequential flow after a CGO `.mx`: past its follow-on (R53). A loop that ends at the CGO is ended first. -/
def advanceMx (s : State) : State :=
  let ends := match s.core.seq.loops with
    | e :: _ => decide (e.stop = s.core.seq.pc)
    | [] => false
  if ends then
    let t := advance s
    if t.core.seq.pc = nextPc s then advance t else t
  else advance (setSeq s { s.core.seq with pc := nextPc s })

/-- No room for another queued stream, or for its follow-on (R7, R258). -/
def queueFull (mx : Bool) (s : State) : Bool :=
  decide (32 ≤ (queuedStreams s s.core).length) ||
    (mx && decide (4 ≤ (s.core.mat.queue.filter fun e => e.follow && !e.issued).length))

/-- Dispatch of one stream (R257, R258): on port `p`, or `none` for `.auto` with addresses `src` and `dst`. A follow-on's place and encoding
are checked before the port, and its parameters and addresses (R267) after the CGO's own checks (DEDUCED: log entry 13). -/
def dispatchStream (p : Option Nat) (desc src dst : Word) (tag : Nat) (rg : SReg) (mx : Bool) (s : State) : Out :=
  let obj := getS s rg
  let ring := if rg = 0 then none else getRing s s.core.id s.core.seq.tid obj
  if rg ≠ 0 ∧ ring = none then illegal s
  else
    match (if mx then (followOn s).map some else .ok none) with
    | .error (c, v) => trapHere c v s
    | .ok fo =>
      if queueFull mx s then stall false s
      else
        let id := s.copy.nextId
        let target := match ring with
          | some r => r.base
          | none => dst
        let st0 : Stream := { id := id, core := s.core.id, tid := s.core.seq.tid, port := 0, desc := desc, tag := tag,
                              num := s.core.vec.num + 1, ring := ring.map fun r => (obj, r.resv), follow := mx, eff := s.core.seq.eff }
        let st := { st0 with port := p.getD (autoPort st0 src target s) }
        let s1 := if inTaskFrame s target then s else commitTask s
        let s2 := { s1 with copy := { s1.copy with streams := s1.copy.streams ++ [st], nextId := id + 1 } }
        let s3 := match ring with
          | some r => setRing s2 { r with resv := r.resv + 1 }
          | none => s2
        match fo with
        | some e => .next (advanceMx (pushMat { e with stream := some id, follow := true } s3))
        | none => done (bumpNum s3)

/-- Whether a queued stream may start (R249, R254, R89, R170): its task is not saved, with whose context its queued streams lie (R145), no
stream runs on its port, and none of its task is queued before it there. -/
def streamReady (s : State) (t : Stream) : Bool :=
  let k := getCore s t.core
  !t.running && t.ends.isNone && (decide (t.launch ≠ 0) || decide (k.seq.tid = t.tid)) &&
    !(s.copy.streams.any fun x => decide (x.core = t.core ∧ x.port = t.port) && decide ((x.launch = 0) = (t.launch = 0)) &&
      (x.running || (decide (x.id < t.id) && decide (x.tid = t.tid)))) &&
    (match t.ring with
      | some (obj, v) =>
        match getRing s t.core t.tid obj with
        | some r => decide ((v - r.rptr).toNat < r.scount)
        | none => true
      | none => true) &&
    (decide (t.launch ≠ 0) || (!tagHeld s k t.tag t.num && !heldByPoint s k .c t.num))

/-- Reads a stream's 192-byte descriptor on `.c` (R252), line by line. -/
def readDesc (t : Stream) (s : State) : Except (Nat × Bool) (List Byte) × State :=
  let go := fun (acc : Except (Nat × Bool) (List Byte) × State) (j : Nat) =>
    match acc with
    | (.error c, u) => (.error c, u)
    | (.ok bs, u) =>
      match transC t .r (t.desc + BitVec.ofNat 64 (64 * j)) u with
      | (.error c, u1) => (.error (c, false), u1)
      | (.ok p, u1) =>
        let (x, u2) := homeRead p.pa 64 (chargeMem t.eff p.pa 64 u1)
        if x.bad then (.error (0x26, true), u2) else (.ok (bs ++ natBytes 64 x.val), u2)
  [0, 1, 2].foldl go (.ok [], s)

end Sys2Proof.Machine
end

