-- ==== Sys2Proof/Machine/TaskOps.lean ====
section
/-! DEFINITION. The region tree (R120 to R122), ready queues and launch blocks (R126, R127), placing, starting, discarding and
completing tasks (R117, R125, R138 to R150). -/

namespace Sys2Proof.Machine

/-! ## The region tree -/

def handleOf (s : State) (rcb : Nat) : Option RcbHandle := s.fe.rcbs.find? fun h => decide (h.rcb = rcb)

/-- The RCB's own bytes break no field rule (R120, R122); a field that the parent gives is not looked at (R121). -/
def rcbForm (x : Nat) : Bool :=
  let z := fun lo w => decide (bits x lo w = 0)
  let word := fun k => bits x (64 * k) 64
  let taken := fun i => bitAt x (64 + 48 + i)
  z 52 12 && z 0 4 && z (64 + 60) 4 && (taken 1 || decide (bits x (64 + 26) 2 ≠ 3)) && z 128 16 && z (192 + 57) 7 &&
    z (256 + 52) 12 && z 256 4 && z (320 + 52) 12 && z (320 + 5) 1 && z (384 + 52) 12 && z 384 6 && z (448 + 29) 35 &&
    z (512 + 96) 32 && z (1088 + 57) 7 && z 1152 896 &&
    (List.range 7).all (fun k => z (64 * (10 + k) + 48) 11 && (taken 11 || (decide (14 ≤ bits x (64 * (10 + k) + 59) 5) &&
      decide (bits x (64 * (10 + k) + 59) 5 ≤ 24)))) &&
    decide (bits (word 5) 6 46 ≠ 0) && decide (bits (word 5) 0 5 ≤ 16)

/-- The effective fields of an RCB (R121, R122), or none where its check fails. At most 8 levels. -/
def resolveRcb (s : State) : Nat → Nat → Option Region
  | 0, _ => none
  | fuel + 1, pa =>
    if pa = 0 ∨ pa % 256 ≠ 0 ∨ !inHbm pa 256 then none
    else
      let x := s.rd pa 256
      let inh := bits x (64 + 48) 16
      let parent := bits x 8 44 * 256
      let depth := bits x 5 3
      let own : Region :=
        { rcb := pa, prio := bits x (64 + 28) 4, recheck := bits x (64 + 26) 2, sample := bits x (64 + 16) 10,
          tagbase := bits x (64 + 8) 8, domain := bits x 64 8, weight := max 1 (bits x (128 + 56) 8), root := bits x (128 + 16) 40,
          asn := bits x (64 + 32) 16, trap := BitVec.ofNat 64 (bits x 192 57), rtable := bits x (256 + 4) 48 * 16,
          readyq := bits x (320 + 6) 46 * 64, rqsize := bits x 320 5, frames := bits x (384 + 6) 46 * 64,
          fvirt := bits x 1088 57, spstart := bits x 448 10, spsize := bits x (448 + 10) 10, tsstart := bits x (448 + 20) 4,
          tssize := bits x (448 + 24) 5, clusters := bits x 512 96, part := if bitAt x 4 then pa else 0, budgetRcb := pa }
      let fits := fun (r : Region) => decide (r.spstart + r.spsize ≤ 864) && decide (r.tsstart + r.tssize ≤ 16) && decide (r.clusters ≠ 0)
      if !rcbForm x then none
      else if parent = 0 then
        if depth = 0 ∧ inh = 0 ∧ fits own then some own else none
      else
        match resolveRcb s fuel parent with
        | none => none
        | some p =>
          let b := fun i => bitAt inh i
          let r : Region :=
            { own with
              prio := if b 0 then p.prio else own.prio
              recheck := if b 1 then p.recheck else own.recheck
              sample := if b 1 then p.sample else own.sample
              tagbase := if b 2 then p.tagbase else own.tagbase
              domain := if b 3 then p.domain else own.domain
              root := if b 4 then p.root else own.root
              asn := if b 4 then p.asn else own.asn
              trap := if b 5 then p.trap else own.trap
              rtable := if b 6 then p.rtable else own.rtable
              frames := if b 7 then p.frames else own.frames
              fvirt := if b 7 then p.fvirt else own.fvirt
              spstart := if b 8 then p.spstart else own.spstart
              spsize := if b 8 then p.spsize else own.spsize
              tsstart := if b 9 then p.tsstart else own.tsstart
              tssize := if b 9 then p.tssize else own.tssize
              clusters := if b 10 then p.clusters else own.clusters
              part := if own.part ≠ 0 then own.part else p.part
              budgetRcb := if b 11 then p.budgetRcb else pa }
          if depth = bits (s.rd parent 8) 5 3 + 1 ∧ fits r ∧ Nat.land r.clusters p.clusters = r.clusters then some r else none

def region (s : State) (rcb : Nat) : Option Region := resolveRcb s 8 rcb

/-- The smallest number from `i` up, of `fuel` numbers, that is not in use. -/
def freeIndex (used : List Nat) : Nat → Nat → Option Nat
  | 0, _ => none
  | fuel + 1, i => if used.contains i then freeIndex used fuel (i + 1) else some i

/-- Gives an RCB its index (R138): the smallest free value from 1 to 65,535; none while all are in use. -/
def giveHandle (s : State) (rcb : Nat) : Option (Nat × State) :=
  match handleOf s rcb with
  | some h => some (h.idx, s)
  | none =>
    match freeIndex (s.fe.rcbs.map RcbHandle.idx) 65535 1 with
    | none => none
    | some i => some (i, { s with fe := { s.fe with rcbs := s.fe.rcbs ++ [{ idx := i, rcb := rcb }] } })

/-! ## Ready queues (R126) -/

/-- A ready queue as read: the records of the front chain, the ring's entries from its head, the back chain. -/
structure RQ where
  front : List Nat
  ring : List Nat
  back : List Nat
  deriving DecidableEq, Repr

/-- More records than HBM has room for, so that a chain of any length is followed to its end (R126). -/
def chainFuel : Nat := hbmEnd / 32

/-- A chain of records, by their link fields. -/
def chain (s : State) : Nat → Nat → List Nat
  | 0, _ => []
  | n + 1, a => if a = 0 then [] else a :: chain s n (bits (s.rd (a + 24) 8) 5 47 * 32)

def linkOf (a : Nat) : Nat := a / 32 * 32

/-- A record as it stands in a ring entry: its link names the record itself, so that its launch can be found (DEDUCED: log entry 10). -/
def ringCopy (s : State) (a : Nat) : Nat :=
  let x := s.rd a 32
  x - bits x (192 + 5) 47 * 32 * 2 ^ 192 + linkOf a * 2 ^ 192

def rqRead (s : State) (r : Region) : RQ :=
  let h := s.rd r.readyq 4
  let t := s.rd (r.readyq + 4) 4
  let n := (t + 2 ^ 32 - h) % 2 ^ 32
  { front := chain s chainFuel (linkOf (s.rd (r.readyq + 8) 8)),
    ring := (List.range n).map fun i => s.rd (r.readyq + 64 + 32 * ((h + i) % 2 ^ r.rqsize)) 32,
    back := chain s chainFuel (linkOf (s.rd (r.readyq + 16) 8)) }

/-- Links records into a chain. -/
def putChain (s : State) : List Nat → State
  | [] => s
  | [a] => s.wr (a + 24) 8 (s.rd (a + 24) 8 - linkOf (bits (s.rd (a + 24) 8) 0 52))
  | a :: b :: r =>
    putChain (s.wr (a + 24) 8 (s.rd (a + 24) 8 - linkOf (bits (s.rd (a + 24) 8) 0 52) + linkOf b)) (b :: r)

/-- Writes a ready queue back with ring head count `h`. Where the ring has room, the first records of the back chain move into
it (R126). -/
def rqWrite (s : State) (r : Region) (h : Nat) (q : RQ) : State :=
  let room := 2 ^ r.rqsize - q.ring.length
  let moved := q.back.take room
  let ring := q.ring ++ moved.map (ringCopy s)
  let back := q.back.drop room
  let s1 := (List.range ring.length).foldl (fun t i =>
    t.wr (r.readyq + 64 + 32 * ((h + i) % 2 ^ r.rqsize)) 32 (ring.getD i 0)) s
  let s2 := (s1.wr r.readyq 4 (h % 2 ^ 32)).wr (r.readyq + 4) 4 ((h + ring.length) % 2 ^ 32)
  let s3 := ((s2.wr (r.readyq + 8) 8 (q.front.headD 0)).wr (r.readyq + 16) 8 (back.headD 0)).wr (r.readyq + 24) 8 (back.getLast?.getD 0)
  putChain (putChain s3 q.front) back

def rqHead (s : State) (r : Region) : Nat := s.rd r.readyq 4

/-- An entry at the back (R126): into the ring, or the record itself onto the back chain. -/
def rqPushBack (s : State) (r : Region) (entry rec_ : Nat) : State :=
  let q := rqRead s r
  if q.ring.length < 2 ^ r.rqsize then rqWrite s r (rqHead s r) { q with ring := q.ring ++ [entry] }
  else rqWrite s r (rqHead s r) { q with back := q.back ++ [rec_] }

/-- An entry at the front (R126): the ring where it has room, else the front chain; an item without a record in memory is kept by the front
end, in its place before the chain's first record (DEDUCED: log entry 10). -/
def rqPushFront (s : State) (r : Region) (entry rec_ : Nat) : State :=
  let q := rqRead s r
  if q.ring.length < 2 ^ r.rqsize then
    rqWrite s r ((rqHead s r + 2 ^ 32 - 1) % 2 ^ 32) { q with ring := entry :: q.ring }
  else if rec_ ≠ 0 then rqWrite s r (rqHead s r) { q with front := rec_ :: q.front }
  else { s with fe := { s.fe with fronts := (r.rcb, entry, q.front.headD 0) :: s.fe.fronts } }

/-- Where an item of a ready queue stands. -/
inductive ItemLoc where
  | own (entry : Nat)
  | front (rec_ : Nat)
  | ring (i : Nat)
  | back (rec_ : Nat)
  deriving DecidableEq, Repr

/-- The items of a ready queue in the order of service (R126). -/
def rqItems (s : State) (r : Region) : List (ItemLoc × Nat) :=
  let q := rqRead s r
  let own := fun a => (s.fe.fronts.filter fun p => decide (p.1 = r.rcb ∧ p.2.2 = a)).map fun p => (ItemLoc.own p.2.1, p.2.1)
  (q.front.flatMap fun a => own a ++ [(.front a, ringCopy s a)]) ++ own 0 ++
    ((List.range q.ring.length).map fun i => (.ring i, q.ring.getD i 0)) ++ (q.back.map fun a => (.back a, ringCopy s a))

/-- Takes an item out; the items passed over keep their places (R126). -/
def rqTake (s : State) (r : Region) (loc : ItemLoc) : State :=
  let q := rqRead s r
  match loc with
  | .own e => { s with fe := { s.fe with fronts := s.fe.fronts.eraseP fun p => decide (p.1 = r.rcb ∧ p.2.1 = e) } }
  | .front a =>
    let after := ((q.front.dropWhile fun b => decide (b ≠ a)).tail).headD 0
    let s1 := { s with fe := { s.fe with fronts := s.fe.fronts.map fun p => if p.1 = r.rcb ∧ p.2.2 = a then (p.1, p.2.1, after) else p } }
    rqWrite s1 r (rqHead s1 r) { q with front := q.front.erase a }
  | .ring i => rqWrite s r ((rqHead s r + 1) % 2 ^ 32) { q with ring := q.ring.eraseIdx i }
  | .back a => rqWrite s r (rqHead s r) { q with back := q.back.erase a }

/-! ### Records (R138) -/

def recCode (e : Nat) : Nat := bits e 0 64
def recFrame (e : Nat) : Nat := bits e 64 64
def recJoin (e : Nat) : Int := sgn 32 (bits e 128 32)
def recLink (e : Nat) : Nat := bits e (192 + 5) 47 * 32
def recGang (e : Nat) : Bool := bitAt e (192 + 2)
def recImg (e : Nat) : Bool := bitAt e (192 + 1)
def recSaved (e : Nat) : Bool := bitAt e 192

def mkRecord (code frame : Nat) (join : Int) (prio rcbx link flags : Nat) : Nat :=
  code % 2 ^ 64 + frame % 2 ^ 64 * 2 ^ 64 + ofInt 32 join * 2 ^ 128 + prio % 16 * 2 ^ 172 + rcbx % 2 ^ 16 * 2 ^ 176 + (link + flags) * 2 ^ 192

/-! ## Launch blocks (R127) -/

def blockAddr (r : Region) (j : Nat) : Nat := r.readyq + 64 + 32 * 2 ^ r.rqsize + 128 * j

def freeBlock (s : State) (r : Region) : Option Nat :=
  ((List.range (2 ^ r.rqsize)).map (blockAddr r)).find? fun b => !bitAt (s.rd (b + 48) 1) 2

def blkNext (s : State) (b : Nat) : Nat := s.rd (b + 32) 4
def blkN (s : State) (b : Nat) : Nat := s.rd (b + 28) 4
def blkUnfinished (s : State) (b : Nat) : Nat := s.rd (b + 36) 4
def blkSignal (s : State) (b : Nat) : Nat := s.rd (b + 40) 8
def blkResident (s : State) (b : Nat) : Bool := bitAt (s.rd (b + 48) 1) 0
def blkImage (s : State) (b : Nat) : Bool := bitAt (s.rd (b + 48) 1) 1
def blkBusy (s : State) (b : Nat) : Bool := bitAt (s.rd (b + 48) 1) 2
def blkStatus (s : State) (b : Nat) : Nat := s.rd (b + 49) 1

/-- What a LAUNCH or IMAGE asks to place (R113, R129). -/
structure LaunchReq where
  code : Nat
  arg : Nat := 0
  frame : Nat := 0
  stride : Nat := 0
  n : Nat := 1
  sig : Nat := 0
  rcb : Nat
  resident : Bool := false
  image : Bool := false
  extra : Nat := 0           -- bytes 64-127 of the block: watermark objects, or the spill masks
  deriving DecidableEq, Repr

/-- How placing ends: placed with its block, a failure status (R345), or the packet stays in PROCESS (R124, R138). -/
inductive PlaceRes where
  | placed (block : Nat)
  | fail (status : Nat)
  | wait
  | fault (pa : Nat)         -- the ready-queue object lies outside HBM
  deriving DecidableEq, Repr

def popcount (x n : Nat) : Nat := ((List.range n).filter fun i => bitAt x i).length

/-- Places a LAUNCH or IMAGE (R122, R124, R126, R127, R328). -/
def placeLaunch (q : LaunchReq) (s : State) : PlaceRes × State :=
  match region s q.rcb with
  | none => (.fail 1, s)
  | some r =>
    if s.cfg.dead.getLsbD r.domain then (.fail 6, s)
    else if q.resident ∧ 16 * popcount r.clusters 96 < q.n then (.fail 9, s)
    else if !inHbm r.readyq (64 + 160 * 2 ^ r.rqsize) then (.fault r.readyq, s)
    else
      match giveHandle s q.rcb with
      | none => (.wait, s)
      | some (idx, s1) =>
        match freeBlock s1 r with
        | none => (.wait, s)
        | some b =>
          if 2 ^ r.rqsize ≤ (rqRead s1 r).ring.length then (.wait, s)
          else
            let flags := q.resident.toNat + 2 * q.image.toNat + 4
            let img := q.code + q.arg * 2 ^ 64 + q.frame * 2 ^ 128 + q.stride * 2 ^ 192 + q.n * 2 ^ 224 + q.n * 2 ^ 288 +
              q.sig * 2 ^ 320 + flags * 2 ^ 384 + q.extra * 2 ^ 512
            let s2 := s1.wr b 128 img
            let s3 := s2.wr (r.readyq + 32) 4 (s2.rd (r.readyq + 32) 4 + 1)
            let e := mkRecord q.code q.frame (-1) r.prio idx b (4 + 2 * q.image.toNat)
            (.placed b, rqPushBack s3 r e 0)

/-! ## Starting a task (R125, R140) -/

/-- Binds the watermark registers from their objects (R85): bytes 8 to 17 give base and element size. -/
def bindW (s : State) (objs : Nat → Nat) : Vector (Option WReg) 8 :=
  Vector.ofFn fun i =>
    let o := objs i.val
    if o = 0 then none else some ⟨o, bits (s.rd (o + 8) 8) 0 57, bits (s.rd (o + 16) 8) 0 16⟩

/-- The identities of running and saved tasks. -/
def usedTids (s : State) : List Nat :=
  ((allCores s).flatMap fun k => k.seq.tid.toNat :: (match k.shadow with
    | some x => [x.seq.tid.toNat]
    | none => [])) ++ s.slots.map fun e => e.tid.toNat

/-- The first number from `i` up, modulo 2^31, that is neither 0 nor in use. -/
def nextFree (used : List Nat) : Nat → Nat → Nat
  | 0, i => i
  | fuel + 1, i => if i = 0 ∨ used.contains i then nextFree used fuel ((i + 1) % 2 ^ 31) else i

/-- A fresh task identity, which no running or saved task has (R141; DESIGN CHOICE: log entry 6). -/
def freshTid (s : State) : BitVec 31 × State :=
  let used := usedTids s
  let i := nextFree used (used.length + 2) (s.fe.nextTid % 2 ^ 31)
  (BitVec.ofNat 31 i, { s with fe := { s.fe with nextTid := i + 1 } })

/-- The current core takes the state of R140 and starts a task: region, launch block, gang index, frame, record. Its data cache is empty:
it has observed what its packet followed (R109, R119). The block of an IMAGE names no watermark objects. DESIGN CHOICE (log entry 62): a
task started from a record has a frame of length 0 (R142). DESIGN CHOICE (log entry 2): `sys.epc`, `sys.cause` and `sys.tval`, which R140
does not list, are 0 at every start. -/
def startTask (r : Region) (rcbx b idx n frame code record : Nat) (s : State) : State :=
  let (tid, s1) := freshTid s
  let stride := s1.rd (b + 24) 4
  let arg := BitVec.ofNat 64 (s1.rd (b + 8) 8)
  let fp := BitVec.ofNat 64 frame
  let regs : Vector Word 32 :=
    (((((Vector.replicate 32 (0 : Word)).set 1 fp).set 2 (BitVec.ofNat 64 idx)).set 3 (BitVec.ofNat 64 n)).set 4 arg)
  let q : Seq :=
    { pc := BitVec.ofNat 64 code, regs := regs, res := blkResident s1 b, rcbx := BitVec.ofNat 16 rcbx, tid := tid,
      w := bindW s1 (fun i => if blkImage s1 b then 0 else s1.rd (b + 64 + 8 * i) 8), frameLo := fp, frameLen := if record = 0 then stride else 0, launch := b,
      index := idx, record := record, argPtr := arg, eff := r, icache := s1.core.seq.icache, starting := true, mode := .running }
  let v0 : Vec := {}
  { s1 with core := { s1.core with
      seq := q, vec := { v0 with table := s1.core.vec.table, num := s1.core.vec.num }, mat := {}, psnV := [], psnA := [], psnT := [],
      par := s1.core.par.filter fun p => decide (16 ≤ p.1) } }

/-! ## Queue descriptors (R107) -/

def getQ (s : State) (q : Nat) : Queue := (s.fe.queues.find? fun x => decide (x.q = q)).getD { q := q }

def setQ (x : Queue) (s : State) : State :=
  { s with fe := { s.fe with queues := x :: s.fe.queues.filter (fun y => decide (y.q ≠ x.q)) } }

def descAddr (s : State) (q : Nat) : Nat := bits s.cfg.qdbase.toNat 6 46 * 64 + 64 * q

def QState.code : QState → Nat
  | .disabled => 0 | .idle => 1 | .fetch => 2 | .process => 3 | .held => 4 | .skip => 5 | .integrity => 6

/-- Writes the device's fields of a descriptor back (R107): all of them, or drops and errcode only while the queue was and stays
DISABLED. A table outside HBM is not written. drops goes on from the front end's own count, whatever software has written in memory while
the queue is DISABLED (DESIGN CHOICE: log entry 91). -/
def writeBack (q : Nat) (full : Bool) (s : State) : State :=
  let x := getQ s q
  let a := descAddr s q
  if !inHbm a 64 then s
  else
    let s1 := (s.wr (a + 44) 4 x.drops).wr (a + 43) 1 x.errcode
    if !full then s1
    else
      let s2 := (s1.wr (a + 8) 4 x.head.toNat).wr (a + 12) 4 x.tail.toNat
      let s3 := s2.wr (a + 24) 1 (s2.rd (a + 24) 1 / 64 * 64 + x.interp % 64)
      let s4 := (s3.wr (a + 32) 4 x.seq.toNat).wr (a + 56) 8 x.pword.toNat
      (s4.wr (a + 42) 1 x.refetch).wr (a + 40) 1 (128 * x.port + x.st.code)

/-! ## Completion (R117, R150) -/

/-- Whether a completion status is a failure (R117). -/
def failStatus (st : Nat) : Bool := st ≠ 0 && st ≠ 7 && st ≠ 8 && st ≠ 10

/-- ORs into a signal's completion word: flags, status if it is 0, nfault saturating (R116, R117). -/
def putCompletion (sig flags status nfault : Nat) (s : State) : State :=
  let f := Nat.lor (s.rd (sig + 16) 1) flags
  let st := if s.rd (sig + 17) 1 = 0 then status else s.rd (sig + 17) 1
  ((s.wr (sig + 16) 1 f).wr (sig + 17) 1 st).wr (sig + 18) 2 (min 65535 (s.rd (sig + 18) 2 + nfault))

/-- A queue with packets to fetch is in FETCH, without any in IDLE (R110). -/
def Queue.rest (q : Queue) : Queue := { q with st := if q.head = q.tail then .idle else .fetch }

/-- The queues that are HELD on a launch go on: its packet is complete, however the launch ended (R118, R345). -/
def releaseHeld (h : QHold) (s : State) : State :=
  (s.fe.queues.filter fun q => decide (q.hold = some h)).foldl (fun t q => setQ (Queue.rest { q with hold := none }) t) s

/-- The record of a record, a launch block or a signal that the front end reads poisoned for an RCB (R326, R329). -/
def readPoison (r : Region) (pa : Nat) (s : State) : State :=
  logRecord { kind := 6, domain := r.domain, unit := 9, psn := true, cause := 5, addr := pa, rcb := r.rcb } s

/-- The completion word and the signal of a launch that ends with status `st` (R117). A poisoned signal makes it FAULT, with a record (R326;
DESIGN CHOICE: log entry 86). -/
def reportLaunch (r : Region) (sig flags st0 nfault : Nat) (s0 : State) : State :=
  if sig = 0 then s0
  else
    let bad := isPoisoned s0 sig 64
    let s := if bad then readPoison r sig s0 else s0
    let st := if bad ∧ st0 = 0 then 5 else st0
    let t := putCompletion sig flags st nfault s
    if failStatus st then sigAbort sig 2 t else sigDec sig 1 4 t

/-- The front end completes a launch (R117): the completion word in order, then the signal, then its block is free, and a queue
that is HELD on it goes on (R110). -/
def completeLaunch (b : Nat) (r : Region) (s : State) : State :=
  let s1 := reportLaunch r (blkSignal s b) (s.rd (b + 56) 1) (blkStatus s b) (s.rd (b + 52) 4) s
  let s2 := (s1.wr (b + 48) 1 (s1.rd (b + 48) 1 % 4)).wr (r.readyq + 32) 4 (s1.rd (r.readyq + 32) 4 - 1)
  let s3 := releaseHeld (.launch b) s2
  { s3 with fe := { s3.fe with
      spawned := s3.fe.spawned.filter (fun x => decide (x.launch ≠ b))
      queues := s3.fe.queues.map fun q => if q.last = some (.launch b) then { q with last := none } else q } }

/-- A launch's status becomes `st` if it is still 0 (R117). A launch that has PEER_LOST, POISONED or TIER_LOST when another of its tasks fails
keeps it, and does not count as failed (DESIGN CHOICE: log entry 89). -/
def setBlkStatus (b st : Nat) (s : State) : State := if b ≠ 0 ∧ blkStatus s b = 0 then s.wr (b + 49) 1 st else s

/-- A task of a launch has finished: flags and faults are gathered, and the last one completes it (R117, R139, R150). -/
def finishTask (b : Nat) (r : Region) (flags : Nat) (fault : Bool) (s0 : State) : State :=
  if b = 0 then s0
  else
    -- a poisoned launch block makes the launch fail (R326; DESIGN CHOICE: log entry 86)
    let s := if isPoisoned s0 b 128 then setBlkStatus b 5 (readPoison r b s0) else s0
    let s1 := s.wr (b + 56) 1 (Nat.lor (s.rd (b + 56) 1) flags)
    let s2 := if fault then setBlkStatus b 5 (s1.wr (b + 52) 4 (s1.rd (b + 52) 4 + 1)) else s1
    let u := blkUnfinished s2 b - 1
    let s3 := s2.wr (b + 36) 4 u
    if u = 0 then completeLaunch b r s3 else s3

/-! ## Latches of a task (R80, R150) -/

/-- Frees a latch in one atomic step: held := 0; `bump` also counts a release (R78, R80). -/
def freeLatch (pa : Nat) (bump : Bool) (s : State) : State :=
  if isRemote pa then postAtomic pa (.release bump) s
  else
    let x := s.rd pa 8
    s.wr pa 8 ((x % 2 ^ 32 + bump.toNat) % 2 ^ 32 + bits x 32 31 * 2 ^ 32)

/-- A request leaves its home: one that has been granted is a latch the task holds. -/
def dropWait (w : LatchWait) (bump : Bool) (s : State) : State :=
  if w.granted then freeLatch w.pa bump s
  else if isRemote w.pa then postAtomic w.pa (.withdraw w.tid.toNat) s
  else s

/-- A task's requests for latches leave their homes. -/
def dropWaits (tid : BitVec 31) (bump : Bool) (s : State) : State :=
  let mine := s.fe.waits.filter fun w => decide (w.tid = tid)
  let t := mine.foldl (fun u w => dropWait w bump u) s
  { t with fe := { t.fe with waits := t.fe.waits.filter fun w => decide (w.tid ≠ tid) } }

/-- The releases and withdrawals of a task's latches can go out now, or are lost with their ports: END and a discard wait for that (R143,
R150, R308). -/
def latchesGo (s : State) : Bool :=
  let q := s.core.seq
  (q.latches.map HeldLatch.pa ++ (s.fe.waits.filter fun w => decide (w.tid = q.tid)).map LatchWait.pa).all fun pa =>
    !isRemote pa || wayOpen s pa 2 || !routes s (bits pa 45 6)

/-- The latches the task holds are freed. The list keeps the physical address that each was found at when it was taken, so that a release
after a remapping goes there (DESIGN CHOICE: log entry 88). -/
def freeLatches (bump : Bool) (s : State) : State :=
  let t := s.core.seq.latches.foldl (fun u h => freeLatch h.pa bump u) s
  setSeq t { t.core.seq with latches := [] }

/-! ## The core falls idle -/

/-- A partition swap is done once no core runs a task of the partition (R144, R336). -/
def noteSwap (s : State) : State :=
  if s.cfg.swap = 1 ∧ ((allCores s).all fun k => decide (k.seq.mode = .idle) || decide (k.seq.eff.part ≠ s.cfg.swapRcb)) then
    { s with cfg := { s.cfg with swap := 2 } }
  else s

/-- The current core has no task. Its caches stay as they are. -/
def goIdle (s : State) : State :=
  let q := s.core.seq
  let p := { q with mode := .idle, stall := false, preempt := false, yielding := false, atPoint := false, line := none, refetch := none }
  noteSwap (setSeq s { p with busy := [], returns := [], polls := false })

/-- An RCB's index is freed when no record, task or saved context of it remains (R138), nor a COPY under way that names it. -/
def dropHandles (s : State) : State :=
  { s with fe := { s.fe with rcbs := s.fe.rcbs.filter fun h =>
      (s.fe.jobs.any fun j => decide (j.rcb = h.rcb)) ||
      ((allCores s).any fun k => (decide (k.seq.mode ≠ .idle) && decide (k.seq.eff.rcb = h.rcb)) ||
        (match k.shadow with | some c => decide (c.seq.eff.rcb = h.rcb) | none => false)) ||
      (match region s h.rcb with
        | none => false
        | some r => !(rqItems s r).isEmpty || decide (s.rd (r.readyq + 32) 4 ≠ 0)) } }

/-- A COPY's stream has ended with a status (R117, R265). -/
def endCopy (job st : Nat) (s : State) : State :=
  match s.fe.jobs.find? fun j => decide (j.job = job) with
  | none => s
  | some j =>
    let qs := s.fe.queues.map fun x => if x.last = some (QHold.copy job) then { x with last := none } else x
    let s1 := { s with fe := { s.fe with jobs := s.fe.jobs.erase j, queues := qs } }
    dropHandles (releaseHeld (.copy job) (reportLaunch ((region s j.rcb).getD { rcb := j.rcb }) j.sig 0 st 0 s1))

/-- The dispatcher forgets a task. -/
def dropPorts (tid : BitVec 31) (s : State) : State :=
  let c := s.copy
  setCopy s { c with rings := c.rings.filter (fun x => decide (x.tid ≠ tid)), binds := c.binds.filter (fun x => decide (x.tid ≠ tid)),
                     errors := c.errors.filter fun x => decide (x.tid ≠ tid) }

/-- Discards the running task of the current core (R143): queued instructions and copy streams are cancelled, its latches freed,
and its record returns to the front of its ready queue, still marked as spawned where it was (R139). -/
def discardTask (s : State) : State :=
  let q := s.core.seq
  let s1 := cancelNow ((taskStreams s q.tid).map Stream.id) s
  let s2 := dropWaits q.tid false (freeLatches false s1)
  let s3 := dropPorts q.tid s2
  let v0 : Vec := {}
  let s4 := setMat (setVec s3 { v0 with table := s3.core.vec.table, num := s3.core.vec.num }) {}
  let entry := if q.record ≠ 0 then ringCopy s4 q.record
    else mkRecord (s4.rd q.launch 8) (s4.rd (q.launch + 16) 8) q.index q.eff.prio q.rcbx.toNat q.launch (4 + 2 * q.img.toNat)
  let s5 := if q.record ≠ 0 ∧ q.launch ≠ 0 then { s4 with fe := { s4.fe with spawned := s4.fe.spawned ++ [⟨q.record, q.launch⟩] } } else s4
  goIdle (rqPushFront s5 q.eff entry q.record)

/-- Whether every access of the current core already issued has finished (R143, R145). -/
def quiet (s : State) : Bool :=
  s.core.seq.returns.isEmpty && s.core.vec.loads.isEmpty && s.core.vec.stores.isEmpty && !(s.core.mat.queue.any fun e => e.issued)

/-! ## Spawned records (R139, R173) -/

/-- Pushes a record that is marked spawned (R126): copied into the ring entry at the back. -/
def pushRecord (r : Region) (pa : Nat) (s : State) : State := rqPushBack s r (ringCopy s pa) pa

end Sys2Proof.Machine
end

