-- ==== Sys2Proof/Machine/RasOps.lean ====
section
/-! DEFINITION. Frame-area slots (R146), machine checks and the kill of a fault domain (R327, R328), the viral state (R330), and
the dropping of translations (R105, R331). -/

namespace Sys2Proof.Machine

/-! ## The frame area (R146) -/

def frameCount (s : State) (r : Region) : Nat := s.rd r.frames 4
def frameKiB (s : State) (r : Region) : Nat := s.rd (r.frames + 4) 4

/-- The header keeps its limits. -/
def frameAreaOk (s : State) (r : Region) : Bool :=
  decide (r.frames ≠ 0) && decide (1 ≤ frameCount s r) && decide (frameCount s r ≤ 65535) &&
    decide (480 + r.spsize + 8 * r.tssize ≤ frameKiB s r) && decide (s.rd (r.frames + 8) 56 = 0)

/-- A0, the first multiple of 64 KiB at or above the end of the bitmap. -/
def frameBase (s : State) (r : Region) : Nat :=
  (r.frames + 64 + 8 * ((frameCount s r + 63) / 64) + 65535) / 65536 * 65536

def framePitch (s : State) (r : Region) : Nat := (frameKiB s r * 1024 + 65535) / 65536 * 65536

def slotAddr (s : State) (r : Region) (i : Nat) : Nat := frameBase s r + i * framePitch s r

/-- The address of slot `i` as the task sees it. -/
def slotView (s : State) (r : Region) (i : Nat) : Nat :=
  if r.fvirt = 0 then slotAddr s r i else r.fvirt + (slotAddr s r i - r.frames)

def slotUsed (s : State) (r : Region) (i : Nat) : Bool := bitAt (s.rd (r.frames + 64 + i / 8) 1) (i % 8)

def slotSet (r : Region) (i : Nat) (c : Bool) (s : State) : State :=
  let x := s.rd (r.frames + 64 + i / 8) 1
  s.wr (r.frames + 64 + i / 8) 1 (putBits x (i % 8) 1 c.toNat)

/-- The lowest free slot. -/
def freeSlot (s : State) (r : Region) : Option Nat :=
  if frameAreaOk s r then (List.range (frameCount s r)).find? fun i => !slotUsed s r i else none

/-- The slot at an address, physical or as the task sees it. -/
def slotAt (s : State) (r : Region) (view : Bool) (a : Nat) : Option Nat :=
  if frameAreaOk s r then
    (List.range (frameCount s r)).find? fun i => decide ((if view then slotView s r i else slotAddr s r i) = a)
  else none

/-- Frees the slot at a physical address, with the engine state kept there. -/
def dropSlotAt (r : Region) (pa : Nat) (s : State) : State :=
  let t := { s with slots := s.slots.filter fun e => decide (e.slot ≠ pa) }
  match slotAt t r false pa with
  | some i => slotSet r i false t
  | none => t

/-! ## Zeroing shares -/

/-- Clears a range of memory and its poison marks. -/
def zeroMem (lo n : Nat) (s : State) : State :=
  { s with mem := s.mem.filter (fun c => !(decide (lo ≤ c.1) && decide (c.1 < lo + n)))
           poison := s.poison.filter fun g => !(decide (lo ≤ g) && decide (g + granule g ≤ lo + n)) }

def zeroTable (r : Region) (v : Vec) : Vec :=
  { v with table := v.table.map fun t => BitVec.ofNat 16384 (putBits t.toNat (1024 * r.tsstart) (1024 * r.tssize) 0) }

/-- The words of a table share that are zeroed have good parity (R324, R328). -/
def zeroPar (r : Region) (ps : List (Nat × Nat × Bool)) : List (Nat × Nat × Bool) :=
  ps.filter fun p => decide (16 ≤ p.1) && !(decide (16 * r.tsstart ≤ p.2.1) && decide (p.2.1 < 16 * (r.tsstart + r.tssize)))

/-! ## Killing a domain (R328) -/

/-- A collective is out with its dispatch, which sends its check; the other operations go at their acceptance (R311, R319). -/
def FabOp.isColl (o : FabOp) : Bool :=
  match o.instr with
  | .collAllreduce .. | .collRedscat .. | .collAllgather .. | .collBcast .. => true
  | _ => false

/-- The unsent near-memory commands of a task are cancelled. -/
def cancelNear (tid : BitVec 31) (s : State) : State :=
  { s with near := s.near.filter fun c => !(decide (c.tid = tid) && c.data.isNone) }

/-- The unsent fabric operations of a task are cancelled. -/
def cancelFab (tid : BitVec 31) (s : State) : State :=
  setFab s { s.fab with ops := s.fab.ops.filter fun o => !(decide (o.tid = tid) && !o.isColl) }

def dropUnsent (tid : BitVec 31) (s : State) : State := cancelFab tid (cancelNear tid s)

/-- What a task of the domain has under way and holds: its unsent commands, its streams, its latches, its rings and bindings. -/
def releaseTask (q : Seq) (s : State) : State :=
  let s1 := dropUnsent q.tid s
  let s2 := cancelNow ((taskStreams s1 q.tid).map Stream.id) s1
  dropPorts q.tid (dropWaits q.tid false (q.latches.foldl (fun z h => freeLatch h.pa false z) s2))

/-- Steps 1 to 4 for the current core. -/
def scrubCore (s : State) : State :=
  let k := s.core
  let r := k.seq.eff
  let s1 := releaseTask k.seq s
  let s2 := { s1 with shoot := s1.shoot.map fun h => if h.core = k.id then { h with core := 2048 } else h }
  let s3 := zeroMem (padAddr k.id r 0) (r.spsize * 1024) s2
  let v0 : Vec := {}
  let q0 : Seq := {}
  { s3 with core := { s3.core with seq := { q0 with icache := k.seq.icache, dcache := k.seq.dcache }
                                   vec := zeroTable r { v0 with table := s3.core.vec.table, num := s3.core.vec.num }
                                   mat := {}, psnV := [], psnA := [], psnT := [], par := zeroPar r s3.core.par } }

/-- The context in the shadow slot of the current core goes, with its shares (R328). -/
def scrubShadow (s : State) : State :=
  match s.core.shadow with
  | some x =>
    let r := x.seq.eff
    let s1 := zeroMem (padAddr s.core.id r 0) (r.spsize * 1024) (releaseTask x.seq s)
    let masks := s1.core.par.filter fun p => decide (p.1 < 16)
    { s1 with core := { s1.core with shadow := none, vec := zeroTable r s1.core.vec, par := masks ++ zeroPar r s1.core.par } }
  | none => s

/-- The cores held for the gang of a launch block are idle again (R344). -/
def freeHeld (b : Nat) (s : State) : State :=
  let go := fun (k : Core) => if k.seq.mode = .held b then { k with seq := { k.seq with mode := .idle } } else k
  noteSwap { s with core := go s.core, others := s.others.map go }

/-- A launch ends with KILLED, whatever status one of its tasks has given it (R328): its gang entry, its members' entries and its spawned records leave the ready queue, and it
completes. -/
def killLaunch (b : Nat) (r : Region) (s : State) : State :=
  let mine := fun (u : State) (p : ItemLoc × Nat) =>
    (recGang p.2 && decide (recLink p.2 = b)) ||
      (!recGang p.2 && !recSaved p.2 && (u.fe.spawned.any fun x => decide (x.launch = b ∧ x.rec_ = recLink p.2)))
  let strip := fun (u : State) =>
    match (rqItems u r).find? (mine u) with
    | some p => rqTake u r p.1
    | none => u
  let s1 := (List.range (rqItems s r).length).foldl (fun u _ => strip u) (freeHeld b s)
  if blkBusy s1 b then completeLaunch b r (s1.wr (b + 49) 1 6) else s1

/-- The COPY packets' streams of a domain are cancelled, and their launches end with KILLED (R265, R328). -/
def killCopies (d : Nat) (s : State) : State :=
  (s.copy.streams.filter fun t => decide (t.launch ≠ 0 ∧ t.eff.domain = d)).foldl (fun u t => endCopy t.launch 6 (cancelNow [t.id] u)) s

/-- The regions whose RCBs have an index. -/
def liveRegions (s : State) : List Region := s.fe.rcbs.filterMap fun h => region s h.rcb

/-- The region whose launch block stands at `b`. -/
def regionOfBlock (s : State) (b : Nat) : Option Region :=
  (liveRegions s).find? fun r => (List.range (2 ^ r.rqsize)).any fun j => decide (blockAddr r j = b)

/-- Kills domain `d` (R328). -/
def killDomain (d : Nat) (s : State) : State :=
  let hit := fun (k : Core) => decide (k.seq.mode ≠ .idle) && (match k.seq.mode with | .held _ => false | _ => true) &&
    decide (k.seq.eff.domain = d)
  let running := ((allCores s).filter hit).map Core.id
  let shadowHit := fun (k : Core) => match k.shadow with
    | some c => decide (c.seq.eff.domain = d)
    | none => false
  let shadows := (allCores s).filter shadowHit
  let spilled := s.slots.filter fun e => decide (e.seq.eff.domain = d)
  let blocks := ((((allCores s).filter hit).map fun k => k.seq.launch) ++
    (shadows.filterMap fun k => k.shadow.map fun c => c.seq.launch) ++ (spilled.map fun e => e.seq.launch)).filter fun b => decide (b ≠ 0)
  let s1 := running.foldl (fun u c => onCore c scrubCore u) s
  -- saved contexts of the domain: their latches, their slots, their records
  let s2 := (shadows.map Core.id).foldl (fun u c => onCore c scrubShadow u) s1
  let s3 := spilled.foldl (fun u e => dropSlotAt e.seq.eff e.slot (releaseTask e.seq u)) s2
  let s4 := (liveRegions s3).foldl (fun u r =>
    if r.domain = d then
      (List.range (rqItems u r).length).foldl (fun z _ =>
        match (rqItems z r).find? fun p => recSaved p.2 with
        | some p => rqTake z r p.1
        | none => z) u
    else u) s3
  let s5 := blocks.eraseDups.foldl (fun u b =>
    match regionOfBlock u b with
    | some r => killLaunch b r u
    | none => u) s4
  let s6 := killCopies d s5
  let s7 := { s6 with cfg := { s6.cfg with dead := s6.cfg.dead ||| BitVec.ofNat 256 (2 ^ d) } }
  noteSwap (dropHandles (logRecord { kind := 3, domain := d, unit := 9 } s7))

/-- A machine check against the task of core `c` (R327): its record, and the kill of its domain. -/
def machineCheck (c unit cause addr pc : Nat) (psn : Bool) (s : State) : State :=
  let q := (getCore s c).seq
  killDomain q.eff.domain (logRecord { kind := 2, domain := q.eff.domain, unit := unit, psn := psn, tid := q.tid.toNat, at_ := c,
                                       cause := cause, addr := addr, pc := pc, rcb := q.eff.rcb } s)

/-- A machine check that belongs to no task goes to domain 0 (R327); `at_` is the core, engine or port that the record names (R329). -/
def machineCheck0 (unit at_ addr : Nat) (psn : Bool) (s : State) : State :=
  killDomain 0 (logRecord { kind := 2, domain := 0, unit := unit, at_ := at_, psn := psn, addr := addr } s)

/-- Viral entry (R330). -/
def enterViral (s : State) : State := { logRecord { kind := 10, unit := 9 } s with viral := true }

/-! ## Dropping translations -/

def siteCore : TlbSite → Option Nat
  | .scalar c | .range c | .banked c => some c
  | .dispatcher _ => none

def siteIs (tg : ShootTarget) (site : TlbSite) : Bool :=
  match tg, site with
  | .core c, .scalar d | .core c, .range d | .core c, .banked d => decide (c = d)
  | .dispatcher k, .dispatcher j => decide (k = j)
  | _, _ => false

/-- Whether an entry serves a page, or is of a line of the range translator that holds it (R105). -/
def holdsPage (e : TlbEntry) (vpage : Nat) : Bool :=
  (decide (e.vpage ≤ vpage) && decide (vpage < e.vpage + e.pages)) || (e.line && decide (e.vpage / 8 = vpage / 8))

/-- The core's or dispatcher's entries that a TLBINV drops (R105): extent 0 one page, 1 the address space, 2 every one. -/
def dropTlb (tg : ShootTarget) (asn vpage extent : Nat) (s : State) : State :=
  let hitA := fun (a : Nat) => decide (extent = 2) || decide (a = asn)
  { s with tlb := {
      leaves := s.tlb.leaves.filter (fun e => !(siteIs tg e.site && hitA e.asn &&
        (decide (extent ≠ 0) || holdsPage e vpage)))
      walks := s.tlb.walks.filter fun w => !(siteIs tg w.site && hitA w.asn &&
        (decide (extent ≠ 0) || decide (w.prefx = vpage / 2 ^ (9 * w.level)))) } }

/-- Every mapping into a range of physical addresses is dropped everywhere (R331). -/
def dropFrames (lo n : Nat) (s : State) : State :=
  { s with tlb := { s.tlb with leaves := s.tlb.leaves.filter fun e =>
      !(decide (e.frame * 4096 < lo + n) && decide (lo < (e.frame + e.pages) * 4096)) } }

end Sys2Proof.Machine
end

