-- ==== Sys2Proof/Machine/FrontOps.lean ====
section
/-! DEFINITION. The front end's operations (07): queue descriptors and windows, packets and their checks, signals of packets, failing
and ending a packet, and Beret programs. -/

namespace Sys2Proof.Machine

/-! ## Queues (R107, R108) -/

/-- The descriptor as the front end holds it, as a 64-byte number (LDQB). -/
def descImage (x : Queue) : Nat :=
  (x.ringbase + 32 * x.ing.toNat + x.lsize) + (x.head.toNat + x.tail.toNat * 2 ^ 32) * 2 ^ 64 + (x.rcb + x.qprio) * 2 ^ 128 +
    (x.prog + x.interp % 64) * 2 ^ 192 + x.seq.toNat * 2 ^ 256 +
    (x.st.code + 128 * x.port + x.refetch * 2 ^ 16 + x.errcode * 2 ^ 24 + x.drops * 2 ^ 32) * 2 ^ 320 + x.pword.toNat * 2 ^ 448

def slotPa (x : Queue) (i : BitVec 32) : Nat := x.ringbase + 64 * (i.toNat % 2 ^ x.lsize)

/-- Slots in use, and whether `n` more fit (R107). -/
def ringUsed (x : Queue) : Nat := (x.tail - x.head).toNat

def ringRoom (x : Queue) (n : Nat) : Bool := decide (ringUsed x + n ≤ 2 ^ x.lsize)

def countDrop (x : Queue) : Queue := { x with drops := min (2 ^ 32 - 1) (x.drops + 1) }

/-- A queue in IDLE with packets goes to FETCH (R110). -/
def wake (x : Queue) : Queue := if x.st = .idle ∧ x.head ≠ x.tail then { x with st := .fetch } else x

/-! ## CRC-32C (R112) -/

def crcStep : Nat → Nat → Nat
  | 0, c => c
  | n + 1, c => crcStep n (if c % 2 = 1 then Nat.xor (c / 2) 0x82F63B78 else c / 2)

def crcBytes : List Byte → Nat → Nat
  | [], c => c
  | b :: r, c => crcBytes r (crcStep 8 (Nat.xor c b.toNat))

def crc32c (bs : List Byte) : Nat := Nat.xor (crcBytes bs 0xFFFFFFFF) 0xFFFFFFFF

/-- The check field of a packet: bytes 8 to 11 left out. -/
def packetCheck (p : List Byte) : Nat := crc32c (p.take 8 ++ p.drop 12)

/-! ## Packets (R111 to R115) -/

def pType (p : List Byte) : Nat := field p 0 1
def pBar (p : List Byte) : Bool := bitAt (field p 1 1) 0
def pResume (p : List Byte) : Bool := bitAt (field p 1 1) 1
def pResident (p : List Byte) : Bool := bitAt (field p 1 1) 2
def pLen (p : List Byte) : Nat := field p 2 2

/-- A signal address a packet may name (R115). -/
def sigOk (a : Nat) : Bool := decide (a % 64 = 0) && inDevice a 64

/-- Bytes [lo, hi) are zero. -/
def zeroAt (p : List Byte) (lo hi : Nat) : Bool := ((p.drop lo).take (hi - lo)).all fun b => decide (b = 0)

/-- The signal a packet moves when it fails or is skipped (R118, R345), 0 for none. -/
def packetSignal (p : List Byte) : Nat :=
  match pType p with
  | 1 | 2 | 4 | 5 => field p 16 8
  | 3 => field p 48 8
  | _ => 0

/-- R115: whether the packet fails with FORMAT. `hw` says that ingress hardware or FWDB wrote it. -/
def packetBad (p : List Byte) (hw : Bool) : Bool :=
  let t := pType p
  let len := 64 * pLen p
  let f := fun lo n => field p lo n
  let sig0 := fun a => decide (a ≠ 0) && !sigOk a
  let rcb := decide (f 24 8 ≠ 0) && !(decide (f 24 8 % 256 = 0) && inHbm (f 24 8) 256)
  let head := decide (f 1 1 / 8 ≠ 0) || !zeroAt p 12 16 || (pResident p && decide (t ≠ 1))
  let body := match t with
    | 1 => decide (pLen p ≠ 1 ∧ pLen p ≠ 2) || decide (f 60 4 = 0) || decide (2 ^ 24 < f 60 4) || decide (f 56 4 % 64 ≠ 0) ||
        sig0 (f 16 8) || rcb
    | 2 => !zeroAt p 56 len || decide (f 55 1 ≠ 0) || sig0 (f 16 8) || rcb || decide (f 32 8 = 0) || decide (f 32 8 % 65536 ≠ 0) ||
        !inHbm (f 32 8) 0x78000
    | 3 => !zeroAt p 56 len || [16, 24, 32, 40, 48].any fun o => sig0 (f o 8)
    | 4 => !zeroAt p 33 36 || !zeroAt p 40 len || decide (1 < f 32 1) || decide (f 16 8 = 0) || sig0 (f 16 8)
    | 5 => !zeroAt p 41 len || sig0 (f 16 8) || rcb
    | 6 => !zeroAt p 16 len
    | 7 => !hw || !zeroAt p 22 24 || !zeroAt p 29 30 || !zeroAt p 64 len
    | _ => true
  head || body

/-! ## Ending, failing and skipping a packet (R110, R118, R345) -/

/-- The packet of queue `q` ends its processing: `ok` it did not fail; `hold` what the queue then waits for. A SWAP takes effect at
this boundary, and so does a DISABLE (R108, R110). -/
def endPacket (q : Nat) (ok : Bool) (hold : Option QHold) (s : State) : State :=
  let x := getQ s q
  let x1 := { x with head := x.head + BitVec.ofNat 32 (pLen x.pkt), pkt := [], ctx := none, blocked := false, last := none, pass := none }
  let x2 := match x1.swap with
    | some (a, c, m) => { x1 with prog := a, code := c, manifest := m, swap := none }
    | none => x1
  let x3 :=
    if x2.disabling then { x2 with st := .disabled, disabling := false, hold := none }
    else if !ok then { x2 with st := .skip, hold := none }
    else match hold with
      | some h => { x2 with st := .held, hold := some h }
      | none => Queue.rest x2
  writeBack q true (setQ x3 s)

/-- A failed packet moves its signal (R345): status and abort code 3. -/
def failSignal (p : List Byte) (st : Nat) (s : State) : State :=
  let a := packetSignal p
  if a = 0 ∨ !sigOk a then s
  else
    let t := if pType p = 1 ∨ pType p = 2 ∨ pType p = 5 then putCompletion a 0 st 0 s else s
    sigAbort a 3 t

def failPacket (q st : Nat) (s : State) : State := endPacket q false none (failSignal (getQ s q).pkt st s)

/-- A packet that is skipped (R118): status ABORTED and abort code 1. A signal already below 0 keeps its value and abort code; its completion
word gets the status all the same (DESIGN CHOICE: log entry 92). -/
def skipPacket (q : Nat) (s : State) : State :=
  let p := (getQ s q).pkt
  let a := packetSignal p
  let s1 :=
    if a = 0 ∨ !sigOk a then s
    else sigSkip a (if pType p = 1 ∨ pType p = 2 ∨ pType p = 5 then putCompletion a 0 4 0 s else s)
  endPacket q false none s1

/-! ## Barriers (R118) -/

/-- What an evaluation that reads all its signals at one moment finds: 1 satisfied, 2 aborted, 0 waiting. -/
def evalSignals (s : State) : List Nat → Nat
  | [] => 1
  | a :: r =>
    let v := sigValue s a
    if v < 0 then 2
    else
      match evalSignals s r with
      | 2 => 2
      | k => if v = 0 then k else 0

/-- How far an evaluation has come: it ends satisfied, aborted or waiting, at a poisoned signal (R326), or it has yet to read some. -/
inductive Pass where
  | sat
  | abort
  | wait
  | poison (pa : Nat)
  | more (left : List Nat) (zero : Bool)
  deriving DecidableEq, Repr

/-- An evaluation reads its signals in list order and stops at the first below 0; `zero` says that those read so far returned 0. It is no
snapshot: after each read the next choice says whether others move before the next one (R118, R119; `false`: none does). -/
def readSignals : List Nat → Bool → State → Pass × State
  | [], zero, s => (if zero then .sat else .wait, s)
  | a :: r, zero, s =>
    if isPoisoned s a 64 then (.poison a, s)
    else if sigValue s a < 0 then (.abort, s)
    else
      let z := zero && decide (sigValue s a = 0)
      if r.isEmpty then (if z then .sat else .wait, s)
      else
        match popChoice s with
        | (true, t) => (.more r z, t)
        | (false, t) => readSignals r z t

/-- The evaluation of queue `x` of some signals goes on, or begins. -/
def evalPass (x : Queue) (sigs : List Nat) (s : State) : Pass × State :=
  match x.pass with
  | some (left, zero) => readSignals left zero s
  | none => readSignals sigs true s

def barrierSignals (p : List Byte) : List Nat := ([16, 24, 32, 40].map fun o => field p o 8).filter fun a => decide (a ≠ 0)

/-- Enters a queue as a waiter of signals that are not yet 0 (R116). -/
def waitOn (q : Nat) (sigs : List Nat) (s : State) : State := sigs.foldl (fun t a => addWaiter a (queueWaiter q) t) s

def unwait (q : Nat) (sigs : List Nat) (s : State) : State := sigs.foldl (fun t a => delWaiter a (queueWaiter q) t) s

/-! ## Beret programs (R128 to R130) -/

/-- The words of a program and the entries of its manifest. -/
def progWords (s : State) (pa : Nat) : List Nat × List Nat :=
  let n := s.rd (pa + 4) 2
  let m := s.rd (pa + 6) 1
  ((List.range n).map fun k => s.rd (pa + 64 + 16 * m + 4 * k) 4, (List.range m).map fun j => s.rd (pa + 64 + 16 * j) 16)

def manifestKind (e : Nat) : Nat := bits e 62 2

def manifestOk (e : Nat) : Bool :=
  decide (e < 2 ^ 64) &&
    match manifestKind e with
    | 0 => decide (bits e 52 10 = 0) && decide (bits e 0 6 = 0)
    | 1 => decide (bits e 9 53 = 0)
    | 2 => decide (bits e 16 46 = 0)
    | _ => false

/-- The LOOPB bodies of a program: first index, index after the body. -/
def bodies (is : List Instr) : List (Nat × Nat) :=
  (List.range is.length).filterMap fun k =>
    match (is[k]? : Option Instr) with
    | some (.loopb len _) => some (k + 1, k + 1 + len.toNat)
    | _ => none

/-- The branches: own index, index landed at. -/
def branches (is : List Instr) : List (Nat × Nat) :=
  (List.range is.length).filterMap fun k =>
    match (is[k]? : Option Instr) with
    | some (.beqb _ _ imm) | some (.bneb _ _ imm) | some (.bltb _ _ imm) => some (k, k + 1 + imm.toNat)
    | _ => none

/-- The LOOPB bodies `bs`, first and last index each, overlap by nesting alone, at most 4 deep (R130). A LOOPB that is the last instruction of
another's body has its own body behind that one: it is no nesting, and entering it abandons the outer loop (DESIGN CHOICE: log entry 90). -/
def nestOk (bs : List (Nat × Nat)) : Bool :=
  bs.all fun x =>
    (bs.all fun y => decide (x.2 ≤ y.1) || decide (y.2 ≤ x.1) || (decide (x.1 ≤ y.1) && decide (y.2 ≤ x.2)) ||
      (decide (y.1 ≤ x.1) && decide (x.2 ≤ y.2))) &&
    decide ((bs.filter fun y => decide (y.1 ≤ x.1) && decide (x.2 ≤ y.2)).length ≤ 4)

/-- The manifest index an instruction names is in range and of its kind (R130). -/
def manifestUse (m : List Nat) : Instr → Bool
  | .srdb _ imm | .sdecb _ imm | .ssetb _ imm =>
    match m[imm.toNat]? with
    | some e => decide (manifestKind e ≤ 1)
    | none => false
  | _ => true

/-- The program passes verification (R130). -/
def progOk (s : State) (pa : Nat) : Bool :=
  let (ws, m) := progWords s pa
  let ds := ws.map fun w => decodeBeret w
  let is := ds.filterMap fun d => match d with
    | .ok i => some i
    | .error _ => none
  let bs := bodies is
  inHbm pa 64 && decide (s.rd pa 4 = 0x42524554) && decide (1 ≤ ws.length ∧ ws.length ≤ 1024) && decide (m.length ≤ 16) &&
    decide (s.rd (pa + 7) 1 = 1) && decide (s.rd (pa + 8) 56 = 0) && inHbm pa (64 + 16 * m.length + 4 * ws.length) &&
    m.all manifestOk && decide (is.length = ws.length) && is.all (fun i => i.wf && manifestUse m i) &&
    bs.all (fun b => decide (b.2 ≤ is.length)) && nestOk bs &&
    (branches is).all fun j => decide (j.2 ≤ is.length) &&
      bs.all fun b => decide ((b.1 ≤ j.1 ∧ j.1 < b.2) ↔ (b.1 ≤ j.2 ∧ j.2 < b.2))

/-- The program a queue runs: none is the stock program. -/
def loadProg (s : State) (pa : Nat) : Option (Nat × List Nat × List Nat) :=
  if pa = 0 then some (0, [], [])
  else if progOk s pa then some (pa, (progWords s pa).1, (progWords s pa).2)
  else none

/-- Where the header, the manifest or the words of a program hold poison (R326), the program's address. -/
def progPoison (s : State) (pa : Nat) : Option Nat :=
  let n := 64 + 16 * s.rd (pa + 6) 1 + 4 * s.rd (pa + 4) 2
  if pa ≠ 0 ∧ inHbm pa 64 ∧ (isPoisoned s pa 64 ∨ (inHbm pa n ∧ isPoisoned s pa n)) then some pa else none

/-- The registers an interpreter starts a packet with (R129). -/
def startBeret (x : Queue) : Beret :=
  { b := (((((Vector.replicate 16 (0 : Word)).set 1 (BitVec.ofNat 64 x.pktAddr)).set 2 (BitVec.ofNat 64 (pLen x.pkt))).set 3
      (BitVec.ofNat 64 (pType x.pkt))).set 4 (BitVec.ofNat 64 x.q)).set 5 x.pword }

/-! ## The window (R108) -/

/-- The record of a read of the front end for queue `q` that met poison at `pa` (R326). -/
def fePoison (q pa : Nat) (s : State) : State :=
  logRecord { kind := 6, unit := 9, psn := true, at_ := q % 2 ^ 16, cause := 5, addr := pa, rcb := (getQ s q).rcb } s

/-- After a window write the front end writes back (R107). -/
def afterWindow (q : Nat) (was : QState) (s : State) : State :=
  writeBack q (decide (was ≠ .disabled) || decide ((getQ s q).st ≠ .disabled)) s

def windowError (q code : Nat) (s : State) : State :=
  let x := getQ s q
  afterWindow q x.st (setQ { x with errcode := code } s)

/-- An inline packet (R108). DESIGN CHOICE (log entry 59): one whose length is not 1 and that finds the ring full gives errcode 1. -/
def inlineWrite (q : Nat) (bs : List Byte) (s : State) : State :=
  let x := getQ s q
  let drop := fun code => afterWindow q x.st (setQ { countDrop x with errcode := code } s)
  if x.st = .disabled then drop 7
  else if pLen bs ≠ 1 then drop 1
  else if !ringRoom x 1 then drop 2
  else
    let direct := decide (x.st = .idle) && decide (x.head = x.tail)
    let s1 := s.wrBytes (slotPa x x.tail) bs
    let x1 := { x with tail := x.tail + 1 }
    let x2 := wake (if direct then { x1 with pkt := bs } else x1)
    afterWindow q x.st (setQ x2 s1)

def doTail (q : Nat) (arg : Word) (s : State) : State :=
  let x := getQ s q
  if x.st = .disabled then windowError q 7 s
  else
    let a : BitVec 32 := arg.extractLsb' 0 32
    if (a - x.head).toNat ≤ 2 ^ x.lsize ∧ (a - x.tail).toNat ≤ 2 ^ x.lsize then afterWindow q x.st (setQ (wake { x with tail := a }) s)
    else windowError q 3 s

/-- ENABLE reads and checks the descriptor (R108). DESIGN CHOICE (log entry 60): the interpreter that serves the queue is the one the
descriptor names. DESIGN CHOICE (log entry 86): a poisoned descriptor or program refuses the ENABLE as a bad one does, with a record. -/
def doEnable (q : Nat) (s : State) : State :=
  let x := getQ s q
  if x.st ≠ .disabled then windowError q 8 s
  else
    let a := descAddr s q
    let w := fun k => s.rd (a + 8 * k) 8
    let base := bits (w 0) 6 46 * 64
    let rcb := bits (w 2) 6 46 * 64
    let ok := inHbm a 64 && decide (bits (w 0) 52 12 = 0) && decide (bits (w 0) 0 5 ≤ 20) && decide (bits (w 2) 52 12 = 0) &&
      decide (bits (w 2) 4 2 = 0) && decide (bits (w 3) 52 12 = 0) && decide (w 4 < 2 ^ 32) && decide (bits (w 5) 8 8 = 0) &&
      decide (bits (w 5) 3 4 = 0) && decide (w 6 = 0) && decide (base ≠ 0) && inHbm base (64 * 2 ^ bits (w 0) 0 5) &&
      decide (rcb ≠ 0) && decide (rcb % 256 = 0) && inHbm rcb 256
    let y : Queue :=
      { q := q, ringbase := base, ing := bitAt (w 0) 5, lsize := bits (w 0) 0 5, tail := BitVec.ofNat 32 (bits (w 1) 32 32),
        head := BitVec.ofNat 32 (bits (w 1) 0 32), rcb := rcb, qprio := bits (w 2) 0 4, interp := bits (w 3) 0 6,
        seq := BitVec.ofNat 32 (w 4), drops := bits (w 5) 32 32, errcode := bits (w 5) 24 8, refetch := bits (w 5) 16 8,
        port := bits (w 5) 7 1, pword := BitVec.ofNat 64 (w 7) }
    if inHbm a 64 && isPoisoned s a 64 then windowError q 5 (fePoison q a s)
    else if !ok then windowError q 5 s
    else if let some pa := progPoison s (bits (w 3) 6 46 * 64) then windowError q 4 (fePoison q pa s)
    else
      match loadProg s (bits (w 3) 6 46 * 64) with
      | none => windowError q 4 s
      | some (p, c, m) => afterWindow q .idle (setQ (wake { y with prog := p, code := c, manifest := m, st := .idle }) s)

/-- The addresses of the manifest signals in a mask, in ascending index order. -/
def maskSignals (addr : Nat → Nat) (mask : Nat) : List Nat := ((List.range 16).filter fun j => bitAt mask j).map addr

/-- The signal address of manifest entry `j` for the packet in hand (R128): none where there is no such entry or it is no signal. -/
def manifestSignal (x : Queue) (j : Nat) : Option Nat :=
  match x.manifest[j]? with
  | none => none
  | some e =>
    match manifestKind e with
    | 0 => some (bits e 6 46 * 64)
    | 1 => some (field x.pkt (8 * (e % 512)) 8)
    | _ => none

/-- DISABLE (R108): a HELD queue is DISABLED at once, a BARRIER is abandoned, and the packet is not fetched again; one that waits in WAITB
ends with head past it (DEDUCED: log entry 28). -/
def doDisable (q : Nat) (s : State) : State :=
  let x := getQ s q
  match x.st with
  | .disabled => windowError q x.errcode s
  | .process => afterWindow q x.st (setQ { x with disabling := true } s)
  | .held =>
    let y := { x with st := .disabled, hold := none, pkt := [], ctx := none, last := none, pass := none }
    let s1 := if pType x.pkt = 3 then sigAbort (packetSignal x.pkt) 3 s else s
    match x.hold with
    | some (.waitb _ mask) =>
      let s2 := unwait q (maskSignals (fun j => (manifestSignal x j).getD 0) mask) s1
      afterWindow q x.st (setQ { y with head := x.head + BitVec.ofNat 32 (pLen x.pkt) } s2)
    | _ => afterWindow q x.st (setQ y (unwait q (barrierSignals x.pkt) s1))
  | _ => afterWindow q x.st (setQ { x with st := .disabled, hold := none, pkt := [], tries := 0 } s)

def doResume (q : Nat) (s : State) : State :=
  let x := getQ s q
  match x.st with
  | .disabled => windowError q 7 s
  | .integrity => afterWindow q x.st (setQ { x with st := .fetch, tries := 0 } s)
  | _ => windowError q 8 s

def doSwap (q : Nat) (arg : Word) (s : State) : State :=
  let x := getQ s q
  if x.st = .disabled then windowError q 7 s
  else if let some pa := progPoison s (bits arg.toNat 6 46 * 64) then windowError q 4 (fePoison q pa s)
  else
    match loadProg s (bits arg.toNat 6 46 * 64) with
    | none => windowError q 4 s
    | some (p, c, m) =>
      -- between packets it serves the next one at once
      let y := if x.st = .process ∨ x.st = .held ∧ x.ctx.isSome then { x with swap := some (p, c, m) }
        else { x with prog := p, code := c, manifest := m }
      afterWindow q x.st (setQ y s)

/-- An aligned 8-byte write at window offset `off` (R108). -/
def doorbell (q off : Nat) (v : Word) (s : State) : State :=
  if off ≠ 0 then windowError q 1 s
  else
    match bits v.toNat 60 4 with
    | 0 => doTail q v s
    | 1 => doEnable q s
    | 2 => doDisable q s
    | 3 => doResume q s
    | 4 => doSwap q v s
    | _ => windowError q 1 s

/-! ## Appending a packet by hardware (R129, R323) -/

/-- Packets on a ring between two slot counts, by their lengths. -/
def countPackets (s : State) (x : Queue) : Nat → BitVec 32 → Nat
  | 0, _ => 0
  | n + 1, i =>
    if i = x.tail then 0 else countPackets s x n (i + BitVec.ofNat 32 (max 1 (s.rd (slotPa x i + 2) 2))) + 1

/-- The sequence number the next packet appended to a ring must carry. -/
def freshSeq (s : State) (x : Queue) : Nat :=
  let inHand := decide (x.st = .process) || (decide (x.st = .held) && x.ctx.isSome)
  let start := if inHand then x.head + BitVec.ofNat 32 (pLen x.pkt) else x.head
  (x.seq.toNat + countPackets s x (2 ^ x.lsize) start) % 2 ^ 32

/-- Appends a packet with a fresh seqno and check; a full or DISABLED target drops and counts it (R129). -/
def appendPacket (q : Nat) (p : List Byte) (s : State) : State :=
  let x := getQ s q
  if x.st = .disabled ∨ !ringRoom x (pLen p) then setQ (countDrop x) s
  else
    let p1 := p.take 4 ++ natBytes 4 (freshSeq s x) ++ p.drop 8
    let p2 := p1.take 8 ++ natBytes 4 (packetCheck p1) ++ p1.drop 12
    let s1 := (List.range (pLen p)).foldl (fun t k => t.wrBytes (slotPa x (x.tail + BitVec.ofNat 32 k)) ((p2.drop (64 * k)).take 64)) s
    let x1 := { x with tail := x.tail + BitVec.ofNat 32 (pLen p) }
    let s2 := setQ (wake x1) s1
    if pType p = 7 then { s2 with frameSlots := slotPa x x.tail :: s2.frameSlots } else s2

/-! ## Starting a COPY (R265) -/

/-- The lowest cluster of a core set. -/
def lowCluster (r : Region) : Nat := ((List.range 96).find? fun c => bitAt r.clusters c).getD 0

/-- Starts the stream of a COPY on the dispatcher of the RCB's lowest cluster, as `cgo.auto` would: the job, a failure status, or the
packet stays in PROCESS for want of an RCB index (R138). -/
def startCopy (desc tag sig rcb : Nat) (s : State) : PlaceRes × State :=
  match region s rcb with
  | none => (.fail 1, s)
  | some r =>
    if s.cfg.dead.getLsbD r.domain then (.fail 6, s)
    else
      match giveHandle s rcb with
      | none => (.wait, s)
      | some (_, s0) =>
        let id := s0.copy.nextId
        let d := BitVec.ofNat 64 desc
        let t0 : Stream := { id := id, core := 16 * lowCluster r, tid := 0, port := 0, desc := d, tag := tag, num := 0, ring := none,
                             launch := id + 1, eff := r }
        let (x, s1) := transC t0 .r d s0
        let port := match x with
          | .ok p => autoPort t0 (BitVec.ofNat 64 (s1.rd p.pa 8)) (BitVec.ofNat 64 (s1.rd (p.pa + 8) 8)) s1
          | .error _ => 0
        (.placed (id + 1), { s1 with
          copy := { s1.copy with streams := s1.copy.streams ++ [{ t0 with port := port }], nextId := id + 1 }
          fe := { s1.fe with jobs := ⟨id + 1, sig, rcb⟩ :: s1.fe.jobs } })

end Sys2Proof.Machine
end

