-- ==== Sys2Proof/Machine/Context.lean ====
section
/-! DEFINITION. Context images (R147 to R149), saving, spilling and resuming tasks (R145, R146), and the arbiters of the ready
queues (R125, R126, R144, R344). -/

namespace Sys2Proof.Machine

/-- `sys.status` (R137). -/
def statusReg (q : Seq) : Word :=
  BitVec.ofNat 64 (q.prv.toNat + 2 * q.cmt.toNat + 4 * q.inh.toNat + 8 * q.img.toNat + 16 * q.res.toNat + 32 * q.pprv.toNat +
    q.loops.length * 2 ^ 12)

/-! ## Context images (R147, R148) -/

/-- Stage predicate `j` (R159). An image's byte 760 is written from these and is not read back (DEDUCED: log entry 63). -/
def stagePred (loops : List LoopEntry) (j : Nat) : Bool :=
  match loops.find? fun e => e.loopr with
  | none => true
  | some e =>
    let i := e.index.toInt
    let c := e.remaining.toInt + i
    decide (j = 0) || (decide ((j : Int) - 1 ≤ i) && decide (i ≤ c - 8 + j))

def stagePreds (loops : List LoopEntry) : Nat := bitMap (fun j => decide (j ≠ 0) && stagePred loops j) 8

def loopWord (e : LoopEntry) : Nat :=
  2 ^ 63 + e.loopr.toNat * 2 ^ 62 + (e.slip - 1) % 64 * 2 ^ 10 + (e.step - 1) % 16 * 2 ^ 6 + e.rot % 64

/-- The fields of the control section: offset, bytes, value (R148). -/
def controlFields (q : Seq) (v : Vec) (saved shares frame : Bool) : List (Nat × Nat × Nat) :=
  [(0, 4, 0x43545831), (4, 1, 1), (5, 1, saved.toNat + 2 * shares.toNat + 4 * q.cmt.toNat + 8 * frame.toNat), (8, 8, q.pc.toNat),
    (16, 8, (statusReg q).toNat), (24, 8, q.epc.toNat), (32, 8, q.cause.toNat), (40, 8, q.tval.toNat),
    (48, 8, if saved then q.eff.rcb else 0)] ++
  ((List.range 31).map fun i => (72 + 8 * i, 8, (q.regs[i + 1]?.getD 0).toNat)) ++
  ((List.range q.loops.length).flatMap fun i =>
    match q.loops[i]? with
    | some e => [(320 + 40 * i, 8, e.start.toNat), (328 + 40 * i, 8, e.stop.toNat), (336 + 40 * i, 8, e.remaining.toNat),
        (344 + 40 * i, 8, e.index.toNat), (352 + 40 * i, 8, loopWord e)]
    | none => []) ++
  [(560, 8, v.vl.toNat), (568, 8, v.vtype.toNat), (576, 8, v.vfill.toNat), (584, 8, v.vseed.toNat), (592, 8, v.vbase.toNat),
    (600, 8, v.vstat.toNat)] ++
  ((List.range 8).map fun i => (608 + 8 * i, 8, (v.vidx[i]?.getD 0).toNat)) ++
  [(672, 8, v.vdrop.toNat), (680, 8, v.vdropn.toNat), (688, 8, v.slip)] ++
  ((List.range 8).map fun i => (696 + 8 * i, 8, match q.w[i]?.getD none with
    | some w => w.obj
    | none => 0)) ++
  [(760, 1, stagePreds q.loops), (768, 2, q.eff.spsize + q.eff.tssize * 2 ^ 10)]

/-- The register images of a context: offset, bytes, value (R147). -/
def imageFields (v : Vec) (m : Mat) : List (Nat × Nat × Nat) :=
  ((List.range 76).map fun r => (0x2000 + 128 * r, 128, presImg v r)) ++
  ((List.range 76).map fun r => (0x4800 + 1024 * r, 1024, regImg v r)) ++
  ((List.range 16).map fun r => (0x17800 + 128 * r, 128, maskImg v (BitVec.ofNat 4 r))) ++
  ((List.range 24).map fun t => (0x18000 + 16384 * t, 16384, tileBits m t))

/-- The shares behind a context of region `r` on core `c`. -/
def shareFields (s : State) (c : Nat) (r : Region) (v : Vec) : List (Nat × Nat × Nat) :=
  (0x78000, r.spsize * 1024, s.rd (padAddr c r 0) (r.spsize * 1024)) ::
  ((List.range 64).map fun l => (0x78000 + r.spsize * 1024 + r.tssize * 128 * l, r.tssize * 128,
    bits (v.table[l]?.getD 0).toNat (1024 * r.tsstart) (1024 * r.tssize)))

/-- The poison marks of a range follow a copy of it (R325). -/
def carryPoison (src dst n : Nat) (s : State) : State :=
  (s.poison.filter fun g => decide (src ≤ g) && decide (g < src + n)).foldl (fun t g =>
    markPoison t (dst + (g - src)) (min (granule g) (src + n - g))) s

/-- The marks of vector words and accumulator words go to a context image at `pa`. -/
def carryRegs (pa : Nat) (pv pm : List (Nat × Nat)) (s : State) : State :=
  let t := pv.foldl (fun u p => markPoison u (pa + 0x4800 + 1024 * p.1 + 8 * p.2) 8) s
  pm.foldl (fun u p => markPoison u (pa + 0x18000 + 16384 * p.1 + 4 * p.2) 4) t

/-- The parity errors of masks, and of a lane table share of region `r`, leave the words of an image that they are written to poisoned (R324,
R325; log entry 39). -/
def carryPar (pa : Nat) (r : Region) (ps : List (Nat × Nat × Bool)) (s : State) : State :=
  ps.foldl (fun u p =>
    if p.1 < 16 then markPoison u (pa + 0x17800 + 128 * p.1 + 8 * p.2.1) 8
    else if 16 * r.tsstart ≤ p.2.1 ∧ p.2.1 < 16 * (r.tsstart + r.tssize) then
      markPoison u (pa + 0x78000 + r.spsize * 1024 + r.tssize * 128 * (p.1 - 16) + 8 * (p.2.1 - 16 * r.tsstart)) 8
    else u) s

/-- The masks of an image with a poisoned word: no replay mends them. -/
def imagePar (s : State) (pa : Nat) : List (Nat × Nat × Bool) :=
  if isPoisoned s (pa + 0x17800) 0x800 then
    (List.range 16).flatMap fun k =>
      ((List.range 16).filter fun w => decide (k ≠ 0) && isPoisoned s (pa + 0x17800 + 128 * k + 8 * w) 8).map fun w => (k, w, true)
  else []

/-- The same for the lane table share of an image of region `r`. -/
def sharePar (s : State) (pa : Nat) (r : Region) : List (Nat × Nat × Bool) :=
  let base := pa + 0x78000 + r.spsize * 1024
  if isPoisoned s base (r.tssize * 8192) then
    (List.range 64).flatMap fun l =>
      ((List.range (16 * r.tssize)).filter fun w => isPoisoned s (base + r.tssize * 128 * l + 8 * w) 8).map fun w =>
        (16 + l, 16 * r.tsstart + w, true)
  else []

/-- The marks that registers read from an image have. -/
def imagePsnV (s : State) (pa : Nat) : List (Nat × Nat) :=
  if isPoisoned s (pa + 0x4800) 0x13000 then
    (List.range 76).flatMap fun r =>
      ((List.range 128).filter fun w => isPoisoned s (pa + 0x4800 + 1024 * r + 8 * w) 8).map fun w => (r, w)
  else []

def imagePsnA (s : State) (pa : Nat) : List (Nat × Nat) :=
  if isPoisoned s (pa + 0x18000) 0x60000 then
    (List.range 24).flatMap fun t =>
      ((List.range 4096).filter fun w => isPoisoned s (pa + 0x18000 + 16384 * t + 4 * w) 4).map fun w => (t, w)
  else []

def writeFields (pa : Nat) (fs : List (Nat × Nat × Nat)) (s : State) : State := fs.foldl (fun t f => t.wr (pa + f.1) f.2.1 f.2.2) s

/-- Writes a context to memory, with its shares as core `c` holds them; the opaque part is kept beside the slot (R145, R147). -/
def writeContext (pa c : Nat) (x : Shadow) (s : State) : State :=
  let q := x.seq
  let frame := s.slots.any fun e => decide (e.tid = q.tid)
  let t := writeFields pa (controlFields q x.vec true true frame ++ imageFields x.vec x.mat ++ shareFields s c q.eff x.vec)
    (zeroMem pa 0x78000 s)
  let t := carryPoison (padAddr c q.eff 0) (pa + 0x78000) (q.eff.spsize * 1024) (carryRegs pa x.psnV x.psnA t)
  let t := carryPar pa q.eff (x.par ++ (getCore s c).par.filter fun p => decide (16 ≤ p.1)) t
  { t with slots := ⟨pa, q.tid, q, x.vec, x.mat.queue⟩ :: t.slots }

/-- Loop entries of an image, innermost first. DESIGN CHOICE (log entry 63): a rotation base above 15 is taken modulo 16. -/
def readLoops (s : State) (pa : Nat) : Nat → List LoopEntry
  | 0 => []
  | n + 1 =>
    let i := 5 - n
    let w := s.rd (pa + 352 + 40 * i) 8
    if !bitAt w 63 then []
    else
      let r := readLoops s pa n
      { start := BitVec.ofNat 64 (s.rd (pa + 320 + 40 * i) 8), stop := BitVec.ofNat 64 (s.rd (pa + 328 + 40 * i) 8),
        remaining := BitVec.ofNat 64 (s.rd (pa + 336 + 40 * i) 8), index := BitVec.ofNat 64 (s.rd (pa + 344 + 40 * i) 8),
        loopr := bitAt w 62, slip := bits w 10 6 + 1, step := bits w 6 4 + 1, rot := bits w 0 6 % 16,
        outer := ((r.find? fun e => e.loopr).map LoopEntry.slip).getD 64 } :: r

/-- The sequencer state of an image, over `q0`, which holds what an image has no place for. DESIGN CHOICE (log entry 63): CMT is that of
byte 5, whatever the slot of sys.status says. -/
def readSeq (s : State) (pa : Nat) (q0 : Seq) : Seq :=
  let st := s.rd (pa + 16) 8
  { q0 with pc := BitVec.ofNat 64 (s.rd (pa + 8) 8), prv := bitAt st 0, inh := bitAt st 2, pprv := bitAt st 5,
            cmt := bitAt (s.rd (pa + 5) 1) 2, epc := BitVec.ofNat 64 (s.rd (pa + 24) 8), cause := BitVec.ofNat 64 (s.rd (pa + 32) 8),
            tval := BitVec.ofNat 64 (s.rd (pa + 40) 8),
            regs := Vector.ofFn fun i => if i.val = 0 then 0 else BitVec.ofNat 64 (s.rd (pa + 64 + 8 * i.val) 8),
            loops := readLoops s pa 6, w := bindW s (fun i => s.rd (pa + 696 + 8 * i) 8) }

/-- The vector state of an image, over `v0`. DESIGN CHOICE (log entry 63): a slip outside 1 to 64 is brought to the nearer end. -/
def readVec (s : State) (pa : Nat) (v0 : Vec) : Vec :=
  let w := fun k => BitVec.ofNat 64 (s.rd (pa + k) 8)
  { v0 with v := Vector.ofFn fun i => BitVec.ofNat 8192 (s.rd (pa + 0x4800 + 1024 * i.val) 1024)
            o := Vector.ofFn fun i => BitVec.ofNat 8192 (s.rd (pa + 0x14800 + 1024 * i.val) 1024)
            l := Vector.ofFn fun i => BitVec.ofNat 8192 (s.rd (pa + 0x16800 + 1024 * i.val) 1024)
            pv := Vector.ofFn fun i => BitVec.ofNat 1024 (s.rd (pa + 0x2000 + 128 * i.val) 128)
            po := Vector.ofFn fun i => BitVec.ofNat 1024 (s.rd (pa + 0x4000 + 128 * i.val) 128)
            pl := Vector.ofFn fun i => BitVec.ofNat 1024 (s.rd (pa + 0x4400 + 128 * i.val) 128)
            m := Vector.ofFn fun i => if i.val = 0 then BitVec.allOnes 1024 else BitVec.ofNat 1024 (s.rd (pa + 0x17800 + 128 * i.val) 128)
            vl := w 560, vtype := (w 568).truncate 8, vfill := w 576, vseed := w 584, vbase := w 592, vstat := (w 600).truncate 8
            vidx := Vector.ofFn fun i => w (608 + 8 * i.val)
            vdrop := (w 672).truncate 32, vdropn := w 680, slip := max 1 (min 64 (w 688).toNat) }

def readMat (s : State) (pa : Nat) (queue : List MEntry) : Mat :=
  { a := Vector.ofFn fun i => BitVec.ofNat 131072 (s.rd (pa + 0x18000 + 16384 * i.val) 16384), queue := queue,
    nextId := (queue.map MEntry.id).foldl (fun a b => max a (b + 1)) 0 }

/-- Puts the shares of an image into the current core's share of region `r` (R122, R145). -/
def placeShares (pa : Nat) (r : Region) (s : State) : State :=
  let n := r.spsize * 1024
  let t := carryPoison (pa + 0x78000) (padAddr s.core.id r 0) n (s.wr (padAddr s.core.id r 0) n (s.rd (pa + 0x78000) n))
  let base := pa + 0x78000 + r.spsize * 1024
  let v := t.core.vec
  let mine := fun (p : Nat × Nat × Bool) => decide (16 ≤ p.1 ∧ 16 * r.tsstart ≤ p.2.1 ∧ p.2.1 < 16 * (r.tsstart + r.tssize))
  let t := { t with core := { t.core with par := sharePar s pa r ++ t.core.par.filter fun p => !mine p } }
  setVec t { v with table := Vector.ofFn fun l => BitVec.ofNat 16384 (putBits (v.table[l.val]?.getD 0).toNat (1024 * r.tsstart)
    (1024 * r.tssize) (s.rd (base + r.tssize * 128 * l.val) (r.tssize * 128))) }

/-- The checks of R149 on an image. -/
def imageOk (s : State) (pa : Nat) (r : Region) : Bool :=
  let b := fun o n => s.rd (pa + o) n
  let z := fun o n => decide (b o n = 0)
  let fl := b 5 1
  let valid := (List.range 6).map fun i => bitAt (b (352 + 40 * i) 8) 63
  let depth := (valid.filter fun c => c).length
  decide (b 0 4 = 0x43545831) && decide (b 4 1 = 1) && decide (fl < 16) && z 6 2 && z 56 8 && z 64 8 && decide (b 560 8 < 2 ^ 11) && decide (b 568 8 < 2 ^ 8) && decide (b 600 8 < 2 ^ 8) && decide (b 688 8 < 2 ^ 7) && z 761 7 && z 770 1278 &&
    z 0x4600 512 && decide (b 760 1 % 2 = 0) && decide (b 768 2 < 2 ^ 15) &&
    (if bitAt fl 0 then decide (b 48 8 / 2 ^ 52 = 0) && decide (b 48 8 % 256 = 0) else z 48 8) &&
    decide (bits (b 16 8) 16 48 = 0) && decide (bits (b 16 8) 6 6 = 0) &&
    ((List.range 6).all fun i => decide (bits (b (352 + 40 * i) 8) 16 46 = 0) && (valid.getD i false == decide (i < depth))) &&
    decide (b 672 8 < 2 ^ 32) && decide (bits (b 16 8) 12 4 = depth) && (bitAt fl 0 || z 0x800 0x1800) && (bitAt fl 1 == false ||
      (decide (b 768 2 % 1024 = r.spsize) && decide (b 768 2 / 1024 = r.tssize)))

def Defer.onTable (d : Defer) : Bool :=
  match d.kind with
  | .table _ => true
  | _ => false

/-- Every access on its way of a core, and the signal of every queued `vfence.arr`, is to translate again. -/
def staleAll (v : Vec) : Vec :=
  { v with vsq := v.vsq.map (fun e => { e with stale := true }), loads := v.loads.map (fun l => { l with stale := true }),
           stores := v.stores.map (fun t => { t with stale := true }), defer := v.defer.map fun d => { d with stale := !d.onTable } }

/-- The current core starts an IMAGE task (R149): every register from the image, a fresh identity; the opaque state of a SAVED image is
what the device kept at that address. Its data cache is empty (R109, R119). DESIGN CHOICE (log entry 64): the latches the saved task held
and its streams, which go by its old identity, stay with that identity. -/
def startImage (r : Region) (rcbx b pa : Nat) (s : State) : State :=
  let (tid, s1) := freshTid s
  let kept := if bitAt (s1.rd (pa + 5) 1) 0 then s1.slots.find? fun e => decide (e.slot = pa) else none
  let q0 : Seq := { img := true, res := false, rcbx := BitVec.ofNat 16 rcbx, tid := tid, launch := b, image := pa, eff := r,
                    argPtr := BitVec.ofNat 64 (s1.rd (b + 8) 8), icache := s1.core.seq.icache, starting := true, mode := .running }
  let v0 : Vec := (kept.map fun e => staleAll e.vec).getD {}
  let s2 := if bitAt (s1.rd (pa + 5) 1) 1 then placeShares pa r s1 else s1
  { s2 with core := { s2.core with
      seq := readSeq s2 pa q0
      vec := readVec s2 pa { v0 with table := s2.core.vec.table, num := max v0.num s2.core.vec.num }
      mat := readMat s2 pa ((kept.map SavedEngine.mat).getD []), psnV := imagePsnV s2 pa, psnA := imagePsnA s2 pa,
      psnT := [], par := imagePar s2 pa ++ s2.core.par.filter fun p => decide (16 ≤ p.1) } }

/-- END of an IMAGE task writes the registers of the spill mask back (R149); SAVED is left at 0. -/
def spillImage (s : State) : State :=
  let q := s.core.seq
  let b := q.launch
  if q.image = 0 then s
  else
    let pa := q.image
    let mv := s.rd (b + 64) 8
    let mo := s.rd (b + 72) 8
    let v := s.core.vec
    let reg := fun r => [(0x2000 + 128 * r, 128, presImg v r), (0x4800 + 1024 * r, 1024, regImg v r)]
    let fs := ((List.range 64).flatMap fun i => if bitAt mv i then reg i else []) ++
      ((List.range 8).flatMap fun i => if bitAt mo i then reg (64 + i) else []) ++
      ((List.range 16).flatMap fun i => if bitAt mo (8 + i) then [(0x17800 + 128 * i, 128, maskImg v (BitVec.ofNat 4 i))] else []) ++
      ((List.range 32).flatMap fun i => if bitAt mo (24 + i) then [(64 + 8 * i, 8, (getS s (BitVec.ofNat 5 i)).toNat)] else [])
    let kept := s.core.psnV.filter fun p => if p.1 < 64 then bitAt mv p.1 else decide (p.1 < 72) && bitAt mo (p.1 - 64)
    let masks := s.core.par.filter fun p => decide (p.1 < 16) && bitAt mo (8 + p.1)
    let t := carryPar pa q.eff masks (carryRegs pa kept [] (writeFields pa fs s))
    t.wr (pa + 5) 1 (t.rd (pa + 5) 1 / 2 * 2)

/-! ## Saving and resuming (R145) -/

/-- The record of a saved task: `slot` is its spill slot, 0 in a shadow slot (R126). -/
def savedRecord (q : Seq) (slot : Nat) : Nat :=
  mkRecord slot q.tid.toNat 0 q.eff.prio q.rcbx.toNat 0 1

def coreShadow (k : Core) : Shadow := ⟨k.seq, k.vec, k.mat, k.psnV, k.psnA, k.par.filter fun p => decide (p.1 < 16)⟩

/-- The marks of a core's lane table stores, which are no task's registers. -/
def tablePar (k : Core) : List (Nat × Nat × Bool) := k.par.filter fun p => decide (16 ≤ p.1)

/-- The current core, with nothing of the task left on it. -/
def emptyCore (s : State) : State :=
  let v0 : Vec := {}
  let t := { s with core := { s.core with
      vec := { v0 with table := s.core.vec.table, num := s.core.vec.num }, mat := {}, psnV := [], psnA := [], psnT := [],
      par := tablePar s.core } }
  goIdle t

/-- A context becomes the current core's task again. What it had queued or deferred translates again (R106). -/
def runContext (x : Shadow) (s : State) : State :=
  let q := { x.seq with mode := .running, stall := false, preempt := false, yielding := false, atPoint := false, line := none,
                        icache := s.core.seq.icache, dcache := s.core.seq.dcache }
  let t := { s with core := { s.core with
    seq := q
    vec := { staleAll x.vec with table := s.core.vec.table, num := max x.vec.num s.core.vec.num }
    mat := x.mat, psnV := x.psnV, psnA := x.psnA, psnT := [], par := x.par ++ tablePar s.core } }
  let c := s.core.id
  -- what the task had under way follows it by its identity
  { t with copy := { t.copy with streams := t.copy.streams.map (fun y => if y.launch = 0 ∧ y.tid = q.tid then { y with core := c } else y)
                                 rings := t.copy.rings.map (fun y => if y.tid = q.tid then { y with core := c } else y)
                                 binds := t.copy.binds.map (fun y => if y.tid = q.tid then { y with core := c } else y)
                                 errors := t.copy.errors.map (fun y => if y.tid = q.tid then { y with core := c } else y) }
           fe := { t.fe with waits := t.fe.waits.map (fun y => if y.tid = q.tid then { y with core := c } else y) }
           near := t.near.map (fun y => if y.tid = q.tid then { y with core := c } else y)
           fab := { t.fab with ops := t.fab.ops.map (fun y => if y.tid = q.tid then { y with core := c } else y) } }

/-- The entry of a saved task at its place in the queue becomes `e`. -/
def rqRename (s : State) (r : Region) (loc : ItemLoc) (e : Nat) : State :=
  match loc with
  | .own x => { s with fe := { s.fe with fronts := s.fe.fronts.map fun p => if p.1 = r.rcb ∧ p.2.1 = x then (p.1, e, p.2.2) else p } }
  | .ring i => rqWrite s r (rqHead s r) { rqRead s r with ring := (rqRead s r).ring.set i e }
  | .front _ | .back _ => s

/-- Spills the current core's shadow context to a free slot, and its record names the slot (R145, R146). The shares it takes along have lain
in the core's share until now, and are spilled as they stand (DESIGN CHOICE: log entry 93). -/
def spillShadow (s : State) : Option State :=
  match s.core.shadow with
  | none => none
  | some x =>
    let r := x.seq.eff
    match freeSlot s r with
    | none => none
    | some i =>
      let pa := slotAddr s r i
      let s1 := writeContext pa s.core.id x (slotSet r i true s)
      let s2 := { s1 with core := { s1.core with shadow := none } }
      match (rqItems s2 r).find? fun p => recSaved p.2 && decide (recFrame p.2 = x.seq.tid.toNat) with
      | some p => some (rqRename s2 r p.1 (savedRecord x.seq pa))
      | none => some (rqPushFront s2 r (savedRecord x.seq pa) 0)

/-- Saves the current core's committed task (R145); `none` where no slot is free and the task keeps running. -/
def saveTask (s : State) : Option State :=
  let q := s.core.seq
  let push := fun t => rqPushFront t q.eff (savedRecord q 0) 0
  let me := coreShadow s.core
  match s.core.shadow with
  | none => some (emptyCore { push s with core := { s.core with shadow := some me } })
  | some x =>
    if x.seq.eff.part ≠ q.eff.part then
      let r := x.seq.eff
      let s1 := match (rqItems s r).find? fun p => recSaved p.2 && decide (recFrame p.2 = x.seq.tid.toNat) with
        | some p => rqTake s r p.1
        | none => s
      let s2 := push s1
      some (noteSwap (runContext x { s2 with core := { s2.core with shadow := some me } }))
    else
      match spillShadow s with
      | none => none
      | some s1 => some (emptyCore { push s1 with core := { s1.core with shadow := some me } })

/-- Resumes the context at a spill slot on the current core, and frees the slot. The core's data cache is empty then: the task sees its
own earlier writes (R10). -/
def resumeSlot (r : Region) (pa : Nat) (s : State) : State :=
  match s.slots.find? fun e => decide (e.slot = pa) with
  | none => s
  | some e =>
    let s1 := placeShares pa r s
    let x : Shadow := ⟨{ readSeq s1 pa e.seq with loops := e.seq.loops }, readVec s1 pa e.vec, readMat s1 pa e.mat, imagePsnV s1 pa, imagePsnA s1 pa, imagePar s1 pa⟩
    let s2 := dropSlotAt r pa (dcDrop (runContext x s1))
    -- a poisoned control section or engine state fails the task (R326; DESIGN CHOICE: log entry 86)
    if isPoisoned s pa 0x2000 then
      let t := readPoison r pa s2
      setSeq t { t.core.seq with mode := .ending true, stall := true }
    else s2

/-! ## Arbitration (R125, R126, R344) -/

def perCluster (k : Nat) (l : List (Nat × Nat)) : Nat := ((l.find? fun p => decide (p.1 = k)).map Prod.snd).getD 0

def setPer (k v : Nat) (l : List (Nat × Nat)) : List (Nat × Nat) := (k, v) :: l.filter fun p => decide (p.1 ≠ k)

/-- The effective priority of an RCB at a cluster (R125). -/
def effPrio (k : Nat) (h : RcbHandle) (r : Region) : Nat := min 15 (r.prio + perCluster k h.promo)

/-- Scratchpad and table-store shares of two regions overlap (R122). -/
def sharesClash (a b : Region) : Bool :=
  (decide (a.spstart < b.spstart + b.spsize) && decide (b.spstart < a.spstart + a.spsize)) ||
    (decide (a.tsstart < b.tsstart + b.tssize) && decide (b.tsstart < a.tsstart + a.tssize))

/-- A saved task's streams that are still unfinished tie it to their cluster (R262). -/
def streamsElsewhere (s : State) (k : Core) (e : Nat) : Bool :=
  recSaved e && s.copy.streams.any fun t => decide (t.launch = 0 ∧ t.tid.toNat = recFrame e ∧ clusterOf t.core ≠ clusterOf k.id)

/-- A running stream of a saved task would come to a port of the core on which another task's stream runs: a port runs one at a time (R249).
DESIGN CHOICE (log entry 87): the item is passed over until then. -/
def portsTaken (s : State) (k : Core) (e : Nat) : Bool :=
  let runs := s.copy.streams.filter fun t => t.running && decide (t.launch = 0)
  recSaved e && runs.any fun t => decide (t.tid.toNat = recFrame e ∧ t.core ≠ k.id) &&
    runs.any fun y => decide (y.core = k.id ∧ y.port = t.port ∧ y.tid ≠ t.tid)

/-- Whether a core can take an item (R122, R126, R249). -/
def canTake (s : State) (k : Core) (r : Region) (e : Nat) : Bool :=
  let own := match k.shadow with
    | some x => decide (x.seq.tid.toNat = recFrame e)
    | none => false
  let clash := match k.shadow with
    | some x => decide (x.seq.eff.part ≠ r.part) && sharesClash x.seq.eff r
    | none => false
  if recSaved e ∧ recCode e = 0 then own else !clash && !streamsElsewhere s k e && !portsTaken s k e

def clusterUp (s : State) (k : Nat) : Bool :=
  match s.power[k]?.getD .active with
  | .active | .idle => true
  | _ => false

/-- The RCBs eligible at a cluster (R125). -/
def eligible (s : State) (c : Nat) : List (RcbHandle × Region) :=
  s.fe.rcbs.filterMap fun h =>
    match region s h.rcb with
    | none => none
    | some r => if bitAt r.clusters c && budgetOk s r .core c && !(rqItems s r).isEmpty then some (h, r) else none

/-- The eligible RCBs that have an item a core can take, with the next such item. -/
def candidates (s : State) (k : Core) : List (RcbHandle × Region × ItemLoc × Nat) :=
  (eligible s (clusterOf k.id)).filterMap fun x =>
    ((rqItems s x.2).find? fun p => canTake s k x.2 p.2).map fun p => (x.1, x.2, p.1, p.2)

/-- The RCB served at cluster `c`: the highest effective priority, and among equals the one whose last visit there ended first (R125).
DESIGN CHOICE (log entry 70): one that has never been visited there comes before one in the middle of its visit, and a deficit stays when
the queue empties. -/
def pickCandidate (c : Nat) (l : List (RcbHandle × Region × ItemLoc × Nat)) : Option (RcbHandle × Region × ItemLoc × Nat) :=
  let top := (l.map fun p => effPrio c p.1 p.2.1).foldl max 0
  let best := l.filter fun p => decide (effPrio c p.1 p.2.1 = top)
  let first := (best.map fun p => perCluster c p.1.visit).foldl min ((best.head?.map fun p => perCluster c p.1.visit).getD 0)
  best.find? fun p => decide (perCluster c p.1.visit = first)

/-- One decision in which an RCB of higher priority was served (R125). -/
def ageOnce (c : Nat) (x : RcbHandle) : RcbHandle :=
  let a := perCluster c x.age + 1
  if a = 255 then { x with age := setPer c 0 x.age, promo := setPer c (perCluster c x.promo + 1) x.promo }
  else { x with age := setPer c a x.age }

/-- Deficit, age and promotions at cluster `c` after an RCB is served (R125). Its visit is over once the deficit is used up. -/
def chargeServed (c : Nat) (h : RcbHandle) (r : Region) (s : State) : State :=
  let p := effPrio c h r
  let d := perCluster c h.deficit
  let d1 := (if d = 0 then r.weight else d) - 1
  let last := (s.fe.rcbs.map fun x => perCluster c x.visit).foldl max 0
  let h1 := { h with deficit := setPer c d1 h.deficit, age := setPer c 0 h.age, promo := setPer c 0 h.promo,
                     visit := if d1 = 0 then setPer c (last + 1) h.visit else h.visit }
  let low := ((eligible s c).filter fun x => decide (effPrio c x.1 x.2 < p)).map fun x => x.1.idx
  { s with fe := { s.fe with rcbs := s.fe.rcbs.map fun x =>
      if x.idx = h.idx then h1 else if low.contains x.idx then ageOnce c x else x } }

/-- The cores held for a gang. -/
def heldFor (s : State) (b : Nat) : List Nat := ((allCores s).filter fun k => decide (k.seq.mode = .held b)).map Core.id

/-- Starts task `i` of a gang on core `c`. -/
def startGang (r : Region) (h b i e c : Nat) (s : State) : State :=
  onCore c (fun t =>
    if recImg e then startImage r h b (t.rd b 8) t
    else startTask r h b i (blkN t b) (t.rd (b + 16) 8 + i * t.rd (b + 24) 4) (t.rd b 8) 0 t) s

/-- The launch that a record starts for, 0 for none: where several have spawned it, the one that did so first (DESIGN CHOICE: log entry
10). -/
def spawnedBy (s : State) (rec_ : Nat) : Nat :=
  ((s.fe.spawned.filter fun x => decide (x.rec_ = rec_)).getLast?.map Spawned.launch).getD 0

/-- The launch of an item, 0 where the item is a saved context. -/
def itemLaunch (s : State) (e : Nat) : Nat :=
  if recSaved e then 0
  else if recGang e then recLink e
  else spawnedBy s (recLink e)

/-- What of an item the arbiter reads poisoned (R326): its entry or record, or its launch block. -/
def itemPoison (s : State) (r : Region) (loc : ItemLoc) (e : Nat) : Option Nat :=
  let at_ := match loc with
    | .own _ => none
    | .front a | .back a => some a
    | .ring i => some (r.readyq + 64 + 32 * ((rqHead s r + i) % 2 ^ r.rqsize))
  let b := itemLaunch s e
  match at_ with
  | some a => if isPoisoned s a 32 then some a else if b ≠ 0 ∧ isPoisoned s b 128 then some b else none
  | none => if b ≠ 0 ∧ isPoisoned s b 128 then some b else none

/-- A task of an item that is read poisoned ends with FAULT before it starts, with a record (R326; DESIGN CHOICE: log entry 86): a gang's entry
stands for each of its members in turn, and the cores held for it are free. -/
def dropItem (r : Region) (loc : ItemLoc) (e pa : Nat) (s : State) : State :=
  let b := itemLaunch s e
  let s1 := readPoison r pa (freeHeld b s)
  let i := blkNext s1 b
  if recGang e ∧ recJoin e < 0 ∧ i + 1 < blkN s1 b then finishTask b r 0 true (s1.wr (b + 32) 4 (i + 1))
  else
    let s2 := rqTake s1 r loc
    let s3 := if recGang e then s2 else { s2 with fe := { s2.fe with spawned := s2.fe.spawned.filter fun x => decide (x ≠ ⟨recLink e, b⟩) } }
    finishTask b r 0 true s3

/-- The current core takes the item the arbiter picked. The task indices of a RESIDENT gang go to its held cores in ascending core number
(DESIGN CHOICE: log entry 69). -/
def takeItem (h : RcbHandle) (r : Region) (loc : ItemLoc) (e : Nat) (s : State) : State :=
  let c := s.core.id
  let free := fun t => setSeq t { t.core.seq with mode := .idle }
  if recSaved e then
    let s1 := rqTake (free s) r loc
    if recCode e = 0 then
      match s1.core.shadow with
      | some x => runContext x { s1 with core := { s1.core with shadow := none } }
      | none => s1
    else resumeSlot r (recCode e) s1
  else if recGang e then
    let b := recLink e
    if recJoin e < 0 then
      if blkResident s b then
        -- one more core is held; the gang is placed once N are (R344)
        let s1 := setSeq s { s.core.seq with mode := .held b }
        let held := heldFor s1 b
        if held.length < blkN s1 b then s1
        else
          let cs := held.mergeSort (fun x y => decide (x ≤ y))
          let s2 := (rqTake s1 r loc).wr (b + 32) 4 (blkN s1 b)
          (List.range cs.length).foldl (fun t i => startGang r h.idx b i e (cs.getD i 0) t) s2
      else
        let i := blkNext s b
        let s1 := (free s).wr (b + 32) 4 (i + 1)
        startGang r h.idx b i e c (if i + 1 < blkN s b then s1 else rqTake s1 r loc)
    else startGang r h.idx b (recJoin e).toNat e c (rqTake (free s) r loc)
  else
    let rec_ := recLink e
    let b := spawnedBy s rec_
    let s1 := rqTake (free s) r loc
    let s2 := { s1 with fe := { s1.fe with spawned := s1.fe.spawned.filter (fun x => decide (x ≠ ⟨rec_, b⟩)) } }
    startTask r h.idx b 0 1 (recFrame e) (recCode e) rec_ s2

/-- Whether the core share of the RCB about to be served turns out to be used up (R123): the cycles are not counted, so the next
choice says; an unlimited amount never is. -/
def shareSpent (r : Region) (c : Nat) (s : State) : Bool × State :=
  if amountOf s r.budgetRcb .core = 2 ^ 48 - 1 then (false, s)
  else
    let (x, t) := popChoice s
    (x, if x then setBudget r.budgetRcb .core c 0 t else t)

/-- READY_QUEUE_ARBITRATION for the current core (R125, R328, R344). -/
def arbitrate (s : State) : State :=
  let k := s.core
  let c := clusterOf k.id
  let floor : Option Nat := match k.seq.mode with
    | .held b => (regionOfBlock s b).bind fun r => (handleOf s r.rcb).map fun h => effPrio c h r
    | _ => none
  let l := (candidates s k).filter fun p => match floor with
    | some f => decide (f < effPrio c p.1 p.2.1)
    | none => true
  let isFree := match k.seq.mode with
    | .idle | .held _ => true
    | _ => false
  if !isFree || !clusterUp s c then s
  else
    match pickCandidate c l with
    | none => s
    | some (h, r, loc, e) =>
      if s.cfg.dead.getLsbD r.domain then
        let b := itemLaunch s e
        if b = 0 then rqTake s r loc else killLaunch b r s
      else
        let (spent, s1) := shareSpent r c s
        if spent then s1
        else
          match (if recSaved e then none else itemPoison s1 r loc e) with
          | some pa => dropItem r loc e pa s1
          | none => takeItem h r loc e (chargeServed c h r s1)

/-- PREEMPTION_REQUEST at cluster `c` (R144): the core whose task is asked, if any. -/
def preemptTarget (s : State) (c : Nat) : Option Nat :=
  let cores := (List.range 16).map fun i => getCore s (16 * c + i)
  let runs := cores.filter fun k => decide (k.seq.mode = .running)
  let noneIdle := cores.all fun k => match k.seq.mode with
    | .idle | .held _ => false
    | _ => true
  let prioOf := fun (k : Core) => ((handleOf s k.seq.eff.rcb).map fun h => effPrio c h k.seq.eff).getD k.seq.eff.prio
  let ready := cores.flatMap fun k => (candidates s k).map fun p => effPrio c p.1 p.2.1
  let top := ready.foldl max 0
  let low := (runs.map prioOf).foldl min 16
  if noneIdle && !ready.isEmpty && decide (low < top) then (runs.find? fun k => decide (prioOf k = low)).map Core.id else none

end Sys2Proof.Machine
end

