-- ==== Sys2Proof/Machine/Packet.lean ====
section
/-! DEFINITION. Fetching packets (R114), the stock program (R113, R118, R131), waiting queues (R116, R118, R124) and the migration
of a queue (R132). -/

namespace Sys2Proof.Machine

/-! ## Fetching (R114) -/

def readUnit (x : Queue) (s : State) (k : Nat) : List Byte := s.rdBytes (slotPa x (x.head + BitVec.ofNat 32 k)) 64

/-- The packet at head, where its four checks pass. An inline packet in hand is not read back (R108). -/
def readPacket (x : Queue) (s : State) : Option (List Byte) :=
  let first := if x.pkt.isEmpty then readUnit x s 0 else x.pkt
  let n := pLen first
  if field first 4 4 = x.seq.toNat ∧ 1 ≤ n ∧ n ≤ 64 ∧ n ≤ 2 ^ x.lsize ∧ n ≤ ringUsed x then
    let p := first ++ (List.range (n - 1)).flatMap fun k => readUnit x s (k + 1)
    if packetCheck p = field p 8 4 then some p else none
  else none

/-- The packet then fails with FAULT. -/
def feFault (q pa : Nat) (s : State) : State := failPacket q 5 (fePoison q pa s)

/-- What becomes of a packet that has passed its checks: skipped (R118), failed (R115, R326), or in PROCESS. -/
def acceptPacket (q : Nat) (p : List Byte) (s : State) : State :=
  let x := getQ s q
  let poisoned := x.pkt.isEmpty && (List.range (pLen p)).any fun k => isPoisoned s (slotPa x (x.head + BitVec.ofNat 32 k)) 64
  let skip := (decide (x.st = .skip) || x.skipping) && !pResume p
  let x1 := { x with seq := x.seq + 1, tries := 0, st := .process, pkt := p, pktAddr := slotPa x x.head, last := none, blocked := false,
                     skipping := false }
  let s1 := setQ { x1 with ctx := if x.prog = 0 then none else some (startBeret x1) } s
  if skip then skipPacket q s1
  else if poisoned then feFault q x1.pktAddr s1
  else if packetBad p (s.frameSlots.contains (slotPa x x.head)) then failPacket q 1 s1
  else s1

/-- Whether the fetcher may read queue `q`: it has packets, and its interpreter is in service (R132). -/
def canFetch (s : State) (q : Nat) : Bool :=
  let x := getQ s q
  (decide (x.st = .fetch) || decide (x.st = .skip)) && decide (x.head ≠ x.tail) && !s.fe.itpBusy.contains x.interp

/-- The pair a die's queue arbiter compares, as one number: effective RCB prio, then qprio (R124). An RCB that does not resolve has prio 0
(DESIGN CHOICE: log entry 61). -/
def queueRank (s : State) (x : Queue) : Nat := 16 * ((region s x.rcb).map Region.prio).getD 0 + x.qprio

/-- The queue whose next packet the interpreters of die `i` process (R124): the highest pair, and among equals the next in the round, which
goes by queue number (DESIGN CHOICE: log entry 61). Each die holds 16 of the interpreters 0 to 63 (R4); that die `i` holds those whose
number div 16 is `i` is the model's choice (DESIGN CHOICE: log entry 60). -/
def arbiterPick (s : State) (i : Nat) : Option Nat :=
  let qs := s.fe.queues.filter fun x => decide (x.interp / 16 = i ∧ x.tries = 0) && canFetch s x.q
  let top := (qs.map (queueRank s)).foldl max 0
  let last := ((s.fe.turns.find? fun p => decide (p.1 = i)).map Prod.snd).getD 65535
  let dist := fun q => (q + 65535 - last) % 65536
  let best := (qs.filter fun x => decide (queueRank s x = top)).map Queue.q
  best.foldl (fun b q => match b with
    | some c => if dist q < dist c then some q else b
    | none => some q) none

def execPacketFetch (q : Nat) (s : State) : Out :=
  let x := getQ s q
  let i := x.interp / 16
  .next (
    if canFetch s q ∧ x.tries = 0 ∧ arbiterPick s i = some q then
      let t := setFe s { s.fe with turns := (i, q) :: s.fe.turns.filter fun p => decide (p.1 ≠ i) }
      match readPacket x s with
      | some p => acceptPacket q p t
      | none => setQ { x with tries := 1, pkt := [] } t
    else s)

/-- PACKET_REFETCH: the fifth read that fails stops the queue. -/
def execPacketRefetch (q : Nat) (s : State) : Out :=
  let x := getQ s q
  .next (
    if canFetch s q ∧ x.tries ≠ 0 then
      let y := { x with refetch := min 255 (x.refetch + 1) }
      match readPacket x s with
      | some p => acceptPacket q p (setQ y s)
      | none =>
        if 4 ≤ x.tries then
          setQ { y with tries := 0, st := .integrity, errcode := 6, skipping := x.skipping || decide (x.st = .skip) } s
        else setQ { y with tries := x.tries + 1 } s
    else s)

/-! ## Placing (R113, R124, R129) -/

def packetRcb (x : Queue) : Nat := if field x.pkt 24 8 = 0 then x.rcb else field x.pkt 24 8

/-- How an attempt to place ends for a packet: `ok` goes on with the launch block. -/
def placeFor (q : Nat) (r : LaunchReq) (ok : Nat → State → State) (s : State) : Out :=
  if isPoisoned s r.rcb 256 then .next (feFault q r.rcb s)
  else
    match placeLaunch r s with
    | (.placed b, t) => .next (ok b t)
    | (.fail st, t) => .next (failPacket q st t)
    | (.wait, t) => .next (setQ { getQ t q with blocked := true } t)
    | (.fault pa, _) => .fault (.noSuchAddress pa)

/-- The placed packet ends; with the barrier bit the queue holds on its launch. -/
def placedEnd (q b : Nat) (s : State) : State :=
  endPacket q true (if pBar (getQ s q).pkt then some (.launch b) else none) s

def launchReq (p : List Byte) (rcb : Nat) : LaunchReq :=
  { code := field p 32 8, arg := field p 40 8, frame := field p 48 8, stride := field p 56 4, n := field p 60 4, sig := field p 16 8,
    rcb := rcb, resident := pResident p, extra := if pLen p = 2 then field p 64 64 else 0 }

def imageReq (p : List Byte) (rcb : Nat) : LaunchReq :=
  { code := field p 32 8, sig := field p 16 8, rcb := rcb, image := true, extra := field p 40 16 }

/-- Places an IMAGE after the checks of R149. -/
def placeImage (q : Nat) (r : LaunchReq) (ok : Nat → State → State) (s : State) : Out :=
  match region s r.rcb with
  | none => .next (failPacket q 1 s)
  | some g =>
    if isPoisoned s r.code 0x2000 then .next (feFault q r.code s)
    else if !imageOk s r.code g then .next (failPacket q 1 s)
    else placeFor q r ok s

/-- Whether queue `q` has a packet of type `t` for the stock program. -/
def stockHas (s : State) (q t : Nat) : Bool :=
  let x := getQ s q
  decide (x.st = .process) && x.ctx.isNone && decide (pType x.pkt = t)

def stockLaunch (q : Nat) (s : State) : Out :=
  let x := getQ s q
  placeFor q (launchReq x.pkt (packetRcb x)) (placedEnd q) s

def stockImage (q : Nat) (s : State) : Out :=
  let x := getQ s q
  placeImage q (imageReq x.pkt (packetRcb x)) (placedEnd q) s

/-- FRAME (R131): forwarded from a frame-ingress queue, else a one-task launch as the packet at pword describes it. -/
def stockFrame (q : Nat) (s : State) : Out :=
  let x := getQ s q
  if x.ing then .next (endPacket q true none (appendPacket (x.pword.toNat % 2 ^ 16) x.pkt s))
  else
    let a := bits x.pword.toNat 6 46 * 64
    let p := s.rdBytes a 64
    if !inHbm a 64 ∨ pType p ≠ 1 ∨ pLen p ≠ 1 ∨ packetBad p false then .next (failPacket q 1 s)
    else if isPoisoned s a 64 then .next (feFault q a s)
    else
      let rcb := if field p 24 8 = 0 then x.rcb else field p 24 8
      placeFor q { launchReq p rcb with n := 1, arg := field x.pkt 32 8 } (fun _ t => endPacket q true none t) s

def execLaunch (q : Nat) (s : State) : Out := if stockHas s q 1 && !(getQ s q).blocked then stockLaunch q s else .next s

def execImage (q : Nat) (s : State) : Out := if stockHas s q 2 && !(getQ s q).blocked then stockImage q s else .next s

def execFrame (q : Nat) (s : State) : Out := if stockHas s q 7 && !(getQ s q).blocked then stockFrame q s else .next s

def execNopPacket (q : Nat) (s : State) : Out := .next (if stockHas s q 6 then endPacket q true none s else s)

/-- SIGNAL (R113): a decrement or a set of its target. -/
def execSignal (q : Nat) (s : State) : Out :=
  let p := (getQ s q).pkt
  let a := field p 16 8
  let v := (BitVec.ofNat 64 (field p 24 8)).toInt
  .next (
    if !stockHas s q 4 then s
    else if isPoisoned s a 64 then feFault q a s
    else
      let t := if field p 32 1 = 0 then sigDec a v (field p 36 4) s else sigChange a (fun _ => v) (field p 36 4) s
      endPacket q true none t)

/-- COPY (R265): its stream starts; with the barrier bit the queue holds on it. -/
def stockCopy (q : Nat) (s : State) : State :=
  let x := getQ s q
  let p := x.pkt
  if isPoisoned s (packetRcb x) 256 then feFault q (packetRcb x) s
  else
    match startCopy (field p 32 8) (field p 40 1) (field p 16 8) (packetRcb x) s with
    | (.placed job, t) => endPacket q true (if pBar p then some (.copy job) else none) t
    | (.fail st, t) => failPacket q st t
    | (_, t) => setQ { getQ t q with blocked := true } t

def execCopy (q : Nat) (s : State) : Out := .next (if stockHas s q 5 && !(getQ s q).blocked then stockCopy q s else s)

/-! ## Barriers (R118) -/

/-- A BARRIER in hand waits: the queue is HELD, with head past the packet (R110), `pass` being how far its evaluation has come. -/
def barrierWait (q : Nat) (pass : Option (List Nat × Bool)) (s : State) : State :=
  let x := getQ s q
  let sigs := barrierSignals x.pkt
  let t := endPacket q true (some .barrier) (waitOn q sigs s)
  if (getQ t q).st = .held then setQ { getQ t q with pkt := x.pkt, pass := pass } t
  else sigAbort (packetSignal x.pkt) 3 (unwait q sigs t)

/-- BARRIER: the first evaluation. -/
def execBarrier (q : Nat) (s : State) : Out :=
  let x := getQ s q
  let sigs := barrierSignals x.pkt
  let done := packetSignal x.pkt
  .next (
    if !stockHas s q 3 then s
    else
      match readSignals sigs true s with
      | (.poison a, t) => feFault q a t
      | (.sat, t) =>
        if done ≠ 0 ∧ isPoisoned t done 64 then feFault q done (unwait q sigs t)
        else endPacket q true none (if done = 0 then unwait q sigs t else sigDec done 1 4 (unwait q sigs t))
      | (.abort, t) => endPacket q false none (sigAbort done 1 (unwait q sigs t))
      | (.wait, t) => barrierWait q none t
      | (.more left zero, t) => barrierWait q (some (left, zero)) t)

/-- How far an evaluation of a HELD queue has come. -/
def putPass (x : Queue) (pass : Option (List Nat × Bool)) (s : State) : State :=
  if x.pass = pass then s else setQ { x with pass := pass } s

/-- A HELD BARRIER is evaluated again, or its evaluation goes on: satisfied, aborted, still waiting, or failed (R345). -/
def heldBarrier (q : Nat) (s : State) : State :=
  let x := getQ s q
  let sigs := barrierSignals x.pkt
  let done := packetSignal x.pkt
  let y := { x with hold := none, pkt := [], pass := none }
  match evalPass x sigs s with
  | (.sat, s1) =>
    let t := unwait q sigs s1
    if done ≠ 0 ∧ isPoisoned t done 64 then setQ { y with st := .skip } (sigAbort done 3 (fePoison q done t))
    else setQ (Queue.rest y) (if done = 0 then t else sigDec done 1 4 t)
  | (.abort, s1) => setQ { y with st := .skip } (sigAbort done 1 (unwait q sigs s1))
  | (.poison a, s1) => setQ { y with st := .skip } (sigAbort done 3 (unwait q sigs (fePoison q a s1)))
  | (.wait, s1) => putPass x none s1
  | (.more left zero, s1) => putPass x (some (left, zero)) s1

/-- A queue in WAITB is evaluated (R129): 0 satisfied, 1 aborted, into its register; it goes on in PROCESS. -/
def heldWaitb (q : Nat) (d : BitVec 4) (mask : Nat) (s : State) : State :=
  let x := getQ s q
  let sigs := maskSignals (fun j => (manifestSignal x j).getD 0) mask
  let fin := fun (v : Word) (t : State) =>
    setQ { x with st := .process, hold := none, pass := none,
                  ctx := x.ctx.map fun c => { c with b := c.b.set d.toNat v d.isLt } } (unwait q sigs t)
  match evalPass x sigs s with
  | (.sat, s1) => fin 0 s1
  | (.abort, s1) => fin 1 s1
  | (.poison a, s1) => feFault q a (unwait q sigs s1)
  | (.wait, s1) => putPass x none s1
  | (.more left zero, s1) => putPass x (some (left, zero)) s1

def execBarrierEvaluation (q : Nat) (s : State) : Out :=
  let x := getQ s q
  .next (
    if x.st ≠ .held then s
    else match x.hold with
      | some .barrier => heldBarrier q s
      | some (.waitb d mask) => heldWaitb q d mask s
      | _ => s)

/-- SIGNAL_POLL (R116): the waiters that found the list of a signal full read it again. Queues that wait on it are evaluated; a core
blocked in SIGWAIT runs it again. -/
def execSignalPoll (sig : Nat) (s : State) : Out :=
  let waits := fun (x : Queue) => decide (x.st = .held) && (match x.hold with
    | some .barrier => (barrierSignals x.pkt).contains sig
    | some (.waitb _ mask) => (maskSignals (fun j => (manifestSignal x j).getD 0) mask).contains sig
    | _ => false)
  let t := ((s.fe.queues.filter waits).map Queue.q).foldl (fun u q =>
    match (getQ u q).hold with
    | some .barrier => heldBarrier q u
    | some (.waitb d mask) => heldWaitb q d mask u
    | _ => u) s
  let cores := (allCores t).filter fun k => k.seq.polls
  .next (cores.foldl (fun u k => onCore k.id (fun w => setSeq w { w.core.seq with stall := false }) u) t)

/-! ## Room frees (R124, R138) -/

/-- PLACEMENT_RESUME: the packet waiting in PROCESS is tried again. A custom program's instruction runs again by its own step. -/
def execPlacementResume (q : Nat) (s : State) : Out :=
  let x := getQ s q
  if x.st = .process ∧ x.blocked then
    let t := setQ { x with blocked := false } s
    if x.ctx.isSome then .next t
    else match pType x.pkt with
      | 1 => stockLaunch q t
      | 2 => stockImage q t
      | 5 => .next (stockCopy q t)
      | 7 => stockFrame q t
      | _ => .next t
  else .next s

/-! ## Migration (R132) -/

/-- QUEUE_MIGRATION: between packets the queue moves to another interpreter of its die, with its wait if it is HELD. A die has 16 of
the 64 interpreters. -/
def execQueueMigration (q itp : Nat) (s : State) : Out :=
  let x := getQ s q
  .next (
    if x.st ≠ .disabled ∧ x.st ≠ .process ∧ itp < 64 ∧ itp / 16 = x.interp / 16 ∧ !s.fe.itpBusy.contains itp then
      setQ { x with interp := itp } s
    else s)

end Sys2Proof.Machine
end

