-- ==== Sys2Proof/Machine/Beret.lean ====
section
/-! DEFINITION. The Beret instructions (R129), on the packet of the queue whose program moves. -/

namespace Sys2Proof.Machine

/-- Runs one step of the program of the current queue: not while it waits, and not past the 512th step. -/
def beretStep (f : Queue → Beret → State → Out) (s : State) : Out :=
  let x := getQ s s.fe.cur
  match x.st, x.ctx with
  | .process, some c => if x.blocked ∨ 512 ≤ c.steps then .next s else f x { c with steps := c.steps + 1 } s
  | _, _ => .next s

/-- Where control goes once it stands at index `at'`: a body that ends there starts again or is left. -/
def beretGoto : List (Nat × Nat × Nat) → Nat → List (Nat × Nat × Nat) × Nat
  | [], i => ([], i)
  | (first, after, times) :: r, i =>
    if i = after then (if 1 < times then ((first, after, times - 1) :: r, first) else beretGoto r i)
    else ((first, after, times) :: r, i)

def beretAt (c : Beret) (i : Nat) : Beret :=
  let (ls, j) := beretGoto c.loops i
  { c with loops := ls, at_ := j }

/-- The program goes on at the next instruction. -/
def beretNext (c : Beret) : Beret := beretAt c (c.at_ + 1)

def bGet (c : Beret) (r : BitVec 4) : Word := c.b[r.toNat]'r.isLt
def bSet (c : Beret) (r : BitVec 4) (v : Word) : Beret := { c with b := c.b.set r.toNat v r.isLt }

/-- Puts the context back into its queue. -/
def putCtx (c : Beret) (s : State) : State := setQ { getQ s s.fe.cur with ctx := some c } s

/-- An instruction that writes one register. -/
def beretPut (d : BitVec 4) (f : Beret → Word) (s : State) : Out :=
  beretStep (fun _ c t => .next (putCtx (beretNext (bSet c d (f c))) t)) s

def execMovb (d : BitVec 4) (imm : BitVec 15) (s : State) : Out := beretPut d (fun _ => imm.signExtend 64) s

def execAddb (d a b : BitVec 4) (s : State) : Out := beretPut d (fun c => bGet c a + bGet c b) s

def execAddib (d a : BitVec 4) (imm : BitVec 15) (s : State) : Out := beretPut d (fun c => bGet c a + imm.signExtend 64) s

def execAndb (d a b : BitVec 4) (s : State) : Out := beretPut d (fun c => bGet c a &&& bGet c b) s

def execOrb (d a b : BitVec 4) (s : State) : Out := beretPut d (fun c => bGet c a ||| bGet c b) s

def execShlib (d a : BitVec 4) (imm : BitVec 6) (s : State) : Out := beretPut d (fun c => bGet c a <<< imm.toNat) s

def execShrib (d a : BitVec 4) (imm : BitVec 6) (s : State) : Out := beretPut d (fun c => bGet c a >>> imm.toNat) s

def execBfxb (d a : BitVec 4) (lo wm1 : BitVec 6) (s : State) : Out :=
  beretPut d (fun c => BitVec.ofNat 64 (bits (bGet c a).toNat lo.toNat (wm1.toNat + 1))) s

/-- The packet in hand fails with a status. -/
def beretFail (st : Nat) (s : State) : Out := .next (failPacket s.fe.cur st s)

def execLdpb (d : BitVec 4) (imm : BitVec 15) (s : State) : Out :=
  beretStep (fun x c t =>
    if 64 * pLen x.pkt < imm.toNat + 8 then beretFail 1 t
    else .next (putCtx (beretNext (bSet c d (BitVec.ofNat 64 (field x.pkt imm.toNat 8)))) t)) s

def execLdqb (d : BitVec 4) (imm : BitVec 15) (s : State) : Out :=
  beretStep (fun x c t => .next (putCtx (beretNext (bSet c d (BitVec.ofNat 64 (bits (descImage x) (8 * imm.toNat) 64)))) t)) s

def execStqb (a : BitVec 4) (s : State) : Out :=
  beretStep (fun x c t => .next (setQ { x with pword := bGet c a, ctx := some (beretNext c) } t)) s

/-- An operation on manifest signal `j`: an entry that is no signal fails the packet with MANIFEST, an address that no packet may name
with FORMAT (R115), and a poisoned signal with FAULT (R326). -/
def onSignal (j : Nat) (f : Nat → Beret → State → Out) (s : State) : Out :=
  beretStep (fun x c t =>
    match manifestSignal x j with
    | none => beretFail 3 t
    | some a =>
      if a = 0 ∨ !sigOk a then beretFail 1 t
      else if isPoisoned t a 64 then .next (feFault t.fe.cur a t)
      else f a c t) s

def execSrdb (d : BitVec 4) (imm : BitVec 15) (s : State) : Out :=
  onSignal imm.toNat (fun a c t => .next (putCtx (beretNext (bSet c d (BitVec.ofNat 64 (t.rd a 8)))) t)) s

def execSdecb (a : BitVec 4) (imm : BitVec 15) (s : State) : Out :=
  onSignal imm.toNat (fun p c t => .next (putCtx (beretNext c) (sigDec p (bGet c a).toInt 4 t))) s

/-- SSETB: the abort code of a set that takes the value below 0 is not stated, so it is a free value. -/
def execSsetb (a : BitVec 4) (imm : BitVec 15) (s : State) : Out :=
  onSignal imm.toNat (fun p c t =>
    let (bs, t1) := freeBytes t 4
    .next (putCtx (beretNext c) (sigChange p (fun _ => (bGet c a).toInt) (bytesNat bs) t1))) s

def execWaitb (d a : BitVec 4) (s : State) : Out :=
  beretStep (fun x c t =>
    let mask := (bGet c a).toNat % 65536
    let idx := (List.range 16).filter fun j => bitAt mask j
    let sigs := maskSignals (fun j => (manifestSignal x j).getD 0) mask
    if idx.any fun j => (manifestSignal x j).isNone then beretFail 3 t
    else if sigs.any fun p => decide (p = 0) || !sigOk p then beretFail 1 t
    else
      let wait := fun (pass : Option (List Nat × Bool)) (u : State) =>
        setQ { x with st := .held, hold := some (.waitb d mask), pass := pass, ctx := some (beretNext c) } (waitOn u.fe.cur sigs u)
      .next (match readSignals sigs true t with
        | (.poison p, u) => feFault u.fe.cur p u
        | (.sat, u) => putCtx (beretNext (bSet c d 0)) u
        | (.abort, u) => putCtx (beretNext (bSet c d 1)) u
        | (.wait, u) => wait none u
        | (.more left zero, u) => wait (some (left, zero)) u)) s

/-- The completion signal named by `b14`: 16 and above is none. -/
def beretSig (x : Queue) (c : Beret) : Except Nat Nat :=
  let j := (bGet c 14).toNat
  if 16 ≤ j then .ok 0
  else
    match manifestSignal x j with
    | none => .error 3
    | some a => if a = 0 ∨ sigOk a then .ok a else .error 1

/-- The RCB named by `b13`; 0 is the queue's (R113). -/
def beretRcb (x : Queue) (c : Beret) : Except Nat Nat :=
  let a := (bGet c 13).toNat
  if a = 0 then .ok x.rcb else if a % 256 = 0 ∧ inHbm a 256 then .ok a else .error 1

/-- A placing instruction: its signal and RCB, then the placement; a placed launch is the last of its packet. -/
def beretPlace (f : Queue → Beret → Nat → Nat → Except Nat LaunchReq) (s : State) : Out :=
  beretStep (fun x c t =>
    match beretSig x c, beretRcb x c with
    | .error st, _ => beretFail st t
    | _, .error st => beretFail st t
    | .ok sig, .ok rcb =>
      match f x c sig rcb with
      | .error st => beretFail st t
      | .ok r =>
        let ok := fun b u => setQ { getQ u u.fe.cur with last := some (.launch b), ctx := some (beretNext c) } u
        if r.image then placeImage t.fe.cur r ok t else placeFor t.fe.cur r ok t) s

def execPlaceb (res : Bool) (s : State) : Out :=
  beretPlace (fun _ c sig rcb =>
    let g := fun r => (bGet c r).toNat
    if g 12 = 0 ∨ 2 ^ 24 < g 12 ∨ 2 ^ 32 ≤ g 11 ∨ g 11 % 64 ≠ 0 then .error 1
    else .ok { code := g 8, arg := g 9, frame := g 10, stride := g 11, n := g 12, sig := sig, rcb := rcb, resident := res }) s

def execImgb (s : State) : Out :=
  beretPlace (fun _ c sig rcb =>
    let g := fun r => (bGet c r).toNat
    if g 8 = 0 ∨ g 8 % 65536 ≠ 0 ∨ !inHbm (g 8) 0x78000 ∨ 2 ^ 56 ≤ g 10 then .error 1
    else .ok { code := g 8, sig := sig, rcb := rcb, image := true, extra := g 9 + g 10 * 2 ^ 64 }) s

def execCopyb (s : State) : Out :=
  beretStep (fun x c t =>
    match beretSig x c, beretRcb x c with
    | .error st, _ => beretFail st t
    | _, .error st => beretFail st t
    | .ok sig, .ok rcb =>
      if isPoisoned t rcb 256 then .next (feFault t.fe.cur rcb t)
      else
        match startCopy (bGet c 8).toNat ((bGet c 9).toNat % 256) sig rcb t with
        | (.placed job, u) => .next (setQ { getQ u u.fe.cur with last := some (.copy job), ctx := some (beretNext c) } u)
        | (.fail st, u) => beretFail st u
        | (_, u) => .next (setQ { getQ u u.fe.cur with blocked := true } u)) s

/-- A forward branch. -/
def beretBranch (cond : Word → Word → Bool) (a b : BitVec 4) (imm : BitVec 15) (s : State) : Out :=
  beretStep (fun _ c t =>
    .next (putCtx (if cond (bGet c a) (bGet c b) then beretAt c (c.at_ + 1 + imm.toNat) else beretNext c) t)) s

def execBeqb (a b : BitVec 4) (imm : BitVec 15) (s : State) : Out := beretBranch (fun x y => decide (x = y)) a b imm s

def execBneb (a b : BitVec 4) (imm : BitVec 15) (s : State) : Out := beretBranch (fun x y => decide (x ≠ y)) a b imm s

def execBltb (a b : BitVec 4) (imm : BitVec 15) (s : State) : Out := beretBranch (fun x y => decide (x.toInt < y.toInt)) a b imm s

def execLoopb (len count : BitVec 7) (s : State) : Out :=
  beretStep (fun _ c t =>
    .next (putCtx { c with loops := (c.at_ + 1, c.at_ + 1 + len.toNat, count.toNat) :: c.loops, at_ := c.at_ + 1 } t)) s

/-- FWDB: to the queue of manifest entry a. -/
def execFwdb (a : BitVec 4) (s : State) : Out :=
  beretStep (fun x c t =>
    match x.manifest[(bGet c a).toNat]? with
    | some e =>
      if manifestKind e = 2 then .next (putCtx (beretNext c) (appendPacket (e % 2 ^ 16) x.pkt t)) else beretFail 3 t
    | none => beretFail 3 t) s

/-- The program ends its packet with a status; one with the barrier bit then waits for its launch (R118). -/
def beretDone (x : Queue) (st : Nat) (s : State) : Out :=
  if st = 0 then .next (endPacket s.fe.cur true (if pBar x.pkt then x.last else none) s) else beretFail st s

def execDoneb (a : BitVec 4) (s : State) : Out := beretStep (fun x c t => beretDone x ((bGet c a).toNat % 256) t) s

/-- BERET_STEP_LIMIT: 512 steps without DONEB. -/
def execBeretStepLimit (q : Nat) (s : State) : Out :=
  let x := getQ s q
  .next (match x.st, x.ctx with
    | .process, some c => if 512 ≤ c.steps then failPacket q 2 s else s
    | _, _ => s)

end Sys2Proof.Machine
end

