-- ==== Sys2Proof/Machine/Regs.lean ====
section
/-! DEFINITION. The scalar registers an instruction names, for the scoreboard (R8, R155): an instruction waits while one of them
is still to be written. -/

namespace Sys2Proof.Machine

def scalarRegs : Instr → List SReg
  | .brCc _ r0 r1 _ => [r0, r1]
  | .jmpr r0 => [r0]
  | .call r0 _ => [r0]
  | .ret r0 => [r0]
  | .loop r0 _ => [r0]
  | .loopr r0 _ _ _ => [r0]
  | .sysrd r0 _ => [r0]
  | .syswr r0 _ => [r0]
  | .vrestore r0 => [r0]
  | .icinv r0 => [r0]
  | .tlbinv r0 => [r0]
  | .add r0 r1 r2 => [r0, r1, r2]
  | .sub r0 r1 r2 => [r0, r1, r2]
  | .and r0 r1 r2 => [r0, r1, r2]
  | .or r0 r1 r2 => [r0, r1, r2]
  | .xor r0 r1 r2 => [r0, r1, r2]
  | .andn r0 r1 r2 => [r0, r1, r2]
  | .shl r0 r1 r2 => [r0, r1, r2]
  | .shr r0 r1 r2 => [r0, r1, r2]
  | .sra r0 r1 r2 => [r0, r1, r2]
  | .mul r0 r1 r2 => [r0, r1, r2]
  | .mulh r0 r1 r2 => [r0, r1, r2]
  | .mulhz r0 r1 r2 => [r0, r1, r2]
  | .div r0 r1 r2 => [r0, r1, r2]
  | .divz r0 r1 r2 => [r0, r1, r2]
  | .rem r0 r1 r2 => [r0, r1, r2]
  | .remz r0 r1 r2 => [r0, r1, r2]
  | .min r0 r1 r2 => [r0, r1, r2]
  | .max r0 r1 r2 => [r0, r1, r2]
  | .minz r0 r1 r2 => [r0, r1, r2]
  | .maxz r0 r1 r2 => [r0, r1, r2]
  | .slt r0 r1 r2 => [r0, r1, r2]
  | .sltz r0 r1 r2 => [r0, r1, r2]
  | .seq r0 r1 r2 => [r0, r1, r2]
  | .sel r0 r1 r2 r3 => [r0, r1, r2, r3]
  | .clz r0 r1 => [r0, r1]
  | .popc r0 r1 => [r0, r1]
  | .bext r0 r1 _ _ => [r0, r1]
  | .bins r0 r1 _ _ => [r0, r1]
  | .addi r0 r1 _ => [r0, r1]
  | .andi r0 r1 _ => [r0, r1]
  | .ori r0 r1 _ => [r0, r1]
  | .xori r0 r1 _ => [r0, r1]
  | .shli r0 r1 _ => [r0, r1]
  | .shri r0 r1 _ => [r0, r1]
  | .srai r0 r1 _ => [r0, r1]
  | .slti r0 r1 _ => [r0, r1]
  | .li r0 _ => [r0]
  | .lih r0 _ => [r0]
  | .ld _ r0 r1 _ => [r0, r1]
  | .st _ r0 r1 _ => [r0, r1]
  | .amo _ r0 r1 r2 _ _ _ => [r0, r1, r2]
  | .cas r0 r1 r2 r3 _ _ _ => [r0, r1, r2, r3]
  | .acq r0 _ => [r0]
  | .tryacq r0 r1 _ => [r0, r1]
  | .rel r0 _ => [r0]
  | .spawn r0 => [r0]
  | .join r0 => [r0]
  | .wmpub _ r0 => [r0]
  | .sigdec r0 _ _ => [r0]
  | .sigwait r0 _ => [r0]
  | .vshlw _ _ r0 _ => [r0]
  | .vshrw _ _ r0 _ => [r0]
  | .vfunl _ _ _ r0 _ => [r0]
  | .vfunr _ _ _ r0 _ => [r0]
  | .mcnt r0 _ => [r0]
  | .mfirst r0 _ => [r0]
  | .setvl r0 r1 _ => [r0, r1]
  | .setvt r0 => [r0]
  | .vmvs r0 _ _ => [r0]
  | .vsplat _ r0 _ _ _ => [r0]
  | .vld _ r0 _ _ _ _ => [r0]
  | .vldW _ r0 _ _ _ _ _ => [r0]
  | .vlds _ r0 r1 _ _ _ _ => [r0, r1]
  | .vldff _ r0 r1 _ _ _ _ => [r0, r1]
  | .vst _ r0 _ _ _ _ => [r0]
  | .vsts _ r0 r1 _ _ _ _ => [r0, r1]
  | .vgath _ r0 _ _ _ _ _ => [r0]
  | .vscat _ _ r0 _ _ _ _ => [r0]
  | .vscadd _ _ r0 _ _ _ _ => [r0]
  | .vfenceArr r0 _ => [r0]
  | .vsell _ _ r0 _ r1 _ => [r0, r1]
  | .vslideu _ _ r0 _ _ _ => [r0]
  | .vslided _ _ r0 _ _ _ => [r0]
  | .vcomp _ _ r0 _ _ _ => [r0]
  | .vfib r0 r1 _ r2 _ _ => [r0, r1, r2]
  | .mma _ r0 r1 _ r2 _ _ => [r0, r1, r2]
  | .mmaq _ r0 r1 r2 _ _ _ => [r0, r1, r2]
  | .mmas _ r0 r1 r2 _ => [r0, r1, r2]
  | .mmac _ _ _ r0 _ => [r0]
  | .mscale _ _ r0 r1 => [r0, r1]
  | .mld _ r0 _ => [r0]
  | .mst _ r0 _ => [r0]
  | .mdrain _ _ tgt _ => (match tgt with | .pad b => [b] | .vec _ _ => [])
  | .pdrain _ _ _ r0 r1 r2 _ _ => [r0, r1, r2, r1 + 1]
  | .padj r0 r1 r2 r3 _ => [r0, r1, r2, r3]
  | .pstat _ _ _ r0 r1 => [r0, r1]
  | .pfix _ _ _ r0 r1 _ => [r0, r1]
  | .prld r0 _ => [r0, r0 + 1]
  | .prst r0 _ => [r0, r0 + 1]
  | .cbind _ r0 => [r0]
  | .cgo _ _ r0 => [r0]
  | .cgoMx _ _ r0 => [r0]
  | .cgoAuto r0 _ r1 => [r0, r1]
  | .cgoAutoMx r0 _ r1 => [r0, r1]
  | .cvld _ _ r0 r1 _ _ => [r0, r1]
  | .rinit r0 r1 r2 r3 => [r0, r1, r2, r3]
  | .await r0 r1 => [r0, r1]
  | .rels r0 => [r0]
  | .nlookup r0 r1 _ => [r0, r1]
  | .nadd _ r0 _ _ => [r0]
  | .naddr _ _ r0 _ _ => [r0]
  | .fput r0 r1 r2 _ => [r0, r1, r2]
  | .fget r0 r1 r2 _ => [r0, r1, r2]
  | .fsig r0 _ => [r0]
  | .collAllreduce r0 r1 r2 _ _ => [r0, r1, r2]
  | .collRedscat r0 r1 r2 _ _ => [r0, r1, r2]
  | .collAllgather r0 r1 r2 _ _ => [r0, r1, r2]
  | .collBcast r0 r1 r2 _ _ => [r0, r1, r2]
  | .fstat r0 r1 => [r0, r1]
  | _ => []

end Sys2Proof.Machine
end

