-- ==== Sys2Proof/Machine/Fetch.lean ====
section
/-! DEFINITION. Fetching and checking a line (R33, R35), transfers of control (R31, R32), and what a core does before an
instruction runs. -/

namespace Sys2Proof.Machine

/-- A later `.s` access of the core waits: for an order point (R12, R170), or for the answer of one that has gone out (R168): `.s` accesses to
different addresses keep program order too (R165; DESIGN CHOICE: log entry 76). -/
def scalarWaits (s : State) : Bool := heldByPoint s s.core .s (nextNum s) || returnPending s

/-- The copy of a line that the instruction cache holds. -/
def heldLine (base : Nat) (s : State) : Option Nat :=
  let q := s.core.seq
  (q.icache.find? fun e => decide (e.1 = q.eff.asn ∧ e.2.1 = base)).map fun e => e.2.2

/-- Puts a line into the instruction cache, which holds so many and no more (R5). -/
def cacheLine (base line : Nat) (s : State) : State :=
  let q := s.core.seq
  setSeq s { q with icache := ((q.eff.asn, base, line) ::
    (q.icache.filter fun e => !(decide (e.1 = q.eff.asn ∧ e.2.1 = base)))).take icacheLines }

/-- What a fetch gives: a line, a cause, or nothing yet, since the fetch is a `.s` access (R9) that has to wait. -/
inductive Fetched where
  | line (l : Nat)
  | fault (cause : Nat)
  | wait
  deriving DecidableEq, Repr

/-- The line at `base` (R33). A line that is in the instruction cache is used in the form it was fetched, poison in memory or not, unless
it has been evicted, as the next choice says where the copy and memory differ (`true`: still there). `again` bypasses the cache (R35). -/
def fetchLine (base : Nat) (again : Bool) (s : State) : Fetched × State :=
  let (r, s1) := translate .scalar .s .x (BitVec.ofNat 64 base) s
  match r with
  | .error c => (.fault c, s1)
  | .ok p =>
    let held := if again then none else heldLine base s1
    let same := match held with
      | some l => !isRemote p.pa && decide (s1.rd p.pa 64 = l) && !isPoisoned s1 p.pa 64
      | none => true
    let (keep, s2) := if same then (true, s1) else popChoice s1
    match keep, held with
    | true, some l => (.line l, cacheLine base l s2)
    | _, _ =>
      let r := s2.core.seq.eff
      if scalarWaits s2 || !memOk s2 r p.pa || !wayOpen s2 p.pa 0 then (.wait, s2)
      else
        let (x, s3) := homeRead p.pa 64 (chargeMem r p.pa 64 s2)
        if x.bad then (.fault 0x26, s3) else (.line x.val, cacheLine base x.val s3)

/-- How entering a line ends: its checks 1 and 2 pass (R35), a trap, a check byte that does not match yet, or a fetch that waits. -/
inductive Entry where
  | ok (line : Nat)
  | trap (cause : Nat) (epc tval : Word)
  | retry
  | wait
  deriving DecidableEq, Repr

/-- Control enters the line of `p` (R35). The epc of an illegal line is its first head (R34), and that of a task's code pointer where it
is the code pointer that names the line (R140). -/
def enterLine (p : Word) (s : State) : Entry × State :=
  let base := lineBase p
  let first := if s.core.seq.starting then p else BitVec.ofNat 64 (base + 2)
  match fetchLine base false s with
  | (.wait, s1) => (.wait, s1)
  | (.fault c, s1) => (.trap c p (BitVec.ofNat 64 base), s1)
  | (.line l, s1) =>
    if !lineIntact l then (.retry, s1)
    else if !lineFormOk l then (.trap 0x02 first (BitVec.ofNat 64 (lineDesc l)), s1)
    else (.ok l, s1)

def markRefetch (p : Word) (s : State) : State := setSeq s { s.core.seq with refetch := some p, stall := true }

def slotOf (p : Word) : Nat := p.toNat % 64 / 2

/-- A PC that no line can hold an instruction at: odd, or slot 0 (R30). -/
def badSlot (p : Word) : Bool := decide (p.toNat % 2 = 1) || decide (slotOf p = 0)

/-- Slot `i` is the follow-on of a CGO with `.mx` (R53), no target of a branch. -/
def followSlot (line i : Nat) : Bool :=
  decide (2 ≤ i) && (match decodeSlot line (i - 1) with
    | .ok (.cgoMx ..) | .ok (.cgoAutoMx ..) => true
    | _ => false)

/-- The line control is in. -/
def curLine (s : State) : Nat :=
  match s.core.seq.line with
  | some (_, l) => l
  | none => 0

/-- The slot of `p` is one that a branch may name in the line `l` (R31, R32, R53): check 3 of R35. -/
def slotOk (l : Nat) (p : Word) : Bool := !badSlot p && decide (slotOf p ≤ lineN l) && !followSlot l (slotOf p)

/-- A transfer of control to `p` (R31, R32, R35): `s0` is the state with no effect of the instruction, `s1` the one with all of
them but the transfer. The target slot is checked last. A transfer within the line that control is in is taken not to enter it again:
the line is kept as it was checked (DEDUCED: log entry 20). -/
def takeTo (s0 s1 : State) (p : Word) : Out :=
  if lineBase p = lineBase s0.core.seq.pc then
    if !badSlot p ∧ slotOf p ≤ curN s0 ∧ !followSlot (curLine s0) (slotOf p) then .next (goto s1 p false) else trapHere 0x03 p s0
  else
    match enterLine p s1 with
    | (.ok l, s2) =>
      if slotOk l p then
        let t := goto s2 p false
        .next (setSeq t { t.core.seq with line := some (p, l) })
      else trapHere 0x03 p s0
    | (.trap c epc tval, s2) => .next (raise c epc tval (setSeq s2 { s2.core.seq with pc := p, line := none }))
    | (.retry, _) => .next (markRefetch p s0)
    | (.wait, _) => stall false s0

/-- The PC of a target field (R31). -/
def targetPc (pc : Word) (tgt : BitVec 24) : Word :=
  BitVec.ofNat 64 (lineBase pc) + ((tgt.extractLsb' 5 19).signExtend 64) * 64 + BitVec.ofNat 64 (2 * (tgt.toNat % 32))

/-- The PC of the next head after the head at `p` (R30), once the line of `p` is known. -/
def afterPc (p : Word) (n : Nat) : Word :=
  if slotOf p < n then p + 2 else BitVec.ofNat 64 (lineBase p + 66)

/-- Control passes to the head after `p` (R136). Where `p` is a CGO `.mx`, that is the slot of its follow-on, no target of a transfer
(R53; DESIGN CHOICE: log entry 73). -/
def takeAfter (s0 s1 : State) (p : Word) : Out :=
  if lineBase p = lineBase s0.core.seq.pc then
    if slotOf p ≤ curN s0 then takeTo s0 s1 (afterPc p (curN s0)) else trapHere 0x03 p s0
  else
    match enterLine p s1 with
    | (.ok l, s2) => if slotOf p ≤ lineN l then takeTo s0 s2 (afterPc p (lineN l)) else trapHere 0x03 p s0
    | (.trap c epc tval, s2) => .next (raise c epc tval (setSeq s2 { s2.core.seq with pc := p, line := none }))
    | (.retry, _) => .next (markRefetch p s0)
    | (.wait, _) => stall false s0

/-- Whether the target of a LOOP lies at a slot that its line does not have, or at a follow-on's (R31, R53, R158): `none` while the line cannot be read yet. A line
of another address whose fetch or whose checks fail traps where control enters it (log entry 20). -/
def loopTargetBad (p : Word) (s : State) : Option Bool × State :=
  if badSlot p then (some true, s)
  else if lineBase p = lineBase s.core.seq.pc then (some (!slotOk (curLine s) p), s)
  else
    match enterLine p s with
    | (.ok l, s1) => (some (!slotOk l p), s1)
    | (.wait, s1) => (none, s1)
    | (_, s1) => (some false, s1)

/-- What a core does before an instruction runs. -/
inductive Prep where
  | done (s : State)            -- a trap was taken, or it waits
  | run (i : Instr) (s : State)
  deriving DecidableEq, Repr

/-- The scalar registers that the instruction at slot `i` reads or writes, with those of its follow-on, which are read with it (R258). -/
def headRegs (l i : Nat) (x : Instr) : List SReg :=
  match x with
  | .cgoMx .. | .cgoAutoMx .. =>
    if i < lineN l then
      scalarRegs x ++ match decodeSlot l (i + 1) with
        | .ok j => scalarRegs j
        | .error _ => []
    else scalarRegs x
  | _ => scalarRegs x

/-- The instruction at the PC in the line control is in: an encoding that is none traps (R34), and one whose registers are still to
be written waits (R8). -/
def issueHead (l : Nat) (s : State) : Prep :=
  match decodeSlot l (slotOf s.core.seq.pc) with
  | .error _ => .done (raise 0x01 s.core.seq.pc (BitVec.ofNat 64 (curHead s)) s)
  | .ok i =>
    if !i.wf then .done (raise 0x01 s.core.seq.pc (BitVec.ofNat 64 (curHead s)) s)
    else if (headRegs l (slotOf s.core.seq.pc) i).any fun r => s.core.seq.busy.contains r then
      .done (setSeq s { s.core.seq with stall := true, atPoint := false })
    else .run i s

/-- The cause a failed line entry carries: where it is the trap vector's, that of the trap that failed to enter (R153). -/
def entryCause (s : State) (c : Nat) : Nat := if s.core.seq.vectoring then s.core.seq.cause.toNat else c

/-- The current core's next instruction (R35, R140). -/
def prepare (s : State) : Prep :=
  match s.core.seq.mode with
  | .running =>
    match s.core.seq.line with
    | some (_, l) => issueHead l s
    | none =>
      let p := s.core.seq.pc
      match enterLine p s with
      | (.ok l, s1) =>
        if !badSlot p ∧ slotOf p ≤ lineN l then
          issueHead l (setSeq s1 { s1.core.seq with line := some (p, l), vectoring := false, starting := false })
        else .done (raise (entryCause s 0x03) p p s1)
      | (.trap c epc tval, s1) => .done (raise (entryCause s c) epc tval s1)
      | (.retry, s1) => .done (markRefetch p s1)
      | (.wait, s1) => .done (setSeq s1 { s1.core.seq with stall := true })
  | _ => .done s

/-- LINE_REFETCH (R35): the line is fetched once more, bypassing the cache; a second mismatch is a machine check (R34). -/
def execLineRefetch (c : Nat) (s : State) : Out :=
  .next (onCore c (fun t =>
    match t.core.seq.refetch with
    | none => t
    | some p =>
      let (r, t1) := fetchLine (lineBase p) true t
      let t2 := setSeq t1 { t1.core.seq with refetch := none, stall := false }
      match r with
      | .wait => t
      | .fault _ => t2
      | .line l => if lineIntact l then t2 else machineCheck c 0 0 (lineBase p) p.toNat false t2) s)

end Sys2Proof.Machine
end

