-- ==== Sys2Proof/Machine/Flags.lean ====
section
/-! DEFINITION. The flags of the vector engine: how events are merged, written and enabled (R63 to R66). -/

namespace Sys2Proof.Machine

/-- Merges an event set with an index into `sys.vstat` and the index registers (R65); `idx` is `none` where no index is set. -/
def mergeFlags (f : Flags) (idx : Option Word) (v : Vec) : Vec :=
  let order : List Nat := [0, 1, 2, 3, 4, 5, 6, 7]
  let vidx := order.foldl (fun acc b =>
    match idx with
    | some i => if f.toNat / 2 ^ b % 2 = 1 ∧ i.toNat < (acc[b]?.getD 0).toNat then acc.setIfInBounds b i else acc
    | none => acc) v.vidx
  { v with vstat := v.vstat ||| f, vidx := vidx }

/-- A SYSWR to `sys.vstat`: bits 7:0 as given; the index of every flag it leaves at 0 is reset (R64). -/
def writeVstat (x : Word) (v : Vec) : Vec :=
  { v with vstat := x.truncate 8, vidx := Vector.ofFn fun i => if x.getLsbD i.val then v.vidx[i] else BitVec.allOnes 64 }

/-- The exceptions of a result whose trap is enabled in a `sys.vtype` (R63, R66): the five enables stand in the places of their
flags. -/
def enabledOf (vtype : Nat) (f : Flags) : Nat := Nat.land f.toNat (vtype % 32)

/-- The absolute element index `sys.vbase` + e (R65). -/
def absIndex (env : VEnv) (e : Nat) : Word := env.vbase + BitVec.ofNat 64 e

end Sys2Proof.Machine
end

