-- ==== Sys2Proof/Machine/Operands.lean ====
section
/-! DEFINITION. The operand forms of the vector engine: sources with their replicates and rotation (R38, R182, R204), elements that a
pending hole will supply (R185 to R187), results with the last-result file (R181), masks, and marks of poison (R325, R326). -/

namespace Sys2Proof.Machine

/-! ## Names -/

def rotSlot (rot r : Nat) : Nat := if 48 ≤ r then 48 + (r - 48 + rot) % 16 else r

/-- The slot a source names: v0-v63, o0-o7 from 64, l0-l3 from 72. -/
def srcSlot (rot : Nat) (a : VSrc) : Nat :=
  match a.file with
  | .v => rotSlot rot a.reg.toNat
  | .o => 64 + a.reg.toNat
  | .l => 72 + a.reg.toNat

/-- What element `e` reads under a replicate (R204). -/
def repIndex (r : Rep) (w e : Nat) : Nat :=
  match r with
  | .none => e
  | .e k => k.toNat
  | .seg k => 128 * k.toNat / w + e % (128 / w)
  | .w k => 512 * k.toNat / w + e % (512 / w)

/-! ## Captured operands -/

/-- Bits r to r + n − 1 of an operand. -/
def HOp.slice (o : HOp) (r n : Nat) : HOp :=
  ⟨bits o.val r n, o.parts.filterMap fun p =>
    let lo := max p.lo r
    let hi := min (p.lo + p.w) (r + n)
    if lo < hi then some ⟨p.id, lo - r, p.off + (lo - p.lo), hi - lo⟩ else none⟩

/-- `b` above the low `n` bits of `a`. -/
def HOp.cat (a : HOp) (n : Nat) (b : HOp) : HOp :=
  ⟨a.val % 2 ^ n + b.val * 2 ^ n, a.parts ++ b.parts.map fun p => { p with lo := p.lo + n }⟩

/-- Hole `id` has filled with `x`: the parts it supplies are put in. -/
def HOp.resolve (id x : Nat) (o : HOp) : HOp :=
  ⟨(o.parts.filter fun p => decide (p.id = id)).foldl (fun v p => putBits v p.lo p.w (x / 2 ^ p.off)) o.val,
    o.parts.filter fun p => decide (p.id ≠ id)⟩

def HOp.ready (o : HOp) : Bool := o.parts.isEmpty

/-- The holes a set of operands waits for. -/
def parents (ops : List HOp) : List Nat := ((ops.flatMap HOp.parts).map Patch.id).eraseDups

/-! ## Reading -/

/-- Whether a pending hole stands at bits of a register. -/
def holeAt (h : Hole) (slot : Nat) : Bool :=
  if slot < 72 then h.live && decide (h.dest = some slot) else h.lpos.contains (slot - 72)

/-- Element `e`, `w` bits wide, of a register as it stands: its bits and the parts that holes will supply. -/
def readElem (v : Vec) (slot w e : Nat) : HOp :=
  ⟨bits (regImg v slot) (w * e) w, (v.holes.filter fun h => holeAt h slot).filterMap fun h =>
    let lo := max (w * e) (h.w * h.elem)
    let hi := min (w * e + w) (h.w * h.elem + h.w)
    if lo < hi then some ⟨h.id, lo - w * e, lo - h.w * h.elem, hi - lo⟩ else none⟩

/-- What element `e` of an instruction reads from a source (R204). -/
def readSrc (v : Vec) (rot : Nat) (a : VSrc) (w e : Nat) : HOp := readElem v (srcSlot rot a) w (repIndex a.rep w e)

/-- Element `e` is present (R185). -/
def present (v : Vec) (slot w e : Nat) : Bool := decide (bits (presImg v slot) (presLo w e) (presLen w) = 2 ^ presLen w - 1)

/-- The operand waits for every hole of `a`, whichever of its bits it takes (R217). -/
def HOp.dependsOn (o a : HOp) : HOp := ⟨o.val, o.parts ++ a.parts.map fun p => { p with lo := 0, off := 0, w := 0 }⟩

/-- Elements 0 to VL − 1 of a source as one string of bits: bits lo to lo + w − 1, zero from bit `n` up. It waits for the elements that
supply a bit, whole (R217). -/
def stringBits (get : Nat → HOp) (w lo : Nat) : HOp :=
  let i := lo / w
  let r := lo % w
  let a := get i
  let b := get (i + 1)
  if r = 0 then a else ((HOp.cat (a.slice r (w - r)) (w - r) (b.slice 0 r)).dependsOn a).dependsOn b

/-! ## Writing -/

/-- An element of `l0` is written: a hole that stands there leaves it. -/
def dropL0 (v : Vec) (lo n : Nat) : Vec :=
  { v with holes := v.holes.map fun h =>
      if h.lpos.contains 0 ∧ h.w * h.elem < lo + n ∧ lo < h.w * h.elem + h.w then { h with lpos := h.lpos.filter fun k => decide (k ≠ 0) } else h }

def setPresent (v : Vec) (slot w e x : Nat) (p : Bool) : Vec :=
  setReg v slot (putBits (regImg v slot) (w * e) w x)
    (putBits (presImg v slot) (presLo w e) (presLen w) (if p then 2 ^ presLen w - 1 else 0))

/-- The last-result file shifts, the new `l0` taking the contents of the old one for now (R181). -/
def shiftL (v : Vec) : Vec :=
  let g := fun (k : Fin 4) => v.l[k.val - 1]'(by omega)
  let p := fun (k : Fin 4) => v.pl[k.val - 1]'(by omega)
  { v with l := Vector.ofFn g, pl := Vector.ofFn p,
           holes := v.holes.map fun h =>
             { h with lpos := h.lpos.flatMap fun k => if k = 0 then [0, 1] else if k < 3 then [k + 1] else [] } }

/-- A lane's result for element `e`: into the destination and `l0`. -/
def putResult (v : Vec) (dest : Option Nat) (w e x : Nat) : Vec :=
  let v1 := match dest with
    | some d => putElem v d w e x
    | none => v
  setPresent (dropL0 v1 (w * e) w) 72 w e x true

/-- A hole for element `e` of the destination and of `l0` (R185, R186). -/
def putHole (v : Vec) (h : Hole) : Vec :=
  let lo := h.w * h.elem
  let v1 := match h.dest with
    | some d => loseFills (setPresent v d h.w h.elem (bits (regImg v d) lo h.w) false) d lo h.w
    | none => v
  let v2 := setPresent (dropL0 v1 lo h.w) 72 h.w h.elem (bits (regImg v1 72) lo h.w) false
  { v2 with holes := v2.holes ++ [h] }

/-- The operands that wait for hole `id` take its value (R186, R190). -/
def resolveAll (id x : Nat) (v : Vec) : Vec :=
  let r := HOp.resolve id x
  { v with holes := v.holes.map (fun h => { h with ops := h.ops.map r }),
           defer := v.defer.map (fun d => { d with vals := d.vals.map r }),
           stores := v.stores.map (fun t => { t with writes := t.writes.map fun y => { y with vals := y.vals.map r } }),
           vxq := v.vxq.map (fun e => { e with rest := e.rest.map fun l => l.map fun p => (p.1, p.2.map r) }) }

/-- A hole has its value: its registers are written where the element's generation is still the recorded one (R188), and its entry is
freed. -/
def fillHole (h : Hole) (x : Nat) (v : Vec) : Vec :=
  let v1 := match h.dest, h.live with
    | some d, true => setPresent v d h.w h.elem x true
    | _, _ => v
  let v2 := h.lpos.foldl (fun u k => setPresent u (72 + k) h.w h.elem x true) v1
  resolveAll h.id x { v2 with holes := v2.holes.filter fun g => decide (g.id ≠ h.id) }

/-- Sets bits of `msat` (R67). -/
def setMsat (v : Vec) (e : Nat) : Vec := setMask v 15 (putBits (maskImg v 15) e 1 1)

/-! ## Poison (R325, R326) -/

def lanePsn (k : Core) (slot w e : Nat) : Bool := k.psnV.contains (slot, w * e / 64)

/-- The marks of the 64-bit words that a set of written elements covers whole are cleared. -/
def clearLanes (slot w : Nat) (es : List Nat) (k : Core) : Core :=
  let n := 64 / w
  dropPsn (fun p => decide (p.1 = slot) && (List.range n).all fun j => es.contains (n * p.2 + j)) k

/-- The parity marks of the 64-bit words of a mask whose bits are all written are cleared (R324, R325). -/
def clearMask (d : MReg) (p : Nat → Bool) (k : Core) : Core :=
  { k with par := k.par.filter fun x => !(decide (x.1 = d.toNat) && (List.range 64).all fun j => p (64 * x.2.1 + j)) }

/-- The marks of the last-result file move as it shifts (R181, R325): slots 72 to 75, the new `l0` taking those of the old one for now. -/
def shiftMarks (k : Core) : Core :=
  let go := fun (l : List (Nat × Nat)) => l.flatMap fun p =>
    if p.1 < 72 then [p] else if p.1 = 72 then [p, (73, p.2)] else if p.1 < 75 then [(p.1 + 1, p.2)] else []
  { k with psnV := go k.psnV, psnT := go k.psnT }

end Sys2Proof.Machine
end

