-- ==== Sys2Proof/Machine/VForm.lean ====
section
/-! DEFINITION. What each vector instruction names: its queue, destinations, sources, masks and types (R42, R177, R205, R219), and what
the scoreboard sees of it (R179). -/

namespace Sys2Proof.Machine

/-- The type indices are read with (R236). -/
def idxTy (t : ETy) : ETy := if t.width = 64 then .z64 else .z32

def idxW (t : ETy) : Nat := (idxTy t).width

def redSrcs (b : RedSrc) (t : ETy) : List (VSrc × Nat) :=
  match b with
  | .init x => [(x, t.width)]
  | .seg _ => []

def redMask (b : RedSrc) : List MReg :=
  match b with
  | .init _ => []
  | .seg m => [m]

/-- What a vector instruction names. `m` and `ps` decide which elements are active; `addend` says that the destination's old element is
an operand, `sat` that it may set bits of `msat`, `shifts` that it shifts the last-result file (R181). -/
structure VForm where
  queue : VQueue := .vxq
  dest : Option VDst := none
  dest2 : Option VDst := none
  wd : Nat := 8
  srcs : List (VSrc × Nat) := []
  m : MReg := 0
  ps : PReg := 0
  types : List ETy := []
  shifts : Bool := false
  addend : Bool := false
  mr : List MReg := []
  mw : List MReg := []
  sd : List SReg := []
  sat : Bool := false
  deriving DecidableEq, Repr

def vForm : Instr → Option VForm
  | .vadd d a b m ps ty | .vsub d a b m ps ty | .vmul d a b m ps ty | .vmulh d a b m ps ty | .vmulhz d a b m ps ty
  | .vmin d a b m ps ty | .vmax d a b m ps ty | .vminz d a b m ps ty | .vmaxz d a b m ps ty | .vfadd _ d a b m ps ty
  | .vfsub _ d a b m ps ty | .vfmul _ d a b m ps ty | .vfdiv _ d a b m ps ty | .vfmin d a b m ps ty
  | .vfmax d a b m ps ty | .vand d a b m ps ty | .vor d a b m ps ty | .vxor d a b m ps ty | .vandn d a b m ps ty
  | .vshl d a b m ps ty | .vshr d a b m ps ty | .vsra d a b m ps ty | .vthr d a b m ps ty | .vperm d a b m ps ty =>
    some { dest := some d, wd := ty.width, srcs := [(a, ty.width), (b, ty.width)], m := m, ps := ps, types := [ty], shifts := true }
  | .vmadd d a b m ps ty | .vfma _ d a b m ps ty | .vfms _ d a b m ps ty | .vfnma _ d a b m ps ty =>
    some { dest := some d, wd := ty.width, srcs := [(a, ty.width), (b, ty.width)], m := m, ps := ps, types := [ty], shifts := true, addend := true }
  | .vabs d a m ps ty | .vpopc d a m ps ty | .vclz d a m ps ty | .vfrcp _ d a m ps ty | .vfsqrt _ d a m ps ty
  | .vfrsq d a m ps ty | .vfexp2 d a m ps ty | .vflog2 d a m ps ty | .vfsin d a m ps ty | .vfcos d a m ps ty
  | .vftanh d a m ps ty | .vfabs d a m ps ty | .vfneg d a m ps ty | .vfclass d a m ps ty | .vslideu d a _ m ps ty
  | .vslided d a _ m ps ty | .vxchg d a _ m ps ty | .vexp d a m ps ty =>
    some { dest := some d, wd := ty.width, srcs := [(a, ty.width)], m := m, ps := ps, types := [ty], shifts := true }
  | .vadds d a b m ps ty | .vsubs d a b m ps ty =>
    some { dest := some d, wd := ty.width, srcs := [(a, ty.width), (b, ty.width)], m := m, ps := ps, types := [ty], shifts := true, sat := true }
  | .vscacc d a b m ps sb =>
    some { dest := some d, wd := 32, srcs := [(a, 32), (b, 32), (⟨.o, sb.zeroExtend 6, .none⟩, 32)], m := m, ps := ps, types := [.f32], shifts := true, addend := true }
  | .vcvt _ d a td m ps ts | .vnarrow _ d a td m ps ts =>
    some { dest := some d, wd := td.width, srcs := [(a, ts.width)], m := m, ps := ps, types := [td, ts], shifts := true, sat := true }
  | .vwiden d a td m ps ts =>
    some { dest := some d, wd := td.width, srcs := [(a, ts.width)], m := m, ps := ps, types := [td, ts], shifts := true }
  | .vdeq d a b m ps ty =>
    some { dest := some d, wd := 32, srcs := [(a, ty.width), (b, 32)], m := m, ps := ps, types := [.f32], shifts := true }
  | .vshlw d a _ ty | .vshrw d a _ ty =>
    some { dest := some d, wd := ty.width, srcs := [(a, ty.width)], types := [ty], shifts := true }
  | .vfunl d a b _ ty | .vfunr d a b _ ty =>
    some { dest := some d, wd := ty.width, srcs := [(a, ty.width), (b, ty.width)], types := [ty], shifts := true }
  | .vrndb d m ps ty | .vsplat d _ m ps ty =>
    some { dest := some d, wd := ty.width, m := m, ps := ps, types := [ty], shifts := true }
  | .vcmp _ d a b m ps ty | .vfcmp _ d a b m ps ty =>
    some { srcs := [(a, ty.width), (b, ty.width)], m := m, ps := ps, types := [ty], mw := [d] }
  | .vsel d a b m ps ty =>
    some { dest := some d, wd := ty.width, srcs := [(a, ty.width), (b, ty.width)], mr := [m], ps := ps, types := [ty], shifts := true }
  | .mand d a b | .mor d a b | .mxor d a b => some { mr := [a, b], mw := [d] }
  | .mnot d a => some { mr := [a], mw := [d] }
  | .mcnt d a | .mfirst d a => some { mr := [a], sd := [d] }
  | .vpres d a m ps ty => some { srcs := [(a, ty.width)], m := m, ps := ps, types := [ty], mw := [d] }
  | .vred _ d a b m ps ty | .vfred _ d a b m ps ty | .vscan _ d a b m ps ty | .vfscan _ d a b m ps ty =>
    some { dest := some d, wd := ty.width, srcs := (a, ty.width) :: redSrcs b ty, mr := redMask b, m := m, ps := ps, types := [ty], shifts := true }
  | .vmvs d a ty => some { srcs := [(a, ty.width)], types := [ty], sd := [d] }
  | .mclr d => some { mw := [d] }
  | .vld d _ _ m ps ty | .vldW d _ _ _ m ps ty | .vlds d _ _ _ m ps ty =>
    some { queue := .vlq, dest := some d, wd := ty.width, m := m, ps := ps, types := [ty] }
  | .vldff d _ x _ m ps ty => some { queue := .vlq, dest := some d, wd := ty.width, m := m, ps := ps, types := [ty], sd := [x] }
  | .vst a _ _ m ps ty | .vsts a _ _ _ m ps ty => some { queue := .vsq, srcs := [(a, ty.width)], m := m, ps := ps, types := [ty] }
  | .vgath d _ idx _ m ps ty =>
    some { queue := .vlq, dest := some d, wd := ty.width, srcs := [(idx, idxW ty)], m := m, ps := ps, types := [ty, idxTy ty] }
  | .vscat a idx _ _ m ps ty | .vscadd a idx _ _ m ps ty =>
    some { queue := .vsq, srcs := [(idx, idxW ty), (a, ty.width)], m := m, ps := ps, types := [ty, idxTy ty] }
  | .vtld d a m ps ty =>
    some { queue := .vlq, dest := some d, wd := ty.width, srcs := [(a, ty.width)], m := m, ps := ps, types := [ty] }
  | .vtst a b m ps ty => some { queue := .vsq, srcs := [(a, ty.width), (b, ty.width)], m := m, ps := ps, types := [ty] }
  | .vfence | .vfenceArr _ _ => some { queue := .vsq }
  | .vsell d di _ md _ ty => some { queue := .vlq, dest := some d, wd := ty.width, dest2 := some di, mw := [md] }
  | .vcomp d a s m ps ty =>
    some { dest := some d, wd := ty.width, srcs := [(a, ty.width)], m := m, ps := ps, types := [ty], shifts := true, sd := [s] }
  | .vfib sr sl a _ md ty => some { srcs := [(a, ty.width)], types := [ty], mw := [md], sd := [sr, sl] }
  | _ => none

def formOf (i : Instr) : VForm := (vForm i).getD {}

/-- An entry of the VXQ that stands for an instruction the control core has performed, and occupies no lane (R219). -/
def isMarker (i : Instr) : Bool := (vForm i).isNone

/-! ## The scoreboard (R179) -/

/-- A mask as the scoreboard numbers it; `m0` is a constant. -/
def maskId (m : MReg) : List Nat := if m = 0 then [] else [80 + m.toNat]

def slotsOf (rot : Nat) (d : Option VDst) : List Nat :=
  match d with
  | some x => (dstSlot rot x).toList
  | none => []

/-- The registers an instruction writes: slots, the last-result file as 72, masks from 80. -/
def vWrites (env : VEnv) (f : VForm) : List Nat :=
  slotsOf env.rot f.dest ++ slotsOf env.rot f.dest2 ++ (if f.shifts then [72] else []) ++ f.mw.flatMap maskId ++
    (if f.sat then [95] else [])

def vReads (env : VEnv) (f : VForm) : List Nat :=
  (f.srcs.map fun p => min 72 (srcSlot env.rot p.1)) ++ (if f.addend then slotsOf env.rot f.dest else []) ++ maskId f.m ++
    f.mr.flatMap maskId ++ (if f.shifts then [72] else [])

def entryWrites (e : VEntry) : List Nat := vWrites e.env (formOf e.instr)
def entryReads (e : VEntry) : List Nat := vReads e.env (formOf e.instr)

def meet (a b : List Nat) : Bool := a.any fun x => b.contains x

/-- `e` has to wait for `older`, which has not issued. -/
def regClash (e older : VEntry) : Bool :=
  meet (entryReads e ++ entryWrites e) (entryWrites older) || meet (entryWrites e) (entryReads older)

/-- Registers that a command outside the vector queues, numbered below `n`, has yet to write (R261, R270, R286, R302). -/
def outsideWrites (s : State) (k : Core) (n : Nat) : List Nat :=
  ((k.mat.queue.filter fun e => decide (e.env.num < n)).flatMap mVecRegs) ++
    ((s.copy.streams.filter fun t => decide (t.core = k.id ∧ t.launch = 0 ∧ t.num < n)).flatMap fun t => match t.deliver with
      | some d => d.reg :: maskId d.m
      | none => []) ++
    ((s.near.filter fun c => decide (c.core = k.id ∧ c.env.num < n)).flatMap fun c => match c.instr with
      | .naddr _ d _ _ _ => (dstSlot c.env.rot d).toList
      | _ => [])

/-- Registers that a command outside the vector queues which has not issued will write (R228). -/
def outsideUnissued (s : State) (k : Core) : List Nat :=
  ((k.mat.queue.filter fun e => !e.issued).flatMap mVecRegs) ++
    ((s.copy.streams.filter fun t => decide (t.core = k.id ∧ t.tid = k.seq.tid) && !t.running).flatMap fun t => match t.deliver with
      | some d => d.reg :: maskId d.m
      | none => []) ++
    ((s.near.filter fun c => decide (c.core = k.id ∧ c.tid = k.seq.tid) && c.data.isNone).flatMap fun c => match c.instr with
      | .naddr _ d _ _ _ => (dstSlot c.env.rot d).toList
      | _ => [])

/-- Source registers that near-memory commands numbered below `n` have yet to read (R302). -/
def outsideReads (s : State) (k : Core) (n : Nat) : List Nat :=
  (s.near.filter fun c => decide (c.core = k.id ∧ c.env.num < n) && c.data.isNone).flatMap fun c => match c.instr with
    | .nadd _ _ src _ | .naddr _ _ _ src _ => [min 72 (srcSlot c.env.rot src)]
    | _ => []

/-- An instruction of a vector state, older than `n`, has still to write a register of the command, or to read its destination. -/
def Vec.olderUse (v : Vec) (n : Nat) (sreg dreg : List Nat) : Bool :=
  ((v.vlq ++ v.vxq ++ v.vsq).any fun e => decide (e.env.num < n) && (meet (entryWrites e) (sreg ++ dreg) || meet (entryReads e) dreg)) ||
    v.loads.any fun l => decide (l.env.num < n) && meet l.dests (sreg ++ dreg)

/-- The registers of a command, source and destination. -/
def updateRegs (c : NearCmd) : List Nat × List Nat :=
  match c.instr with
  | .nadd _ _ src _ => ([min 72 (srcSlot c.env.rot src)], [])
  | .naddr _ d _ src _ => ([min 72 (srcSlot c.env.rot src)], (dstSlot c.env.rot d).toList)
  | _ => ([], [])

/-- The same in a memory frame of a task (R199). -/
def framedUse (s : State) (tid : BitVec 31) (n : Nat) (sreg dreg : List Nat) : Bool :=
  s.slots.any fun e => decide (e.tid = tid) && e.vec.olderUse n sreg dreg

/-- The port has still to read what older instructions and holes in a memory frame of the task will write, or to write what they will
(R199, R302). -/
def frameHolds (s : State) (c : NearCmd) : Bool :=
  let (sreg, dreg) := updateRegs c
  c.data.isNone && (framedUse s c.tid c.env.num sreg dreg || s.slots.any fun e => decide (e.tid = c.tid) &&
    e.vec.holes.any fun h => decide (h.env.num < c.env.num) && meet (h.dest.toList ++ if h.lpos.isEmpty then [] else [72]) sreg)

def queueOf (v : Vec) : VQueue → List VEntry
  | .vlq => v.vlq
  | .vxq => v.vxq
  | .vsq => v.vsq

def setQueue (v : Vec) (q : VQueue) (l : List VEntry) : Vec :=
  match q with
  | .vlq => { v with vlq := l }
  | .vxq => { v with vxq := l }
  | .vsq => { v with vsq := l }

/-- The unissued instructions of the other two queues. -/
def otherQueues (v : Vec) (q : VQueue) : List VEntry :=
  match q with
  | .vlq => v.vxq ++ v.vsq
  | .vxq => v.vlq ++ v.vsq
  | .vsq => v.vlq ++ v.vxq

/-- The slip allows the oldest instruction of a queue to issue (R178). -/
def slipOk (v : Vec) (q : VQueue) (e : VEntry) : Bool :=
  match (otherQueues v q).map fun o => o.env.seqn with
  | [] => true
  | x :: r => decide (e.env.seqn ≤ r.foldl min x + e.env.slip)

/-- Slip, scoreboard, and no vector memory fault under way (R178, R179, R199). -/
def mayIssue (s : State) (q : VQueue) (e : VEntry) : Bool :=
  let k := s.core
  let v := k.vec
  v.faults.isEmpty && slipOk v q e &&
    !((otherQueues v q).any fun o => decide (o.env.seqn < e.env.seqn) && regClash e o) &&
    !(v.loads.any fun l => meet (entryReads e ++ entryWrites e) l.dests) &&
    !meet (entryReads e ++ entryWrites e) (outsideWrites s k e.env.num) && !meet (entryWrites e) (outsideReads s k e.env.num)

/-! ## Elements -/

/-- Element `e` is active (R25), with the mask as it stands. -/
def isActive (v : Vec) (env : VEnv) (f : VForm) (e : Nat) : Bool := env.ps && bitAt (maskImg v f.m) e && decide (e < env.vl)

def activeElems (v : Vec) (env : VEnv) (f : VForm) : List Nat := (List.range env.vl).filter (isActive v env f)

/-- The recheck mode covers an instruction (R196). -/
def rechecked (r : Region) (n : Nat) : Bool :=
  match r.recheck with
  | 0 => true
  | 1 => decide (n % (r.sample + 1) = 0)
  | _ => false

/-- A scalar destination is written (R219). -/
def landS (r : SReg) (x : Word) (s : State) : State :=
  let t := setS s r x
  setSeq t (clearBusy r t.core.seq)

end Sys2Proof.Machine
end

