-- ==== Sys2Proof/Machine/FabOps.lean ====
section
/-! DEFINITION. Fabric operations in their queue: the bytes they touch, and when one may be performed (R10, R89, R123, R170, R308, R311). -/

namespace Sys2Proof.Machine

/-- What an operation reads and writes, physically. -/
def FabOp.reads (o : FabOp) : List (Nat × Nat) :=
  match o.instr with
  | .fput .. => o.locals
  | .fget .. => o.remote
  | _ => o.src

def FabOp.writes (o : FabOp) : List (Nat × Nat) :=
  match o.instr with
  | .fput .. | .fsig .. => o.remote
  | .fget .. => o.locals
  | _ => o.locals ++ o.pm ++ [(o.gpa + 24, 8)]

/-- The bytes of an operation, by address (R311). -/
def FabOp.cost (o : FabOp) : List (Nat × Nat) :=
  match o.instr with
  | .fsig .. => o.remote.map fun p => (p.1, 8)
  | _ => o.locals ++ o.remote

/-- The channel and the budget let an operation go (R123, R308); what a COLL sends is held for itself. -/
def FabOp.goes (o : FabOp) (s : State) : Bool :=
  if o.isColl then true
  else
    let vc := match o.instr with
      | .fsig .. => 2
      | _ => 0
    o.ports.all (fun p => chanOpen s p vc) && bytesOk s o.eff o.cost

/-- An operation of a core may be performed: order points, tags, and earlier operations to the same bytes (R10, R89, R170), its channel and
its budget. -/
def fabReady (s : State) (o : FabOp) : Bool :=
  let k := ctxCore s o.core o.tid
  !heldByPoint s k .f o.num && !tagHeld s k o.tag o.num &&
    !(s.fab.ops.any fun x => decide (x.core = o.core ∧ x.id < o.id) &&
      (overlaps x.writes (o.reads ++ o.writes) || overlaps x.reads o.writes)) && o.goes s

end Sys2Proof.Machine
end

