-- ==== Sys2Proof/Machine/Trans.lean ====
section
/-! DEFINITION. The transcendental functions of R209, correctly rounded: each is evaluated in fixed point with 256 fraction bits
and rounded once. The error of an evaluation is below 2^-240, far below the distance of any value of these formats from a
rounding boundary (DEDUCED: log entry 9). -/

namespace Sys2Proof.Machine

/-- Fraction bits of the fixed-point numbers below. -/
def fxP : Nat := 256

def fxOne : Int := 2 ^ fxP

/-- k terms of an exponential series: t + t·r/j + t·r²/(j(j+1)) + … -/
def expSeries (r : Int) : Nat → Nat → Int → Int
  | 0, _, _ => 0
  | n + 1, j, t => t + expSeries r n (j + 1) (t * r / fxOne / j)

/-- e^r for a fixed-point r with |r| below 1. -/
def fxExp (r : Int) : Int := expSeries r 80 1 fxOne

/-- Alternating trigonometric series in r²: t, then −t·r²/((j+1)(j+2)), … -/
def trigSeries (r2 : Int) : Nat → Nat → Int → Int
  | 0, _, _ => 0
  | n + 1, j, t => t + trigSeries r2 n (j + 2) (-(t * r2 / fxOne) / ((j + 1) * (j + 2)))

def fxSin (r : Int) : Int := trigSeries (r * r / fxOne) 60 1 r
def fxCos (r : Int) : Int := trigSeries (r * r / fxOne) 60 0 fxOne

/-- p/j + p·z²/(j+2) + … in units of `one`. -/
def oddSeries (one z2 : Int) : Nat → Nat → Int → Int
  | 0, _, _ => 0
  | n + 1, j, p => p / j + oddSeries one z2 n (j + 2) (p * z2 / one)

/-- The inverse hyperbolic tangent of z, |z| ≤ 1/3. -/
def fxAtanh (z : Int) : Int := oddSeries fxOne (z * z / fxOne) 100 1 z

/-- ln 2 = 2·atanh(1/3). -/
def fxLn2 : Int := 2 * fxAtanh (fxOne / 3)

/-- Fraction bits of π/2 for the reduction of an argument below 2^128. -/
def piP : Nat := fxP + 144

/-- arctan(1/n) with `piP` fraction bits. -/
def arctanInv (n : Int) : Int := oddSeries (n * n) (-1) 100 1 (2 ^ piP / n)

/-- π/2 by Machin's formula. -/
def halfPi : Int := 8 * arctanInv 5 - 2 * arctanInv 239

/-- The magnitude of a fixed-point value that is not the exact result: a little more than its truncation. -/
def fxMag (x : Int) : Mag := ⟨x.natAbs, -(fxP : Int), true⟩

/-- A magnitude just below m·2^e, as a function close to its argument from below gives it. -/
def justBelow (m : Nat) (e : Int) : Mag := ⟨m * 2 ^ 100 - 1, e - 100, true⟩

/-- m·2^e as a fixed-point number (e at least −256). -/
def fxOf (m : Nat) (e : Int) : Int :=
  if 0 ≤ e + fxP then m * 2 ^ (e + fxP).toNat else (m / 2 ^ (-(e + fxP)).toNat : Nat)

/-- Rounds a magnitude to nearest even. -/
def toF (t : ETy) (neg : Bool) (x : Mag) : Nat × Flags := roundMag t .rne 0 false neg x

/-- 2^a. -/
def exp2F (t : ETy) (v : FVal) : Nat × Flags :=
  match v with
  | .nan s => (cnan t, fIV.when s)
  | .inf n => (if n then 0 else infBits t false, 0)
  | .fin n m e =>
    if m = 0 then toF t false ⟨1, 0, false⟩
    else if 10 ≤ (Mag.mk m e false).lead then
      -- beyond ±1024: the result overflows or is below every value of the format
      toF t false (if n then ⟨1, -2000, false⟩ else ⟨1, 2000, false⟩)
    else if (Mag.mk m e false).lead < -60 then
      toF t false (if n then justBelow 1 0 else ⟨2 ^ 100, -100, true⟩)
    else
      let x : Int := if n then -(fxOf m e) else fxOf m e
      let i := x / fxOne
      let f := x % fxOne
      if f = 0 then toF t false ⟨1, i, false⟩
      else
        let r := fxExp (f * fxLn2 / fxOne)
        toF t false ⟨r.natAbs, i - fxP, true⟩

/-- log2 a. -/
def log2F (t : ETy) (v : FVal) : Nat × Flags :=
  match v with
  | .nan s => (cnan t, fIV.when s)
  | .inf n => if n then (cnan t, fIV) else (infBits t false, 0)
  | .fin n m e =>
    if m = 0 then (infBits t true, fDZ)
    else if n then (cnan t, fIV)
    else
      let k := m.log2
      let ex : Int := (k : Int) + e
      if m = 2 ^ k then
        if ex = 0 then (0, 0) else toF t (decide (ex < 0)) ⟨ex.natAbs, 0, false⟩
      else
        let f := fxOf m (-(k : Int))
        let ln := 2 * fxAtanh ((f - fxOne) * fxOne / (f + fxOne))
        let y := ex * fxOne + ln * fxOne / fxLn2
        toF t (decide (y < 0)) (fxMag y)

/-- The quadrant and the remainder of |x| = m·2^e against π/2. -/
def quadrant (m : Nat) (e : Int) : Int × Int :=
  let x := fxOf m e * 2 ^ 144
  let q := (2 * x + halfPi) / (2 * halfPi)
  (q % 4, (x - q * halfPi) / 2 ^ 144)

/-- sin a. -/
def sinF (t : ETy) (v : FVal) : Nat × Flags :=
  match v with
  | .nan s => (cnan t, fIV.when s)
  | .inf _ => (cnan t, fIV)
  | .fin n m e =>
    if m = 0 then (zeroBits t n, 0)
    else if (Mag.mk m e false).lead < -60 then toF t n (justBelow m e)
    else
      let (q, r) := quadrant m e
      let y := if q = 0 then fxSin r else if q = 1 then fxCos r else if q = 2 then -fxSin r else -fxCos r
      toF t (xor n (decide (y < 0))) (fxMag y)

/-- cos a. -/
def cosF (t : ETy) (v : FVal) : Nat × Flags :=
  match v with
  | .nan s => (cnan t, fIV.when s)
  | .inf _ => (cnan t, fIV)
  | .fin _ m e =>
    if m = 0 then toF t false ⟨1, 0, false⟩
    else if (Mag.mk m e false).lead < -60 then toF t false (justBelow 1 0)
    else
      let (q, r) := quadrant m e
      let y := if q = 0 then fxCos r else if q = 1 then -fxSin r else if q = 2 then -fxCos r else fxSin r
      toF t (decide (y < 0)) (fxMag y)

/-- tanh a = (E − 1)/(E + 1) with E = e^{2|a|} = 2^i · e^r. -/
def tanhF (t : ETy) (v : FVal) : Nat × Flags :=
  match v with
  | .nan s => (cnan t, fIV.when s)
  | .inf n => toF t n ⟨1, 0, false⟩
  | .fin n m e =>
    if m = 0 then (zeroBits t n, 0)
    else if (Mag.mk m e false).lead < -60 then toF t n (justBelow m e)
    else if 6 ≤ (Mag.mk m e false).lead then toF t n (justBelow 1 0)
    else
      let x := 2 * fxOf m e
      let i := x / fxLn2
      let ex := fxExp (x - i * fxLn2) * 2 ^ i.toNat
      toF t n (fxMag ((ex - fxOne) * fxOne / (ex + fxOne)))

end Sys2Proof.Machine
end

