-- ==== Sys2Proof/Machine/VElem.lean ====
section
/-! DEFINITION. What one element of a vector instruction computes (R207 to R218, R231, R232): a value and its flags from the values
of its operands; and when a lane leaves it to a mitt (R184, R66). -/

namespace Sys2Proof.Machine

abbrev ER := Nat × Flags

/-! ## Integers (R207, R216) -/

def popN' (x : Nat) : Nat → Nat
  | 0 => 0
  | n + 1 => x % 2 + popN' (x / 2) n

/-- Leading zeros of a `w`-bit value. -/
def clzW (w x : Nat) : Nat := if x % 2 ^ w = 0 then w else w - 1 - (x % 2 ^ w).log2

/-- The high half of an exact product. -/
def mulHi (t : ETy) (a b : Nat) : Nat := ofInt t.width (toInt t a * toInt t b / (2 ^ t.width : Nat))

def minI (t : ETy) (a b : Nat) : Nat := if toInt t a ≤ toInt t b then a else b
def maxI (t : ETy) (a b : Nat) : Nat := if toInt t a ≤ toInt t b then b else a

/-- An arithmetic shift right of a `w`-bit value. -/
def sraW (w a n : Nat) : Nat :=
  let x : Int := sgn' w a
  ofInt w (x / (2 ^ min n w : Nat))
where
  sgn' (w a : Nat) : Int := if bitAt a (w - 1) then (a % 2 ^ w : Nat) - (2 ^ w : Nat) else (a % 2 ^ w : Nat)

def shlW (w a n : Nat) : Nat := if w ≤ n then 0 else a * 2 ^ n % 2 ^ w
def shrW (w a n : Nat) : Nat := if w ≤ n then 0 else a % 2 ^ w / 2 ^ n

/-! ## Floating point (R208 to R212) -/

/-- a + b, rounded once. -/
def addF (t : ETy) (rm : Rm) (rho : Nat) (a b : FVal) : ER :=
  match a, b with
  | .nan s, .nan u => (cnan t, fIV.when (s || u))
  | .nan s, _ => (cnan t, fIV.when s)
  | _, .nan s => (cnan t, fIV.when s)
  | .inf n, .inf k => if n = k then (infBits t n, 0) else (cnan t, fIV)
  | .inf n, _ => (infBits t n, 0)
  | _, .inf n => (infBits t n, 0)
  | .fin n m e, .fin k p g =>
    let (s, x, ex) := addFin n m e k p g
    roundVal t rm rho false (if m = 0 ∧ p = 0 ∧ n = k then some n else none) s ⟨x, ex, false⟩

/-- a × b, rounded once. -/
def mulF (t : ETy) (rm : Rm) (rho : Nat) (a b : FVal) : ER :=
  match a, b with
  | .nan s, .nan u => (cnan t, fIV.when (s || u))
  | .nan s, _ => (cnan t, fIV.when s)
  | _, .nan s => (cnan t, fIV.when s)
  | .inf n, .inf k => (infBits t (xor n k), 0)
  | .inf n, .fin k m _ | .fin k m _, .inf n => if m = 0 then (cnan t, fIV) else (infBits t (xor n k), 0)
  | .fin n m e, .fin k p g => roundVal t rm rho false (some (xor n k)) (xor n k) ⟨m * p, e + g, false⟩

/-- ±(d ± a × b), rounded once: `np` negates the product, `no` the sum. A 0 × ∞ is invalid whatever the addend. -/
def fmaF (t : ETy) (rm : Rm) (rho : Nat) (np no : Bool) (a b d : FVal) : ER :=
  let fl := fun (v : FVal) (c : Bool) => if c then v.neg else v
  match mulTerm a b with
  | .nan s => (cnan t, fIV.when (s || d.isSNan))
  | p => addF t rm rho (fl d no) (fl p (xor np no))

/-- a ÷ b, rounded once. -/
def divF (t : ETy) (rm : Rm) (rho : Nat) (a b : FVal) : ER :=
  match a, b with
  | .nan s, .nan u => (cnan t, fIV.when (s || u))
  | .nan s, _ => (cnan t, fIV.when s)
  | _, .nan s => (cnan t, fIV.when s)
  | .inf _, .inf _ => (cnan t, fIV)
  | .inf n, .fin k _ _ => (infBits t (xor n k), 0)
  | .fin n _ _, .inf k => (zeroBits t (xor n k), 0)
  | .fin n m e, .fin k p g =>
    if p = 0 then (if m = 0 then (cnan t, fIV) else (infBits t (xor n k), fDZ))
    else if m = 0 then (zeroBits t (xor n k), 0)
    else roundVal t rm rho false (some (xor n k)) (xor n k) (divMag m e p g)

def one : FVal := .fin false 1 0

def sqrtF (t : ETy) (rm : Rm) (rho : Nat) (a : FVal) : ER :=
  match a with
  | .nan s => (cnan t, fIV.when s)
  | .inf n => if n then (cnan t, fIV) else (infBits t false, 0)
  | .fin n m e =>
    if m = 0 then (zeroBits t n, 0)
    else if n then (cnan t, fIV)
    else roundVal t rm rho false (some false) false (sqrtMag m e)

def rsqF (t : ETy) (a : FVal) : ER :=
  match a with
  | .nan s => (cnan t, fIV.when s)
  | .inf n => if n then (cnan t, fIV) else (0, 0)
  | .fin n m e =>
    if m = 0 then (infBits t n, fDZ)
    else if n then (cnan t, fIV)
    else roundVal t .rne 0 false (some false) false (rsqrtMag m e)

/-- R210: the smaller (or with `big` the larger) of a set of operands given by their patterns. -/
def minMaxF (t : ETy) (big : Bool) (xs : List Nat) : ER :=
  let vs := xs.map fun x => (x, decodeF t x)
  let iv := fIV.when (vs.any fun p => p.2.isSNan)
  match vs.filter fun p => !p.2.isNan with
  | [] => (cnan t, iv)
  | p :: r =>
    ((r.foldl (fun acc q =>
      if (if big then decide (orderKey acc.2 < orderKey q.2) else decide (orderKey q.2 < orderKey acc.2)) then q else acc) p).1, iv)

/-- VFCLASS: one bit set (R211). -/
def classF (t : ETy) (x : Nat) : Nat :=
  match decodeF t x with
  | .nan s => if s then 2 ^ 8 else 2 ^ 9
  | .inf n => if n then 2 ^ 0 else 2 ^ 7
  | .fin n m _ =>
    if m = 0 then (if n then 2 ^ 3 else 2 ^ 4)
    else if m < 2 ^ (fmtOf t).fb then (if n then 2 ^ 2 else 2 ^ 5)
    else if n then 2 ^ 1 else 2 ^ 6

/-! ## Conversions (R213 to R215) -/

def isFloat (t : ETy) : Bool := !t.isInt && t.isPlain

/-- Any conversion of R213: flags and saturation by R67 and R68. -/
def convert (td ts : ETy) (rm : Rm) (rho : Nat) (e5sat : Bool) (x : Nat) : ER :=
  if isFloat ts then
    if isFloat td then cvtFF td rm rho e5sat (decodeF ts x) else cvtFI td rm rho (decodeF ts x)
  else if isFloat td then cvtIF td rm rho e5sat (toInt ts x)
  else satInt td (toInt ts x)

/-- VDEQ (R215). -/
def deqF (t : ETy) (code word : Nat) : ER :=
  match qParams t word with
  | none => (cnan .f32, fIV)
  | some p => (roundVal .f32 .rne 0 false (some false) (match qValue (some p) code with
      | .fin n _ _ => n
      | _ => false) (match qValue (some p) code with
      | .fin _ m e => ⟨m, e, false⟩
      | _ => ⟨0, 0, false⟩))

/-! ## Easy ranges (R184) -/

def isSub (t : ETy) : FVal → Bool
  | .fin _ m _ => decide (m ≠ 0) && decide (m < 2 ^ (fmtOf t).fb)
  | _ => false

def isZero : FVal → Bool
  | .fin _ m _ => decide (m = 0)
  | _ => false

/-- A nonzero result that is subnormal or underflows. -/
def lowRes (t : ETy) (r : ER) : Bool := decide (r.2 &&& fUF ≠ 0) || isSub t (decodeF t r.1)

/-- The exponent of the leading bit of a nonzero finite value. -/
def leadOf : FVal → Option Int
  | .fin _ m e => if m = 0 then none else some ((m.log2 : Int) + e)
  | _ => none

/-- An effective subtraction whose nonzero result has its leading bit more than 8 places below the larger operand's. -/
def cancels (a b : FVal) : Bool :=
  match a, b with
  | .fin n m e, .fin k p g =>
    let (_, x, ex) := addFin n m e k p g
    match leadOf a, leadOf b with
    | some la, some lb => decide (n ≠ k) && decide (x ≠ 0) && decide ((x.log2 : Int) + ex + 8 < max la lb)
    | _, _ => false
  | _, _ => false

/-- A finite nonzero product below the smallest normal of `t`. -/
def tinyProduct (t : ETy) (p : FVal) : Bool :=
  match leadOf p with
  | some l => decide (l < 1 - ((fmtOf t).bias : Int))
  | none => false

def negFinite : FVal → Bool
  | .fin n m _ => n && decide (m ≠ 0)
  | _ => false

/-- |x| is finite and below 2^k. -/
def magBelow (v : FVal) (k : Int) : Bool :=
  match v with
  | .fin _ m e => decide (m = 0) || decide ((m.log2 : Int) + e < k)
  | _ => false

/-- VFEXP2's easy range: [lo, hi) with hi = 2^k. -/
def expOut (v : FVal) (lo : Int) (k : Int) : Bool :=
  match v with
  | .fin n m e =>
    if n then decide (realKey (FVal.fin false (-lo).toNat 0) < realKey (FVal.fin false m e)) else !magBelow v k && decide (m ≠ 0)
  | _ => false

/-- Outside the easy range, by operation: `xs` are the operand patterns, `r` the result. -/
def outOfRange (i : Instr) (xs : List Nat) (r : ER) : Bool :=
  let x := fun (t : ETy) (k : Nat) => decodeF t (xs.getD k 0)
  match i with
  | .vfadd _ _ _ _ _ _ t => isSub t (x t 0) || isSub t (x t 1) || lowRes t r || cancels (x t 0) (x t 1)
  | .vfsub _ _ _ _ _ _ t => isSub t (x t 0) || isSub t (x t 1) || lowRes t r || cancels (x t 0) (x t 1).neg
  | .vfmul _ _ _ _ _ _ t => isSub t (x t 0) || isSub t (x t 1) || lowRes t r
  | .vfma _ _ _ _ _ _ t | .vfnma _ _ _ _ _ _ t =>
    let p := mulTerm (x t 0) (x t 1)
    isSub t (x t 0) || isSub t (x t 1) || isSub t (x t 2) || tinyProduct t p || lowRes t r || cancels (x t 2) p
  | .vfms _ _ _ _ _ _ t =>
    let p := mulTerm (x t 0) (x t 1)
    isSub t (x t 0) || isSub t (x t 1) || isSub t (x t 2) || tinyProduct t p || lowRes t r || cancels (x t 2) p.neg
  | .vfdiv _ _ _ _ _ _ t => isZero (x t 1) || isSub t (x t 1) || isSub t (x t 0) || decide (r.2 &&& fOF ≠ 0) || lowRes t r
  | .vfrcp _ _ _ _ _ t => isZero (x t 0) || isSub t (x t 0) || decide (r.2 &&& fOF ≠ 0) || lowRes t r
  | .vfsqrt _ _ _ _ _ t => isSub t (x t 0) || negFinite (x t 0)
  | .vfrsq _ _ _ _ t => isZero (x t 0) || isSub t (x t 0) || negFinite (x t 0)
  | .vfexp2 _ _ _ _ t => if t = .f16 then expOut (x t 0) (-14) 4 else expOut (x t 0) (-126) 7
  | .vflog2 _ _ _ _ t => isZero (x t 0) || (x t 0).signBit || isSub t (x t 0) || (x t 0).isInf
  | .vfsin _ _ _ _ t | .vfcos _ _ _ _ t => (x t 0).isInf || (!(x t 0).isNan && !magBelow (x t 0) 10)
  | .vftanh _ _ _ _ t =>
    let v := x t 0
    let (lo, hi) : Int × Int := match t with
      | .f16 => (-6, 3)
      | .bf16 => (-4, 3)
      | _ => (-12, 4)
    !v.isNan && !v.isInf && (magBelow v lo || !magBelow v hi)
  | .vcvt _ _ _ td _ _ ts | .vnarrow _ _ _ td _ _ ts => isFloat ts && isFloat td && isSub td (decodeF td r.1)
  | _ => false

/-- The elementwise floating instructions whose enabled exceptions trap (R66). -/
def traps : Instr → Bool
  | .vfadd .. | .vfsub .. | .vfmul .. | .vfma .. | .vfms .. | .vfnma .. | .vfdiv .. | .vfrcp .. | .vfsqrt .. | .vfrsq .. | .vfexp2 ..
  | .vflog2 .. | .vfsin .. | .vfcos .. | .vftanh .. | .vfmin .. | .vfmax .. | .vdeq .. => true
  | .vcvt _ _ _ td _ _ ts | .vnarrow _ _ _ td _ _ ts | .vwiden _ _ td _ _ ts => isFloat td || isFloat ts
  | _ => false

/-! ## Reductions (R231) -/

/-- The combine of integers. -/
def combI (op : RedOp) (t : ETy) (xs : List Nat) : Nat :=
  match op, xs with
  | _, [] => 0
  | .add, _ => xs.foldl (fun a b => (a + b) % 2 ^ t.width) 0
  | .min, x :: r => r.foldl (minI t) x
  | .max, x :: r => r.foldl (maxI t) x
  | .and, x :: r => r.foldl Nat.land x
  | .or, x :: r => r.foldl Nat.lor x
  | .xor, x :: r => r.foldl Nat.xor x

/-- The combine of FP32 values. -/
def combF (op : RedOp) (xs : List Nat) : ER :=
  match op with
  | .min => minMaxF .f32 false xs
  | .max => minMaxF .f32 true xs
  | _ => windowSum (xs.map (decodeF .f32))

/-! ## One element -/

/-- What element `e` of an instruction computes from its operands' values, in the order its captured operands stand: for an
elementwise form source a, source b, and the destination's old element; for a reduction its set; for a form that moves elements the
one value moved. -/
def vCompute (i : Instr) (env : VEnv) (e : Nat) (xs : List Nat) : ER :=
  let a := xs.getD 0 0
  let b := xs.getD 1 0
  let d := xs.getD 2 0
  let rho := rhoOf env.vseed env.vbase e
  let e5 := bitAt env.vtype 7
  let w := fun (t : ETy) (v : Nat) => ((v % 2 ^ t.width, 0) : ER)
  let z := fun (t : ETy) (v : Int) => ((ofInt t.width v, 0) : ER)
  let f := fun (t : ETy) (x : Nat) => decodeF t x
  match i with
  | .vadd _ _ _ _ _ t => w t (a + b)
  | .vsub _ _ _ _ _ t => z t ((a : Int) - b)
  | .vmul _ _ _ _ _ t => w t (a * b)
  | .vmulh _ _ _ _ _ t | .vmulhz _ _ _ _ _ t => (mulHi t a b, 0)
  | .vmadd _ _ _ _ _ t => w t (d + a * b)
  | .vmin _ _ _ _ _ t | .vminz _ _ _ _ _ t => (minI t a b, 0)
  | .vmax _ _ _ _ _ t | .vmaxz _ _ _ _ _ t => (maxI t a b, 0)
  | .vabs _ _ _ _ t => z t (toInt t a).natAbs
  | .vadds _ _ _ _ _ t => satInt t (toInt t a + toInt t b)
  | .vsubs _ _ _ _ _ t => satInt t (toInt t a - toInt t b)
  | .vpopc _ _ _ _ t => (popN' a t.width, 0)
  | .vclz _ _ _ _ t => (clzW t.width a, 0)
  | .vfadd rm _ _ _ _ _ t => addF t rm rho (f t a) (f t b)
  | .vfsub rm _ _ _ _ _ t => addF t rm rho (f t a) (f t b).neg
  | .vfmul rm _ _ _ _ _ t => mulF t rm rho (f t a) (f t b)
  | .vfma rm _ _ _ _ _ t => fmaF t rm rho false false (f t a) (f t b) (f t d)
  | .vfms rm _ _ _ _ _ t => fmaF t rm rho true false (f t a) (f t b) (f t d)
  | .vfnma rm _ _ _ _ _ t => fmaF t rm rho false true (f t a) (f t b) (f t d)
  | .vfdiv rm _ _ _ _ _ t => divF t rm rho (f t a) (f t b)
  | .vfrcp rm _ _ _ _ t => divF t rm rho one (f t a)
  | .vfsqrt rm _ _ _ _ t => sqrtF t rm rho (f t a)
  | .vfrsq _ _ _ _ t => rsqF t (f t a)
  | .vfexp2 _ _ _ _ t => exp2F t (f t a)
  | .vflog2 _ _ _ _ t => log2F t (f t a)
  | .vfsin _ _ _ _ t => sinF t (f t a)
  | .vfcos _ _ _ _ t => cosF t (f t a)
  | .vftanh _ _ _ _ t => tanhF t (f t a)
  | .vfmin _ _ _ _ _ t => minMaxF t false [a, b]
  | .vfmax _ _ _ _ _ t => minMaxF t true [a, b]
  | .vfabs _ _ _ _ t => (a % 2 ^ (t.width - 1), 0)
  | .vfneg _ _ _ _ t => (Nat.xor a (2 ^ (t.width - 1)), 0)
  | .vfclass _ _ _ _ t => (classF t a, 0)
  | .vscacc .. =>
    let p := toInt .s32 a
    windowSum [f .f32 d, mulTerm (mulTerm (.fin (decide (p < 0)) p.natAbs 0) (f .f32 b)) (f .f32 (xs.getD 3 0))]
  | .vcvt rm _ _ td _ _ ts | .vnarrow rm _ _ td _ _ ts => convert td ts rm rho e5 a
  | .vwiden _ _ td _ _ ts => convert td ts .rne rho e5 a
  | .vdeq _ _ _ _ _ t => deqF t a b
  | .vand .. => (Nat.land a b, 0)
  | .vor .. => (Nat.lor a b, 0)
  | .vxor .. => (Nat.xor a b, 0)
  | .vandn _ _ _ _ _ t => (Nat.land a (2 ^ t.width - 1 - b), 0)
  | .vshl _ _ _ _ _ t => (shlW t.width a b, 0)
  | .vshr _ _ _ _ _ t => (shrW t.width a b, 0)
  | .vsra _ _ _ _ _ t => (sraW t.width a b, 0)
  | .vrndb _ _ _ t => ((mix64 env.vseed (absIndex env e)).toNat / 2 ^ (64 - t.width), 0)
  | .vred op _ _ _ _ _ t | .vscan op _ _ _ _ _ t => (combI op t xs, 0)
  | .vfred op .. | .vfscan op .. => combF op xs
  | .vthr _ _ _ _ _ t =>
    -- the drop: |a| < |b|, false with a NaN; a signalling one raises IV (R57)
    let drop := !(f t a).isNan && !(f t b).isNan &&
      decide (realKey (decodeF t (a % 2 ^ (t.width - 1))) < realKey (decodeF t (b % 2 ^ (t.width - 1))))
    (if drop then 0 else a, fIV.when ((f t a).isSNan || (f t b).isSNan))
  | _ => (a, 0)

/-- A lane leaves the element to a mitt: outside the easy range, or an enabled exception (R184, R66). -/
def vHard (i : Instr) (env : VEnv) (xs : List Nat) (r : ER) : Bool :=
  outOfRange i xs r || (traps i && decide (enabledOf env.vtype r.2 ≠ 0))

/-- A condition of VCMP and VFCMP: the bit and its flags (R220). -/
def cmpElem (fp : Bool) (cc : CmpCc) (t : ETy) (a b : Nat) : Bool × Flags :=
  if fp then
    let x := decodeF t a
    let y := decodeF t b
    let nan := x.isNan || y.isNan
    let snan := x.isSNan || y.isSNan
    match cc with
    | .eq => (!nan && decide (realKey x = realKey y), 0)
    | .ne => (nan || decide (realKey x ≠ realKey y), 0)
    | .un => (nan, fIV.when snan)
    | .ord => (!nan, fIV.when snan)
    | .lt => (!nan && decide (realKey x < realKey y), fIV.when nan)
    | .le => (!nan && decide (realKey x ≤ realKey y), fIV.when nan)
    | .gt => (!nan && decide (realKey y < realKey x), fIV.when nan)
    | .ge => (!nan && decide (realKey y ≤ realKey x), fIV.when nan)
  else
    let x := toInt t a
    let y := toInt t b
    (match cc with
      | .eq => decide (x = y)
      | .ne => decide (x ≠ y)
      | .lt => decide (x < y)
      | .le => decide (x ≤ y)
      | .gt => decide (y < x)
      | .ge => decide (y ≤ x)
      | _ => false, 0)

end Sys2Proof.Machine
end

