-- ==== Sys2Proof/Machine/Lanes.lean ====
section
/-! DEFINITION. The lanes of the vector engine: what each VXQ instruction reads and computes element by element, the holes it leaves, and
its issue with recheck and replay (R177 to R192, R196, R197, R204 to R232, R241 to R243). -/

namespace Sys2Proof.Machine

/-- A way to read element `e`, `w` bits wide, of a register slot. -/
abbrev Reader := Nat → Nat → Nat → HOp

/-- Operands as they stand, with the parts that holes will supply. -/
def holeReader (v : Vec) : Reader := readElem v

/-- Operands whose parts are the poisoned ones (R325). -/
def psnReader (k : Core) : Reader := fun slot w e =>
  let o := readElem k.vec slot w e
  ⟨o.val, if o.ready && lanePsn k slot w e then [⟨0, 0, 0, w⟩] else []⟩

def readBy (rd : Reader) (rot : Nat) (p : VSrc × Nat) (e : Nat) : HOp := rd (srcSlot rot p.1) p.2 (repIndex p.1.rep p.2 e)

/-! ## Operands by form -/

/-- An elementwise form: its sources at element `e`, and the destination's old element where it is the addend. -/
def elemOps (rd : Reader) (env : VEnv) (i : Instr) (f : VForm) (e : Nat) : List HOp :=
  let src := f.srcs.map fun p => readBy rd env.rot p e
  match i with
  | .vdeq _ _ b _ _ _ => src.take 1 ++ [readBy rd env.rot (b, 32) (e / (32 * 2 ^ bits env.vtype 5 2))]
  | _ =>
    if f.addend then src.take 2 ++ ((slotsOf env.rot f.dest).map fun d => rd d f.wd e) ++ src.drop 2 else src

/-- Element `i` of a source read across lanes (R241): the fill pattern outside 0 to VL − 1. -/
def peek (rd : Reader) (env : VEnv) (p : VSrc × Nat) (i : Int) : HOp :=
  if 0 ≤ i ∧ i < env.vl then readBy rd env.rot p i.toNat else ⟨env.vfill.toNat % 2 ^ p.2, []⟩

/-- The string A · 2^N + B of a funnel (R217). -/
def funnel (rd : Reader) (env : VEnv) (w : Nat) (a b : Option VSrc) (lo : Nat) : HOp :=
  let get := fun (x : Option VSrc) (e : Nat) => match x with
    | some s => readBy rd env.rot (s, w) e
    | none => ⟨0, []⟩
  stringBits (fun e => if e < env.vl then get b e else if e < 2 * env.vl then get a (e - env.vl) else ⟨0, []⟩) w lo

/-- The first element of the segment `e` lies in. -/
def segStart (starts : List Nat) (e : Nat) : Nat := (starts.filter fun s => decide (s ≤ e)).foldl max 0

/-- The sets of a reduction or scan (R231): the elements written, with the operands of each. -/
def redWork (rd : Reader) (v : Vec) (env : VEnv) (f : VForm) (a : VSrc) (b : RedSrc) (scan : Bool) : List (Nat × List HOp) :=
  if !env.ps ∨ env.vl = 0 then []
  else
    let starts := match b with
      | .init _ => [0]
      | .seg m => (List.range env.vl).filter fun e => decide (e = 0) || bitAt (maskImg v m) e
    let init := match b with
      | .init x => [readBy rd env.rot (x, f.wd) 0]
      | .seg _ => []
    let act := activeElems v env f
    let set := fun (s z : Nat) => init ++ ((act.filter fun i => decide (s ≤ i) && decide (i ≤ z)).map fun i => readBy rd env.rot (a, f.wd) i)
    if scan then act.map fun e => (e, set (segStart starts e) e)
    else
      let ends := fun (s : Nat) => ((starts.filter fun t => decide (s < t)).foldl min env.vl) - 1
      (starts.map fun s => (s, set s (ends s))).filter fun p => !p.2.isEmpty

/-- The elements an instruction writes, each with its operands (R204, R217, R221, R231, R241). -/
def vWork (rd : Reader) (v : Vec) (env : VEnv) (i : Instr) : List (Nat × List HOp) :=
  let f := formOf i
  let act := activeElems v env f
  let all := List.range env.vl
  let n := env.vl * f.wd
  let move := fun (p : VSrc × Nat) (at_ : Nat → Int) => act.map fun e => (e, [peek rd env p (at_ e)])
  match i with
  | .vshlw _ a _ t => all.map fun e => (e, [funnel rd env t.width (some a) none (n + e * t.width - min env.x.toNat n)])
  | .vfunl _ a b _ t => all.map fun e => (e, [funnel rd env t.width (some a) (some b) (n + e * t.width - min env.x.toNat n)])
  | .vshrw _ a _ t => all.map fun e => (e, [funnel rd env t.width none (some a) (e * t.width + min env.x.toNat n)])
  | .vfunr _ a b _ t => all.map fun e => (e, [funnel rd env t.width (some a) (some b) (e * t.width + min env.x.toNat n)])
  | .vsel _ a b m _ t => act.map fun e => (e, [readBy rd env.rot (if bitAt (maskImg v m) e then b else a, t.width) e])
  | .vred _ _ a b _ _ _ | .vfred _ _ a b _ _ _ => redWork rd v env f a b false
  | .vscan _ _ a b _ _ _ | .vfscan _ _ a b _ _ _ => redWork rd v env f a b true
  | .vsplat _ _ _ _ t => act.map fun e => (e, [⟨env.x.toNat % 2 ^ t.width, []⟩])
  | .vslideu _ a _ _ _ t => move (a, t.width) fun e => (e : Int) - env.x.toNat
  | .vslided _ a _ _ _ t => move (a, t.width) fun e => (e : Int) + env.x.toNat
  | .vperm _ a b _ _ t => move (a, t.width) fun e => (readSrc v env.rot b t.width e).val
  | .vxchg _ a j _ _ t => move (a, t.width) fun e => Nat.xor e (2 ^ j.toNat)
  | .vexp _ a _ _ t => move (a, t.width) fun e => (act.filter fun k => decide (k < e)).length
  | _ => act.map fun e => (e, elemOps rd env i f e)

/-- The elements that an instruction waits for (R191). -/
def vWaits (rd : Reader) (v : Vec) (env : VEnv) (i : Instr) : List HOp :=
  let f := formOf i
  let act := activeElems v env f
  match i with
  | .vcmp .. | .vfcmp .. | .vthr .. | .vcomp .. => act.flatMap fun e => f.srcs.map fun p => readBy rd env.rot p e
  | .vmvs _ a t => [readBy rd env.rot (a, t.width) 0]
  | .vfib _ _ a _ _ t => (List.range env.vl).map fun e => readBy rd env.rot (a, t.width) e
  | .vperm _ _ b _ _ t => act.map fun e => readBy rd env.rot (b, t.width) e
  | .vgath .. | .vscat .. | .vscadd .. | .vtld .. | .vtst .. =>
    act.map fun e => ((f.srcs.head?).map fun p => readBy rd env.rot p e).getD ⟨0, []⟩
  | _ => []

/-- Whether an instruction goes through the lanes element by element. -/
def laned : Instr → Bool
  | .vcmp .. | .vfcmp .. | .vpres .. | .mand .. | .mor .. | .mxor .. | .mnot .. | .mclr .. | .mcnt .. | .mfirst .. | .vthr .. | .vmvs ..
  | .vcomp .. | .vfib .. => false
  | _ => true

/-- Whether an instruction reads a poisoned element (R326). -/
def readsPoison (k : Core) (env : VEnv) (i : Instr) : Bool :=
  !k.psnV.isEmpty && ((vWaits (psnReader k) k.vec env i).any (fun o => !o.ready) ||
    (laned i && decide ((formOf i).queue = .vxq) && (vWork (psnReader k) k.vec env i).any fun p => p.2.any fun o => !o.ready))

/-- An instruction reads a mask with a word whose parity is wrong (R324). -/
def readsParity (k : Core) (i : Instr) : Bool :=
  let f := formOf i
  k.par.any fun p => (f.m :: f.mr).any fun m => decide (m ≠ 0) && decide (p.1 = m.toNat)

/-- The registers as the recheck copies restore them: errors that do not last are gone (R197). -/
def restoreCopies (k : Core) : Core :=
  { k with psnV := k.psnV.filter (fun p => !k.psnT.contains p), psnT := [], par := k.par.filter fun p => p.2.2 }

/-- The bits of a mask that an instruction writes, from registers `v`. -/
def maskWritten (v : Vec) (env : VEnv) (i : Instr) : Option (MReg × (Nat → Bool)) :=
  match i with
  | .mand d _ _ | .mor d _ _ | .mxor d _ _ | .mnot d _ | .mclr d => some (d, fun _ => true)
  | .vfib _ _ _ _ d _ => some (d, fun _ => true)
  | .vcmp _ d _ _ _ _ _ | .vfcmp _ d _ _ _ _ _ | .vpres d _ _ _ _ => some (d, isActive v env (formOf i))
  | _ => none

/-- The parity of the mask words that an instruction writes whole is good again. -/
def cleanMask (v : Vec) (e : VEntry) (s : State) : State :=
  match maskWritten v e.env e.instr with
  | some (d, p) => { s with core := clearMask d p s.core }
  | none => s

/-! ## Lanes -/

/-- The entries of the hole queue in use (R192). -/
def holeCount (v : Vec) : Nat := (v.holes.filter fun h => !h.gone).length

/-- The hole an element leaves (R186). -/
def mkHole (v : Vec) (e : VEntry) (el : Nat) (ops : List HOp) : Hole :=
  let f := formOf e.instr
  { id := v.holeId, env := e.env, instr := e.instr, elem := el, ops := ops, dest := (slotsOf e.env.rot f.dest).head?, w := f.wd,
    live := true, lpos := [0] }

/-- A result with its flags and `msat` bit (R65, R67). -/
def landElem (v : Vec) (env : VEnv) (dest : Option Nat) (w el : Nat) (r : ER) : Vec :=
  let v1 := mergeFlags r.2 (some (absIndex env el)) (putResult v dest w el r.1)
  if r.2 &&& fSAT ≠ 0 then setMsat v1 el else v1

/-- The lanes work through elements in ascending order; what is left waits for an entry of the hole queue or for parents (R186,
R192). -/
def laneLoop (e : VEntry) : List (Nat × List HOp) → Vec → Vec × List (Nat × List HOp)
  | [], v => (v, [])
  | (el, ops) :: r, v =>
    let xs := ops.map HOp.val
    let res := vCompute e.instr e.env el xs
    if ops.all HOp.ready && !vHard e.instr e.env xs res then
      let f := formOf e.instr
      laneLoop e r (landElem v e.env (slotsOf e.env.rot f.dest).head? f.wd el res)
    else if 3 < (parents ops).length ∨ 128 ≤ holeCount v then (v, (el, ops) :: r)
    else
      let v1 := putHole v (mkHole v e el ops)
      laneLoop e r { v1 with holeId := v1.holeId + 1 }

/-! ## Instructions that hold no holes -/

/-- Bits of a mask replaced by `g` where `p` holds, and kept elsewhere. -/
def mixMask (old : Nat) (p g : Nat → Bool) : Nat := bitMap (fun k => if p k then g k else bitAt old k) 1024

/-- Elements 0 to n − 1 of the destination and of `l0`. -/
def putAll (v : Vec) (env : VEnv) (dest : Option Nat) (w : Nat) (xs : List (Nat × ER)) : Vec :=
  xs.foldl (fun u p => landElem u env dest w p.1 p.2) v

/-- The drop statistics of VTHR (R232). DESIGN CHOICE (log entry 65): a flag of the sum with no element dropped is merged without an
index. -/
def dropStats (env : VEnv) (t : ETy) (ds : List (Nat × Nat)) (v : Vec) : Vec :=
  let (x, fl) := windowSum (decodeF .f32 v.vdrop.toNat :: ds.map fun p => decodeF t (p.2 % 2 ^ (t.width - 1)))
  let v1 := { v with vdrop := BitVec.ofNat 32 x, vdropn := v.vdropn + BitVec.ofNat 64 ds.length }
  mergeFlags fl (ds.head?.map fun p => absIndex env p.1) v1

/-- VFIB's loop: the sum, the rows and the marks. -/
def fibLoop (cap : Nat) : List Nat → Nat → Nat → Nat → Nat × Nat × Nat
  | [], sum, k, m => (sum, k, m)
  | l :: r, sum, k, m =>
    if sum + l ≤ cap then fibLoop cap r (sum + l) (k + 1) (if 0 < l then Nat.lor m (2 ^ sum) else m) else (sum, k, m)

/-- VCOMP's destination (R242). -/
def compWork (v : Vec) (env : VEnv) (f : VForm) (a : VSrc) : List (Nat × ER) × Nat :=
  let act := activeElems v env f
  let xs := act.map fun e => (readSrc v env.rot a f.wd e).val
  ((List.range env.vl).map fun e => (e, ((xs[e]?).getD (env.vfill.toNat % 2 ^ f.wd), (0 : Flags))), act.length)

/-- The effect of an instruction that is not laned, on the current core. -/
def runWhole (e : VEntry) (s : State) : State :=
  let v := s.core.vec
  let env := e.env
  let f := formOf e.instr
  let act := isActive v env f
  let put := fun (d : MReg) (x : Nat) => setVec s (setMask v d x)
  let n := env.vl
  match e.instr with
  | .vcmp cc d a b _ _ t | .vfcmp cc d a b _ _ t =>
    let fp := match e.instr with
      | .vfcmp .. => true
      | _ => false
    let at_ := fun k => cmpElem fp cc t (readSrc v env.rot a t.width k).val (readSrc v env.rot b t.width k).val
    let v1 := (activeElems v env f).foldl (fun u k => mergeFlags (at_ k).2 (some (absIndex env k)) u) v
    setVec s (setMask v1 d (mixMask (maskImg v d) act fun k => (at_ k).1))
  | .vpres d a _ _ t =>
    put d (mixMask (maskImg v d) act fun k => present v (srcSlot env.rot a) t.width (repIndex a.rep t.width k))
  | .mand d a b => put d (Nat.land (maskImg v a) (maskImg v b))
  | .mor d a b => put d (Nat.lor (maskImg v a) (maskImg v b))
  | .mxor d a b => put d (Nat.xor (maskImg v a) (maskImg v b))
  | .mnot d a => put d (2 ^ 1024 - 1 - maskImg v a)
  | .mclr d => put d 0
  | .mcnt d a => landS d (BitVec.ofNat 64 (popcount (maskImg v a) n)) s
  | .mfirst d a => landS d (match (List.range n).find? fun k => bitAt (maskImg v a) k with
      | some k => BitVec.ofNat 64 k
      | none => BitVec.allOnes 64) s
  | .vthr _ a b _ _ t =>
    let xs := (activeElems v env f).map fun k =>
      let x := (readSrc v env.rot a t.width k).val
      (k, x, vCompute e.instr env k [x, (readSrc v env.rot b t.width k).val])
    let dropped := fun (p : Nat × Nat × ER) =>
      let y := (readSrc v env.rot b t.width p.1).val
      !(decodeF t p.2.1).isNan && !(decodeF t y).isNan &&
        decide (realKey (decodeF t (p.2.1 % 2 ^ (t.width - 1))) < realKey (decodeF t (y % 2 ^ (t.width - 1))))
    let v1 := dropStats env t ((xs.filter dropped).map fun p => (p.1, p.2.1)) v
    setVec s (putAll (shiftL v1) env (slotsOf env.rot f.dest).head? f.wd (xs.map fun p => (p.1, p.2.2)))
  | .vmvs d a t =>
    let x := (readSrc v env.rot a t.width 0).val
    landS d (if t.isS then sext64 t.width x else BitVec.ofNat 64 x) s
  | .vcomp _ a d _ _ _ =>
    if !env.ps then landS d 0 (setVec s (shiftL v))
    else
      let (xs, n') := compWork v env f a
      landS d (BitVec.ofNat 64 n') (setVec s (putAll (shiftL v) env (slotsOf env.rot f.dest).head? f.wd xs))
  | .vfib sr sl a _ md t =>
    let ls := (List.range n).map fun k => (readSrc v env.rot a t.width k).val
    let cap := min env.x.toNat 1024
    let (sum, k, m) := fibLoop cap ls 0 0 0
    let l0 := ls.headD 0
    let split := decide (k = 0) && decide (0 < n) && decide (cap < l0)
    let (vl, rows, left, mk) := if split then (cap, 0, l0 - cap, if 0 < cap then 1 else 0) else (sum, k, 0, m)
    let t1 := setVec s (unblock env.seqn (setMask { v with vl := BitVec.ofNat 64 vl } md mk))
    landS sl (BitVec.ofNat 64 left) (landS sr (BitVec.ofNat 64 rows) t1)
  | _ => s

/-! ## Issue -/

/-- A squash and replay of the entry (R197): it runs again, from registers that the recheck copies have restored. -/
def replayEntry (e : VEntry) (r : List VEntry) (s : State) : State :=
  let k := restoreCopies s.core
  { s with core := { k with vec := { k.vec with vxq := { e with replay := true } :: r } } }

/-- The marks of words that the elements written cover whole are gone, from the destination and from `l0` where the last-result file has
shifted (R181). -/
def cleanDest (e : VEntry) (es : List Nat) (s : State) : State :=
  let f := formOf e.instr
  let k := if f.shifts then clearLanes 72 f.wd es (shiftMarks s.core) else s.core
  match (slotsOf e.env.rot f.dest).head? with
  | some d => { s with core := clearLanes d f.wd es k }
  | none => { s with core := k }

/-- The oldest VXQ instruction issues and runs, or holds (R177 to R192, R196, R197). -/
def issueLanes (rc : Recheck) (s : State) : State :=
  let k := s.core
  let v := k.vec
  match v.vxq with
  | [] => s
  | e :: r =>
    match e.rest with
    | some w =>
      -- its first elements stand; it goes on behind a hole queue that was full
      let (v1, left) := laneLoop e w v
      setVec s { v1 with vxq := if left.isEmpty then r else { e with rest := some left } :: r }
    | none =>
      let f := formOf e.instr
      -- a full hole queue stalls the VXQ (R192); a marker occupies no lane (R219)
      if !mayIssue s .vxq e || decide (128 ≤ holeCount v) || (vWaits (holeReader v) v e.env e.instr).any (fun o => !o.ready) then s
      else if isMarker e.instr then setVec s { v with vxq := r }
      else if readsPoison k e.env e.instr || readsParity k e.instr then
        if e.replay then machineCheck k.id 1 0 0 e.env.pc.toNat (readsPoison k e.env e.instr) s else replayEntry e r s
      else if rc = .mismatch ∧ rechecked k.seq.eff e.env.seqn then
        if e.replay then machineCheck k.id 1 0 0 e.env.pc.toNat false s else replayEntry e r s
      else if laned e.instr then
        let w := vWork (holeReader v) v e.env e.instr
        let (v1, left) := laneLoop e w (if f.shifts then shiftL v else v)
        let s1 := setVec s { v1 with vxq := if left.isEmpty then r else { e with rest := some left } :: r }
        cleanDest e (w.map Prod.fst) s1
      else
        let w := match e.instr with
          | .vthr .. => activeElems v e.env f
          | .vcomp .. => if e.env.ps then List.range e.env.vl else []
          | _ => []
        cleanMask v e (cleanDest e w (runWhole e (setVec s { v with vxq := r })))

end Sys2Proof.Machine
end

