-- ==== Sys2Proof/Machine/NearOps.lean ====
section
/-! DEFINITION. Near-memory commands in their queue: translation, the bytes they touch, and when one may be sent (R10, R89, R105, R297, R302, R303). -/

namespace Sys2Proof.Machine

/-- The physical address of a row of `len` bytes, for core `c` and region values `r` (R296). -/
def transRowFor (c : Nat) (r : Region) (a : Acc) (va : Word) (len : Nat) (s : State) : Except (Nat × Word) Nat × State :=
  if va.toNat % 4 ≠ 0 then (.error (0x09, va), s)
  else if inWindow va.toNat then (.error (0x24, va), s)
  else
    match translateFor (.banked c) (some c) r .n a {} va s with
    | (.error e, s1) => (.error (e, va), s1)
    | (.ok p, s1) => if p.pageEnd < va.toNat + len then (.error (0x09, va), s1) else (.ok p.pa, s1)

/-- A list of virtual addresses translated again, each by `f`. -/
def transAgain (f : Word → State → Except (Nat × Word) Nat × State) : List Nat → State → Except (Nat × Word) (List Nat) × State
  | [], s => (.ok [], s)
  | va :: r, s =>
    match f (BitVec.ofNat 64 va) s with
    | (.error e, s1) => (.error e, s1)
    | (.ok p, s1) =>
      match transAgain f r s1 with
      | (.ok ps, s2) => (.ok (p :: ps), s2)
      | (.error e, s2) => (.error e, s2)

/-- The state with every chip in reach. -/
def chipsIn (s : State) : State :=
  { s with glinks := s.glinks.map fun x => { x with failed := false }, caps := { s.caps with chips := BitVec.allOnes 16 } }

/-- A translation of a command that has been dispatched: an address whose chip has gone out of reach since stands, for the command completes
as R331 gives (R298). -/
def orLost (f : Word → State → Except (Nat × Word) Nat × State) (va : Word) (s : State) : Except (Nat × Word) Nat × State :=
  match f va s with
  | (.error (0x25, a), s1) =>
    match (f va (chipsIn s)).1 with
    | .ok pa => if engineLost s pa then (.ok pa, s1) else (.error (0x25, a), s1)
    | .error _ => (.error (0x25, a), s1)
  | x => x

/-- A command's access to its rows. -/
def NearCmd.acc (c : NearCmd) : Acc :=
  match c.instr with
  | .nlookup .. => .r
  | _ => .rw

/-- A word of the output of a dispatched NLOOKUP. -/
def outAgain (c : NearCmd) (a : Acc) : Word → State → Except (Nat × Word) Nat × State :=
  orLost fun va t => match translateFor (.banked c.core) (some c.core) c.eff .n a {} va t with
    | (.ok p, u) => (.ok p.pa, u)
    | (.error e, u) => (.error (e, va), u)

/-- A row of a dispatched command. -/
def rowAgain (c : NearCmd) (a : Acc) : Word → State → Except (Nat × Word) Nat × State :=
  orLost fun va t => transRowFor c.core c.eff a va (4 * c.w) t

/-- A command that has not been sent translates again where its translations were dropped (R105). -/
def nearAgain (c : NearCmd) (s : State) : Except (Nat × Word) NearCmd × State :=
  if !c.stale then (.ok c, s)
  else
    match transAgain (rowAgain c c.acc) c.vrows s with
    | (.error e, s1) => (.error e, s1)
    | (.ok rows, s1) =>
      match transAgain (outAgain c .w) c.vout s1 with
      | (.error e, s2) => (.error e, s2)
      | (.ok o, s2) => (.ok { c with rows := rows, out := o, stale := false }, s2)

/-- Commands of the core in its near-memory queue. -/
def nearOf (s : State) : List NearCmd := s.near.filter fun c => decide (c.core = s.core.id)

/-- The physical bytes a command writes, and those it touches. -/
def nearWrites (c : NearCmd) : List (Nat × Nat) :=
  match c.instr with
  | .nlookup .. => c.out.map fun pa => (pa, 4)
  | _ => c.rows.map fun pa => (pa, 4 * c.w)

def nearBytes (c : NearCmd) : List (Nat × Nat) := (c.rows.map fun pa => (pa, 4 * c.w)) ++ c.out.map fun pa => (pa, 4)

/-- The physical address that a virtual one of a dispatched command has now: for the command's own access, else for a read, else the one it
had. -/
def addrNow (f : Acc → Word → State → Except (Nat × Word) Nat × State) (a : Acc) (s : State) (va old : Nat) : Nat :=
  match (f a (BitVec.ofNat 64 va) s).1, (f .r (BitVec.ofNat 64 va) s).1 with
  | .ok p, _ => p
  | .error _, .ok p => p
  | .error _, .error _ => old

/-- A command with the physical addresses that its virtual ones have now (R10, R303). -/
def nearNow (s : State) (c : NearCmd) : NearCmd :=
  if !c.stale then c
  else { c with rows := (c.vrows.zip c.rows).map fun x => addrNow (rowAgain c) c.acc s x.1 x.2
                out := (c.vout.zip c.out).map fun x => addrNow (outAgain c) .w s x.1 x.2 }

/-- The virtual bytes that a command touches. -/
def nearVirt (c : NearCmd) : List (Nat × Nat) := (c.vrows.map fun va => (va, 4 * c.w)) ++ c.vout.map fun va => (va, 4)

/-- An update of the current core may be sent: its source is there and its destination free (R179, R302). -/
def updateReady (s : State) (c : NearCmd) (src : VSrc) (d : Option VDst) : Bool :=
  let k := s.core
  let v := k.vec
  let sreg := [min 72 (srcSlot c.env.rot src)]
  let dreg := (d.bind (dstSlot c.env.rot)).toList
  let n := c.env.num
  !v.olderUse n sreg dreg && !frameHolds s c && !meet (sreg ++ dreg) (outsideWrites s k n) &&
    !meet dreg (outsideReads s k n) && (List.range c.w).all fun e => (readSrc v c.env.rot src 32 e).ready

/-- The bytes a command moves, by address (R305): an update reads and writes its row, and NADDR's old row comes back over a chip's link; a
lookup reads its rows, each chip sends one partial, and the port writes the output. -/
def nearCost (c : NearCmd) : List (Nat × Nat) :=
  let tier := fun pa => decide (tierBase ≤ pa)
  match c.instr with
  | .nadd .. => c.rows.map fun pa => (pa, 8 * c.w)
  | .naddr .. => c.rows.map fun pa => (pa, if tier pa then 12 * c.w else 8 * c.w)
  | _ =>
    let chips := ((c.rows.filter tier).map engineOf).eraseDups
    (c.rows.map fun pa => (pa, 4 * c.w)) ++ (chips.map fun g => (tierBase + (g - 16) * 2 ^ 38, 4 * c.w)) ++ c.out.map fun pa => (pa, 4)

/-- A command may be sent: order points, tags, earlier commands of the core to the same bytes (R10, R89, R303), its source and destination. -/
def nearReady (s : State) (c : NearCmd) : Bool :=
  let k := ctxCore s c.core c.tid
  !heldByPoint s k .n c.env.num && !tagHeld s k c.env.tag c.env.num &&
    !(s.near.any fun o => decide (o.core = c.core ∧ o.id < c.id) &&
      (overlaps (nearBytes (nearNow s o)) (nearBytes c) || (decide (o.tid = c.tid) && overlaps (nearVirt o) (nearVirt c)))) &&
    match c.instr with
    | .nadd _ _ src _ => updateReady (focus s c.core) c src none
    | .naddr _ d _ src _ => updateReady (focus s c.core) c src (some d)
    | _ => true

end Sys2Proof.Machine
end

