-- ==== Sys2Proof/Machine/Ready.lean ====
section
/-! DEFINITION. When commands outside the vector queues may go on: a matrix command issues (R269, R270), a copy stream starts (R249, R252, R254). -/

namespace Sys2Proof.Machine

/-- The oldest command that has not issued and waits for no stream (R258, R269). -/
def nextMat (m : Mat) : Option MEntry := m.queue.find? fun e => !e.issued && e.stream.isNone

/-- The conditions of R269, the order points of R270, its vector registers, which older instructions in a memory frame use too (R199), and the
budget (R123). -/
def matReady (s : State) (e : MEntry) : Bool :=
  let k := s.core
  let older := k.mat.queue.takeWhile fun o => decide (o.id ≠ e.id)
  let regs := mVecRegs e
  !(k.mat.queue.any fun o => o.issued && decide (o.unit = e.unit)) && !(older.any fun o => mBlocks e o) &&
    !heldByPoint s k .m e.env.num &&
    !((k.vec.vlq ++ k.vec.vxq ++ k.vec.vsq).any fun v => decide (v.env.num < e.env.num) && meet (entryReads v ++ entryWrites v) regs) &&
    !(k.vec.loads.any fun l => decide (l.env.num < e.env.num) && meet l.dests regs) && !framedUse s k.seq.tid e.env.num [] regs &&
    !meet regs (outsideReads s k e.env.num) && !meet regs (outsideWrites s k e.env.num) && budgetOk s k.seq.eff .matrix k.id

/-- The slot size of a stream's ring. -/
def slotSize (s : State) (t : Stream) : Option Nat :=
  match t.ring with
  | some (obj, _) => (getRing s t.core t.tid obj).map Ring.ssize
  | none => none

/-- The descriptor as the dispatcher reads it, or the cause and address of the error, and whether its status can be written (R252). -/
def openDesc (t : Stream) (s : State) : Except (Nat × Bool × Bool) (List Byte) × State :=
  match readDesc t s with
  | (.error (c, psn), s1) => (.error (c, false, psn), s1)
  | (.ok bs, s1) =>
    if descBad bs (slotSize s1 t) (t.deliver.map Delivery.ty) then (.error (0x0D, true, false), s1) else (.ok bs, s1)

/-- The physical bytes that a stream's elements have still to read and to write. -/
def leftBytes (t : Stream) (s : State) : List (Nat × Nat) × List (Nat × Nat) :=
  let ds := descDims t.image
  let e := descEsize t.image
  let at_ := fun (a : Acc) (va : Word) => match (transC t a va s).1 with
    | .ok p => [(p.pa, e)]
    | .error _ => []
  let ns := ((List.range (descCount t.image)).drop t.landed).filter fun n => inRange ds (elemIdx ds n)
  (ns.flatMap (fun n => at_ .r (streamAddrs s t n).1),
    if t.deliver.isSome then [] else ns.flatMap fun n => at_ .w (streamAddrs s t n).2)

/-- The physical bytes of a stream's descriptor. -/
def descBytes (t : Stream) (s : State) : List (Nat × Nat) :=
  [0, 1, 2].flatMap fun j => match (transC t .r (t.desc + BitVec.ofNat 64 (64 * j)) s).1 with
    | .ok p => [(p.pa, 64)]
    | .error _ => []

/-- The physical bytes of a stream's status word and of its ring's pointers (R253, R263). -/
def noteBytes (t : Stream) (s : State) : List (Nat × Nat) :=
  let words := (t.desc + 24) :: match t.ring with
    | some (obj, _) => [obj + 16]
    | none => []
  words.flatMap fun va => match (transC t .w va s).1 with
    | .ok p => [(p.pa, 8)]
    | .error _ => []

/-- What a stream has still to read and to write of elements, one that has not started as its descriptor now stands. -/
def streamBytes (t : Stream) (s : State) : List (Nat × Nat) × List (Nat × Nat) :=
  if t.running then leftBytes t s
  else
    match (openDesc t s).1 with
    | .ok bs => leftBytes { t with image := bs } s
    | .error _ => ([], [])

/-- One of two streams writes what the other touches (R10): elements, descriptors still to be read, status words and ring pointers. A
descriptor may serve both of them (R252), and a ring's pointers are its dispatcher's (R253): those are not ordered. -/
def streamsClash (s : State) (x t : Stream) : Bool :=
  let (rx, wx) := streamBytes x s
  let (rt, wt) := streamBytes t s
  let dx := if x.running then [] else descBytes x s
  let dt := descBytes t s
  let nx := noteBytes x s
  let nt := noteBytes t s
  overlaps wx (rt ++ wt ++ dt ++ nt) || overlaps (rx ++ dx) wt || overlaps nx (rt ++ wt) || overlaps rx nt ||
    (decide (x.desc ≠ t.desc) && (overlaps nx dt || overlaps dx nt))

/-- The older streams of a stream's core and task, and those that still run there. -/
def olderOf (s : State) (t : Stream) : List Stream :=
  s.copy.streams.filter fun x => decide (x.core = t.core ∧ x.launch = 0 ∧ x.id < t.id) && (x.running || decide (x.tid = t.tid))

/-- What a queued stream will touch is not known: its descriptor is in host or peer memory, or an older stream may still write it. -/
def touchUnknown (s : State) (x : Stream) : Bool :=
  let d := descBytes x s
  !x.running && (d.any (fun p => isRemote p.1) || (olderOf s x).any fun y => overlaps (streamBytes y s).2 d)

/-- An older stream of the core on another port has still to touch what this one does, one of them writing (R10); one whose bytes are not
known is held to touch everything (DEDUCED: log entry 31). -/
def olderStream (s : State) (t : Stream) : Bool :=
  ((olderOf s t).filter fun x => decide (x.port ≠ t.port)).any fun x => touchUnknown s x || streamsClash s x t

/-- A stream may start: its port, ring, tag and order points (R249, R254), older accesses on other ports (R10), the registers it will write
(R261), and the budget (R123). -/
def mayStart (s : State) (t : Stream) : Bool :=
  let k := getCore s t.core
  let regs := match t.deliver with
    | some d => d.reg :: maskId d.m
    | none => []
  let desc := match (transC t .r t.desc s).1 with
    | .ok p => streamOk t s p.pa
    | .error _ => true
  streamReady s t && statusOk t s && budgetOk s t.eff .copy (clusterOf t.core) && desc &&
    !((k.vec.vlq ++ k.vec.vxq ++ k.vec.vsq).any fun v => decide (v.env.num < t.num) && meet (entryReads v ++ entryWrites v) regs) &&
    !(k.vec.loads.any fun l => decide (l.env.num < t.num) && meet l.dests regs) && !framedUse s k.seq.tid t.num [] regs &&
    !meet regs (outsideReads s k t.num) &&
    !meet regs (outsideWrites s k t.num) && (decide (t.launch ≠ 0) || !olderStream s t)

end Sys2Proof.Machine
end

