-- ==== Sys2Proof/Machine/VMem.lean ====
section
/-! DEFINITION. Vector memory (R10, R90, R101, R102, R185, R190, R199, R200, R233 to R240): addresses, translation of whole instructions,
loads and stores on their way, deferred writes, the lane table stores, and fences. -/

namespace Sys2Proof.Machine

/-! ## Addresses -/

/-- Bytes of one access: an element, or the byte of a `.q4` pair. -/
def accSize (t : ETy) : Nat := if t = .q4 then 1 else t.width / 8

/-- The type of the elements an instruction moves. -/
def memTy : Instr → ETy
  | .vld _ _ _ _ _ t | .vldW _ _ _ _ _ _ t | .vlds _ _ _ _ _ _ t | .vldff _ _ _ _ _ _ t | .vst _ _ _ _ _ t | .vsts _ _ _ _ _ _ t
  | .vgath _ _ _ _ _ _ t | .vscat _ _ _ _ _ _ t | .vscadd _ _ _ _ _ _ t | .vtld _ _ _ _ t | .vtst _ _ _ _ t | .vsell _ _ _ _ _ t => t
  | _ => .s8

/-- The data of an instruction as the steps of an address (R234): A + e · stride, pairs for `.q4`. -/
def strideAddr (env : VEnv) (t : ETy) (e : Nat) : Nat := (env.x + BitVec.ofNat 64 (if t = .q4 then e / 2 else e) * env.y).toNat

/-- Element `e`'s address of a gather or scatter (R236). -/
def indexAddr (env : VEnv) (t : ETy) (k idx : Nat) : Nat :=
  let a := (env.x + BitVec.ofNat 64 (idx * 2 ^ k)).toNat
  a / accSize t * accSize t

/-- Element accesses in ascending order: element, virtual address. Indices are read as they stand. -/
def memElems (v : Vec) (env : VEnv) (i : Instr) : List (Nat × Nat) :=
  let f := formOf i
  let act := activeElems v env f
  let t := memTy i
  let idx := fun (x : VSrc) (k : BitVec 2) => act.map fun e => (e, indexAddr env t k.toNat (readSrc v env.rot x (idxW t) e).val)
  match i with
  | .vgath _ _ x k _ _ _ | .vscat _ x _ k _ _ _ | .vscadd _ x _ k _ _ _ => idx x k
  | _ => act.map fun e => (e, strideAddr env t e)

/-- The bytes an instruction that has not issued may touch, by virtual address; none where they are not known. -/
def vRanges (env : VEnv) (i : Instr) : Option (List (Nat × Nat)) :=
  match i with
  | .vld .. | .vldW .. | .vlds .. | .vldff .. | .vst .. | .vsts .. =>
    some (((List.range env.vl).map fun e => (strideAddr env (memTy i) e, accSize (memTy i))).eraseDups)
  | .vgath .. | .vscat .. | .vscadd .. => if env.vl = 0 then some [] else none
  | .vsell .. => none
  | _ => some []

/-- Two vector memory instructions may touch one address. -/
def mayMeet (e1 : VEnv) (i1 : Instr) (e2 : VEnv) (i2 : Instr) : Bool :=
  match vRanges e1 i1, vRanges e2 i2 with
  | some [], _ | _, some [] => false
  | some a, some b => overlaps a b
  | _, _ => true

/-! ## Translating every element (R101, R199, R200) -/

/-- The structure an instruction translates through (R100). -/
def memSite (c : Nat) : Instr → TlbSite
  | .vgath .. | .vscat .. | .vscadd .. => .banked c
  | _ => .range c

def memAcc : Instr → Acc
  | .vst .. | .vsts .. | .vscat .. => .w
  | .vscadd .. => .rw
  | _ => .r

def isStore (i : Instr) : Bool := decide (memAcc i ≠ .r)

/-- What a page's translation gave, or its cause and the page that faults; elements on one page share it. -/
abbrev PageMemo := List (Nat × Except (Nat × Nat) Phys)

/-- An access that fails: its element, its virtual address, the cause, and the page that faults. -/
abbrev BadAccess := Nat × Nat × Nat × Nat

/-- The page that faults (R200), by its first 4 KiB: the leaf's where a check of the leaf failed. -/
def faultPage (i : Instr) (va c : Nat) (s : State) : Nat :=
  if 0x23 ≤ c ∧ c ≤ 0x26 ∧ !inWindow va then
    match (findLeaf (memSite s.core.id i) s.core.seq.eff.root s.core.seq.eff.asn (va / 4096) s).1 with
    | .ok l => l.vpage
    | .error _ => va / 4096
  else va / 4096

/-- Translates one access of the current core, through the pages seen so far. -/
def transPage (i : Instr) (memo : PageMemo) (va : Nat) (s : State) : Except (Nat × Nat) Phys × PageMemo × State :=
  let go := fun (a : Nat) (t : State) =>
    match translateFor (memSite t.core.id i) (some t.core.id) t.core.seq.eff .v (memAcc i) {} (BitVec.ofNat 64 a) t with
    | (.ok p, u) => ((.ok p : Except (Nat × Nat) Phys), u)
    | (.error c, u) => (.error (c, faultPage i a c t), u)
  if inWindow va then let (r, t) := go va s; (r, memo, t)
  else
    let p := va / 4096
    let put := fun (r : Except (Nat × Nat) Phys) => r.map fun x => { x with pa := x.pa + va % 4096 }
    match memo.find? fun m => decide (m.1 = p) with
    | some m => (put m.2, memo, s)
    | none => let (r, t) := go (p * 4096) s; (put r, (p, r) :: memo, t)

/-- Translates accesses in order: those that translate, and those that fail with their causes. -/
def transAll (i : Instr) : List (Nat × Nat) → PageMemo → State → List (Nat × Nat × Phys) × List BadAccess × State
  | [], _, s => ([], [], s)
  | (e, va) :: r, memo, s =>
    let (x, memo1, s1) := transPage i memo va s
    let (ok, bad, s2) := transAll i r memo1 s1
    match x with
    | .ok p => ((e, va, p) :: ok, bad, s2)
    | .error (c, pg) => (ok, (e, va, c, pg) :: bad, s2)

/-- The destination field of an instruction (R39). -/
def dstField : Option VDst → Nat
  | some (.v r) => r.toNat
  | some (.o r) => 64 + r.toNat
  | some .nil => 128
  | none => 0

/-- One access per distinct page that faults, each the lowest element's. -/
def firstOfPages : List BadAccess → List Nat → List BadAccess
  | [], _ => []
  | x :: r, seen => if seen.contains x.2.2.2 then firstOfPages r seen else x :: firstOfPages r (x.2.2.2 :: seen)

/-- An instruction of the VSQ. -/
def storeSide (i : Instr) : Bool := decide ((formOf i).queue = .vsq)

/-- The records of a faulting instruction (R200, R202), whose accesses stand in the order of their elements. -/
def faultRecs (e : VEntry) (bad : List BadAccess) : List FrameRec :=
  let ps := firstOfPages (bad.mergeSort fun x y => decide (x.1 ≤ y.1)) []
  let n := min ps.length 16
  (List.range n).map fun k =>
    let x := ps.getD k (0, 0, 0, 0)
    { vaddr := x.2.1, elem := (absIndex e.env x.1).toNat, head := e.env.head, seqn := e.env.seqn, cause := x.2.2.1,
      bits := (decide (k = 15) && decide (16 < ps.length)).toNat + 2 * (storeSide e.instr).toNat,
      dest := dstField (formOf e.instr).dest, pc := e.env.pc }

/-- An instruction reports its faults, unless one of its queue has already (R199): it then meets them again after VRESTORE. -/
def addFaults (e : VEntry) (bad : List BadAccess) (s : State) : State :=
  let fs := s.core.vec.faults
  if fs.any fun r => bitAt r.bits 1 == storeSide e.instr then s
  else setVec s { s.core.vec with faults := fs ++ faultRecs e bad }

/-! ## The lane table stores (R238) -/

/-- The place of an entry in its lane's table: the first bit, none where it lies outside the share. -/
def tableBit (r : Region) (t : ETy) (idx : Nat) : Option Nat :=
  let b := idx * (t.width / 8)
  if r.tssize * 128 ≤ b then none else some (8 * (r.tsstart * 128 + b))

def tableGet (v : Vec) (lane bit w : Nat) : Nat := bits (v.table[lane]?.getD 0).toNat bit w

def tablePut (lane bit w x : Nat) (v : Vec) : Vec :=
  { v with table := v.table.setIfInBounds lane (BitVec.ofNat 16384 (putBits (v.table[lane]?.getD 0).toNat bit w x)) }

/-- The entries that the active elements of a table access name: lane and first bit. -/
def tableEntries (v : Vec) (r : Region) (e : VEntry) (a : VSrc) (t : ETy) : List (Nat × Nat) :=
  (activeElems v e.env (formOf e.instr)).filterMap fun el =>
    (tableBit r t (readSrc v e.env.rot a t.width el).val).map fun b => (el % 64, b)

/-- An older VTST's write of one of these entries still waits for its value (R238). -/
def tableBusy (v : Vec) (n : Nat) (t : ETy) (es : List (Nat × Nat)) : Bool :=
  v.defer.any fun d => match d.kind with
    | .table lane => decide (d.env.seqn < n) && es.any fun p =>
        decide (p.1 = lane) && decide (p.2 < d.addr + 8 * d.n) && decide (d.addr < p.2 + t.width)
    | _ => false

/-- VTLD on the current core: it reads at issue. A `nil` destination drops the result, which no last-result file takes (R19, R181;
DESIGN CHOICE: log entry 72). -/
def runVtld (e : VEntry) (a : VSrc) (t : ETy) (s : State) : State :=
  let v := s.core.vec
  let f := formOf e.instr
  let go := fun (u : Vec) (el : Nat) =>
    let put := fun (x : Nat) (z : Vec) => match (slotsOf e.env.rot f.dest).head? with
      | some d => putElem z d t.width el x
      | none => z
    match tableBit s.core.seq.eff t (readSrc v e.env.rot a t.width el).val with
    | some b => put (tableGet u (el % 64) b t.width) u
    | none => put (e.env.vfill.toNat % 2 ^ t.width) (mergeFlags fIV (some (absIndex e.env el)) u)
  setVec s ((activeElems v e.env f).foldl go v)

/-! ## Loads -/

/-- Poison of a loaded element goes into its register word (R326). -/
def takePoison (slot w el : Nat) (bad : Bool) (k : Core) : Core :=
  if bad then addPsn [(slot, w * el / 64)] k else k

/-- One loaded element. -/
def landLoad (slot : Nat) (t : ETy) (el pa : Nat) (s : State) : State :=
  let x := s.rd pa (accSize t)
  let x' := if t = .q4 then x / 16 ^ (el % 2) % 16 else x
  let s1 := setVec s (putElem s.core.vec slot t.width el x')
  { s1 with core := takePoison slot t.width el (isPoisoned s pa (accSize t)) s1.core }

/-- The data of a load arrives in its registers. -/
def landAll (l : VLoad) (s : State) : State :=
  let t := memTy l.instr
  let f := formOf l.instr
  let d := (slotsOf l.env.rot f.dest).headD 0
  let d2 := (slotsOf l.env.rot f.dest2).headD 0
  let val := l.cells.filter fun c => decide (c.1 < 1024)
  let idx := l.cells.filter fun c => decide (1024 ≤ c.1)
  let s0 := { s with core := clearLanes d2 32 (idx.map fun c => c.1 - 1024) (clearLanes d t.width (val.map Prod.fst) s.core) }
  let s1 := val.foldl (fun u c => landLoad d t c.1 c.2 u) s0
  let s2 := idx.foldl (fun u c => landLoad d2 .z32 (c.1 - 1024) c.2 u) s1
  match l.md with
  | none => s2
  | some (m, w) =>
    let v := s2.core.vec
    let on := fun e => decide (w ≠ 0) && (match idx.find? fun c => decide (c.1 = 1024 + e) with
      | some c => decide (s.rd c.2 4 ≠ 0xFFFFFFFF)
      | none => false)
    let s3 := setVec s2 (setMask v m (mixMask (maskImg v m) (fun e => decide (e < 64)) on))
    { s3 with core := clearMask m (fun e => decide (e < 64)) s3.core }

/-- The physical bytes of a load. -/
def loadBytes (l : VLoad) : List (Nat × Nat) :=
  l.cells.map fun c => (c.2, if 1024 ≤ c.1 then 4 else accSize (memTy l.instr))

/-- The physical bytes of a store, or of the signal that a `vfence.arr` decrements (R88). -/
def storeBytes (t : VStore) : List (Nat × Nat) :=
  match t.arr with
  | some pa => [(pa, 8)]
  | none => t.writes.map fun w => (w.addr, w.n)

def deferBytes (d : Defer) : List (Nat × Nat) := if d.onTable then [] else [(d.addr, d.n)]

/-- A fence numbered below `n` is still to be passed (R239). -/
def fenced (v : Vec) (n : Nat) : Bool :=
  (v.vsq.any fun e => decide (e.instr = .vfence) && decide (e.env.num < n)) ||
    v.stores.any fun t => decide (t.instr = .vfence) && decide (t.env.num < n)

/-! ## Translating again (R105) -/

/-- A write that waits with the deferred ones of its store. -/
def VWrite.toDefer (env : VEnv) (i : Instr) (w : VWrite) : Defer :=
  ⟨env, i, w.addr, w.n, w.vals, w.kind, w.elem, w.ordered, w.caps, w.va, false, w.psn, w.hs⟩

/-- A vector access on its way whose translations were dropped translates again; a failure is a memory fault, which it meets again after
VRESTORE. -/
def reload (l : VLoad) (s : State) : Option VLoad × State :=
  if !l.stale then (some l, s)
  else
    let (ok, bad, s1) := transAll l.instr ((l.cells.map Prod.fst).zip l.vas) [] s
    if bad.isEmpty then
      (some { l with stale := false, cells := ok.map (fun p => (p.1, p.2.2.pa)), hs := ok.any fun p => p.2.2.hs }, s1)
    else (none, addFaults { instr := l.instr, env := l.env } (bad.map fun x => (x.1 % 1024, x.2)) s1)

/-- The signal of a `vfence.arr` whose translation was dropped, translated again; its record shows the signal's address. -/
def restoreArr (t : VStore) (s : State) : Option Nat × State :=
  match transS .rw t.env.x s with
  | (.ok p, s1) => (some p.pa, s1)
  | (.error c, s1) => (none, addFaults { instr := t.instr, env := t.env } [(0, t.env.x.toNat, c, t.env.x.toNat / 4096)] s1)

/-- Of the writes of store `n`, those on HS or NI pages wait, as they are deferred, for the hole of a lower element on such a page (R90): a
page may have become one since the store issued. -/
def holdBack (n : Nat) (ds : List Defer) (ts : List VStore) : List VStore × List Defer :=
  let waits := fun (w : VWrite) => w.ordered && ds.any fun d => decide (d.env.seqn = n ∧ d.elem < w.elem) && d.ordered
  (ts.map (fun t => if t.env.seqn = n then { t with writes := t.writes.filter fun w => !waits w } else t),
    (ts.filter fun t => decide (t.env.seqn = n)).flatMap fun t => (t.writes.filter waits).map (VWrite.toDefer t.env t.instr))

/-- What is stale of store `n`, its writes on their way and those deferred, translates again, its first element's page first: every page that
fails is reported at once (R200), and nothing of the store is performed then. `false` where one fails. -/
def restoreStore (n : Nat) (s : State) : Bool × State :=
  let v := s.core.vec
  let ts := v.stores.filter fun t => decide (t.env.seqn = n) && t.stale
  let ds := v.defer.filter fun d => decide (d.env.seqn = n) && d.stale
  match (ts.map fun t => (t.instr, t.env)) ++ ds.map fun d => (d.instr, d.env) with
  | [] => (true, s)
  | (i, env) :: _ =>
    let arr := ts.find? fun t => t.arr.isSome
    match arr with
    | some t =>
      match restoreArr t s with
      | (some pa, s1) => (true, setVec s1 { s1.core.vec with stores := s1.core.vec.stores.map fun y =>
          if y.env.seqn = n then { y with arr := some pa, stale := false } else y })
      | (none, s1) => (false, s1)
    | none =>
      let vas := (ts.flatMap fun t => t.writes.map fun w => (w.elem, w.va)) ++ ds.map fun d => (d.elem, d.va)
      let (ok, bad, s1) := transAll i vas [] s
      if !bad.isEmpty then (false, addFaults { instr := i, env := env } bad s1)
      else
        let at_ := fun (el va : Nat) => ((ok.find? fun x => decide (x.1 = el ∧ x.2.1 = va)).map fun x => x.2.2).getD { pa := 0 }
        let w1 := fun (w : VWrite) => let p := at_ w.elem w.va
          { w with addr := p.pa, hs := p.hs, ordered := p.hs || p.ni }
        let d1 := fun (d : Defer) => let p := at_ d.elem d.va
          { d with addr := p.pa, hs := p.hs, ordered := p.hs || p.ni, stale := false }
        let later := s1.core.vec.defer.map fun d => if d.env.seqn = n ∧ d.stale then d1 d else d
        let (now, held) := holdBack n later (s1.core.vec.stores.map fun y =>
          if y.env.seqn = n ∧ y.stale then { y with writes := y.writes.map w1, stale := false } else y)
        (true, setVec s1 { s1.core.vec with stores := now, defer := later ++ held })

/-- The vector state with every translation that was dropped made anew; what fails to translate stays as it is. -/
def freshVec (s : State) : Vec :=
  let v := s.core.vec
  if (v.loads.any fun l => l.stale) || (v.stores.any fun t => t.stale) || v.defer.any fun d => d.stale then
    let s1 := v.loads.foldl (fun u l => match reload l u with
      | (some x, u1) => setVec u1 { u1.core.vec with loads := u1.core.vec.loads.map fun y => if y.env.seqn = x.env.seqn then x else y }
      | (none, _) => u) s
    let ns := ((v.stores.map fun t => t.env.seqn) ++ v.defer.map fun d => d.env.seqn).eraseDups
    (ns.foldl (fun u n => match restoreStore n u with
      | (true, u1) => u1
      | (false, _) => u) s1).core.vec
  else v

/-! ## Order -/

/-- Older `.v` accesses on their way that touch given physical bytes (R10, R190). -/
def olderTouch (v : Vec) (n : Nat) (bs : List (Nat × Nat)) : Bool :=
  (v.loads.any fun l => decide (l.env.num < n) && overlaps (loadBytes l) bs) ||
    (v.stores.any fun t => decide (t.env.num < n) && overlaps (storeBytes t) bs) ||
    v.defer.any fun d => decide (d.env.num < n) && overlaps (deferBytes d) bs

/-- Older accesses to HS pages, or that may be to one: those that have not issued, and those whose translation has been dropped (R90, R105). -/
def olderHs (v : Vec) (n : Nat) (q : List VEntry) : Bool :=
  (v.loads.any fun l => decide (l.env.num < n) && (l.hs || l.stale)) ||
    (v.stores.any fun t => decide (t.env.num < n) && ((t.writes.any fun w => w.hs) || (t.stale && !t.writes.isEmpty))) ||
    (v.defer.any fun d => decide (d.env.num < n) && (d.hs || d.stale)) ||
    q.any fun e => decide (e.env.num < n) && (match vRanges e.env e.instr with
      | some [] => false
      | _ => true)

/-- The physical bytes that an instruction which has not issued may touch, where its addresses are known and translate (R10). -/
def queuedBytes (s : State) (e : VEntry) : List (Nat × Nat) :=
  match vRanges e.env e.instr with
  | some a => ((transAll e.instr (a.map fun r => (0, r.1)) [] s).1).map fun x => (x.2.2.pa, accSize (memTy e.instr))
  | none => []

/-- An access on its way, with the bytes it touches, may touch what an instruction that has not issued does (R10). -/
def queuedMeets (s : State) (env : VEnv) (i : Instr) (bs : List (Nat × Nat)) (e : VEntry) : Bool :=
  mayMeet env i e.env e.instr || overlaps (queuedBytes s e) bs

/-- A load may be performed (R10, R90, R123, R170, R239). -/
def loadReady (s : State) (l : VLoad) : Bool :=
  let v := freshVec s
  let n := l.env.num
  !(v.vsq.any fun e => decide (e.env.num < n) && queuedMeets s l.env l.instr (loadBytes l) e) && !olderTouch v n (loadBytes l) &&
    !fenced v n && !(l.hs && olderHs v n v.vsq) && !heldByPoint s s.core .v n && bytesOk s s.core.seq.eff (loadBytes l)

/-- The header of a VSELL slice: nothing yet where an earlier access, a fence or an order point holds its read back (R10, R12, R90, R239), a
fault, or its address and column count (R240). -/
def sellHeader (e : VEntry) (s : State) : Option (Except (Nat × Nat) (Nat × Nat)) × State :=
  let (r, _, s1) := transPage e.instr [] e.env.x.toNat s
  match r with
  | .error c => (some (.error c), s1)
  | .ok p =>
    let v := freshVec s1
    let n := e.env.num
    let b := [(p.pa, 4)]
    let queued := v.vsq.any fun o => decide (o.env.num < n) && (match vRanges o.env o.instr with
      | some l => overlaps l [(e.env.x.toNat, 4)] || overlaps (queuedBytes s1 o) b
      | none => true)
    if queued || olderTouch v n b || fenced v n || (p.hs && olderHs v n v.vsq) || heldByPoint s1 s1.core .v n ||
        !bytesOk s1 s1.core.seq.eff b then (none, s1)
    else (some (.ok (p.pa, s1.rd p.pa 2)), chargeAll s1.core.seq.eff b s1)

/-- The accesses of a VSELL past its header: values, then indices. -/
def sellElems (env : VEnv) (t : ETy) (w : Nat) : List (Nat × Nat) :=
  let sz := t.width / 8
  let at_ := fun (o : Nat) => (env.x + BitVec.ofNat 64 o).toNat
  let vb := 64 + (64 * sz * w + 63) / 64 * 64
  let c := env.y.toNat
  ((List.range 64).map fun e => (e, at_ (64 + 64 * sz * c + sz * e))) ++ (List.range 64).map fun e => (1024 + e, at_ (vb + 256 * c + 4 * e))

/-- The watermark lets a `vld.w` proceed (R86). -/
def markReached (s : State) (e : VEntry) (w : BitVec 3) : Bool :=
  match (s.core.seq.w[w.toNat]?).getD none with
  | some r => decide (e.env.x.toNat + (e.env.vl * (memTy e.instr).width + 7) / 8 ≤ r.base + e.pub * r.esize)
  | none => false

/-- The load leaves its queue with the accesses it will make. -/
def startLoad (e : VEntry) (r : List VEntry) (ps : List (Nat × Nat × Phys)) (lim : Nat) (md : Option (MReg × Nat)) (s : State) : State :=
  let f := formOf e.instr
  let l : VLoad := { env := e.env, instr := e.instr, dests := slotsOf e.env.rot f.dest ++ slotsOf e.env.rot f.dest2 ++ f.mw.flatMap maskId,
                     cells := ps.map (fun p => (p.1, p.2.2.pa)), vas := ps.map (fun p => p.2.1), limit := lim,
                     hs := ps.any fun p => p.2.2.hs, md := md }
  let v := s.core.vec
  setVec s { v with vlq := r, loads := v.loads ++ [l] }

/-- A VLDFF is over with its translation: the VL it found, and dispatch goes on (R235). -/
def endFirstFault (e : VEntry) (x : SReg) (vl : Nat) (shrink : Bool) (s : State) : State :=
  let v := unblock e.env.seqn s.core.vec
  landS x (BitVec.ofNat 64 vl) (setVec s (if shrink then { v with vl := BitVec.ofNat 64 vl } else v))

/-- An instruction of the VLQ or VSQ reads poison, or a word whose parity is wrong (R324, R326). -/
def replayMem (e : VEntry) (q : VQueue) (r : List VEntry) (psn : Bool) (s : State) : State :=
  if e.replay then machineCheck s.core.id 1 0 0 e.env.pc.toNat psn s
  else
    let k := restoreCopies s.core
    { s with core := { k with vec := setQueue k.vec q ({ e with replay := true } :: r) } }

/-- A VTLD reads a word of a lane table store whose parity is wrong (R324). -/
def tableParity (s : State) (e : VEntry) : Bool :=
  match e.instr with
  | .vtld _ a _ _ t => (tableEntries s.core.vec s.core.seq.eff e a t).any fun p =>
      s.core.par.any fun q => decide (q.1 = 16 + p.1) && decide (q.2.1 = p.2 / 64)
  | _ => false

/-- The oldest instruction of the VLQ issues (R177 to R179, R199, R235, R238, R240). -/
def issueLoad (s : State) : State :=
  let v := s.core.vec
  match v.vlq with
  | [] => s
  | e :: r =>
    if !mayIssue s .vlq e || (vWaits (holeReader v) v e.env e.instr).any (fun o => !o.ready) then s
    else if readsPoison s.core e.env e.instr then replayMem e .vlq r true s
    else if readsParity s.core e.instr || tableParity s e then replayMem e .vlq r false s
    else
      let plain := fun (_ : Unit) =>
        let (ok, bad, s1) := transAll e.instr (memElems v e.env e.instr) [] s
        if bad.isEmpty then startLoad e r ok e.env.vl none s1 else addFaults e bad s1
      match e.instr with
      | .vtld _ a _ _ t =>
        if (v.vsq.any fun o => decide (o.env.seqn < e.env.seqn) && (match o.instr with | .vtst .. => true | _ => false)) ||
            tableBusy v e.env.seqn t (tableEntries v s.core.seq.eff e a t) then s
        else cleanDest e (activeElems v e.env (formOf e.instr)) (runVtld e a t (setVec s { v with vlq := r }))
      | .vldW _ _ _ w _ _ _ => if markReached s e w then plain () else s
      | .vldff _ _ x _ _ _ _ =>
        let (ok, bad, s1) := transAll e.instr (memElems v e.env e.instr) [] s
        match bad with
        | [] => endFirstFault e x e.env.vl false (startLoad e r ok e.env.vl none s1)
        | (f, _) :: _ =>
          if (activeElems v e.env (formOf e.instr)).head? = some f then addFaults e bad s1
          else endFirstFault e x f true (startLoad e r (ok.filter fun p => decide (p.1 < f)) f none s1)
      | .vsell _ _ _ md _ t =>
        match sellHeader e s with
        | (none, s1) => s1
        | (some (.error c), s1) => addFaults e [(0, e.env.x.toNat, c)] s1
        | (some (.ok (hp, w)), s1) =>
          if isPoisoned s1 hp 4 then replayMem e .vlq r true s1
          else if w ≤ e.env.y.toNat then startLoad e r [] 64 (some (md, 0)) s1
          else
            let (ok, bad, s2) := transAll e.instr (sellElems e.env t w) [] s1
            if bad.isEmpty then startLoad e r ok 64 (some (md, 1)) s2
            else addFaults e (bad.map fun x => (x.1 % 1024, x.2)) s2
      | _ => plain ()

/-! ## Stores -/

/-- The data of element `e` of a store; a `.q4` pair is one byte, in which an inactive partner gives its stored nibble (R233). -/
def storeData (rd : Reader) (v : Vec) (env : VEnv) (f : VForm) (a : VSrc) (t : ETy) (e : Nat) : HOp :=
  let get := fun k => readBy rd env.rot (a, t.width) k
  if t = .q4 then
    let nib := fun k => if isActive v env f k then get k else ⟨(get k).val, []⟩
    HOp.cat (nib (e / 2 * 2)) 4 (nib (e / 2 * 2 + 1))
  else get e

/-- The source register of a store. -/
def storeSrc : Instr → VSrc
  | .vst a _ _ _ _ _ | .vsts a _ _ _ _ _ _ | .vscat a _ _ _ _ _ _ | .vscadd a _ _ _ _ _ _ => a
  | .vtst _ b _ _ _ => b
  | _ => ⟨.v, 0, .none⟩

/-- The registers of the holes an operand waits for. -/
def holeRegs (v : Vec) (ops : List HOp) : List Nat :=
  ((v.holes.filter fun h => (parents ops).contains h.id).map fun h => h.dest.getD 72).eraseDups

/-- The writes of a store, in ascending order of their lowest elements (R234, R237): one for each distinct address, whose highest active
element wins, but one for each element on an NI page. VSCADD gathers the values for one address. -/
def storeWrites (v : Vec) (k : Core) (e : VEntry) (ps : List (Nat × Nat × Phys)) : List VWrite :=
  let f := formOf e.instr
  let t := memTy e.instr
  let a := storeSrc e.instr
  let data := fun el => storeData (holeReader v) v e.env f a t el
  let psn := fun el => !(storeData (psnReader k) v e.env f a t el).ready
  let add := match e.instr with
    | .vscadd .. => true
    | _ => false
  let mk := fun (p : Nat × Nat × Phys) (es : List Nat) =>
    let ops := es.map data
    ({ addr := p.2.2.pa, va := p.2.1, n := accSize t, vals := ops, kind := if add then .add t else .put, elem := p.1, hs := p.2.2.hs,
       ordered := p.2.2.hs || p.2.2.ni, caps := holeRegs v ops, psn := es.any psn } : VWrite)
  let same := fun (p : Nat × Nat × Phys) => ps.filter fun q => decide (q.2.2.pa = p.2.2.pa)
  let firsts := ps.filter fun p => ((same p).head?.map Prod.fst) == some p.1
  if add then firsts.map fun p => mk p ((same p).map Prod.fst)
  else
    -- a `.q4` pair is one access, whichever of its elements are active
    let one := fun (p : Nat × Nat × Phys) => t = .q4 ∧ p.1 % 2 = 1 ∧ ps.any fun q => decide (q.1 + 1 = p.1)
    (ps.filter fun p => !decide (one p)).flatMap fun p =>
      if p.2.2.ni then [mk p [p.1]]
      else if firsts.contains p then
        let w := mk p (((same p).getLast?.map Prod.fst).toList)
        -- the lower elements of an address on an HS page wait for their holes too, though the highest one is written (R90)
        let low := if p.2.2.hs then (same p).dropLast.map fun q => data q.1 else []
        [{ w with vals := w.vals ++ low, caps := (w.caps ++ holeRegs v low).eraseDups }]
      else []

/-- Splits writes into those whose data is there and those deferred (R190); behind a hole on an HS or NI page every later one waits
(R90). -/
def splitWrites (e : VEntry) : List VWrite → Bool → List VWrite × List Defer
  | [], _ => ([], [])
  | w :: r, wait =>
    let hole := !(w.vals.all HOp.ready)
    let d := hole || (wait && w.ordered)
    let (a, b) := splitWrites e r (wait || (hole && w.ordered))
    if d then (a, w.toDefer e.env e.instr :: b) else (w :: a, b)

/-- Performs one write with its data. -/
def perform (env : VEnv) (kind : DeferKind) (addr n : Nat) (xs : List Nat) (el : Nat) (psn : Bool) (s : State) : State :=
  match kind with
  | .put =>
    let s1 := s.wr addr n (xs.headD 0)
    if psn then markPoison s1 addr n else s1
  | .add t =>
    let step := fun (acc : ER) (x : Nat) =>
      if t = .f32 then
        let r := addF .f32 .rne 0 (decodeF .f32 acc.1) (decodeF .f32 x)
        ((r.1, acc.2 ||| r.2) : ER)
      else ((acc.1 + x) % 2 ^ t.width, acc.2)
    let sum := xs.tail.foldl step (xs.headD 0, 0)
    let r := step (s.rd addr n, sum.2) sum.1
    -- a sum made from poisoned memory is poisoned (R325)
    let s1 := if isPoisoned s addr n then markPoison (s.wr addr n r.1) addr n else s.wr addr n r.1
    setVec s1 (mergeFlags r.2 (some (absIndex env el)) s1.core.vec)
  | .table lane =>
    let t := setVec s (tablePut lane addr (8 * n) (xs.headD 0) s.core.vec)
    -- a write of a whole word renews its parity
    { t with core := { t.core with par := t.core.par.filter fun p => !(decide (n = 8) && decide (p.1 = 16 + lane) && decide (p.2.1 = addr / 64)) } }

/-- The parity of the table words that writes cover together is good again (R324, R325). -/
def coverTable (ws : List VWrite) (ps : List (Nat × Nat × Bool)) : List (Nat × Nat × Bool) :=
  ps.filter fun p => !((List.range 8).all fun k => ws.any fun w =>
    decide (w.kind = .table (p.1 - 16) ∧ 16 ≤ p.1 ∧ w.addr ≤ 64 * p.2.1 + 8 * k ∧ 64 * p.2.1 + 8 * k < w.addr + 8 * w.n))

/-- VTST: the highest active element of each entry writes it (R238); holes defer. -/
def tableWrites (v : Vec) (r : Region) (e : VEntry) (a : VSrc) (t : ETy) : List VWrite :=
  let act := activeElems v e.env (formOf e.instr)
  let at_ := fun el => tableBit r t (readSrc v e.env.rot a t.width el).val
  act.filterMap fun el =>
    match at_ el with
    | none => none
    | some b =>
      if act.any fun k => decide (el < k ∧ k % 64 = el % 64) && decide (at_ k = some b) then none
      else
        let o := storeData (holeReader v) v e.env (formOf e.instr) (storeSrc e.instr) t el
        some { addr := b, n := t.width / 8, vals := [o], kind := .table (el % 64), elem := el, caps := holeRegs v [o] }

/-- The table entries out of range raise IV. -/
def tableFlags (v : Vec) (r : Region) (e : VEntry) (a : VSrc) (t : ETy) : Vec :=
  (activeElems v e.env (formOf e.instr)).foldl (fun u el =>
    if (tableBit r t (readSrc v e.env.rot a t.width el).val).isNone then mergeFlags fIV (some (absIndex e.env el)) u else u) v

/-- A poisoned value that the instruction computes with rather than moves (R326). -/
def usesPoison (s : State) (e : VEntry) : Bool :=
  let k := s.core
  readsPoison k e.env e.instr ||
    (match e.instr with
      | .vscadd .. | .vtst .. =>
        (activeElems k.vec e.env (formOf e.instr)).any fun el =>
          !(storeData (psnReader k) k.vec e.env (formOf e.instr) (storeSrc e.instr) (memTy e.instr) el).ready
      | _ => false)

/-- The oldest instruction of the VSQ issues (R177 to R179, R190, R237 to R239). -/
def issueStore (s : State) : State :=
  let v := s.core.vec
  match v.vsq with
  | [] => s
  | e :: r =>
    if !mayIssue s .vsq e || (vWaits (holeReader v) v e.env e.instr).any (fun o => !o.ready) then s
    else if usesPoison s e then replayMem e .vsq r true s
    else if readsParity s.core e.instr then replayMem e .vsq r false s
    else
      match e.instr with
      | .vfence => setVec s { v with vsq := r, stores := v.stores ++ [{ env := e.env, instr := e.instr, writes := [] }] }
      | .vfenceArr _ _ =>
        setVec s { v with vsq := r, stores := v.stores ++ [{ env := e.env, instr := e.instr, writes := [], arr := some e.pa, stale := e.stale }] }
      | .vtst a _ _ _ t =>
        if (v.vlq.any fun o => decide (o.env.seqn < e.env.seqn) && (match o.instr with | .vtld .. => true | _ => false)) ||
            tableBusy v e.env.seqn t (tableEntries v s.core.seq.eff e a t) then s
        else
          let (now, later) := splitWrites e (tableWrites v s.core.seq.eff e a t) false
          let v1 := tableFlags v s.core.seq.eff e a t
          let u := now.foldl (fun u w => perform e.env w.kind w.addr w.n (w.vals.map HOp.val) w.elem false u)
            (setVec s { v1 with vsq := r, defer := v1.defer ++ later })
          { u with core := { u.core with par := coverTable now u.core.par } }
      | _ =>
        let (ok, bad, s1) := transAll e.instr (memElems v e.env e.instr) [] s
        if !bad.isEmpty then addFaults e bad s1
        else
          let (now, later) := splitWrites e (storeWrites v s.core e ok) false
          let u := s1.core.vec
          setVec s1 { u with vsq := r, stores := u.stores ++ [{ env := e.env, instr := e.instr, writes := now }], defer := u.defer ++ later }

/-- A store on its way may be performed (R10, R89, R90, R123, R170, R239). -/
def storeReady (s : State) (t : VStore) : Bool :=
  let v := freshVec s
  let n := t.env.num
  match t.instr with
  | .vfence =>
    !pendingOn s s.core .v n
  | .vfenceArr _ _ =>
    !(v.vsq.any fun e => decide (e.env.num < n)) && !(v.stores.any fun x => decide (x.env.num < n)) &&
      !(v.defer.any fun d => decide (d.env.num < n) && !d.onTable) && !heldByPoint s s.core .v n && bytesOk s s.core.seq.eff (storeBytes t) &&
      (storeBytes t).all fun b => wayOpen s b.1 2
  | _ =>
    !(v.vlq.any fun e => decide (e.env.num < n) && queuedMeets s t.env t.instr (storeBytes t) e) && !olderTouch v n (storeBytes t) &&
      !fenced v n && !((t.writes.any fun w => w.hs) && olderHs v n v.vlq) && !heldByPoint s s.core .v n &&
      !tagPending s s.core t.env.tag n && bytesOk s s.core.seq.eff (storeBytes t)

/-- A deferred write may be performed: in program order among accesses to HS pages (R90), and as a store may. -/
def deferReady (s : State) (d : Defer) : Bool :=
  let v := freshVec s
  let n := d.env.num
  d.vals.all HOp.ready && !(v.stores.any fun t => decide (t.env.seqn = d.env.seqn)) &&
    !(d.ordered && v.defer.any fun x => decide (x.env.seqn = d.env.seqn ∧ x.elem < d.elem) && x.ordered) &&
    (d.onTable || (!olderTouch v n (deferBytes d) && !fenced v n && !heldByPoint s s.core .v n && !tagPending s s.core d.env.tag n &&
      !(d.hs && olderHs v n v.vlq) && bytesOk s s.core.seq.eff (deferBytes d) &&
      !(v.vlq.any fun e => decide (e.env.num < n) && queuedMeets s d.env d.instr (deferBytes d) e)))

/-- Performs the deferred writes of store `n` that may be. -/
def performDefers (n : Nat) : List Defer → State → State
  | [], s => s
  | d :: r, s =>
    if decide (d.env.seqn = n) && deferReady s d then
      let s1 := setVec s { s.core.vec with defer := s.core.vec.defer.erase d }
      performDefers n r (perform d.env d.kind d.addr d.n (d.vals.map HOp.val) d.elem d.psn (chargeAll s.core.seq.eff (deferBytes d) s1))
    else performDefers n r s

/-- The deferred writes of store `n`, translated again where they must be (R105), that may be performed. -/
def runDefers (n : Nat) (s : State) : State :=
  match restoreStore n s with
  | (true, s1) => performDefers n s1.core.vec.defer s1
  | (false, s1) => s1

/-- The arrival of a `vfence.arr` at its signal (R88), at a home elsewhere by a message. -/
def arrive (pa : Nat) (s : State) : State :=
  if isRemote pa then send s (OutMsg.signal (remoteOf s pa).1 (remoteOf s pa).2 1) else sigDec pa 1 0x100 s

/-- The writes of a store that replace what was there, with their poison. -/
def coverWrites (t : VStore) : List (Nat × Nat × Bool) :=
  (t.writes.filter fun (w : VWrite) => decide (w.kind = .put)).map fun (w : VWrite) => (w.addr, w.n, w.psn)

/-- A store reaches its point of visibility; then its deferred writes that have their data. -/
def completeStore (n : Nat) (s : State) : State :=
  match restoreStore n s with
  | (false, s1) => s1
  | (true, s1) =>
    let s2 := match s1.core.vec.stores.find? fun t => decide (t.env.seqn = n) with
      | none => s1
      | some t =>
        if storeReady s1 t then
          let u := chargeAll s.core.seq.eff (storeBytes t)
            (setVec s1 { s1.core.vec with stores := s1.core.vec.stores.filter fun x => decide (x.env.seqn ≠ n) })
          match t.arr with
          | some pa =>
            -- a signal that is poisoned by now is reported as the accesses of the engine are (R326; DESIGN CHOICE: log entry 86)
            if !isRemote pa && isPoisoned s1 pa 64 then
              addFaults { instr := t.instr, env := t.env } [(0, t.env.x.toNat, 0x26, t.env.x.toNat / 4096)] s1
            else arrive pa u
          | none => coverPoison (coverWrites t)
              (t.writes.foldl (fun z (w : VWrite) => perform t.env w.kind w.addr w.n (w.vals.map HOp.val) w.elem w.psn z) u)
        else s1
    performDefers n s2.core.vec.defer s2

def completeLoad (n : Nat) (s : State) : State :=
  match s.core.vec.loads.find? fun l => decide (l.env.seqn = n) with
  | none => s
  | some l =>
    match reload l s with
    | (none, s1) => s1
    | (some l1, s1) =>
      let s2 := setVec s1 { s1.core.vec with loads := s1.core.vec.loads.map fun x => if x.env.seqn = n then l1 else x }
      if loadReady s2 l1 then
        landAll l1 (chargeAll s.core.seq.eff (loadBytes l1)
          (setVec s2 { s2.core.vec with loads := s2.core.vec.loads.filter fun x => decide (x.env.seqn ≠ n) }))
      else s2

end Sys2Proof.Machine
end

