-- ==== Sys2Proof/Machine/Still.lean ====
section
/-! DEFINITION. Fault holes (R194), and whether anything of a core can still go on before one of them is delivered (R193, R195, R228; R143,
R145). -/

namespace Sys2Proof.Machine

/-! ## Fault holes -/

def getHole (v : Vec) (id : Nat) : Option Hole := v.holes.find? fun h => decide (h.id = id)

def setHole (h : Hole) (v : Vec) : Vec := { v with holes := v.holes.map fun g => if g.id = h.id then h else g }

/-- A parent of an entry that is a fault hole (R194). -/
def faultParent (v : Vec) (h : Hole) : Option HFault :=
  ((parents h.ops).filterMap fun id => (getHole v id).bind Hole.fault).head?

/-- Entries that depend on a fault hole become fault holes, and set HF. -/
def spreadFaults : Nat → Vec → Vec
  | 0, v => v
  | n + 1, v =>
    match v.holes.find? fun h => h.fault.isNone && (faultParent v h).isSome with
    | none => v
    | some h =>
      let bit := ((faultParent v h).map HFault.bit).getD 0
      spreadFaults n (mergeFlags fHF (some (absIndex h.env h.elem)) (setHole { h with fault := some ⟨bit, true, 0, 0⟩ } v))

def isFault (v : Vec) (id : Nat) : Bool := ((getHole v id).bind Hole.fault).isSome

/-- Some of the operands wait for a fault hole. -/
def onFault (v : Vec) (ops : List HOp) : Bool := (parents ops).any (isFault v)

/-! ## What still goes on

An instruction that waits for an element of a fault hole (R191), for parents that are fault holes (R186), or for room in a hole queue full of
them (R192) goes on only once a settle fault has delivered the hole, and so does what waits for such an instruction. SETTLE, END, a save and a
discard wait as the manual says as long as anything of the core can go on; the fault that a SETTLE raises is not among what it waits for
(DEDUCED: log entry 83). -/

/-- The machine as it is once no access waits for a budget (R123) or a port (R308), and every other task's streams have ended. -/
def unhindered (s : State) : State :=
  let k := s.core
  let mine := s.copy.streams.filter fun t => decide (t.core = k.id ∧ t.tid = k.seq.tid ∧ t.launch = 0)
  { s with budgets := [], ports := s.ports.map (fun p => if p.st = 3 then p else { p with st := 2, paused := 0 })
           copy := { s.copy with streams := mine } }

/-- What a step of the vector engine changes where it does anything. -/
def vecChanged (a b : State) : Bool :=
  let v := a.core.vec
  let w := b.core.vec
  decide (v.vlq ≠ w.vlq) || decide (v.vxq ≠ w.vxq) || decide (v.vsq ≠ w.vsq) || decide (v.loads ≠ w.loads) || decide (v.stores ≠ w.stores) ||
    decide (v.defer ≠ w.defer) || decide (v.holes ≠ w.holes) || decide (v.faults ≠ w.faults) || decide (a.core.seq.mode ≠ b.core.seq.mode)

/-- The oldest instruction of a queue issues, a `vld.w` perhaps only at a later value of its watermark (R86). -/
def queuesMove (s : State) : Bool :=
  let v := s.core.vec
  let mark := match v.vlq with
    | e :: _ => (match e.instr with | .vldW .. => true | _ => false) && mayIssue s .vlq e
    | [] => false
  mark || vecChanged s (issueLoad s) || vecChanged s (issueLanes .agree s) || vecChanged s (issueStore s)

/-- A load, a store or a deferred write on its way is performed. -/
def accessesMove (s : State) : Bool :=
  let v := s.core.vec
  (v.loads.any fun l => vecChanged s (completeLoad l.env.seqn s)) ||
    ((v.stores.map fun t => t.env.seqn) ++ v.defer.map fun d => d.env.seqn).any fun n => vecChanged s (completeStore n s)

/-- A command of the current core's task outside the vector queues goes on. -/
def commandsMove (s : State) : Bool :=
  let k := s.core
  let mine := fun (c : Nat) (tid : BitVec 31) => decide (c = k.id ∧ tid = k.seq.tid)
  (k.mat.queue.any fun e => e.issued) || ((nextMat k.mat).any fun e => matReady s e) ||
    (s.copy.streams.any fun t => t.running || t.ends.isSome || mayStart s t) ||
    (s.near.any fun c => mine c.core c.tid && (c.data.isSome || nearReady s c)) ||
    s.fab.ops.any fun o => mine o.core o.tid && (o.lost || fabReady s o)

/-- Something of the current core goes on by itself: a mitt fills a hole, an instruction issues, an access or a command is performed. -/
def engineMoves (s : State) : Bool :=
  let u := unhindered s
  !s.core.seq.returns.isEmpty || !s.core.vec.faults.isEmpty || (s.core.vec.holes.any fun h => h.fault.isNone && !h.gone) ||
    queuesMove u || accessesMove u || commandsMove u

/-- There are fault holes, and nothing of the core goes on before they are delivered. -/
def faultStuck (s : State) : Bool :=
  let t := setVec s (spreadFaults s.core.vec.holes.length s.core.vec)
  (t.core.vec.holes.any fun h => h.fault.isSome) && !engineMoves t

end Sys2Proof.Machine
end

