-- ==== Sys2Proof/Machine/Mitt.lean ====
section
/-! DEFINITION. The mitts and what follows from their faults: filling holes (R186 to R188), fault holes (R194), SETTLE and settle faults
(R193, R195), memory faults (R199), fault frames and VRESTORE (R201 to R203). -/

namespace Sys2Proof.Machine

/-! ## Filling holes -/

/-- Entries before another: by (sequence number, element index). -/
def holeBefore (a b : Hole) : Bool := decide (a.env.seqn < b.env.seqn) || (decide (a.env.seqn = b.env.seqn) && decide (a.elem < b.elem))

/-- The first of a list of entries. -/
def firstHole : List Hole → Option Hole
  | [] => none
  | h :: r => match firstHole r with
    | some g => if holeBefore g h then some g else some h
    | none => some h

/-- The lowest flag bit that is set. -/
def lowBit (x : Nat) : Nat := ((List.range 8).find? fun b => bitAt x b).getD 0

/-- What a mitt computes for an entry whose operands are there. -/
def holeResult (h : Hole) : ER := vCompute h.instr h.env h.elem (h.ops.map HOp.val)

/-- An entry fills with a result: its registers, flags and `msat` bit (R188). -/
def landHole (h : Hole) (r : ER) (v : Vec) : Vec :=
  let v1 := mergeFlags r.2 (some (absIndex h.env h.elem)) (fillHole h r.1 v)
  if r.2 &&& fSAT ≠ 0 then setMsat v1 h.elem else v1

/-- Performs every deferred write that has its data and may be performed. -/
def flushDefers (s : State) : State :=
  ((s.core.vec.defer.map fun d => d.env.seqn).eraseDups).foldl (fun u n => runDefers n u) s

/-- The mitt cycles of one entry, 40 to 160, are charged to the RCB (R188): how many is a free value (log entry 16). -/
def chargeMitt (s : State) : State :=
  let r := s.core.seq.eff
  if amountOf s r.budgetRcb .mitt = unlimited then s
  else
    let (bs, t) := freeBytes s 1
    chargeBudget r .mitt s.core.id (40 + bytesNat bs % 121) t

/-- A mitt of the current core finishes the lowest eligible entry (R188, R194, R196); deferred writes that have their data now are performed
(R190). Where an element raises several enabled exceptions at once, its record shows the lowest of their flag bits (DESIGN CHOICE: log entry
95). -/
def mittFill (rc : Recheck) (s : State) : State :=
  let k := s.core
  let v := spreadFaults k.vec.holes.length k.vec
  match firstHole (v.holes.filter fun h => h.fault.isNone && h.ops.all HOp.ready) with
  | none => setVec s v
  | some h =>
    if !budgetOk s k.seq.eff .mitt k.id then setVec s v
    else if rc = .mismatch ∧ rechecked k.seq.eff h.id then
      if h.replay then machineCheck k.id 2 0 0 h.env.pc.toNat false s else setVec s (setHole { h with replay := true } v)
    else
      let r := holeResult h
      let en := enabledOf h.env.vtype r.2
      if traps h.instr ∧ en ≠ 0 then
        let v1 := mergeFlags fHF (some (absIndex h.env h.elem)) (setHole { h with fault := some ⟨lowBit en, false, r.1, r.2⟩ } v)
        chargeMitt (setVec s (spreadFaults v1.holes.length v1))
      else flushDefers (chargeMitt (setVec s (landHole h r v)))

/-! ## SETTLE (R193, R195, R228) -/

/-- What a SETTLE covers: named slots, or with `none` every register. -/
abbrev Cover := Option (List Nat)

def covers (c : Cover) (slots : List Nat) : Bool :=
  match c with
  | some l => meet l slots
  | none => true

def coveredHole (c : Cover) (h : Hole) : Bool := covers c h.dest.toList

/-- An earlier instruction that has yet to issue concerns the registers covered (R228); after `settle.all` every earlier instruction
counts, with the flags of its stores. -/
def settleWaitsQueue (s : State) (c : Cover) : Bool :=
  let v := s.core.vec
  let q := v.vlq ++ v.vxq ++ v.vsq
  match c with
  | some l => q.any fun e => meet l (slotsOf e.env.rot (formOf e.instr).dest ++ slotsOf e.env.rot (formOf e.instr).dest2)
  | none => !q.isEmpty || v.stores.any fun t => match t.instr with
      | .vscadd .. => true
      | _ => false

/-- A deferred store that captured a covered hole and is still to be performed, none of its holes having become a fault hole. -/
def settleWaitsStore (v : Vec) (c : Cover) : Bool :=
  v.defer.any fun d => covers c d.caps && !onFault v d.vals

/-- The fault holes delivered: those covered, and every fault hole they depend on (R195). -/
def withAncestors (v : Vec) : Nat → List Nat → List Nat
  | 0, ids => ids
  | n + 1, ids =>
    let up := (ids.flatMap fun id => match getHole v id with
      | some h => (parents h.ops).filter (isFault v)
      | none => []).filter fun id => !ids.contains id
    if up.isEmpty then ids else withAncestors v n (ids ++ up.eraseDups)

def delivered (v : Vec) (c : Cover) : List Nat :=
  withAncestors v v.holes.length ((v.holes.filter fun h => h.fault.isSome && coveredHole c h).map Hole.id)

/-- A delivered hole still waits for a parent that is no fault hole. -/
def deliveryWaits (v : Vec) (ids : List Nat) : Bool :=
  ids.any fun id => match getHole v id with
    | some h => (parents h.ops).any fun p => !ids.contains p
    | none => false

/-- The source of an update waits for a fault hole. -/
def nearOnFault (v : Vec) (c : NearCmd) : Bool :=
  match c.instr with
  | .nadd _ _ src _ | .naddr _ _ _ src _ => onFault v ((List.range c.w).map fun e => readSrc v c.env.rot src 32 e)
  | _ => false

/-- An earlier command outside the vector queues that writes a register covered has not issued (R228): MDRAIN, PDRAIN, CVLD, NADDR. -/
def settleWaitsOutside (s : State) (c : Cover) : Bool :=
  match c with
  | some l => meet l (outsideUnissued s s.core)
  | none => !(outsideUnissued s s.core).isEmpty

/-- SETTLE still waits. -/
def settleWaits (s : State) (c : Cover) : Bool :=
  let v := s.core.vec
  settleWaitsQueue s c || (v.holes.any fun h => coveredHole c h && h.fault.isNone) || settleWaitsStore v c || deliveryWaits v (delivered v c)

/-- Step 1 of R195 for the holes `ids`: each in order takes the value its mitt computed, or that follows from its parents'. The records
are gathered. -/
def deliverHoles : Nat → List Nat → Vec → Vec × List FrameRec
  | 0, _, v => (v, [])
  | n + 1, ids, v =>
    match firstHole (v.holes.filter fun h => ids.contains h.id && h.ops.all HOp.ready) with
    | none => (v, [])
    | some h =>
      let f := h.fault.getD ⟨0, false, 0, 0⟩
      let r : ER := if f.dep then holeResult h else (f.val, f.flags)
      let x : FrameRec := { vaddr := 0, elem := (absIndex h.env h.elem).toNat, head := h.env.head, seqn := h.env.seqn, cause := f.bit,
                            bits := 4 * f.dep.toNat, dest := dstField (formOf h.instr).dest, pc := h.env.pc }
      let (v1, xs) := deliverHoles n (ids.filter fun i => decide (i ≠ h.id)) (landHole h r v)
      (v1, x :: xs)

/-! ## Fault frames (R202) -/

def recImage (r : FrameRec) : Nat :=
  r.vaddr % 2 ^ 57 + r.elem * 2 ^ 64 + r.head % 65536 * 2 ^ 128 + r.seqn % 65536 * 2 ^ 144 + r.cause * 2 ^ 160 + r.bits * 2 ^ 168 +
    r.dest * 2 ^ 176 + r.pc.toNat % 2 ^ 57 * 2 ^ 192

/-- Writes a frame into a free slot and takes the trap (R195, R199); where none is possible the task ends (R201). `tval` is given the
slot's address as the task sees it. -/
def takeFrame (kind cause : Nat) (recs : List FrameRec) (rpc : Word) (tval : Nat → Word) (pre : State → State)
    (lost : State → State) (s : State) : State :=
  let q := s.core.seq
  match (if q.inh || q.eff.trap = 0 then none else freeSlot s q.eff) with
  | none => lost s
  | some i =>
    let pa := slotAddr s q.eff i
    let hdr := 0x5646524D + 2 ^ 32 + kind * 2 ^ 40 + recs.length * 2 ^ 48 + rpc.toNat * 2 ^ 64 + q.tid.toNat * 2 ^ 128
    let s1 := (slotSet q.eff i true s).wr pa 0x1800 hdr
    let s2 := (List.range recs.length).foldl (fun t j =>
      match recs[j]? with
      | some r => t.wr (pa + 0x800 + 32 * j) 32 (recImage r)
      | none => t) s1
    let view := slotView s q.eff i
    enterTrap cause (BitVec.ofNat 64 view) (tval view) (pre s2)

/-- The settle fault of the current core (R195) at the head at the PC. -/
def settleFault (ids : List Nat) (s : State) : State :=
  let q := s.core.seq
  if q.inh || q.eff.trap = 0 || (freeSlot s q.eff).isNone then
    let low := (ids.filterMap fun id => (getHole s.core.vec id).map fun h => (absIndex h.env h.elem).toNat).foldl min (2 ^ 64 - 1)
    endWithFault 0x10 q.pc (BitVec.ofNat 64 low) s
  else
    let (v, recs) := deliverHoles s.core.vec.holes.length ids s.core.vec
    let low := (recs.map FrameRec.elem).foldl min (2 ^ 64 - 1)
    let v1 := { v with vidx := v.vidx.setIfInBounds 6 (BitVec.ofNat 64 low) }
    let pa := ((freeSlot s q.eff).map (slotAddr s q.eff)).getD 0
    let pre := fun (t : State) => { t with slots := ⟨pa, q.tid, { q with latches := [] }, {}, []⟩ :: t.slots }
    takeFrame 0 0x10 recs q.pc (fun _ => BitVec.ofNat 64 low) pre (fun t => t) (flushDefers (setVec s v1))

/-- Settling what is covered: it waits (at a pre-emption point, where `point`), raises a settle fault, or goes on with `f`. Where all that it
waits for can go on only once fault holes have been delivered, it delivers those of its registers, or if they have none every one (DEDUCED:
log entry 83). -/
def settleOver (c : Cover) (point : Bool) (f : State → Out) (s : State) : Out :=
  let v := spreadFaults s.core.vec.holes.length s.core.vec
  let t := setVec s v
  let waits := settleWaits t c || settleWaitsOutside t c
  let ids := delivered v c
  if !waits && ids.isEmpty then f t
  else if !waits && !transPending t then .next (settleFault ids t)
  else if faultStuck t then .next (settleFault (if ids.isEmpty then delivered v none else ids) t)
  else stall point t

/-! ## Memory faults (R199, R201) -/

/-- The engine state that a memory frame carries off: what is left in the engine is empty, and the scalar registers that queued
instructions would write are free for the handler. -/
def carryOff (pa : Nat) (s : State) : State :=
  let k := s.core
  let v := k.vec
  let queued := (v.vlq ++ v.vxq ++ v.vsq).flatMap fun e => (formOf e.instr).sd
  -- the VL that a CVLD is to give stays awaited (R261)
  let mine := match v.block with
    | some b => decide (b.seqn ≠ 0)
    | none => false
  let v1 := { v with vlq := [], vxq := [], vsq := [], loads := [], stores := [], holes := [], defer := [],
                     block := if mine then none else v.block, faults := [] }
  { s with core := { k with vec := v1, seq := { k.seq with busy := k.seq.busy.filter fun r => !queued.contains r } }
           slots := ⟨pa, k.seq.tid, { k.seq with latches := [] }, staleAll { v with faults := [], block := if mine then v.block else none }, []⟩ :: s.slots }

/-- What the vector engine has issued has completed, but for what waits for holes (R199). -/
def issuedDone (s : State) : Bool :=
  s.core.seq.returns.isEmpty && !(s.core.vec.loads.any fun l => !l.stale && loadReady s l) &&
    !(s.core.vec.stores.any fun t => !t.stale && storeReady s t)

/-- The oldest faulting instruction's records lead. -/
def oldestRec (rs : List FrameRec) : Nat :=
  let low := (rs.map FrameRec.seqn).foldl min ((rs.map FrameRec.seqn).headD 0)
  ((List.range rs.length).find? fun j => decide ((rs[j]?).map FrameRec.seqn = some low)).getD 0

/-- Delivers the memory fault of the current core: the frame, or the end of the task, whose faulting instructions are dropped. -/
def memoryFault (s : State) : State :=
  let v := s.core.vec
  let rs := v.faults
  let j := oldestRec rs
  let bad := rs.map FrameRec.seqn
  let keep := fun (l : List VEntry) => l.filter fun e => !bad.contains e.env.seqn
  let lost := fun t => setVec (endWithFault 0x11 t.core.seq.pc (BitVec.ofNat 64 ((rs[j]?.map FrameRec.vaddr).getD 0)) t)
    { v with vlq := keep v.vlq, vsq := keep v.vsq, faults := [],
             block := match v.block with
               | some b => if bad.contains b.seqn then none else some b
               | none => none }
  let pa := (freeSlot s s.core.seq.eff).map (slotAddr s s.core.seq.eff)
  takeFrame 1 0x11 rs s.core.seq.pc (fun view => BitVec.ofNat 64 (view + 0x800 + 32 * j)) (carryOff (pa.getD 0)) lost s

/-- VRESTORE (R203): the engine state of a memory frame returns, the last-result file as part of the lane state. A hole whose element
the handler has rewritten has lost its write. -/
def restoreEngine (pa : Nat) (s : State) : State :=
  match s.slots.find? fun e => decide (e.slot = pa) with
  | none => s
  | some e =>
    let v := s.core.vec
    let o := e.vec
    let back := o.holes.map fun h => match h.dest with
      | some d => if h.live && bits (presImg v d) (presLo h.w h.elem) (presLen h.w) ≠ 0 then { h with live := false } else h
      | none => h
    let queued := (o.vlq ++ o.vxq ++ o.vsq).flatMap fun x => ((formOf x.instr).sd).filter fun r => decide (r ≠ 0)
    let v1 := { v with vlq := o.vlq ++ v.vlq, vxq := o.vxq ++ v.vxq, vsq := o.vsq ++ v.vsq, loads := o.loads ++ v.loads,
                       stores := o.stores ++ v.stores, holes := back ++ v.holes, defer := o.defer ++ v.defer, l := o.l, pl := o.pl,
                       block := match o.block with
                         | some b => some b
                         | none => v.block }
    setSeq (setVec s v1) { s.core.seq with busy := queued ++ s.core.seq.busy }

end Sys2Proof.Machine
end

