-- ==== Sys2Proof/Machine/Sched.lean ====
section
/-! DEFINITION. Pre-emption, saving and discarding of tasks, the events of the arbiters (R123, R125, R143 to R146), and what a core
does before its next instruction once the vector engine and the arbiter are heard (R144, R199). -/

namespace Sys2Proof.Machine

/-! ## Discarding (R143) -/

/-- Steps 1 to 3: what is queued and not issued is cancelled, fabric operations included that have not been sent (log entry 17), and the
task's copy streams. A near-memory command that has been dispatched is waited for (R298). -/
def stopTask (s : State) : State :=
  let v := s.core.vec
  let m := s.core.mat
  let s1 := setMat (setVec s { v with vlq := [], vxq := [], vsq := [] }) { m with queue := m.queue.filter fun e => e.issued }
  cancelStreams 0 ((taskStreams s1 s1.core.seq.tid).map Stream.id) (cancelFab s1.core.seq.tid s1)

/-- Every access already issued has finished: deferred stores, near-memory and fabric commands included (R143, R298). What can finish only
once a fault hole has been delivered goes with the hole (DEDUCED: log entry 83). -/
def discardReady (s : State) : Bool :=
  let c := s.core.id
  latchesGo s && ((quiet s && (taskStreams s s.core.seq.tid).isEmpty && !settleWaitsStore s.core.vec none &&
    !(s.near.any fun x => decide (x.core = c ∧ x.tid = s.core.seq.tid)) && !(s.fab.ops.any fun x => decide (x.core = c ∧ x.tid = s.core.seq.tid))) ||
    faultStuck s)

/-- The discard goes on: it ends once nothing is under way. A TLBINV it was waiting in goes on without it. -/
def tryDiscard (s : State) : State :=
  if discardReady s then
    let t := discardTask (cancelNear s.core.seq.tid s)
    { t with shoot := t.shoot.map fun h => if h.core = t.core.id then { h with core := 2048 } else h }
  else setSeq s { s.core.seq with stall := true, atPoint := false }

/-- The current core's running task is asked to go (R144). -/
def askPreempt (s : State) : State :=
  let q := s.core.seq
  if q.mode ≠ .running then s
  else
    let t := setSeq s { q with preempt := true }
    if q.cmt || q.flight.isSome then t else tryDiscard (stopTask t)

/-! ## Before an instruction (R144, R199, R201) -/

def hold (point : Bool) (s : State) : State := setSeq s { s.core.seq with stall := true, atPoint := point }

/-- What the current core does next: deliver a memory fault, go on being discarded or wait to be saved, or run an instruction. -/
def turn (s : State) : Prep :=
  let q := s.core.seq
  if q.mode ≠ .running then .done s
  -- an access that has been sent is performed first (R143, R331)
  else if q.flight.isSome then prepare s
  else if q.preempt && !q.cmt then .done (tryDiscard (stopTask s))
  -- a TLBINV that has been issued completes first (R105)
  else if s.shoot.any fun h => decide (h.core = s.core.id) then prepare s
  else if !s.core.vec.faults.isEmpty then .done (if issuedDone s then memoryFault s else hold q.atPoint s)
  else if q.preempt && q.atPoint then .done (hold true s)
  else prepare s

/-! ## Saving (R145, R198, R201) -/

/-- Data that is still to be written to a register of the task, or read from one (R261, R302): an access that a save waits for. -/
def deliveries (s : State) : Bool :=
  let c := s.core.id
  (s.copy.streams.any fun t => decide (t.core = c ∧ t.tid = s.core.seq.tid) && t.deliver.isSome) ||
    s.near.any fun x => decide (x.core = c ∧ x.tid = s.core.seq.tid) && (match x.instr with
      | .nadd .. | .naddr .. => true
      | _ => false)

/-- The committed task of the current core stands at a pre-emption point with nothing under way. What can finish only once a fault hole has
been delivered goes into the context with the hole (R198; DEDUCED: log entry 83). -/
def saveReady (s : State) : Bool :=
  let q := s.core.seq
  decide (q.mode = .running) && q.preempt && q.cmt && q.atPoint && s.core.vec.faults.isEmpty &&
    ((s.core.vec.vxq.isEmpty && !transPending s && quiet s && !deliveries s) || faultStuck s)

/-- Without a free slot the task keeps running, until the arbiter's next decision (R146); a swap of its partition is refused. -/
def keepRunning (s : State) : State :=
  let t := setSeq s { s.core.seq with preempt := false, yielding := false, stall := false }
  if t.cfg.swap = 1 ∧ t.core.seq.eff.part = t.cfg.swapRcb then { t with cfg := { t.cfg with swap := 3 } } else t

/-- TASK_SAVE. -/
def execTaskSave (c : Nat) (s : State) : Out :=
  .next (onCore c (fun t => if saveReady t then (saveTask t).getD (keepRunning t) else t) s)

/-- CONTEXT_SPILL: while the core is idle (R145). -/
def execContextSpill (c : Nat) (s : State) : Out :=
  .next (onCore c (fun t => if t.core.seq.mode = .idle then (spillShadow t).getD t else t) s)

/-! ## Arbiters -/

/-- READY_QUEUE_ARBITRATION (R125): core c is one of the 1,536. -/
def execReadyQueueArbitration (c : Nat) (s : State) : Out := .next (if c < 1536 then onCore c arbitrate s else s)

/-- PREEMPTION_REQUEST at cluster `k` (R144). -/
def execPreemptionRequest (k : Nat) (s : State) : Out :=
  .next (if k < 96 then
    match preemptTarget s k with
    | some c => onCore c askPreempt s
    | none => s
  else s)

/-- BUDGET_PERIOD (R123): the arbiter's remaining amount is the full amount again. -/
def execBudgetPeriod (rcb : Nat) (act : Activity) (arb : Nat) (s : State) : Out :=
  .next { s with budgets := s.budgets.filter fun b => !(decide (b.rcb = rcb ∧ b.act = act ∧ b.arb = arb)) }

end Sys2Proof.Machine
end

