-- ==== Sys2Proof/Machine/Memory.lean ====
section
/-! DEFINITION. Scalar memory and atomics, class 0x3 (R73, R74, R156, R165 to R168, R326, R343). -/

namespace Sys2Proof.Machine

/-- Extends `n` bits of a value to 64 by an integer type (R165). -/
def extendTy (t : ETy) (x : Nat) : Word := if t.isS then sext64 t.width x else BitVec.ofNat 64 (x % 2 ^ t.width)

/-- A read of `n` bytes that the data cache serves (R73), if it does: a cached line that differs from memory is still used, unless it has
been evicted, as the next choice says (`true`: still there). HS and NI pages bypass the cache (R102), and so does the core's own scratchpad,
whose every access is performed there (log entry 15). -/
def cacheRead (p : Phys) (n : Nat) (s : State) : Option Nat × State :=
  let b := p.pa / 64 * 64
  match (if p.hs || p.ni || isPad p.pa then none else s.core.seq.dcache.find? fun e => decide (e.1 = b)) with
  | none => (none, s)
  | some e =>
    let x := bits e.2 (8 * (p.pa - b)) (8 * n)
    if e.2 = s.rd b 64 ∧ !isPoisoned s p.pa n then (some x, s)
    else
      match popChoice s with
      | (true, t) => (some x, t)
      | (false, t) => (none, t)

/-- A read of `n` bytes at the home, which leaves the line in the data cache (R73). -/
def fillRead (p : Phys) (n : Nat) (s : State) : Nat × State :=
  if p.hs || p.ni || isPad p.pa then (s.rd p.pa n, s) else (s.rd p.pa n, dcFill (p.pa / 64 * 64) s)

/-- A read of `n` bytes through the data cache. -/
def readCached (p : Phys) (n : Nat) (s : State) : Nat × State :=
  match cacheRead p n s with
  | (some x, t) => (x, t)
  | (none, t) => fillRead p n t

/-- An access whose answer is still to come (R156, R168): `r` says what it does then. -/
def awaitReturn (r : ReturnSlot) (s : State) : State :=
  let q := s.core.seq
  bumpNum (setSeq s { q with busy := if r.d = 0 then q.busy else r.d :: q.busy,
                             returns := q.returns ++ [{ r with num := nextNum s, pc := q.pc }] })

/-- A write to host or peer memory cannot go out: its virtual channel is paused (R308). -/
def farShut (vc pa : Nat) (s : State) : Option Bool := if isRemote pa && !wayOpen s pa vc then some false else none

/-- The same for an access with an answer. Whether the answer will be poisoned is the next choice: that is a precise trap of this head, which
waits for what it waits for (R35, R326; log entry 15). -/
def farHeld (vc pa : Nat) (s : State) : Option Bool :=
  if isRemote pa && (!wayOpen s pa vc || (trapWaits s && (popChoice s).1)) then some false else none

/-- An access to host or peer memory, with an answer, goes out; `commits` says whether it commits its task. A poisoned answer is a precise
trap of this head (R35, R142, R326), so that no later head runs before such an answer (log entry 15). -/
def askFar (d : SReg) (ty : ETy) (va : Word) (pa vc : Nat) (commits : Bool) (m : OutMsg) (s : State) : Out :=
  match popChoice s with
  | (true, s1) => trapHere 0x26 va (send s1 m)
  | (false, s1) =>
    let s2 := if commits then commitTask s1 else s1
    done (awaitReturn { d := d, ty := ty, num := 0, va := va, via := some (portOf s pa, vc) } (send s2 m))

/-- The head at the PC has sent its access. -/
def setFlight (fl : Option Flight) (s : State) : State := setSeq s { s.core.seq with flight := fl }

/-- An access whose translation is `p`, and which reaches its home: it waits for a budget of its RCB where its bytes pass (R123), and while
`held` says so, at a pre-emption point or not. Over the link of a capacity-tier chip it is sent, and performed at once or at a later turn of
the core, as the next choice says (`false`: at once); no later head runs before (R331; log entry 15). -/
def crossTo (p : Phys) (n : Nat) (held : Option Bool) (f : State → Out) (s : State) : Out :=
  let r := s.core.seq.eff
  if let some point := held then stall point s
  else if !memOk s r p.pa then stall false s
  else
    let s1 := chargeMem r p.pa n s
    match place p.pa with
    | .tier _ =>
      match popChoice s1 with
      | (true, s2) => stall false (setFlight (some { pa := p.pa, hs := p.hs, ni := p.ni }) s2)
      | (false, s2) => f s2
    | _ => f s1

/-- Where a scalar access stands: it has been sent, it has been lost with the link it went over (R331), or neither. -/
inductive Reach1 where
  | sent (p : Phys)
  | lost (pa : Nat)
  | fresh
  deriving DecidableEq, Repr

def reach1 (s : State) : Reach1 :=
  match s.core.seq.flight with
  | some fl => if fl.lost then .lost fl.pa else .sent { pa := fl.pa, hs := fl.hs, ni := fl.ni }
  | none => .fresh

/-- An access that is lost with its chip's link comes back poisoned: the precise trap of cause 0x26, and the launch ends with TIER_LOST
(R331). -/
def lostTrap (va : Word) (s : State) : Out :=
  if trapWaits s then stall false s else trapHere 0x26 va (tierLost s.core.seq.launch (setFlight none s))

/-- The common start of a scalar access of `n` bytes: it waits for order, translates, waits for a budget of its RCB where its bytes pass
and crosses the link of a chip (R103, R123, R168, R331). -/
def reachS (a : Acc) (va : Word) (n : Nat) (held : Nat → State → Option Bool) (f : Phys → State → Out) (s : State) : Out :=
  match reach1 s with
  | .lost _ => lostTrap va s
  | .sent p => f p (setFlight none s)
  | .fresh =>
    if scalarWaits s then stall false s
    else
      match transS a va s with
      | (.error c, s1) => trapHere c va s1
      | (.ok p, s1) => crossTo p n (held p.pa s1) (f p) s1

/-- The same for an instruction that is a pre-emption point as long as it waits (R144, R169). -/
def reachPoint (a : Acc) (va : Word) (n : Nat) (held : Nat → State → Option Bool) (f : Phys → State → Out) (s : State) : Out :=
  if s.core.seq.flight.isNone && scalarWaits s then stall true s
  else
    reachS a va n (fun pa t => if memOk t t.core.seq.eff pa then (held pa t).map fun _ => true else some true) f s

/-- A load of the module's own memory reads its home when the data comes back (R156): the next choice says whether that is now (`false`) or
at a later SCALAR_DATA_RETURN, other paths' accesses coming between (R13). -/
def readHere (ty : ETy) (d : SReg) (a : Word) (p : Phys) (s : State) : Out :=
  let n := ty.width / 8
  if isPoisoned s p.pa n then trapHere 0x26 a s
  else
    match popChoice s with
    | (true, s1) => done (awaitReturn { d := d, ty := ty, num := 0, here := some p.pa, va := a, old := s1.rd p.pa n } s1)
    | (false, s1) =>
      let (x, s2) := fillRead p n s1
      done (bumpNum (setS s2 d (extendTy ty x)))

/-- LD (R165). -/
def execLd (ty : ETy) (d b : SReg) (disp : BitVec 22) (s : State) : Out :=
  let a := getS s b + disp.signExtend 64
  let n := ty.width / 8
  if a.toNat % n ≠ 0 then trapHere 0x09 a s
  else
    match reach1 s with
    | .lost _ => lostTrap a s
    | .sent p => readHere ty d a p (setFlight none s)
    | .fresh =>
      if scalarWaits s then stall false s
      else
        match transS .r a s with
        | (.error c, s1) => trapHere c a s1
        | (.ok p, s1) =>
          match cacheRead p n s1 with
          | (some x, s2) => done (bumpNum (setS s2 d (extendTy ty x)))
          | (none, s2) =>
            crossTo p n (farHeld 0 p.pa s2) (fun s3 =>
              if isRemote p.pa then askFar d ty a p.pa 0 false (OutMsg.read (remoteOf s3 p.pa).1 (remoteOf s3 p.pa).2 n) s3
              else readHere ty d a p s3) s2

/-- Translation of a store of `n` bytes, which may also reach a launch window where it has 8 (R343). -/
def transStore (n : Nat) (a : Word) (s : State) : Except Nat Phys × State :=
  translateFor (.scalar s.core.id) (some s.core.id) s.core.seq.eff .s .w { window := decide (n = 8) } a s

/-- A write to host or peer memory goes out, and is accepted later (R72, R75). -/
def postFar (va : Word) (pa n x : Nat) (s : State) : State :=
  awaitReturn { d := 0, ty := .z64, num := 0, posted := true, wr := [(va.toNat, n)], va := va, via := some (portOf s pa, 0) }
    (send s (OutMsg.write (remoteOf s pa).1 (remoteOf s pa).2 (natBytes n x)))

/-- A write that is lost with the link it went over completes, and its bytes are undefined (R331). -/
def lostWrite (pa n : Nat) (s : State) : State :=
  let (bs, s1) := freeBytes (tierLost s.core.seq.launch (setFlight none s)) n
  dcUpdate pa (s1.wr pa n (bytesNat bs))

/-- A scalar write at its home, and what else the instruction does: it goes out to host or peer memory, or is performed here. -/
def storeHome (va : Word) (p : Phys) (n x : Nat) (f : State → State) (t : State) : Out :=
  if isRemote p.pa then done (f (postFar va p.pa n x t))
  else done (bumpNum (f (dcUpdate p.pa (t.wr p.pa n x))))

/-- ST (R165, R343). A store to the module's own memory is performed there as it issues, or, on the capacity tier, at the end of its way over
the link (DESIGN CHOICE: log entry 15); one that is lost with the link completes, and its bytes are undefined (R331). -/
def execSt (ty : ETy) (a b : SReg) (disp : BitVec 22) (s : State) : Out :=
  let va := getS s b + disp.signExtend 64
  let n := ty.width / 8
  let x := getS s a
  let put := fun (p : Phys) (t : State) =>
    match place p.pa with
    | .window q off => done (bumpNum (doorbell q off x t))
    | _ => storeHome va p n x.toNat id t
  if va.toNat % n ≠ 0 then trapHere 0x09 va s
  else
    match reach1 s with
    | .lost pa => done (bumpNum (lostWrite pa n s))
    | .sent p => put p (setFlight none s)
    | .fresh =>
      if scalarWaits s then stall false s
      else
        match transStore n va s with
        | (.error c, s1) => trapHere c va s1
        | (.ok p, s1) => crossTo p n (farShut 0 p.pa s1) (put p) s1

/-- f(old, v) of R166 on values of `w` bits. -/
def amoFn (op : AmoOp) (w old v : Nat) : Nat :=
  let i := fun x => sgn w x
  match op with
  | .add => (old + v) % 2 ^ w
  | .and => Nat.land old v
  | .or => Nat.lor old v
  | .xor => Nat.xor old v
  | .min => if i old ≤ i v then old else v
  | .max => if i old ≤ i v then v else old
  | .minz => min old v
  | .maxz => max old v
  | .swap => v

/-- What an atomic writes at its home, if anything, on values of `w` bits (R166, R167). -/
def atomicFn (op : AtomicOp) (w old : Nat) : Option Nat :=
  match op with
  | .amo f v => some (amoFn f w old v)
  | .cas e new => if old = e then some new else none
  | _ => none

/-- An atomic at the home of an address (R74, R168): it commits the task. To host or peer memory it goes as one request, with its
operation and operands. -/
def atomicAt (d : SReg) (w64 : Bool) (a : Word) (op : AtomicOp) (s : State) : Out :=
  let n := if w64 then 8 else 4
  let ty : ETy := if w64 then .z64 else .z32
  if a.toNat % n ≠ 0 then trapHere 0x09 a s
  else
    reachS .rw a n (farHeld 2) (fun p s1 =>
      if isRemote p.pa then
        askFar d ty a p.pa 2 true (OutMsg.atomic (remoteOf s1 p.pa).1 (remoteOf s1 p.pa).2 n op) s1
      else if isPoisoned s1 p.pa n then trapHere 0x26 a s1
      else
        let s2 := commitTask s1
        let old := s2.rd p.pa n
        let s3 := match atomicFn op (8 * n) old with
          | some y => s2.wr p.pa n y
          | none => s2
        done (bumpNum (setS (dcUpdate p.pa s3) d (BitVec.ofNat 64 old)))) s

def execAmo (op : AmoOp) (d b a : SReg) (_sc : Scope) (w64 : Bool) (disp : BitVec 16) (s : State) : Out :=
  let w := if w64 then 64 else 32
  atomicAt d w64 (getS s b + disp.signExtend 64) (.amo op ((getS s a).toNat % 2 ^ w)) s

def execCas (d b e n : SReg) (_sc : Scope) (w64 : Bool) (disp : BitVec 16) (s : State) : Out :=
  let w := if w64 then 64 else 32
  atomicAt d w64 (getS s b + disp.signExtend 64) (.cas ((getS s e).toNat % 2 ^ w) ((getS s n).toNat % 2 ^ w)) s

/-- The request of an access has got out, on an open virtual channel (R308). -/
def ReturnSlot.out (r : ReturnSlot) (s : State) : Bool :=
  match r.via with
  | some (p, vc) => chanOpen s p vc
  | none => true

/-- What a load of the module's own memory brings when it is read this late: what stands at its home, or what stood there as it issued
where that is poisoned by now or out of reach (R13, R35: a poisoned answer would have trapped at the head; log entry 15). -/
def lateValue (r : ReturnSlot) (pa : Nat) (s : State) : Nat :=
  let n := r.ty.width / 8
  if isPoisoned s pa n || engineLost s pa then r.old else s.rd pa n

/-- SCALAR_DATA_RETURN: the oldest answer writes its register (R156); that of a store or a SIGDEC is its acceptance (R72, R168). -/
def execScalarDataReturn (c : Nat) (v : Word) (s : State) : Out :=
  .next (onCore c (fun t =>
    match t.core.seq.returns with
    | [] => t
    | r :: rest =>
      if !r.out t then t else
      let t1 := setSeq t { t.core.seq with returns := rest, busy := t.core.seq.busy.erase r.d }
      if r.posted then t1
      else
        setS t1 r.d (extendTy r.ty (match r.here with
          | some pa => lateValue r pa t
          | none => v.toNat))) s)

end Sys2Proof.Machine
end

