-- ==== Sys2Proof/Machine/VDispatch.lean ====
section
/-! DEFINITION. Dispatch of vector instructions into their queues (R8, R177, R204, R205, R219, R233): checks at the head, then the entry
with everything it takes in program order. -/

namespace Sys2Proof.Machine

/-- The scalar operands read at dispatch: address, shift amount or value, and stride or column. -/
def vScalars (s : State) (i : Instr) : Word × Word :=
  let size := fun (t : ETy) => BitVec.ofNat 64 (accSize t)
  match i with
  | .vshlw _ _ r _ | .vshrw _ _ r _ | .vfunl _ _ _ r _ | .vfunr _ _ _ r _ | .vslideu _ _ r _ _ _ | .vslided _ _ r _ _ _ => (getS s r, 0)
  | .vsplat _ a _ _ _ => (getS s a, 0)
  | .vfib _ _ _ c _ _ => (getS s c, 0)
  | .vld _ b disp _ _ t | .vldW _ b disp _ _ _ t | .vldff _ b _ disp _ _ t => (getS s b + disp.signExtend 64, size t)
  | .vlds _ b x disp _ _ _ => (getS s b + disp.signExtend 64, getS s x)
  | .vst _ b disp _ _ t => (getS s b + disp.signExtend 64, size t)
  | .vsts _ b x disp _ _ _ => (getS s b + disp.signExtend 64, getS s x)
  | .vgath _ b _ _ _ _ _ | .vscat _ _ b _ _ _ _ | .vscadd _ _ b _ _ _ _ => (getS s b, 0)
  | .vsell _ _ b _ c _ => (getS s b, getS s c)
  | .vfenceArr b _ => (getS s b, 0)
  | _ => (0, 0)

/-- A precise misaligned trap (R233): the value charged. -/
def vMisaligned (i : Instr) (x y : Word) : Option Word :=
  let n := accSize (memTy i)
  let off := fun (w : Word) (m : Nat) => decide (w.toNat % m ≠ 0)
  match i with
  | .vld .. | .vldW .. | .vldff .. | .vst .. => if off x n then some x else none
  | .vlds .. | .vsts .. => if off x n then some x else if off y n then some y else none
  | .vsell .. | .vfenceArr .. => if off x 64 then some x else none
  | _ => none

/-- A malformed watermark object (R85). DESIGN CHOICE (log entry 66): a scope that R71 assigns no meaning is malformed too. -/
def markObjectBad (s : State) (obj : Nat) : Bool :=
  let w := fun k => s.rd (obj + k) 8
  let e := bits (w 16) 0 16
  decide (bits (w 8) 57 7 ≠ 0) || decide (bits (w 16) 16 48 ≠ 0) || decide (bits (w 24) 3 61 ≠ 0) || decide (4 < bits (w 24) 0 3) ||
    decide (s.rd (obj + 32) 32 ≠ 0) || !((List.range 13).any fun k => decide (e = 2 ^ k))

/-- The checks of a vector instruction at its head: a cause with its `sys.tval`. -/
def vChecks (i : Instr) (f : VForm) (x y : Word) (s : State) : Option (Nat × Word) :=
  let v := s.core.vec
  let head := BitVec.ofNat 64 (curHead s)
  let grp := match i with
    | .vdeq .. => decide (bits v.vtype.toNat 5 2 = 3)
    | _ => false
  let mark : Option (Nat × Word) := match i with
    | .vldW _ _ _ w _ _ _ =>
      match (s.core.seq.w[w.toNat]?).getD none with
      | none => some (0x01, head)
      | some r => if markObjectBad s r.obj then some (0x07, BitVec.ofNat 64 r.obj) else none
    | _ => none
  if grp then some (0x01, head)
  else if f.types.any fun t => decide (t.vlmax < v.vl.toNat) then some (0x04, v.vl)
  else
    match mark with
    | some c => some c
    | none => (vMisaligned i x y).map fun a => (0x09, a)

/-- Whether nothing is dispatched after the instruction until it has given its VL (R235, R243). -/
def blocksDispatch : Instr → Bool
  | .vldff .. | .vfib .. => true
  | _ => false

/-- The instruction enters its queue: the next sequence number, what it takes of the state, its scalar destinations marked (R8). -/
def enqueue (i : Instr) (f : VForm) (x y : Word) (pa : Nat) (s : State) : State :=
  let v := s.core.vec
  let tag := match i with
    | .vst .. | .vsts .. | .vscat .. | .vscadd .. => s.core.seq.eff.tagbase
    | _ => 0
  let env := { captureEnv s (curHead s) (stagePred s.core.seq.loops f.ps.toNat) x y tag with seqn := v.seqn + 1 }
  let e : VEntry := { instr := i, env := env, pa := pa }
  let v1 := setQueue { v with seqn := v.seqn + 1, num := v.num + 1 } f.queue (queueOf v f.queue ++ [e])
  let v2 := if blocksDispatch i then { v1 with block := some ⟨env.seqn, f.sd⟩ } else v1
  setSeq (setVec s v2) { s.core.seq with busy := (f.sd.filter fun r => decide (r ≠ 0)) ++ s.core.seq.busy }

/-- Dispatch of a vector instruction. -/
def vDispatch (i : Instr) (s : State) : Out :=
  let f := formOf i
  let (x, y) := vScalars s i
  if s.core.vec.block.isSome then stall false s
  else
    match vChecks i f x y s with
    | some (c, v) => trapHere c v s
    | none => if 64 ≤ (queueOf s.core.vec f.queue).length then stall false s else done (enqueue i f x y 0 s)

/-- `vfence.arr` (R88, R239): its signal is translated at dispatch, and it commits the task. -/
def vDispatchArr (b : SReg) (sc : Scope) (s : State) : Out :=
  let i : Instr := .vfenceArr b sc
  let f := formOf i
  let (x, y) := vScalars s i
  if s.core.vec.block.isSome then stall false s
  else
    match vMisaligned i x y with
    | some a => trapHere 0x09 a s
    | none =>
      match transS .rw x s with
      | (.error c, s1) => trapHere c x s1
      | (.ok p, s1) =>
        if isPoisoned s1 p.pa 64 then trapHere 0x26 x s1
        else if 64 ≤ s1.core.vec.vsq.length then stall false s1
        else done (enqueue i f x y p.pa (commitTask s1))

/-- An instruction that the control core performs itself takes a sequence number and enters the VXQ as a marker (R219). -/
def takeSeqn (i : Instr) (s : State) : State :=
  let v := s.core.vec
  let e : VEntry := { instr := i, env := { seqn := v.seqn + 1, num := v.num, pc := s.core.seq.pc, head := curHead s, slip := v.slip } }
  setVec s { v with seqn := v.seqn + 1, vxq := v.vxq ++ [e] }

/-- Such an instruction waits while an earlier one is to give its VL (R235, R243, R261), and for room in the VXQ (R8). -/
def marked (f : State → Out) (s : State) : Out :=
  if s.core.vec.block.isSome || decide (64 ≤ s.core.vec.vxq.length) then stall false s else f s

end Sys2Proof.Machine
end

