-- ==== Sys2Proof/Machine/Sync.lean ====
section
/-! DEFINITION. Synchronisation and the task life cycle, class 0x4 (R12, R75 to R79, R86, R138, R139, R142, R150, R169 to R173), with the
events that let a waiting instruction go on. -/

namespace Sys2Proof.Machine

/-! ## Writes of a core that are still to be performed (R78, R86) -/

/-- The bytes a running stream writes; none where they are not known yet. -/
def streamDst (s : State) (t : Stream) : Option (List (Nat × Nat)) :=
  if !t.running then none
  else if t.deliver.isSome then some []
  else
    match dstSpan (descDims t.image) with
    | none => some []
    | some (lo, hi) =>
      let base : Nat := match t.ring with
        | some (obj, v) => match getRing s t.core t.tid obj with
          | some r => r.base.toNat + r.ssize * (v.toNat % r.scount)
          | none => 0
        | none => 0
      let a : Int := (base : Int) + field t.image 8 8 + lo
      some [(a.toNat, (hi - lo).toNat + descEsize t.image)]

/-- The bytes in which a running stream writes its status, and its ring's pointers (R253, R263). -/
def streamNotes (t : Stream) : List (Nat × Nat) :=
  (t.desc.toNat + 24, 8) :: match t.ring with
    | some (obj, _) => [(obj.toNat + 16, 8)]
    | none => []

/-- Whether a write of the current core to the ranges, on any path, is still to be performed. -/
def writesPending (s : State) (rs : List (Nat × Nat)) : Bool :=
  let k := s.core
  let v := k.vec
  let hits := fun (o : Option (List (Nat × Nat))) => match o with
    | some l => overlaps l rs
    | none => !rs.isEmpty
  -- a decrement writes the value and the abort code of its signal (R116, R239)
  let signal := fun (env : VEnv) => overlaps [(env.x.toNat, 12)] rs
  (v.vsq.any fun e => hits (vRanges e.env e.instr) || (match e.instr with
      | .vfenceArr .. => signal e.env
      | _ => false)) ||
    (v.stores.any fun t => overlaps (t.writes.map fun w => (w.va, w.n)) rs || (t.arr.isSome && signal t.env)) ||
    (v.defer.any fun d => !d.onTable && overlaps [(d.va, d.n)] rs) ||
    (k.mat.queue.any fun e => overlaps (mUse e.instr e.x).wr rs) ||
    ((coreStreams s k.id).any fun t => hits (streamDst s t) || overlaps (streamNotes t) rs) ||
    (k.seq.returns.any fun r => overlaps r.wr rs) ||
    (s.near.any fun c => decide (c.core = k.id) && overlaps c.wr rs) || s.fab.ops.any fun o => decide (o.core = k.id) && overlaps o.wr rs

/-! ## Latches (R76 to R79, R169) -/

/-- A latch as read at its home. -/
structure LatchView where
  held : Bool
  holder : Nat
  scope : Nat
  nreg : Nat
  first : Nat
  rtable : Nat
  clean : Bool                    -- reserved bits zero
  deriving DecidableEq, Repr

def latchView (x : Nat) : LatchView :=
  let z := fun lo w => decide (bits x lo w = 0)
  { held := bitAt x 63, holder := bits x 32 31, scope := bits x 64 3, nreg := bits x 72 7, first := bits x 128 16,
    rtable := bits x (192 + 4) 48 * 16,
    clean := z 67 5 && z 79 49 && z 144 48 && z 192 4 && z 244 12 && z 256 256 }

/-- The bound regions of a latch, by virtual address (R77). -/
def latchRegions (s : State) (l : LatchView) : List (Nat × Nat) :=
  (List.range l.nreg).map fun i => (s.rd (l.rtable + 16 * (l.first + i)) 8, s.rd (l.rtable + 16 * (l.first + i) + 8) 8)

/-- The latch-format trap of R77. -/
def latchBad (s : State) (l : LatchView) : Bool :=
  !l.clean || decide (64 < l.nreg) || decide (4 < l.scope) || decide (l.rtable = 0) || decide (hbmEnd ≤ l.rtable) ||
    !inHbm (l.rtable + 16 * l.first) (16 * l.nreg) ||
    (latchRegions s l).any fun r => decide (2 ^ 57 ≤ r.1) || decide (r.1 % 64 ≠ 0) || decide (2 ^ 48 ≤ r.2) || decide (r.2 % 64 ≠ 0) ||
      decide (2 ^ 57 < r.1 + r.2)

def ownLatch (s : State) (l : LatchView) : Bool := l.held && decide (l.holder = s.core.seq.tid.toNat)

def getWait (s : State) (pa : Nat) : Option LatchWait := s.fe.waits.find? fun w => decide (w.pa = pa ∧ w.tid = s.core.seq.tid)

/-- The table entries that a latch names hold poison (R326). -/
def latchTablePoison (s : State) (l : LatchView) : Bool :=
  inHbm (l.rtable + 16 * l.first) (16 * l.nreg) && decide (l.nreg ≤ 64) && isPoisoned s (l.rtable + 16 * l.first) (16 * l.nreg)

/-- The bytes of the region table that a latch's users read (R77), where the latch names entries in HBM. -/
def latchTable (l : LatchView) : List (Nat × Nat) :=
  if l.nreg ≠ 0 ∧ l.nreg ≤ 64 ∧ inHbm (l.rtable + 16 * l.first) (16 * l.nreg) then [(l.rtable + 16 * l.first, 16 * l.nreg)] else []

/-- Reading those entries need not wait for a budget (R123). -/
def tableOk (s : State) (l : LatchView) : Bool := bytesOk s s.core.seq.eff (latchTable l)

/-- The message that asks a latch in host or peer memory: the atomic `op` where there is one to do, else a read. -/
def latchMsg (s : State) (pa : Nat) (op : Option AtomicOp) : OutMsg :=
  match op with
  | some o => OutMsg.atomic (remoteOf s pa).1 (remoteOf s pa).2 64 o
  | none => OutMsg.read (remoteOf s pa).1 (remoteOf s pa).2 64

/-- The common start of ACQ, TRYACQ and REL: alignment, translation, poison, the format of the latch. A latch in host or peer memory is
asked by one atomic, `ask`, whose answer is the latch as its home found it; where the latch is such that the instruction traps, it is only
read (R77). The bound regions are read with it, and an access that their bytes hold back for a budget (R123) starts anew. An ACQ (`acq`) whose
request waits asks nothing again, and is a pre-emption point as long as it waits (R169). -/
def withLatch (acq : Bool) (a : SReg) (ask : State → LatchView → Option AtomicOp) (f : Nat → LatchView → State → Out) (s : State) : Out :=
  let va := getS s a
  if va.toNat % 64 ≠ 0 then trapHere 0x09 va s
  else
    let asked := fun (pa : Nat) (t : State) => if acq then getWait t pa else none
    let held := fun (pa : Nat) (t : State) => match asked pa t with
      | some w => if w.granted then none else some true
      | none => if isRemote pa && (!wayOpen t pa 2 || trapWaits t) then some false else none
    (if acq then reachPoint else reachS) .rw va 64 held (fun p s1 =>
      let far := isRemote p.pa
      if far ∧ (asked p.pa s1).isSome then f p.pa (latchView 0) s1
      else
        let (x, s2) := if far then answer 64 s1 else homeRead p.pa 64 s1
        let l := latchView x.val
        if !tableOk s2 l then stall acq { s1 with budgets := s.budgets }
        else
        let bad := x.bad || latchTablePoison s2 l
        let op := if bad || latchBad s2 l then none else ask s2 l
        let s3 := chargeAll s.core.seq.eff (latchTable l) (if far then send s2 (latchMsg s2 p.pa op) else s2)
        if bad then trapHere 0x26 va s3
        else if latchBad s3 l then trapHere 0x07 va s3
        else f p.pa l s3) s

/-- Where byte `va` of the running task's address space stands, and the address after its page or after the window; none where the tables
map nothing. -/
def whereIs (s : State) (va : Nat) : Option (Nat × Nat) :=
  let r := s.core.seq.eff
  if inWindow va then
    if va - windowBase < r.spsize * 1024 then some (padAddr s.core.id r (va - windowBase), windowBase + r.spsize * 1024) else none
  else
    match (walk (.scalar s.core.id) r.asn (va / 4096) 4 (r.root * 4096) { s with choices := [] }).1 with
    | .ok (l :: _) => some ((l.frame + (va / 4096 - l.vpage)) * 4096 + va % 4096, (l.vpage + l.pages) * 4096)
    | _ => none

/-- The physical ranges of the bytes from `va` to `e`, page by page. -/
def physSpans (s : State) : Nat → Nat → Nat → List (Nat × Nat)
  | 0, _, _ => []
  | n + 1, va, e =>
    if e ≤ va then []
    else
      match whereIs s va with
      | some (pa, stop) => (pa, min e stop - va) :: physSpans s n (min e stop) e
      | none => physSpans s n (va / 4096 * 4096 + 4096) e

/-- The physical ranges of some regions of the running task's address space. -/
def regionSpans (s : State) (rs : List (Nat × Nat)) : List (Nat × Nat) :=
  rs.flatMap fun r => physSpans s (r.2 / 4096 + 2) r.1 (r.1 + r.2)

/-- The cached lines that lie in some regions are invalidated, and no others (R73, R79). -/
def dcDropIn (rs : List (Nat × Nat)) (s : State) : State :=
  let spans := if s.core.seq.dcache.isEmpty then [] else regionSpans s rs
  setSeq s { s.core.seq with dcache := s.core.seq.dcache.filter fun e => !overlaps [(e.1, 64)] spans }

/-- The task holds the latch: it is recorded at the home and in the core's list (R150), and cached lines of its regions are dropped
(R79), `rs`. A home in host or peer memory has recorded it already. -/
def takeLatch (pa : Nat) (va : Word) (rs : List (Nat × Nat)) (s : State) : State :=
  let s1 := if isRemote pa then s else s.wr pa 8 (2 ^ 63 + s.core.seq.tid.toNat * 2 ^ 32 + s.rd pa 8 % 2 ^ 32)
  let s2 := setSeq s1 { s1.core.seq with latches := ⟨va, pa⟩ :: s1.core.seq.latches }
  let s3 := { s2 with fe := { s2.fe with waits := s2.fe.waits.filter fun w => !(decide (w.pa = pa ∧ w.tid = s2.core.seq.tid)) } }
  dcUpdate pa (dcDropIn rs s3)

/-- What a request asks of a latch's home; one that is a misuse, by a task with 16 latches or with this one, only reads it (R79, R150). -/
def askLatch (op : Nat → AtomicOp) (own : Bool) (s : State) (l : LatchView) : Option AtomicOp :=
  if 16 ≤ s.core.seq.latches.length ∨ (own ∧ ownLatch s l) then none else some (op s.core.seq.tid.toNat)

def execAcq (a : SReg) (_sc : Scope) (s : State) : Out :=
  let va := getS s a
  withLatch true a (askLatch .acquire true) (fun pa l t =>
    match getWait t pa with
    | some w =>
      if w.granted then done (bumpNum (takeLatch pa va (if isRemote pa then w.regions else latchRegions t l) t)) else stall true t
    | none =>
      let rs := latchRegions t l
      if ownLatch t l ∨ 16 ≤ t.core.seq.latches.length then trapHere 0x08 va t
      else if !l.held && (isRemote pa || !(t.fe.waits.any fun w => decide (w.pa = pa))) then done (bumpNum (takeLatch pa va rs t))
      else
        let w : LatchWait := { pa := pa, core := t.core.id, tid := t.core.seq.tid, va := va, regions := if isRemote pa then rs else [] }
        stall true { t with fe := { t.fe with waits := t.fe.waits ++ [w] } }) s

/-- TRYACQ makes one attempt; it fails where requests wait before it. -/
def execTryacq (d a : SReg) (_sc : Scope) (s : State) : Out :=
  let va := getS s a
  withLatch false a (askLatch .tryAcquire false) (fun pa l t =>
    if l.held || (!isRemote pa && t.fe.waits.any fun w => decide (w.pa = pa)) then done (bumpNum (setS (dcUpdate pa t) d 0))
    else if 16 ≤ t.core.seq.latches.length then trapHere 0x08 va t
    else done (bumpNum (setS (takeLatch pa va (latchRegions t l) t) d 1))) s

/-- REL (R78): it commits as it issues (R142), and waits for the writes to its regions. -/
def execRel (a : SReg) (_sc : Scope) (s : State) : Out :=
  let va := getS s a
  withLatch false a (fun _ _ => none) (fun pa l t =>
    if !ownLatch t l then trapHere 0x08 va t
    else if writesPending t (latchRegions t l) then stall false (commitTask { t with budgets := s.budgets })
    else
      let t1 := freeLatch pa true (commitTask t)
      let t2 := setSeq t1 { t1.core.seq with latches := t1.core.seq.latches.filter fun h => decide (h.pa ≠ pa) }
      done (bumpNum (dcUpdate pa t2))) s

/-- LATCH_GRANT: the home of a free latch grants it to the request that arrived first (R79). For a latch in host or peer memory the event is
the grant of its home. -/
def execLatchGrant (pa : Nat) (s : State) : Out :=
  .next (
    if s.fe.waits.any fun w => decide (w.pa = pa) && w.granted then s
    else
      match s.fe.waits.find? fun w => decide (w.pa = pa) with
      | none => s
      | some w =>
        if !isRemote pa && bitAt (s.rd pa 8) 63 then s
        else
          let s2 := if isRemote pa then s else s.wr pa 8 (2 ^ 63 + w.tid.toNat * 2 ^ 32 + s.rd pa 8 % 2 ^ 32)
          let s3 := { s2 with fe := { s2.fe with waits := s2.fe.waits.map fun y => if y = w then { w with granted := true } else y } }
          onCore w.core (fun t => if t.core.seq.tid = w.tid then setSeq t { t.core.seq with stall := false } else t) s3)

/-! ## Fences and counters (R170) -/

/-- Accesses on a path before an order point of the current core, under way or in a memory frame of its task (R199). -/
def beforePoint (s : State) (p : Path) (n : Nat) : Bool := pendingOn s s.core p n || (decide (p = .v) && framedV s s.core n)

/-- Order points that hold nothing back any more are dropped. -/
def prunePoints (s : State) : State :=
  setVec s { s.core.vec with points := s.core.vec.points.filter fun o => beforePoint s o.a o.num || beforePoint s o.b o.num }

def execXfence (p q : Path) (s : State) : Out :=
  if p = q then illegal s
  else
    let go := fun (t : State) =>
      let u := prunePoints t
      done (bumpNum (setVec u { u.core.vec with points := ⟨p, q, nextNum u⟩ :: u.core.vec.points }))
    if p = .c ∨ q = .c then withCopyError go s else go s

/-- FENCE (R75): every earlier `.s` access is performed, stores to host and peer memory accepted. -/
def execFence (sc : Scope) (s : State) : Out :=
  if scalarWaits s || !s.core.seq.returns.isEmpty then stall false s else done (bumpNum (if sc = .core then s else dcDrop s))

def execWaitc (l st c t : BitVec 4) (s : State) : Out :=
  let low := fun (n : Nat) (m : BitVec 4) => decide (min n 15 ≤ m.toNat)
  let go := fun (u : State) =>
    let k := u.core
    if low (cntLd k) l && low (cntSt k) st && low (cntCp u k) c && low (cntMx k) t then done u else stall true u
  if c.toNat < 15 then withCopyError go s else go s

/-! ## Records (R138, R139, R173) -/

/-- The common start of SPAWN and JOIN. That a record outside HBM raises the task-record trap at a JOIN too, where R173 lists it for SPAWN,
is the model's choice (DESIGN CHOICE: log entry 94). Stores to host and peer memory have been accepted: the writer side of FENCE.pkg (R75, R173). -/
def withRecord (a : SReg) (f : Word → Nat → State → Out) (s : State) : Out :=
  let va := getS s a
  if va.toNat % 32 ≠ 0 then trapHere 0x09 va s
  else if !s.core.seq.returns.isEmpty then stall false s
  else
    reachS .rw va 32 (fun _ _ => none) (fun p s1 =>
      if !inHbm p.pa 32 then trapHere 0x0C va s1
      else if isPoisoned s1 p.pa 32 then trapHere 0x26 va s1
      else f va p.pa s1) s

/-- What SPAWN refuses in a record (R138, R173). -/
def recordBad (x : Nat) : Bool :=
  let z := fun lo w => decide (bits x lo w = 0)
  !(z 57 7 && z (64 + 57) 7 && z 160 12 && z (192 + 52) 12 && z (192 + 3) 2 && z 192 3)

def execSpawn (a : SReg) (s : State) : Out :=
  withRecord a (fun va pa t =>
    let q := t.core.seq
    let b := q.launch
    if recordBad (t.rd pa 32) ∨ (t.fe.spawned.any fun x => decide (x.rec_ = pa ∧ x.launch = b)) then trapHere 0x0C va t
    else
      let t1 := (commitTask t).wr (pa + 20) 4 (q.eff.prio * 2 ^ 12 + q.rcbx.toNat * 2 ^ 16)
      let t2 := t1.wr (b + 36) 4 (t1.rd (b + 36) 4 + 1)
      let t3 := { t2 with fe := { t2.fe with spawned := ⟨pa, b⟩ :: t2.fe.spawned } }
      let t4 := if recJoin (t3.rd pa 32) ≤ 0 then pushRecord q.eff pa t3 else t3
      done (bumpNum (dcUpdate pa t4))) s

/-- The region a record was spawned into. -/
def recordRegion (s : State) (pa : Nat) : Region :=
  let idx := s.rd (pa + 22) 2
  ((s.fe.rcbs.find? fun h => decide (h.idx = idx)).bind fun h => region s h.rcb).getD s.core.seq.eff

def execJoin (a : SReg) (s : State) : Out :=
  withRecord a (fun va pa t =>
    let j := recJoin (t.rd pa 32)
    if j ≤ 0 then trapHere 0x0C va t
    else
      let t1 := (commitTask t).wr (pa + 16) 4 (ofInt 32 (j - 1))
      let t2 := if j = 1 ∧ (t1.fe.spawned.any fun x => decide (x.rec_ = pa)) then pushRecord (recordRegion t1 pa) pa t1 else t1
      done (bumpNum (dcUpdate pa t2))) s

def execCommit (s : State) : Out := done (commitTask s)

/-- YIELD (R173): honoured only where another RCB of the cluster has a ready task of at least the task's priority. -/
def execYield (s : State) : Out :=
  let k := s.core
  let c := clusterOf k.id
  let own := ((handleOf s k.seq.eff.rcb).map fun h => effPrio c h k.seq.eff).getD k.seq.eff.prio
  if (candidates s k).any fun p => decide (p.2.1.rcb ≠ k.seq.eff.rcb ∧ own ≤ effPrio c p.1 p.2.1) then
    if k.seq.cmt then
      let t := advance s
      .next (setSeq t { t.core.seq with preempt := true, yielding := true, atPoint := true, stall := true })
    else .next (askPreempt s)
  else done s

/-! ## Watermarks and signals (R86, R171, R172) -/

/-- WMPUB. An object in host or peer memory is read and written as this module's own memory at its address (DESIGN CHOICE: log
entry 78). -/
def execWmpub (w : BitVec 3) (a : SReg) (s : State) : Out :=
  match (s.core.seq.w[w.toNat]?).getD none with
  | none => illegal s
  | some r =>
    let n := (getS s a).toNat
    let va := BitVec.ofNat 64 r.obj
    if scalarWaits s then stall false s
    else if isPoisoned s r.obj 64 then trapHere 0x26 va s
    else if markObjectBad s r.obj then trapHere 0x07 va s
    else if writesPending s [(r.base, n * r.esize)] || !memOk s s.core.seq.eff r.obj then stall false s
    else
      let t := chargeMem s.core.seq.eff r.obj 8 s
      done (bumpNum (dcUpdate r.obj (t.wr r.obj 8 (max (t.rd r.obj 8) n))))

/-- The common start of SIGDEC and SIGWAIT, of which the second (`wait`) is a pre-emption point as long as it waits (R144). -/
def withSignal (wait : Bool) (a : SReg) (held : Nat → State → Option Bool) (f : Nat → State → Out) (s : State) : Out :=
  let va := getS s a
  if va.toNat % 64 ≠ 0 then trapHere 0x09 va s
  else
    (if wait then reachPoint else reachS) .rw va 8 held (fun p s1 => if isPoisoned s1 p.pa 64 then trapHere 0x26 va s1 else f p.pa s1) s

/-- SIGDEC (R171) commits. To host or peer memory its answer says that it has been performed, before which no later `.s` access is
(R168). -/
def execSigdec (a : SReg) (_sc : Scope) (count : BitVec 24) (s : State) : Out :=
  withSignal false a (farHeld 2) (fun pa t =>
    if isRemote pa then askFar 0 .z64 (getS s a) pa 2 true (OutMsg.signal (remoteOf t pa).1 (remoteOf t pa).2 count.toNat) t
    else done (bumpNum (dcUpdate pa (sigDec pa count.toNat 0x100 (commitTask t))))) s

/-- SIGWAIT commits, unless it raises a precise trap (R142). A signal in host or peer memory has no waiter list the core can enter, and is
polled. An entry stays in its list until its core completes a SIGWAIT of that signal, though the task that entered it resumes elsewhere (DESIGN CHOICE:
log entry 37). -/
def execSigwait (a : SReg) (_sc : Scope) (s : State) : Out :=
  withSignal true a (farHeld 0) (fun pa u =>
    let me := coreWaiter u.core.id
    let (x, u1) := homeRead pa 8 u
    let t1 := commitTask u1
    let far := isRemote pa
    if x.bad then trapHere 0x26 (getS s a) u1
    else if (BitVec.ofNat 64 x.val).toInt ≤ 0 then
      let t2 := if far then t1 else dcUpdate pa (delWaiter pa me t1)
      done (bumpNum (setSeq t2 { t2.core.seq with polls := false }))
    else
      let t2 := if far then t1 else addWaiter pa me t1
      let listed := !far && (List.range 4).any fun i => decide (t2.rd (pa + 32 + 8 * i) 8 = me)
      stall true (setSeq t2 { t2.core.seq with polls := !listed })) s

/-- SIGWAIT_WAKE: the core reads the signal again. -/
def execSigwaitWake (c : Nat) (s : State) : Out :=
  .next (onCore c (fun t => if t.core.seq.mode = .running then setSeq t { t.core.seq with stall := false } else t) s)

/-! ## END (R150, R154) -/

/-- The frame slots a task still has are freed, with the queued instructions of their frames (R203): what waits for those is never sent. -/
def dropSlots (tid : BitVec 31) (r : Region) (s : State) : State :=
  let t := { s with near := s.near.filter fun c => !(decide (c.tid = tid) && frameHolds s c) }
  (t.slots.filter fun e => decide (e.tid = tid)).foldl (fun u e => dropSlotAt r e.slot u) t

/-- END: the holes settle, and copies end, at the instruction; the other drains follow. Run with INH = 1 it ends the task with FAULT. A frame
that its handler has not restored is discarded (R203). -/
def execEndTask (s : State) : Out :=
  let leave := fun (fault : Bool) (t : State) =>
    let u := dropSlots t.core.seq.tid t.core.seq.eff t
    (.next (setSeq u { u.core.seq with mode := .ending fault, ended := true, stall := true, atPoint := false }) : Out)
  withCopyError (fun t =>
    if t.core.seq.inh then leave true t
    else settleOver none false (fun u => if cntCp u u.core = 0 then leave false u else stall false u) t) s

/-- The drains of R150 are over, and the latches' releases can go out. With a fault, what depends on fault holes is left (R154). -/
def drained (s : State) : Bool :=
  let k := s.core
  let v := k.vec
  v.vlq.isEmpty && v.vxq.isEmpty && v.vsq.isEmpty && v.loads.isEmpty && v.stores.isEmpty && !settleWaitsStore v none &&
    (v.holes.all fun h => h.fault.isSome) && decide (cntCp s k = 0) && decide (cntMx k = 0) && k.seq.returns.isEmpty &&
    latchesGo s && !(s.near.any fun c => decide (c.core = k.id ∧ c.tid = k.seq.tid)) && !s.fab.ops.any fun o => decide (o.core = k.id ∧ o.tid = k.seq.tid)

/-- The statuses that lost operations give the launch of the task (R117, R316, R331). -/
def endLosses (s : State) : State :=
  let q := s.core.seq
  let lost := s.fab.lost.any fun p => decide (p.1 = q.tid) && decide (p.2 ≠ 0)
  let s1 := if lost then
    setBlkStatus q.launch 7 (logRecord { kind := 5, domain := q.eff.domain, unit := 8, tid := q.tid.toNat, at_ := s.core.id, cause := 7,
                                         rcb := q.eff.rcb } s)
    else s
  let s2 := setFab s1 { s1.fab with lost := s1.fab.lost.filter fun p => decide (p.1 ≠ q.tid) }
  (s2.fe.lostLaunch.filter fun p => decide (p.1 = q.launch)).foldl (fun u p => setBlkStatus q.launch p.2 u) s2

/-- The launch's record of lost operations goes with its last task. -/
def dropLosses (b : Nat) (s : State) : State :=
  if blkBusy s b then s else setFe s { s.fe with lostLaunch := s.fe.lostLaunch.filter fun p => decide (p.1 ≠ b) }

/-- A task that is over leaves its core, whose registers keep their values until another starts (R293). -/
def leaveCore (s : State) : State :=
  let v := s.core.vec
  let v1 := { v with vlq := [], vxq := [], vsq := [], loads := [], stores := [], holes := [], defer := [], block := none, points := [] }
  goIdle (setMat (setVec s { v1 with faults := [] }) { s.core.mat with queue := [] })

/-- The task is over: its latches, its image where it ran END (R149), its statuses, its rings and frame slots, and its launch's count. That it has run END it keeps when a fault at END puts it back to
running (DESIGN CHOICE: log entry 75). -/
def endDone (fault : Bool) (s : State) : State :=
  let q := s.core.seq
  let s1 := dropWaits q.tid true (freeLatches true s)
  let s2 := endLosses (if q.ended then spillImage s1 else s1)
  let s3 := dropSlots q.tid q.eff (dropPorts q.tid s2)
  dropHandles (leaveCore (dropLosses q.launch (finishTask q.launch q.eff s3.core.vec.vstat.toNat fault s3)))

/-- Accesses that fault, queued or on their way, go with the task that has failed (R154). -/
def dropFaulting (s : State) : State :=
  let v := s.core.vec
  let bad := v.faults.map FrameRec.seqn
  let keep := fun (l : List VEntry) => l.filter fun e => !bad.contains e.env.seqn
  let v1 := { v with faults := [], vlq := keep v.vlq, vsq := keep v.vsq, loads := v.loads.filter fun l => !bad.contains l.env.seqn }
  setVec s { v1 with stores := v.stores.filter (fun x => !bad.contains x.env.seqn), defer := v.defer.filter fun d => !bad.contains d.env.seqn }

/-- A deferred write with what the discarded holes leave of it: nothing where its value comes from one; a write on an HS page that only waits
for a lower element's hole waits no more. -/
def keepDefer (v : Vec) (d : Defer) : Option Defer :=
  match d.kind with
  | .put => if onFault v (d.vals.take 1) then none else some { d with vals := d.vals.filter fun o => !onFault v [o] }
  | _ => if onFault v d.vals then none else some d

/-- A task ends with FAULT: its fault holes, and what depends on them, are discarded unfilled (R154). An instruction that waits for an
element of one is never run, and what it would have told the control core is not awaited. -/
def discardFaults (s : State) : State :=
  let v := spreadFaults s.core.vec.holes.length s.core.vec
  let waits := fun (e : VEntry) => onFault v (vWaits (holeReader v) v e.env e.instr)
  let out := (v.vlq ++ v.vxq ++ v.vsq).filter waits
  let keep := fun (l : List VEntry) => l.filter fun e => !waits e
  -- of an instruction that holds behind a full hole queue, or for parents, the elements that depend on one are left out
  let rest := fun (e : VEntry) => { e with rest := e.rest.map fun w => w.filter fun p => !onFault v p.2 }
  let v1 := { v with holes := v.holes.map (fun h => if h.fault.isSome then { h with gone := true } else h), defer := v.defer.filterMap (keepDefer v),
                     vlq := keep v.vlq, vxq := (keep v.vxq).map rest, vsq := keep v.vsq }
  let v2 := out.foldl (fun u e => unblock e.env.seqn u) v1
  let q := out.foldl (fun u e => ((formOf e.instr).sd).foldl (fun w r => clearBusy r w) u) s.core.seq
  let c := s.core.id
  { setSeq (setVec s v2) q with near := s.near.filter fun x =>
      !(decide (x.core = c ∧ x.tid = s.core.seq.tid) && x.data.isNone && nearOnFault v x) }

/-- END_COMPLETION. A fault that shows only now, where an access on its way translates again (R105), is the task's while END waits. -/
def execEndCompletion (c : Nat) (s : State) : Out :=
  .next (onCore c (fun u =>
    let t := match u.core.seq.mode with
      | .ending true => discardFaults u
      | _ => u
    match t.core.seq.mode with
    | .ending fault =>
      if !t.core.vec.faults.isEmpty && issuedDone t then
        if fault then dropFaulting t
        else memoryFault (setSeq t { t.core.seq with mode := .running, stall := false })
      else if drained t then endDone fault t
      else t
    | _ => t) s)

end Sys2Proof.Machine
end

