-- ==== Sys2Proof/Machine/System.lean ====
section
/-! DEFINITION. System registers and their actions (R45, R46, R161): SYSRD, SYSWR, VRESTORE (R203), ICINV (R33), TLBINV and what its targets
do (R105, R106). -/

namespace Sys2Proof.Machine

/-- Who may use a system register (R45). -/
inductive SysAccess where
  | rw          -- RW at both levels
  | ro          -- R at both levels
  | roRun       -- R for tasks, RW at runtime privilege
  | run         -- no access for tasks, RW at runtime privilege
  | none        -- unlisted, or an action
  deriving DecidableEq, Repr

def sysAccess (n : Nat) : SysAccess :=
  if n ≤ 5 ∨ (0x10 ≤ n ∧ n ≤ 0x17) ∨ n = 0x20 ∨ n = 0x21 then .rw
  else if (0x30 ≤ n ∧ n ≤ 0x35) ∨ n = 0x40 ∨ (0x60 ≤ n ∧ n ≤ 0x63) then .ro
  else if n = 0x41 then .roRun
  else if 0x42 ≤ n ∧ n ≤ 0x44 then .run
  else .none

/-- Index of loop `i`, 0 where there is no entry (R135). -/
def loopIndex (q : Seq) (i : Nat) : Word := ((q.loops[i]?).map LoopEntry.index).getD 0

/-- The value of a system register. -/
def sysValue (s : State) (n : Nat) : Word :=
  let v := s.core.vec
  let q := s.core.seq
  if n = 0 then v.vl
  else if n = 1 then v.vtype.zeroExtend 64
  else if n = 2 then v.vfill
  else if n = 3 then v.vseed
  else if n = 4 then v.vbase
  else if n = 5 then v.vstat.zeroExtend 64
  else if 0x10 ≤ n ∧ n ≤ 0x17 then (v.vidx[n - 0x10]?).getD 0
  else if n = 0x20 then v.vdrop.zeroExtend 64
  else if n = 0x21 then v.vdropn
  else if 0x30 ≤ n ∧ n ≤ 0x35 then loopIndex q (n - 0x30)
  else if n = 0x40 then BitVec.ofNat 64 v.slip
  else if n = 0x41 then statusReg q
  else if n = 0x42 then q.epc
  else if n = 0x43 then q.cause
  else if n = 0x44 then q.tval
  else if n = 0x60 then BitVec.ofNat 64 q.eff.rcb
  else if n = 0x61 then BitVec.ofNat 64 (q.rcbx.toNat * 2 ^ 32 + q.tid.toNat)
  else if n = 0x62 then BitVec.ofNat 64 s.core.id
  else if n = 0x63 then Config.helperBase.zeroExtend 64
  else 0

/-- Writes a vector system register (R63, R64, R161, R180). -/
def putVecSys (n : Nat) (x : Word) (v : Vec) : Vec :=
  if n = 0 then { v with vl := x }
  else if n = 1 then { v with vtype := x.truncate 8 }
  else if n = 2 then { v with vfill := x }
  else if n = 3 then { v with vseed := x }
  else if n = 4 then { v with vbase := x }
  else if n = 5 then writeVstat x v
  else if 0x10 ≤ n ∧ n ≤ 0x17 then { v with vidx := v.vidx.setIfInBounds (n - 0x10) x }
  else if n = 0x20 then { v with vdrop := x.truncate 32 }
  else if n = 0x21 then { v with vdropn := x }
  else v

/-- Writes a control-core system register (R137, R153). -/
def putSeqSys (n : Nat) (x : Word) (q : Seq) : Seq :=
  if n = 0x41 then { q with prv := x.getLsbD 0, pprv := x.getLsbD 5 }
  else if n = 0x42 then { q with epc := x }
  else if n = 0x43 then { q with cause := x }
  else if n = 0x44 then { q with tval := x }
  else q

/-- Numbers 0x000 to 0x021 wait until every earlier vector instruction has left the VXQ (R46), and given its VL (R235, R243). -/
def vecSysWaits (s : State) (n : Nat) : Bool := decide (n ≤ 0x21) && (!s.core.vec.vxq.isEmpty || s.core.vec.block.isSome)

def execSysrd (d : SReg) (num : BitVec 12) (s : State) : Out :=
  let n := num.toNat
  match sysAccess n with
  | .none => illegal s
  | .run => if s.core.seq.prv then done (setS s d (sysValue s n)) else privilegeTrap s
  | _ => if vecSysWaits s n then stall false s else done (setS s d (sysValue s n))

def execSyswr (a : SReg) (num : BitVec 12) (s : State) : Out :=
  let n := num.toNat
  let x := getS s a
  match sysAccess n with
  | .none | .ro => illegal s
  | .roRun | .run => if s.core.seq.prv then done (setSeq s (putSeqSys n x s.core.seq)) else privilegeTrap s
  | .rw =>
    if n = 0 ∧ 1024 < x.toNat then illegalVal x s
    else if vecSysWaits s n then stall false s
    else done (setVec s (putVecSys n x s.core.vec))

/-- VRESTORE (R203). -/
def execVrestore (a : SReg) (s : State) : Out :=
  let x := getS s a
  let q := s.core.seq
  if !q.prv then privilegeTrap s
  else
    match slotAt s q.eff true x.toNat with
    | none => illegalVal x s
    | some i =>
      let pa := slotAddr s q.eff i
      let hdr := s.rd pa 24
      if !slotUsed s q.eff i ∨ bits hdr 0 40 ≠ 0x5646524D + 2 ^ 32 ∨ bits hdr 128 31 ≠ q.tid.toNat then illegalVal x s
      else
        let s1 := if bitAt hdr 40 then restoreEngine pa s else s
        .next (trapReturn (BitVec.ofNat 64 (bits hdr 64 64)) (dropSlotAt q.eff pa s1))

/-- ICINV (R33). -/
def execIcinv (_a : SReg) (s : State) : Out :=
  if s.core.seq.prv then done (setSeq s { s.core.seq with icache := [] }) else privilegeTrap s

/-! ## TLBINV (R105) -/

/-- The targets within a scope of a core: the cores and the dispatchers. -/
def shootTargets (c scope : Nat) : List ShootTarget :=
  match scope with
  | 0 => [.core c]
  | 1 => ((List.range 16).map fun i => .core (clusterOf c * 16 + i)) ++ [.dispatcher (clusterOf c)]
  | 2 => ((List.range 192).map fun i => .core (dieOf c * 192 + i)) ++ (List.range 12).map fun i => .dispatcher (dieOf c * 12 + i)
  | _ => ((List.range 1536).map fun i => .core i) ++ (List.range 96).map fun i => .dispatcher i

/-- A value of a that TLBINV refuses. -/
def tlbinvBad (x : Nat) : Bool :=
  decide (bits x 57 7 ≠ 0) || decide (bits x 8 4 ≠ 0) || decide (bits x 3 3 ≠ 0) || decide (bits x 6 2 = 3) || decide (3 < bits x 0 3) ||
    (decide (bits x 6 2 ≠ 0) && decide (bits x 12 45 ≠ 0))

def sameShoot (c asn x : Nat) (h : Shoot) : Bool :=
  decide (h.core = c ∧ h.asn = asn ∧ h.vpage = bits x 12 45 ∧ h.extent = bits x 6 2)

def execTlbinv (a : SReg) (s : State) : Out :=
  let x := (getS s a).toNat
  let c := s.core.id
  let asn := s.core.seq.eff.asn
  if !s.core.seq.prv then privilegeTrap s
  else if tlbinvBad x then illegalVal (getS s a) s
  else
    match s.shoot.find? (sameShoot c asn x) with
    | some h =>
      if h.unacked.isEmpty then done (bumpNum { s with shoot := s.shoot.filter fun y => !sameShoot c asn x y }) else stall false s
    | none =>
      if scalarWaits s || !s.core.seq.returns.isEmpty then stall false s
      else
        let tg := shootTargets c (bits x 0 3)
        stall false { s with shoot := s.shoot ++ [⟨c, asn, bits x 12 45, bits x 6 2, tg, tg⟩] }

/-- Changes the first of a list that meets a condition. -/
def mapFirst {α : Type} (p : α → Bool) (f : α → α) : List α → List α
  | [] => []
  | x :: r => if p x then f x :: r else x :: mapFirst p f r

/-- What a core does with the translations of its accesses as a request arrives: those queued translate again, those issued are waited for. -/
def staleCore (s : State) : State :=
  let c := s.core.id
  let q := s.core.seq
  let t := setSeq (setVec s (staleAll s.core.vec)) { q with returns := q.returns.map fun r => { r with pinned := true } }
  { t with near := t.near.map (fun x => if x.core = c ∧ x.data.isNone then { x with stale := true } else x)
           fab := { t.fab with ops := t.fab.ops.map fun o => if o.core = c && !o.isColl then { o with stale := true } else o } }

/-- INVALIDATION_REQUEST: the oldest request for the target, once it has acknowledged every earlier one. -/
def execInvalidationRequest (tg : ShootTarget) (s : State) : Out :=
  .next (
    match s.shoot.find? fun h => h.unacked.contains tg with
    | none => s
    | some h =>
      if !h.pending.contains tg then s
      else
        let s1 := { s with shoot := mapFirst (fun y => y.unacked.contains tg) (fun y => { y with pending := y.pending.erase tg }) s.shoot }
        let s2 := dropTlb tg h.asn h.vpage h.extent s1
        match tg with
        | .core c => onCore c staleCore s2
        | .dispatcher _ => s2)

/-- A target has issued accesses that are not over (R105): a core scalar ones, a dispatcher elements that host or peer memory has not
accepted. -/
def ackWaits (tg : ShootTarget) (s : State) : Bool :=
  match tg with
  | .core c => (getCore s c).seq.flight.isSome || (getCore s c).seq.returns.any fun r => r.pinned
  | .dispatcher k => s.copy.streams.any fun t => decide (clusterOf t.core = k) && t.running && !t.ports.isEmpty

/-- INVALIDATION_ACK: the acknowledgement of the oldest request that the target has received, its issued accesses over (R105, R106). -/
def execInvalidationAck (tg : ShootTarget) (s : State) : Out :=
  .next (
    match s.shoot.find? fun h => h.unacked.contains tg with
    | none => s
    | some h =>
      if h.pending.contains tg ∨ ackWaits tg s then s
      else
        let l := mapFirst (fun y => y.unacked.contains tg) (fun y => { y with unacked := y.unacked.erase tg }) s.shoot
        { s with shoot := l.filter fun y => !(decide (1536 ≤ y.core) && y.unacked.isEmpty) })

end Sys2Proof.Machine
end

