-- ==== Sys2Proof/Machine/Matrix.lean ====
section
/-! DEFINITION. The matrix engine: dispatch of its commands, class 0xB and 0xC (R266 to R292), and what the engine does on its own (R269 to
R271). -/

namespace Sys2Proof.Machine

def execMzero (f : Tile) (l : Tile) (s : State) : Out := dispatchMat (.mzero f l) s

def execMma (t : Tile) (a : SReg) (b : SReg) (ty : ETy) (ld : SReg) (ta : Bool) (tb : Bool) (s : State) : Out :=
  dispatchMat (.mma t a b ty ld ta tb) s

def execMmaq (t : Tile) (a : SReg) (b : SReg) (z : SReg) (ta : ETy) (tb : ETy) (g : Grp) (s : State) : Out :=
  dispatchMat (.mmaq t a b z ta tb g) s

def execMmas (t : Tile) (a : SReg) (b : SReg) (md : SReg) (ty : ETy) (s : State) : Out := dispatchMat (.mmas t a b md ty) s

def execMmac (rm : Rm) (t : Tile) (src : Tile) (b : SReg) (ty : ETy) (s : State) : Out := dispatchMat (.mmac rm t src b ty) s

def execMscale (t : Tile) (src : Tile) (a : SReg) (b : SReg) (s : State) : Out := dispatchMat (.mscale t src a b) s

def execMld (t : Tile) (b : SReg) (disp : BitVec 22) (s : State) : Out := dispatchMat (.mld t b disp) s

def execMst (t : Tile) (b : SReg) (disp : BitVec 22) (s : State) : Out := dispatchMat (.mst t b disp) s

def execMdrain (rm : Rm) (t : Tile) (tgt : DrainTo) (ty : ETy) (s : State) : Out := dispatchMat (.mdrain rm t tgt ty) s

def execPdrain (f : Tile) (l : Tile) (set : PSet) (o : SReg) (p : SReg) (rb : SReg) (vd : VDst) (oty : OutTy) (s : State) : Out :=
  dispatchMat (.pdrain f l set o p rb vd oty) s

def execPadj (rb : SReg) (g : SReg) (o : SReg) (ln : SReg) (oty : OutTy) (s : State) : Out := dispatchMat (.padj rb g o ln oty) s

def execPstat (f : Tile) (l : Tile) (set : PSet) (p : SReg) (o : SReg) (s : State) : Out := dispatchMat (.pstat f l set p o) s

def execPfix (f : Tile) (l : Tile) (set : PSet) (th : SReg) (o : SReg) (oty : OutTy) (s : State) : Out :=
  dispatchMat (.pfix f l set th o oty) s

def execPrld (b : SReg) (nm1 : BitVec 6) (s : State) : Out := dispatchMat (.prld b nm1) s

def execPrst (b : SReg) (nm1 : BitVec 6) (s : State) : Out := dispatchMat (.prst b nm1) s

/-- The unit cycles of a command (R272, R288 to R292). -/
def matCycles (i : Instr) : Nat :=
  let mma := fun (t : ETy) => if t = .f32 then 256 else if t.width = 16 then 128 else 64
  let tiles := fun (f l : Tile) => l.toNat - f.toNat + 1
  match i with
  | .mma _ _ _ ty _ _ _ => mma ty
  | .mmac _ _ _ _ ty => mma ty
  | .mmas _ _ _ _ ty => mma ty / 2
  | .mmaq _ _ _ _ _ tb g => if tb = .q4 then g.size / 2 else g.size
  | .mscale .. | .mld .. | .mst .. => 64
  | .mzero f l => tiles f l
  | .mdrain _ _ (.pad _) ty => 2 * ty.width
  | .mdrain _ _ (.vec _ _) _ => 4
  | .pdrain f l set _ _ _ _ _ => match set with
    | .none | .box => 64 * tiles f l
    | .simplex | .l1ball | .l2ball => 128 * tiles f l + 16
    | .monoUp | .monoDn => 192 * tiles f l + 16
  | .pstat f l _ _ _ => 128 * tiles f l + 16
  | .pfix f l _ _ _ _ => 64 * tiles f l
  | .prld _ nm1 | .prst _ nm1 => 8 * (nm1.toNat + 1)
  | _ => 0

/-- The same with the length that a PADJ captured (R289). -/
def entryCycles (e : MEntry) : Nat :=
  match e.instr with
  | .padj .. => let x := (e.x.getD 3 0).toNat
    2 * bits x 16 7 * (x % 2048 / 64) + 16
  | i => matCycles i

/-- MATRIX_ISSUE (R269); the work is charged to the RCB's matrix budget (R271). -/
def execMatrixIssue (c : Nat) (s : State) : Out :=
  .next (onCore c (fun t =>
    match nextMat t.core.mat with
    | none => t
    | some e =>
      if matReady t e then
        let m := t.core.mat
        chargeBudget t.core.seq.eff .matrix t.core.id (entryCycles e)
          (setMat t { m with queue := m.queue.map fun o => if o.id = e.id then { o with issued := true } else o })
      else t) s)

/-- The unit a fault record names for a command (R329). -/
def matUnit : Instr → Nat
  | .pdrain .. | .padj .. | .pstat .. | .pfix .. | .prld .. | .prst .. => 4
  | _ => 3

/-- A command's flags are merged; only SM has an index (R65, R271). -/
def mergeMat (f : Flags) (i : Option Nat) (v : Vec) : Vec :=
  let v1 := mergeFlags f none v
  match i with
  | some g => mergeFlags fSM (some (BitVec.ofNat 64 g)) v1
  | none => v1

/-- An issued command of the current core does its work and leaves the queue. -/
def completeMat (e : MEntry) (s : State) : State :=
  if mConsumes s s.core e then machineCheck s.core.id (matUnit e.instr) 0 0 e.env.pc.toNat true s
  else
    let (t, f, i) := mRun e s
    let t1 := mMovePoison e s (setVec t (mergeMat f i t.core.vec))
    setMat t1 { t1.core.mat with queue := t1.core.mat.queue.filter fun o => decide (o.id ≠ e.id) }

/-- MATRIX_COMPLETION: the oldest issued command of a unit. -/
def execMatrixCompletion (c : Nat) (un : MUnit) (s : State) : Out :=
  .next (onCore c (fun t =>
    match t.core.mat.queue.find? fun e => e.issued && decide (e.unit = un) with
    | some e => completeMat e t
    | none => t) s)

end Sys2Proof.Machine
end

