-- ==== Sys2Proof/Machine/Copy.lean ====
section
/-! DEFINITION. The copy instructions, class 0xD (R255 to R262), and the events of the stream dispatchers (R249, R252, R254, R261, R263,
R265). -/

namespace Sys2Proof.Machine

/-! ## Instructions -/

/-- A read of `n` bytes on `.s` by an instruction, through the data cache; a failure is a trap at the head. -/
def withRead (va : Word) (n : Nat) (f : Nat → State → Out) (s : State) : Out :=
  reachS .r va n (farHeld 0) (fun p s1 =>
    if isRemote p.pa then
      let (x, s2) := homeRead p.pa n s1
      if x.bad then trapHere 0x26 va s2 else f x.val s2
    else if isPoisoned s1 p.pa n then trapHere 0x26 va s1
    else let (x, s2) := readCached p n s1; f x s2) s

/-- A register that must hold an address aligned to 64 bytes (R255). -/
def aligned64 (r : SReg) (f : State → Out) (s : State) : Out :=
  if (getS s r).toNat % 64 ≠ 0 then trapHere 0x09 (getS s r) s else f s

/-- CBIND (R256). -/
def execCbind (p : BitVec 4) (d : SReg) (s : State) : Out :=
  if p = 12 then illegal s
  else
    aligned64 d (fun t =>
      let a := getS t d
      withRead (a + 8) 8 (fun x u =>
        done (bumpNum (setBind ⟨u.core.id, u.core.seq.tid, p.toNat, a, BitVec.ofNat 64 x⟩ u))) t) s

/-- CGO on an explicit port (R257). -/
def goPort (p : BitVec 4) (tag : BitVec 8) (rg : SReg) (mx : Bool) (s : State) : Out :=
  withCopyError (placed mx (fun t =>
    match getBind t p.toNat with
    | none => illegal t
    | some b => if p = 12 then illegal t else aligned64 rg (dispatchStream (some p.toNat) b.desc 0 b.dst tag.toNat rg mx) t)) s

def execCgo (p : BitVec 4) (tag : BitVec 8) (rg : SReg) (s : State) : Out := goPort p tag rg false s

def execCgoMx (p : BitVec 4) (tag : BitVec 8) (rg : SReg) (s : State) : Out := goPort p tag rg true s

/-- CGO with `.auto` (R256). It reads its descriptor once there is room for what it queues (R7, R258). -/
def goAuto (d : SReg) (tag : BitVec 8) (rg : SReg) (mx : Bool) (s : State) : Out :=
  withCopyError (placed mx (aligned64 d (aligned64 rg (fun t =>
    let a := getS t d
    if queueFull mx t && t.core.seq.flight.isNone then stall false t
    else withRead a 16 (fun x u =>
      dispatchStream none a (BitVec.ofNat 64 x) (BitVec.ofNat 64 (x / 2 ^ 64)) tag.toNat rg mx u) t)))) s

def execCgoAuto (d : SReg) (tag : BitVec 8) (rg : SReg) (s : State) : Out := goAuto d tag rg false s

def execCgoAutoMx (d : SReg) (tag : BitVec 8) (rg : SReg) (s : State) : Out := goAuto d tag rg true s

/-- CVLD (R261): a stream on port 12, and no later vector instruction until its descriptor has been read. -/
def execCvld (vd : VDst) (md : MReg) (d x : SReg) (tag : BitVec 8) (ty : ETy) (s : State) : Out :=
  withCopyError (aligned64 d (fun t =>
    let v := t.core.vec
    let rot := ((t.core.seq.loops.find? fun e => e.loopr).map LoopEntry.rot).getD 0
    match dstSlot rot vd with
    | none => illegal t
    | some slot =>
      if v.block.isSome then stall false t
      else if ty.vlmax < v.vl.toNat then trapHere 0x04 v.vl t
      else if 32 ≤ (queuedStreams t t.core).length then stall false t
      else
        let st : Stream := { id := t.copy.nextId, core := t.core.id, tid := t.core.seq.tid, port := 12, desc := getS t d, tag := tag.toNat,
                             num := v.num + 1, ring := none, deliver := some ⟨slot, md, ty, v.vl.toNat, []⟩, eff := t.core.seq.eff }
        let t1 := setCopy t { t.copy with streams := t.copy.streams ++ [st], nextId := t.copy.nextId + 1 }
        let t2 := setVec t1 { v with block := some ⟨0, [x]⟩ }
        done (bumpNum (setSeq t2 { t2.core.seq with busy := if x = 0 then t2.core.seq.busy else x :: t2.core.seq.busy })))) s

/-- A ring is registered, in place of one at the same address (R259). -/
def addRing (r : Ring) (s : State) : State :=
  setCopy s { s.copy with rings := r :: s.copy.rings.filter fun y => !(decide (y.core = r.core ∧ y.tid = r.tid ∧ y.obj = r.obj)) }

/-- What RINIT refuses (R259). -/
def ringBad (s : State) (obj b z n : Word) : Bool :=
  let mine := s.copy.rings.filter fun r => decide (r.core = s.core.id ∧ r.tid = s.core.seq.tid)
  decide (2 ^ 57 ≤ b.toNat) || decide (b.toNat % 64 ≠ 0) || decide (z.toNat < 64) || decide (2 ^ 20 < z.toNat) || decide (z.toNat % 64 ≠ 0) ||
    decide (n.toNat = 0) || decide (4096 < n.toNat) || decide (8 ≤ (mine.filter fun r => decide (r.obj ≠ obj)).length) ||
    ((mine.any fun r => decide (r.obj = obj)) && (taskStreams s s.core.seq.tid).any fun t => match t.ring with
      | some (o, _) => decide (o = obj)
      | none => false)

/-- RINIT (R259). -/
def execRinit (rg b z n : SReg) (s : State) : Out :=
  withCopyError (aligned64 rg (fun t =>
    let obj := getS t rg
    let x := (getS t b).toNat + (getS t z).toNat * 2 ^ 64 + (getS t n).toNat * 2 ^ 96
    let r : Ring := ⟨t.core.id, t.core.seq.tid, obj, getS t b, (getS t z).toNat, (getS t n).toNat, 0, 0, 0, []⟩
    if ringBad t obj (getS t b) (getS t z) (getS t n) then illegalVal obj t
    else
      match reach1 t with
      | .lost pa => done (bumpNum (addRing r (lostWrite pa 64 t)))
      | _ => reachS .w obj 64 (farShut 0) (fun p t1 => storeHome obj p 64 x (addRing r) t1) t)) s

/-- The task's ring at the address in a register, or the trap (R260). -/
def withRing (rg : SReg) (f : Ring → State → Out) (s : State) : Out :=
  withCopyError (aligned64 rg (fun t =>
    match getRing t t.core.id t.core.seq.tid (getS t rg) with
    | none => illegalVal (getS t rg) t
    | some r => f r t)) s

/-- AWAIT (R260). -/
def execAwait (rg n : SReg) (s : State) : Out :=
  withRing rg (fun r t =>
    let k : BitVec 32 := (getS t n).truncate 32
    let d := (r.wptr - k).toNat
    if r.scount ≤ (k - r.rptr).toNat then illegalVal (getS t n) t
    else if 1 ≤ d ∧ d ≤ r.scount then done t
    else stall true t) s

/-- An order point that names `.c` still waits for the other path, in a memory frame too (R84, R170, R199, R260). -/
def copyPointPending (s : State) : Bool :=
  let k := s.core
  k.vec.points.any fun o =>
    (decide (o.a = .c) && pointPending s k .c o.b o.num) || (decide (o.b = .c) && pointPending s k .c o.a o.num)

/-- The dispatcher's accesses for the running task that belong to no stream. -/
def taskStream (s : State) : Stream :=
  { id := s.copy.nextId, core := s.core.id, tid := s.core.seq.tid, port := 0, desc := 0, tag := 0, num := 0, ring := none, eff := s.core.seq.eff }

/-- RELS (R260). -/
def execRels (rg : SReg) (s : State) : Out :=
  withRing rg (fun r t =>
    if copyPointPending t || !wordOk (taskStream t) (r.obj + 16) t then stall false t
    else if r.rptr = r.wptr then illegal t
    else
      let r1 := { r with rptr := r.rptr + 1 }
      done (bumpNum (putRing (taskStream t) r1 (setRing t r1)))) s

/-- CCANCEL (R262): every stream of the core on the port that its dispatcher holds. It waits for the bytes they have sent. -/
def execCcancel (p : BitVec 4) (s : State) : Out :=
  withCopyError (fun t =>
    let mine := (queuedStreams t t.core).filter fun x => decide (x.port = p.toNat)
    let u := cancelStreams 1 (mine.map Stream.id) t
    if (coreStreams u u.core.id).any fun x => decide (x.ends = some (0, 1)) then stall false u else done u) s

/-! ## Streams -/

/-- The VL a CVLD gives (R261). -/
def deliveredVl (bs : List Byte) (vl : Nat) : Nat :=
  let d := descDim bs 0
  let n := descCount bs
  let l := if descN bs = 1 ∧ d.extent ≠ 0 then min n (max 0 ((d.extent : Int) - d.origin)).toNat else n
  min vl l

/-- STREAM_START (R252, R254, R263): the descriptor is read; a CVLD gives its VL. -/
def execStreamStart (id : Nat) (s : State) : Out :=
  .next (
    match getStream s id with
    | none => s
    | some t =>
      if !mayStart s t then s
      else
        match openDesc t s with
        | (.error _, _) => s
        | (.ok bs, s1) =>
          let go := { t with running := true, image := bs }
          match t.deliver with
          | none => putStatus go 0 0 1 (setStream s1 go)
          | some d =>
            let vl := deliveredVl bs d.vl
            let s2 := putStatus go 0 0 1 (setStream s1 { go with deliver := some { d with vl := vl } })
            onCore t.core (fun u =>
              match u.core.vec.block with
              | some b =>
                let v := unblock b.seqn u.core.vec
                b.regs.foldl (fun w r => landS r (BitVec.ofNat 64 vl) w) (setVec u { v with vl := BitVec.ofNat 64 vl })
              | none => u) s2)

/-- A running stream moves what is left of it, or as much as its budgets let through; the port is taken for the bytes moved (R123, R249).
What it writes in one step clears marks as one write (R325). -/
def runStream (t : Stream) (s : State) : State × Stream × Option (Nat × Word) :=
  let n := descCount t.image - t.landed
  let (s0, t1, r) := moveElems n t s
  let s1 := if s.poison.isEmpty then s0 else coverPoison (moveWrites n t s) s0
  (chargeBudget t.eff .copy (clusterOf t.core) (((t1.landed - t.landed) * descEsize t.image + 63) / 64) s1, t1, r)

/-- The slot of a completed stream is filled, and wptr moves past what is filled in order (R254). -/
def fillSlot (t : Stream) (s : State) : State :=
  match t.ring with
  | none => s
  | some (obj, v) =>
    match getRing s t.core t.tid obj with
    | none => s
    | some r =>
      let r1 := ringFill { r with done := v :: r.done } (r.done.length + 1)
      let s1 := setRing s r1
      if r1.wptr = r.wptr then s1 else putRing t r1 s1

/-- The marks of a delivery as it ends: words that it covered whole are as its elements came (R325). -/
def landDelivery (t : Stream) (s : State) : State :=
  match t.deliver with
  | none => s
  | some d =>
    let ds := descDims t.image
    let es := (List.range (min d.vl t.landed)).filter fun n => inRange ds (elemIdx ds n)
    onCore t.core (fun u =>
      let k := clearMask d.m (fun n => decide (n < min d.vl t.landed)) (clearLanes d.reg d.ty.width es u.core)
      { u with core := addPsn (d.bad.map fun n => (d.reg, n * d.ty.width / 64)).eraseDups k }) s

/-- A stream has landed its last byte, or what is left of it is lost: its status, its slot, its follow-on, its launch, which a loss completes
with PEER_LOST (R254, R258, R265, R316). -/
def endStream (t : Stream) (s : State) : State :=
  let s1 := freeFollow t (dropStream t.id (fillSlot t (putStatus t t.landed 0 2 (landDelivery t s))))
  if t.launch = 0 then s1 else endCopy t.launch (if t.lost then 7 else 0) s1

/-- A COPY packet's stream fails its launch (R265), and that is recorded, as is a poisoned descriptor (R326, R329). -/
def failStream (t : Stream) (cause : Nat) (tval : Word) (desc : Bool) (s : State) : State :=
  let psn := decide (cause = 0x26)
  let s1 := if (desc && psn) || decide (t.launch ≠ 0) then
    logRecord { kind := 6, domain := t.eff.domain, unit := 5, psn := psn, tid := t.tid.toNat, at_ := t.core, cause := cause, addr := tval.toNat,
                rcb := t.eff.rcb } s
    else s
  if t.launch = 0 then s1 else endCopy t.launch 5 s1

/-- The fault record of a COPY that lost bytes with a port (R316), as END writes it for a task. -/
def lossRecord (t : Stream) (s : State) : State :=
  if t.lost && decide (t.launch ≠ 0) then
    logRecord { kind := 5, domain := t.eff.domain, unit := 8, tid := t.tid.toNat, at_ := t.core, cause := 7, rcb := t.eff.rcb } s
  else s

/-- A stream that moves no more ends, its bytes accepted or lost: complete, cancelled, or with its error (R249, R262, R263). -/
def settleStream (t : Stream) (s : State) : State :=
  let u := lossRecord t s
  match t.ends with
  | none => endStream t u
  | some (0, _) => cancelOne t.id u
  | some (c, va) => failStream t c va false (stopStream t t.landed c va true u)

/-- The bytes that a stream has sent are accepted where no channel that they went over is paused (R249, R308). -/
def accepted (s : State) (t : Stream) : Bool := t.ports.all fun p => chanOpen s p 0

/-- What a running stream has sent by now is accepted. -/
def acceptStream (t : Stream) (s : State) : Stream := if accepted s t then { t with ports := [] } else t

/-- STREAM_COMPLETION (R249, R262, R263): what a stream has written to host or peer memory at earlier such events is accepted, and it moves on;
it completes once all its bytes have been accepted. DESIGN CHOICE (log entry 31): what a stream moves at one event it moves in one step, so that no racing access sees some of those
elements old and others new, which R13 allows. -/
def execStreamCompletion (id : Nat) (s : State) : Out :=
  .next (
    match getStream s id with
    | none => s
    | some t =>
      if t.sent || t.ends.isSome then (if accepted s t && statusOk t s then settleStream t s else s)
      else if !t.running then s
      else
        match runStream (acceptStream t s) s with
        | (s1, t1, some (c, _)) => if c = 0 then setStream s1 t1 else s
        | (s1, t1, none) => if t1.ports.isEmpty && statusOk t1 s1 then endStream t1 s1 else setStream s1 { t1 with sent := true })

/-- STREAM_ERROR (R252, R263): at the descriptor, or at the first failing element, once every earlier one has landed: a stream that has bytes
out to host or peer memory stops with its error at a later STREAM_COMPLETION. -/
def execStreamError (id : Nat) (s : State) : Out :=
  .next (
    match getStream s id with
    | none => s
    | some t =>
      if t.running then
        if t.sent || t.ends.isSome then s
        else
          match runStream (acceptStream t s) s with
          | (s1, t1, some (c, va)) =>
            if c = 0 then s
            else if t1.ports.isEmpty && statusOk t1 s1 then settleStream { t1 with ends := some (c, va) } s1
            else setStream s1 { t1 with ends := some (c, va) }
          | (_, _, none) => s
      else if mayStart s t then
        match openDesc t s with
        | (.error (c, readable, psn), s1) => failStream t c t.desc psn (stopStream t 0 c t.desc readable s1)
        | (.ok _, _) => s
      else s)

end Sys2Proof.Machine
end

