-- ==== Sys2Proof/Machine/Near.lean ====
section
/-! DEFINITION. The near-memory engines, class 0xE first half (R295 to R304): dispatch with its translation, and how a command is
performed; what becomes of one behind a failed link (R331). -/

namespace Sys2Proof.Machine

/-! ## A task that may not be on a core -/

/-- Whether the task `tid` runs on core `k`. -/
def onTask (k : Core) (tid : BitVec 31) : Bool := decide (k.seq.tid = tid) && decide (k.seq.mode ≠ .idle)

/-- Merges flags, without an index, into the `sys.vstat` of a task, wherever its context is (R145, R300). A spilled context holds it in
its image (R148). -/
def mapVstat (tid : BitVec 31) (f : Flags) (s : State) : State :=
  let onVec := fun (v : Vec) => mergeFlags f none v
  let go := fun (k : Core) => { k with
    vec := if onTask k tid then onVec k.vec else k.vec
    shadow := k.shadow.map (fun x => if x.seq.tid = tid then { x with vec := onVec x.vec } else x) }
  let s1 := { s with core := go s.core, others := s.others.map go }
  (s1.slots.filter fun e => decide (e.tid = tid) && decide (s1.rd e.slot 4 = 0x43545831)).foldl (fun t e =>
    t.wr (e.slot + 600) 1 (Nat.lor (t.rd (e.slot + 600) 1) f.toNat)) s1

/-! ## Accesses of the command port (R297) -/

/-- The translation of one address on `.n`. -/
def transN (a : Acc) (va : Word) (s : State) : Except Nat Phys × State := translate .banked .n a va s

/-- The physical bytes that reading `n` elements of `sz` on `.n` touches, up to the first that does not translate. -/
def listBytes (sz : Nat) : Nat → Word → State → List (Nat × Nat)
  | 0, _, _ => []
  | n + 1, va, s =>
    match transN .r va s with
    | (.error _, _) => []
    | (.ok p, s1) => (p.pa, sz) :: listBytes sz n (va + BitVec.ofNat 64 sz) s1

/-- Reads `n` bytes, element by element of `sz`, on `.n`: what they hold, or the cause and address of the first failure. -/
def readN (sz : Nat) : Nat → Word → State → Except (Nat × Word) (List Nat) × State
  | 0, _, s => (.ok [], s)
  | n + 1, va, s =>
    match transN .r va s with
    | (.error c, s1) => (.error (c, va), s1)
    | (.ok p, s1) =>
      if isPoisoned s1 p.pa sz then (.error (0x26, va), s1)
      else
        match readN sz n (va + BitVec.ofNat 64 sz) s1 with
        | (.ok xs, s2) => (.ok (s1.rd p.pa sz :: xs), s2)
        | (.error e, s2) => (.error e, s2)

def transRow (a : Acc) (va : Word) (len : Nat) (s : State) : Except (Nat × Word) Nat × State :=
  transRowFor s.core.id s.core.seq.eff a va len s

/-- The rows of an index list in its order: an index at or above the number of rows fails with its position (R297, R300). -/
def transRows (table : Word) (stride nrows len : Nat) : Nat → List Nat → State → Except (Nat × Word) (List Nat) × State
  | _, [], s => (.ok [], s)
  | k, i :: r, s =>
    if nrows ≤ i then (.error (0x01, BitVec.ofNat 64 k), s)
    else
      match transRow .r (table + BitVec.ofNat 64 (stride * i)) len s with
      | (.error e, s1) => (.error e, s1)
      | (.ok p, s1) =>
        match transRows table stride nrows len (k + 1) r s1 with
        | (.ok ps, s2) => (.ok (p :: ps), s2)
        | (.error e, s2) => (.error e, s2)

/-- The physical addresses of `n` output words. -/
def transOut : Nat → Word → State → Except (Nat × Word) (List Nat) × State
  | 0, _, s => (.ok [], s)
  | n + 1, va, s =>
    match transN .w va s with
    | (.error c, s1) => (.error (c, va), s1)
    | (.ok p, s1) =>
      match transOut n (va + 4) s1 with
      | (.ok ps, s2) => (.ok (p.pa :: ps), s2)
      | (.error e, s2) => (.error e, s2)

/-- The port's read of some bytes waits for an earlier command of the core that writes them (R10, R303). -/
def portHeld (s : State) (bs : List (Nat × Nat)) : Bool := (nearOf s).any fun c => overlaps (nearWrites (nearNow s c)) bs

/-- The command enters the queue. -/
def pushNear (c : NearCmd) (s : State) : State := bumpNum { s with near := s.near ++ [c], nearId := s.nearId + 1 }

/-! ## NLOOKUP (R299, R300) -/

/-- A bag descriptor. -/
structure Bag where
  table : Word
  nrows : Nat
  stride : Nat
  w : Nat
  ix64 : Bool
  isMax : Bool
  wt : Bool
  n : Nat
  idx : Word
  wts : Word
  deriving DecidableEq, Repr

def bagOf (x : Nat) : Bag :=
  { table := BitVec.ofNat 64 (bits x 0 64), nrows := bits x 64 32, stride := bits x 96 32, w := bits x 128 16, ix64 := bitAt x 144,
    isMax := bitAt x 145, wt := bitAt x 146, n := bits x 160 32, idx := BitVec.ofNat 64 (bits x 192 64),
    wts := BitVec.ofNat 64 (bits x 256 64) }

/-- The fields an NLOOKUP refuses. -/
def bagBad (x : Nat) : Bool :=
  let b := bagOf x
  decide (2 ^ 57 ≤ b.table.toNat) || decide (2 ^ 57 ≤ b.idx.toNat) || decide (2 ^ 57 ≤ b.wts.toNat) || decide (bits x 147 13 ≠ 0) ||
    decide (bits x 320 192 ≠ 0) || (!b.wt && decide (b.wts ≠ 0)) || decide (b.nrows = 0) || decide (b.w = 0) || decide (1024 < b.w) ||
    decide (b.stride % 4 ≠ 0) || decide (b.stride < 4 * b.w) || decide (2 ^ 20 < b.n) || (b.wt && b.isMax)

/-- The size of an index. -/
def Bag.ixSize (b : Bag) : Nat := if b.ix64 then 8 else 4

/-- The physical bytes of the index list and the weights. -/
def bagLists (b : Bag) (s : State) : List (Nat × Nat) :=
  listBytes b.ixSize b.n b.idx s ++ listBytes 4 (if b.wt then b.n else 0) b.wts s

/-- A misaligned list. -/
def bagMisaligned (b : Bag) : Option Word :=
  if b.table.toNat % 4 ≠ 0 then some b.table
  else if b.idx.toNat % b.ixSize ≠ 0 then some b.idx
  else if b.wt && decide (b.wts.toNat % 4 ≠ 0) then some b.wts
  else none

/-- What the command port makes of an NLOOKUP. -/
structure Looked where
  ixs : List Nat
  wts : List Nat
  rows : List Nat
  out : List Nat
  deriving DecidableEq, Repr

/-- The port's work on an NLOOKUP (R297): it reads the indices and the weights, then translates the rows and the output; or the trap. -/
def portLookup (o : Word) (b : Bag) (s : State) : Except (Nat × Word) Looked × State :=
  match readN b.ixSize b.n b.idx s with
  | (.error e, s1) => (.error e, s1)
  | (.ok ixs, s1) =>
    match readN 4 (if b.wt then b.n else 0) b.wts s1 with
    | (.error e, s2) => (.error e, s2)
    | (.ok ws, s2) =>
      match transRows b.table b.stride b.nrows (4 * b.w) 0 ixs s2 with
      | (.error e, s3) => (.error e, s3)
      | (.ok rows, s3) =>
        match transOut b.w o s3 with
        | (.error e, s4) => (.error e, s4)
        | (.ok out, s4) => (.ok ⟨ixs, ws, rows, out⟩, s4)

/-- The command an NLOOKUP puts into the queue. -/
def lookupCmd (d o : SReg) (tag : BitVec 8) (ov : Word) (b : Bag) (l : Looked) (s : State) : NearCmd :=
  { id := s.nearId, core := s.core.id, tid := s.core.seq.tid, instr := .nlookup d o tag,
    env := captureEnv s (curHead s) true 0 0 tag.toNat, rows := l.rows, wts := l.wts, wr := [(ov.toNat, 4 * b.w)],
    w := b.w, isMax := b.isMax, out := l.out, launch := s.core.seq.launch, eff := s.core.seq.eff,
    vrows := l.ixs.map fun i => (b.table + BitVec.ofNat 64 (b.stride * i)).toNat
    vout := (List.range b.w).map fun j => (ov + BitVec.ofNat 64 (4 * j)).toNat }

def execNlookup (d o : SReg) (tag : BitVec 8) (s : State) : Out :=
  let dv := getS s d
  let ov := getS s o
  let num := nextNum s
  if dv.toNat % 64 ≠ 0 then trapHere 0x09 dv s
  else if ov.toNat % 4 ≠ 0 then trapHere 0x09 ov s
  else if heldByPoint s s.core .n num ∨ 32 ≤ (nearOf s).length then stall false s
  else
    let eff := s.core.seq.eff
    let db := listBytes 64 1 dv s
    -- the port's reads wait for the budgets that their bytes pass (R123)
    if portHeld s db || !bytesOk s eff db then stall false s
    else
      match readN 64 1 dv s with
      | (.error (c, va), s1) => trapHere c va (chargeAll eff db s1)
      | (.ok ds, s1) =>
        let x := ds.headD 0
        let b := bagOf x
        if bagBad x then illegalVal dv (chargeAll eff db s1)
        else
          match bagMisaligned b with
          | some va => trapHere 0x09 va (chargeAll eff db s1)
          | none =>
            let lb := bagLists b s1
            if portHeld s1 lb || !bytesOk s1 eff lb then stall false s1
            else
              match portLookup ov b s1 with
              | (.error (c, va), s2) => trapHere c va (chargeAll eff (db ++ lb) s2)
              | (.ok l, s2) => done (pushNear (lookupCmd d o tag ov b l s2) (chargeAll eff (db ++ lb) s2))

/-! ## NADD and NADDR (R302) -/

/-- Dispatch of an update: the VL and the row are checked, and the task commits. -/
def sendUpdate (i : Instr) (a : SReg) (tag : BitVec 8) (s : State) : Out :=
  let vl := s.core.vec.vl.toNat
  let va := getS s a
  if s.core.vec.block.isSome then stall false s
  else if 256 < vl then trapHere 0x04 s.core.vec.vl s
  else if vl = 0 then done (commitTask s)
  else if 32 ≤ (nearOf s).length then stall false s
  else
    match transRow .rw va (4 * vl) s with
    | (.error (c, v), s1) => trapHere c v s1
    | (.ok pa, s1) =>
      let s2 := commitTask s1
      let c : NearCmd := { id := s2.nearId, core := s2.core.id, tid := s2.core.seq.tid, instr := i,
                           env := captureEnv s2 (curHead s2) true 0 0 tag.toNat, rows := [pa], wts := [], wr := [(va.toNat, 4 * vl)],
                           w := vl, isMax := false, out := [], launch := s2.core.seq.launch, eff := s2.core.seq.eff, vrows := [va.toNat] }
      done (pushNear c s2)

def execNadd (op : NOp) (a : SReg) (src : VSrc) (tag : BitVec 8) (s : State) : Out := sendUpdate (.nadd op a src tag) a tag s

def execNaddr (op : NOp) (d : VDst) (a : SReg) (src : VSrc) (tag : BitVec 8) (s : State) : Out :=
  if d = .nil then illegal s else sendUpdate (.naddr op d a src tag) a tag s

/-! ## NFENCE (R304) -/

def execNfence (_sc : Scope) (s : State) : Out := if (nearOf s).isEmpty then done s else stall false s

/-- It takes a place of the queue while it waits (R7). -/
def execNfenceTag (_sc : Scope) (tag : BitVec 8) (s : State) : Out :=
  if (nearOf s).length < 32 ∧ (nearOf s).all (fun c => decide (c.env.tag ≠ tag.toNat)) then done s else stall false s

/-! ## Performing a command (R298, R300 to R303) -/

/-- The largest of values in the order of R231, −∞ of none. -/
def largest (xs : List Nat) : ER := if xs.isEmpty then (infBits .f32 true, 0) else combF .max xs

/-- One output word of a lookup (R300). -/
def poolWord (s : State) (c : NearCmd) (col : Nat) : ER :=
  let terms := (List.range c.rows.length).map fun m =>
    let pa := c.rows.getD m 0
    (engineOf pa, s.rd (pa + 4 * col) 4, (c.wts[m]?).getD 0x3F800000)
  let engines := (List.range 32).filter fun g => terms.any fun t => decide (t.1 = g)
  if terms.isEmpty then (if c.isMax then infBits .f32 true else 0, 0)
  else if c.isMax then
    let parts := engines.map fun g => largest ((terms.filter fun t => decide (t.1 = g)).map fun t => t.2.1)
    let r := largest (parts.map Prod.fst)
    (r.1, orFlags (r.2 :: parts.map Prod.snd))
  else
    let parts := engines.map fun g =>
      windowSum ((terms.filter fun t => decide (t.1 = g)).map fun t => mulTerm (decodeF .f32 t.2.2) (decodeF .f32 t.2.1))
    let r := windowSum (parts.map fun p => decodeF .f32 p.1)
    (r.1, orFlags (r.2 :: parts.map Prod.snd))

/-- NLOOKUP is performed: its pooled vector is written; poison of a row element marks its output (R326). -/
def runLookup (c : NearCmd) (s : State) : State :=
  let lost := c.rows.any fun pa => engineLost s pa
  let outs := (List.range c.w).map fun col => poolWord s c col
  let bad := (List.range c.w).map fun col => lost || c.rows.any fun pa => isPoisoned s (pa + 4 * col) 4
  let (junk, s1) := if lost then freeBytes s (4 * c.w) else ([], s)
  let s2 := coverPoison ((List.range c.w).map fun col => (c.out.getD col 0, 4, bad.getD col false))
    ((List.range c.w).foldl (fun t col => t.wr (c.out.getD col 0) 4 (if lost then field junk (4 * col) 4 else (outs.getD col (0, 0)).1)) s1)
  let s3 := if lost then tierLost c.launch s2 else mapVstat c.tid (orFlags (outs.map Prod.snd)) s2
  s3

/-- One element of an update (R302). -/
def updElem (op : NOp) (old x : Nat) : ER :=
  match op with
  | .add => addF .f32 .rne 0 (decodeF .f32 old) (decodeF .f32 x)
  | .min => minMaxF .f32 false [old, x]
  | .max => minMaxF .f32 true [old, x]

/-- NADDR's old elements, with their poison, reach the destination of its task on the current core. -/
def landOld (slot : Nat) (got : List (Nat × Bool)) (s : State) : State :=
  let es := List.range got.length
  let t1 := { s with core := clearLanes slot 32 es s.core }
  let t2 := setVec t1 (putElems t1.core.vec slot 32 (got.map Prod.fst) 0)
  let bad := (es.filter fun e => (got.getD e (0, false)).2).map fun e => (slot, 32 * e / 64)
  { t2 with core := addPsn bad.eraseDups t2.core }

/-- An update is performed, as one step for the whole row; NADDR's old elements go to its destination, where its task still runs. -/
def runUpdate (c : NearCmd) (op : NOp) (d : Option VDst) (s : State) : State :=
  let pa := c.rows.headD 0
  let es := List.range c.w
  let lost := engineLost s pa
  let (junk, s0) := if lost then freeBytes s (8 * c.w) else ([], s)
  let src := fun e => (c.data.getD []).getD e (0, false)
  let old := fun e => if lost then (field junk (4 * c.w + 4 * e) 4, true) else (s.rd (pa + 4 * e) 4, isPoisoned s (pa + 4 * e) 4)
  let rs := es.map fun e => updElem op (old e).1 (src e).1
  let s1 := s0.wr pa (4 * c.w) (if lost then field junk 0 (4 * c.w) else packElems 32 (fun e => (rs.getD e (0, 0)).1) c.w)
  -- the granules of the row that are poisoned stay so, and poisoned source data marks them
  let marks := es.filter fun e => ((src e).2 || (old e).2) && !lost
  let s2 := marks.foldl (fun t e => markPoison t (pa + 4 * e) 4) s1
  let s3 := match d.bind (dstSlot c.env.rot) with
    | some slot => onCore c.core (fun t => if onTask t.core c.tid then landOld slot (es.map old) t else t) s2
    | none => s2
  if lost then tierLost c.launch s3 else mapVstat c.tid (orFlags (rs.map Prod.snd)) s3

/-- A command does its work and leaves the queue. -/
def performNear (c : NearCmd) (s : State) : State :=
  let s1 := { s with near := s.near.filter fun o => decide (o.id ≠ c.id) }
  match c.instr with
  | .nadd op _ _ _ => runUpdate c op none s1
  | .naddr op d _ _ _ => runUpdate c op (some d) s1
  | _ => runLookup c s1

/-! ## Sending a command (R105, R302, R305) -/

/-- The source elements as the command port reads them, with their poison. -/
def nearSource (c : NearCmd) (k : Core) : List (Nat × Bool) :=
  match c.instr with
  | .nadd _ _ src _ | .naddr _ _ _ src _ =>
    (List.range c.w).map fun e => ((readSrc k.vec c.env.rot src 32 e).val, !(readBy (psnReader k) c.env.rot (src, 32) e).ready)
  | _ => []

/-- The command leaves for its engines, its source read and its bytes charged. It never faults after its dispatch (R297): where its
translation has been dropped (R105) and the page no longer translates, it waits until it does (DESIGN CHOICE: log entry 35). -/
def sendNear (c : NearCmd) (s : State) : State :=
  match nearAgain c s with
  | (.error _, s1) => s1
  | (.ok c1, s1) =>
    let put := fun (x : NearCmd) (t : State) => { t with near := t.near.map fun o => if o.id = c.id then x else o }
    if nearReady (put c1 s1) c1 && bytesOk s1 c1.eff (nearCost c1) then
      put { c1 with data := some (nearSource c1 (focus s1 c.core).core) } (chargeAll c1.eff (nearCost c1) s1)
    else put c1 s1

/-- NME_PERFORMED: a command is sent, and at a later such event performed. -/
def execNmePerformed (id : Nat) (s : State) : Out :=
  .next (
    match s.near.find? fun c => decide (c.id = id) with
    | none => s
    | some c => if c.data.isSome then performNear c s else if nearReady s c then sendNear c s else s)

end Sys2Proof.Machine
end

