-- ==== Sys2Proof/Machine/Fabric.lean ====
section
/-! DEFINITION. The scale-up fabric as cores use it, class 0xE second half (R308, R309, R311 to R320): dispatch with its translation,
acceptances and responses, collectives, and the loss of a port. -/

namespace Sys2Proof.Machine

/-! ## Ranges (R311) -/

/-- A range of virtual addresses cut at 4 KiB page boundaries: address and length of each piece. -/
def pieces : Nat → Nat → Nat → List (Nat × Nat)
  | 0, _, _ => []
  | f + 1, va, n =>
    if n = 0 then []
    else
      let m := min n (4096 - va % 4096)
      (va, m) :: pieces f (va + m) (n - m)

def piecesOf (va n : Nat) : List (Nat × Nat) := pieces (n / 4096 + 2) va n

/-- One piece on `.f`, for core `c` and region values `r`: a remote address must translate to tier 10, a local one to HBM or lie in the
scratchpad window. -/
def transPiece (c : Nat) (r : Region) (remote : Bool) (a : Acc) (va n : Nat) (s : State) : Except (Nat × Word) (Nat × Nat) × State :=
  let v := BitVec.ofNat 64 va
  let limit := windowBase + r.spsize * 1024
  match translateFor (.banked c) (some c) r .f a {} v s with
  | (.error c, s1) => (.error (c, v), s1)
  | (.ok p, s1) =>
    if remote then
      match place p.pa with
      | .remote _ => (.ok (p.pa, n), s1)
      | _ => (.error (0x24, v), s1)
    else
      match place p.pa with
      | .hbm => (.ok (p.pa, n), s1)
      | .pad _ _ => if limit < va + n then (.error (0x27, BitVec.ofNat 64 limit), s1) else (.ok (p.pa, n), s1)
      | _ => (.error (0x24, v), s1)

/-- Every page of a range, in ascending order. -/
def transPieces (c : Nat) (g : Region) (remote : Bool) (a : Acc) :
    List (Nat × Nat) → State → Except (Nat × Word) (List (Nat × Nat)) × State
  | [], s => (.ok [], s)
  | (va, n) :: r, s =>
    match transPiece c g remote a va n s with
    | (.error e, s1) => (.error e, s1)
    | (.ok p, s1) =>
      match transPieces c g remote a r s1 with
      | (.ok ps, s2) => (.ok (p :: ps), s2)
      | (.error e, s2) => (.error e, s2)

def transRange (remote : Bool) (a : Acc) (va : Word) (n : Nat) (s : State) : Except (Nat × Word) (List (Nat × Nat)) × State :=
  transPieces s.core.id s.core.seq.eff remote a (piecesOf va.toNat n) s

/-- Bytes `off` to `off + len - 1` of a translated range. -/
def sliceP : List (Nat × Nat) → Nat → Nat → List (Nat × Nat)
  | [], _, _ => []
  | (pa, l) :: r, off, len =>
    if len = 0 then []
    else if l ≤ off then sliceP r (off - l) len
    else (pa + off, min len (l - off)) :: sliceP r 0 (len - min len (l - off))

def readP (s : State) (ps : List (Nat × Nat)) : List Byte := ps.flatMap fun p => s.rdBytes p.1 p.2

def writeP : List (Nat × Nat) → List Byte → State → State
  | [], _, s => s
  | (pa, l) :: r, bs, s => writeP r (bs.drop l) (s.wrBytes pa (bs.take l))

def poisonedP (s : State) (ps : List (Nat × Nat)) : Bool := ps.any fun p => isPoisoned s p.1 p.2

def markP (ps : List (Nat × Nat)) (s : State) : State := ps.foldl (fun t p => markPoison t p.1 p.2) s

/-- The byte offsets of a range that are poisoned, and the marking of such offsets. -/
def poisonOffsets (s : State) (ps : List (Nat × Nat)) : List Nat :=
  if poisonedP s ps then (List.range ((ps.map Prod.snd).sum)).filter fun k => poisonedP s (sliceP ps k 1) else []

def markOffsets (ps : List (Nat × Nat)) (ks : List Nat) (s : State) : State := ks.foldl (fun t k => markP (sliceP ps k 1) t) s

/-! ## Ports (R309) -/

/-- The ports that the requests of some pieces use. -/
def portsOf (s : State) (ps : List (Nat × Nat)) : List Nat := (ps.map fun p => portOf s p.1).eraseDups

/-! ## The fabric queue -/

def fabOf (s : State) : List FabOp := s.fab.ops.filter fun o => decide (o.core = s.core.id)

/-- The operation enters the queue. -/
def pushFab (o : FabOp) (s : State) : State :=
  bumpNum (setFab s { s.fab with ops := s.fab.ops ++ [{ o with id := s.fab.nextId }], nextId := s.fab.nextId + 1 })

def putOp (o : FabOp) (s : State) : State := setFab s { s.fab with ops := s.fab.ops.map fun x => if x.id = o.id then o else x }

def dropOp (id : Nat) (s : State) : State := setFab s { s.fab with ops := s.fab.ops.filter fun x => decide (x.id ≠ id) }

/-- An operation of the current task as it is dispatched. -/
def newOp (i : Instr) (tag n : Nat) (s : State) : FabOp :=
  { id := 0, core := s.core.id, tid := s.core.seq.tid, instr := i, num := nextNum s, tag := tag, n := n, launch := s.core.seq.launch,
    eff := s.core.seq.eff }

/-! ## FPUT, FGET, FSIG (R312, R313) -/

/-- FPUT and FGET at dispatch. -/
def fabCopy (put : Bool) (i : Instr) (r l n : SReg) (tag : BitVec 8) (s : State) : Out :=
  let rv := getS s r
  let lv := getS s l
  let nv := getS s n
  let commit := fun (t : State) => if put then commitTask t else t
  if rv.toNat % 4 ≠ 0 then trapHere 0x09 rv s
  else if lv.toNat % 4 ≠ 0 then trapHere 0x09 lv s
  else if 2 ^ 24 < nv.toNat then illegalVal nv s
  else if nv.toNat % 4 ≠ 0 then trapHere 0x09 nv s
  else if nv = 0 then done (commit s)
  else if 32 ≤ (fabOf s).length then stall false s
  else
    match transRange true (if put then .w else .r) rv nv.toNat s with
    | (.error (c, va), s1) => trapHere c va s1
    | (.ok rem, s1) =>
      match transRange false (if put then .r else .w) lv nv.toNat s1 with
      | (.error (c, va), s2) => trapHere c va s2
      | (.ok loc, s2) =>
        let o := newOp i tag.toNat nv.toNat s2
        done (pushFab { o with remote := rem, locals := loc, ports := portsOf s2 rem, vr := rv.toNat, vl := lv.toNat,
                               wr := [((if put then rv else lv).toNat, nv.toNat)] } (commit s2))

def execFput (r l n : SReg) (tag : BitVec 8) (s : State) : Out := fabCopy true (.fput r l n tag) r l n tag s

def execFget (r l n : SReg) (tag : BitVec 8) (s : State) : Out := fabCopy false (.fget r l n tag) r l n tag s

def execFsig (r : SReg) (count : BitVec 24) (s : State) : Out :=
  let rv := getS s r
  if count = 0 then illegal s
  else if rv.toNat % 64 ≠ 0 then trapHere 0x09 rv s
  else if 32 ≤ (fabOf s).length then stall false s
  else
    match transRange true .rw rv 64 s with
    | (.error (c, va), s1) => trapHere c va s1
    | (.ok rem, s1) =>
      let o := newOp (.fsig r count) 0 64 s1
      done (pushFab { o with remote := rem, ports := portsOf s1 rem, vr := rv.toNat, wr := [(rv.toNat, 64)] } (commitTask s1))

/-! ## FFENCE and FSTAT (R314, R315) -/

def execFfence (s : State) : Out := if (fabOf s).isEmpty then done s else stall false s

/-- How many operations of a task have been lost. -/
def lostOf (s : State) (tid : BitVec 31) : Nat := ((s.fab.lost.filter fun p => decide (p.1 = tid)).map Prod.snd).sum

/-- FSTAT's word for a port, and for the core. -/
def portWord (p : FPort) : Word :=
  BitVec.ofNat 64 (p.st % 8 + p.paused % 16 * 2 ^ 24 + min 65535 p.retries * 2 ^ 32 + p.partner % 4096 * 2 ^ 48)

def summaryWord (s : State) : Word :=
  BitVec.ofNat 64 ((fabOf s).length % 2 ^ 16 + min 65535 (lostOf s s.core.seq.tid) * 2 ^ 16)

/-- FSTAT waits for room in the fabric queue, which it enters (R8, R311). -/
def execFstat (d i : SReg) (s : State) : Out :=
  let x := getS s i
  if decide (24 ≤ x.toNat) && decide (x ≠ 255) then illegalVal x s
  else if 32 ≤ (fabOf s).length then stall false s
  else done (setS s d (match s.ports[x.toNat]? with
    | some p => portWord p
    | none => summaryWord s))

/-! ## Collectives: the group (R317, R318) -/

def gNmem (g : List Byte) : Nat := field g 0 2
def gRank (g : List Byte) : Nat := field g 2 2
def gCount (g : List Byte) : Nat := field g 4 4
def gChunk (g : List Byte) : Nat := field g 8 4
def gRoot (g : List Byte) : Nat := field g 12 2
def gKey (g : List Byte) : Nat := field g 16 8
def gPmap (g : List Byte) : Word := BitVec.ofNat 64 (field g 32 8)
def gNode (g : List Byte) (r : Nat) : Nat := field g (64 + 2 * r) 2

/-- The descriptor is malformed. -/
def groupBad (g : List Byte) : Bool :=
  !(decide (2 ≤ gNmem g ∧ gNmem g ≤ 64) && decide (gRank g < gNmem g) && decide (1 ≤ gCount g ∧ gCount g ≤ 2 ^ 28) &&
    (List.range 13).any (fun k => decide (gChunk g = 2 ^ (k + 4))) && decide (gRoot g < gNmem g) && decide (field g 14 2 = 0) &&
    decide (field g 40 24 = 0) && (List.range 64).all fun r => decide (gNode g r < 4096))

/-- Whether two members' descriptors agree: every byte but rank, status and pmap. -/
def groupAgrees (a b : List Byte) : Bool :=
  decide (b.length = 192) && (List.range 192).all fun k =>
    (decide (2 ≤ k) && decide (k < 4)) || (decide (24 ≤ k) && decide (k < 40)) || decide (a.getD k 0 = b.getD k 0)

/-- The variant and type of a COLL: 0 all-reduce, 1 reduce-scatter, 2 all-gather, 3 broadcast. -/
def collForm : Instr → Nat × ETy
  | .collRedscat _ _ _ _ ty => (1, ty)
  | .collAllgather _ _ _ _ ty => (2, ty)
  | .collBcast _ _ _ _ ty => (3, ty)
  | .collAllreduce _ _ _ _ ty => (0, ty)
  | _ => (0, .f32)

/-- Elements of the source and of the destination at a member. -/
def collSrcCount (kind : Nat) (g : List Byte) : Nat :=
  match kind with
  | 1 => gCount g * gNmem g
  | 3 => if gRank g = gRoot g then gCount g else 0
  | _ => gCount g

def collDstCount (kind : Nat) (g : List Byte) : Nat := if kind = 2 then gCount g * gNmem g else gCount g

/-- Chunks of a block, and chunks of the whole collective: chunk `k` is chunk `k % blockChunks` of block `k / blockChunks`. -/
def blockChunks (g : List Byte) : Nat := (gCount g + gChunk g - 1) / gChunk g
def collChunks (kind : Nat) (g : List Byte) : Nat := if kind = 1 ∨ kind = 2 then blockChunks g * gNmem g else blockChunks g

/-- The rank a chunk starts at (R319). -/
def chunkStart (kind : Nat) (g : List Byte) (k : Nat) : Nat :=
  match kind with
  | 0 => k % gNmem g
  | 1 => (k / blockChunks g + 1) % gNmem g
  | 2 => k / blockChunks g
  | _ => gRoot g

def chunkLast (kind : Nat) (g : List Byte) (k : Nat) : Nat := (chunkStart kind g k + gNmem g - 1) % gNmem g

/-- Elements of a chunk. -/
def chunkLen (g : List Byte) (k : Nat) : Nat := min (gChunk g) (gCount g - k % blockChunks g * gChunk g)

/-- Where a chunk stands in the member's source and destination, in elements. -/
def chunkSrc (kind : Nat) (g : List Byte) (k : Nat) : Nat :=
  (if kind = 1 then k / blockChunks g * gCount g else 0) + k % blockChunks g * gChunk g

def chunkDst (kind : Nat) (g : List Byte) (k : Nat) : Nat :=
  (if kind = 2 then k / blockChunks g * gCount g else 0) + k % blockChunks g * gChunk g

/-- The result of a chunk belongs to this member. -/
def chunkMine (kind : Nat) (g : List Byte) (k : Nat) : Bool := decide (kind ≠ 1) || decide (k / blockChunks g = gRank g)

/-- The result chunk's bit in the poison bitmap. -/
def chunkBit (kind : Nat) (g : List Byte) (k : Nat) : Nat := if kind = 1 then k % blockChunks g else k

def nextRank (g : List Byte) : Nat := (gRank g + 1) % gNmem g
def prevRank (g : List Byte) : Nat := (gRank g + gNmem g - 1) % gNmem g

/-! ## COLL at dispatch -/

/-- COLL: the descriptor is read and checked, every range translated, and the check of R319 is to go to the neighbours. -/
def sendColl (i : Instr) (g sr d : SReg) (tag : BitVec 8) (s : State) : Out :=
  let (kind, ty) := collForm i
  let e := ty.width / 8
  let gv := getS s g
  let sv := getS s sr
  let dv := getS s d
  if gv.toNat % 64 ≠ 0 then trapHere 0x09 gv s
  else if sv.toNat % e ≠ 0 then trapHere 0x09 sv s
  else if dv.toNat % e ≠ 0 then trapHere 0x09 dv s
  else if 32 ≤ (fabOf s).length ∨ 4 ≤ ((fabOf s).filter FabOp.isColl).length ∨ heldByPoint s s.core .f (nextNum s) then stall false s
  else
    match transRange false .rw gv 192 s with
    | (.error (c, va), s1) => trapHere c va s1
    | (.ok gp, s1) =>
      if ((fabOf s1).any fun o => overlaps (o.reads ++ o.writes) gp) || !bytesOk s1 s1.core.seq.eff gp then stall false s1
      else if poisonedP s1 gp then trapHere 0x26 gv s1
      else
        let gs := readP s1 gp
        if groupBad gs then illegalVal gv s1
        else
          match transRange false .r sv (e * collSrcCount kind gs) s1 with
          | (.error (c, va), s2) => trapHere c va s2
          | (.ok src, s2) =>
            match transRange false .w dv (e * collDstCount kind gs) s2 with
            | (.error (c, va), s3) => trapHere c va s3
            | (.ok dst, s3) =>
              let nbit := if kind = 2 then collChunks 2 gs else blockChunks gs
              match transRange false .w (gPmap gs) ((nbit + 7) / 8) s3 with
              | (.error (c, va), s4) => trapHere c va s4
              | (.ok pm, s4) =>
                let gpa := (gp.headD (0, 0)).1
                let o := newOp i tag.toNat (e * collDstCount kind gs) s4
                let t := pushFab { o with locals := dst, src := src, pm := pm, gpa := gpa, group := gs,
                                          todo := [.check (nextRank gs), .check (prevRank gs)], wr := [(dv.toNat, e * collDstCount kind gs), (gv.toNat + 24, 8), ((gPmap gs).toNat, (nbit + 7) / 8)] }
                  (commitTask (chargeAll s4.core.seq.eff (gp ++ [(gpa + 24, 8)]) s4))
                done (t.wr (gpa + 24) 8 0xFF)

def execCollAllreduce (g sr d : SReg) (tag : BitVec 8) (ty : ETy) (s : State) : Out := sendColl (.collAllreduce g sr d tag ty) g sr d tag s

def execCollRedscat (g sr d : SReg) (tag : BitVec 8) (ty : ETy) (s : State) : Out := sendColl (.collRedscat g sr d tag ty) g sr d tag s

def execCollAllgather (g sr d : SReg) (tag : BitVec 8) (ty : ETy) (s : State) : Out := sendColl (.collAllgather g sr d tag ty) g sr d tag s

def execCollBcast (g sr d : SReg) (tag : BitVec 8) (ty : ETy) (s : State) : Out := sendColl (.collBcast g sr d tag ty) g sr d tag s

/-! ## COLL: chunks (R319, R320) -/

/-- The physical bytes of a chunk in the member's source, and in its destination. -/
def srcSlice (o : FabOp) (k : Nat) : List (Nat × Nat) :=
  let (kind, ty) := collForm o.instr
  sliceP o.src (ty.width / 8 * chunkSrc kind o.group k) (ty.width / 8 * chunkLen o.group k)

def dstSlice (o : FabOp) (k : Nat) : List (Nat × Nat) :=
  let (kind, ty) := collForm o.instr
  sliceP o.locals (ty.width / 8 * chunkDst kind o.group k) (ty.width / 8 * chunkLen o.group k)

/-- A member's elements of a chunk, as FP32 for a reduction, and whether they are poisoned. -/
def ownElems (o : FabOp) (k : Nat) (s : State) : List Nat × Bool :=
  let (_, ty) := collForm o.instr
  let e := ty.width / 8
  let ps := srcSlice o k
  let bs := readP s ps
  ((List.range (chunkLen o.group k)).map fun j => field bs (e * j) e * (if ty = .bf16 then 2 ^ 16 else 1), poisonedP s ps)

/-- A result chunk is written. -/
def landChunk (o : FabOp) (k : Nat) (bs : List Byte) (psn : Bool) (fl : Flags) (s : State) : FabOp × State :=
  let ps := dstSlice o k
  let t := writeP ps bs (chargeAll o.eff ps s)
  ({ o with done := k :: o.done, psn := if psn then k :: o.psn else o.psn, flags := o.flags ||| fl }, if psn then markP ps t else t)

/-- The port that carries a COLL's chunks, which the manual does not name: the lowest with an open channel and something left of the budget
(DESIGN CHOICE: log entry 42). -/
def collPort (s : State) (o : FabOp) : Option Nat :=
  (List.range 24).find? fun p => chanOpen s p 3 && budgetOk s o.eff .fabric p

/-- A chunk is to go to a rank. -/
def tellRank (o : FabOp) (r k : Nat) (bs : List Byte) (psn : Bool) (fl : Flags) : FabOp := { o with todo := o.todo ++ [.pass r k bs psn fl] }

/-- A check or a chunk leaves, its bytes charged to the fabric budget of its port (R123, R311). -/
def sendChunk (o : FabOp) (p r k : Nat) (bs : List Byte) (psn : Bool) (fl : Flags) (s : State) : State :=
  send (chargeBudget o.eff .fabric p bs.length s) (OutMsg.chunk (gNode o.group r) (gKey o.group) k bs psn fl)

def packBytes (e : Nat) (xs : List Nat) : List Byte := xs.flatMap fun x => natBytes e x

/-- The reduced chunk at its last rank: FP32 words to bytes of the type, with the flags of rounding. -/
def finishChunk (ty : ETy) (xs : List Nat) : List Byte × Flags :=
  if ty = .bf16 then
    let rs := xs.map fun x => cvtFF .bf16 .rne 0 false (decodeF .f32 x)
    (packBytes 2 (rs.map Prod.fst), orFlags (rs.map Prod.snd))
  else (packBytes 4 xs, 0)

/-- A chunk that this member starts: it reads its elements, and the chunk goes out over port `p`. -/
def startChunk (o : FabOp) (p k : Nat) (s : State) : FabOp × State :=
  let (kind, _) := collForm o.instr
  let (xs, psn) := ownElems o k s
  let s1 := chargeAll o.eff (srcSlice o k) s
  if kind < 2 then ({ o with joined := k :: o.joined }, sendChunk o p (nextRank o.group) k (packBytes 4 xs) psn 0 s1)
  else
    let bs := readP s (srcSlice o k)
    let (o1, t) := landChunk o k bs psn 0 s1
    (o1, sendChunk o p (nextRank o.group) (collChunks kind o.group + k) bs psn 0 t)

/-- The member's own work on the collective is over. -/
def collOver (o : FabOp) : Bool :=
  let (kind, _) := collForm o.instr
  let ks := List.range (collChunks kind o.group)
  o.todo.isEmpty && decide (o.checks.length = 2) && ks.all fun k => (!chunkMine kind o.group k || o.done.contains k) && (decide (2 ≤ kind) || o.joined.contains k)

/-- Sets bit `b` of the poison bitmap. -/
def setPmap (o : FabOp) (b : Nat) (s : State) : State :=
  match sliceP o.pm (b / 8) 1 with
  | (pa, _) :: _ => s.wr pa 1 (putBits (s.rd pa 1) (b % 8) 1 1)
  | [] => s

/-- A launch whose task met a poisoned collective ends with POISONED (R320). -/
def poisonedLaunch (launch : Nat) (s : State) : State :=
  if launch = 0 ∨ s.fe.lostLaunch.contains (launch, 8) then s
  else setFe s { s.fe with lostLaunch := s.fe.lostLaunch ++ [(launch, 8)] }

/-- What the end of a COLL writes: its status word, and the poison bitmap where a result is poisoned. -/
def endBytes (o : FabOp) : List (Nat × Nat) := (o.gpa + 24, 8) :: if o.psn.isEmpty then [] else o.pm

/-- The COLL is performed: the poison bitmap, the status word, the flags. -/
def finishColl (o : FabOp) (s : State) : State :=
  let (kind, _) := collForm o.instr
  let s1 := o.psn.foldl (fun t k => setPmap o (chunkBit kind o.group k) t) (chargeAll o.eff (endBytes o) s)
  let s2 := s1.wr (o.gpa + 24) 8 (if o.psn.isEmpty then 0 else 1)
  let s3 := dropOp o.id (mapVstat o.tid o.flags s2)
  if o.psn.isEmpty then s3 else poisonedLaunch o.launch s3

/-- A COLL goes on, or is performed where all is done and its last writes need not wait for a budget (R123). -/
def settleColl (p : FabOp × State) : State :=
  if collOver p.1 && bytesOk p.2 p.1.eff (endBytes p.1) then finishColl p.1 p.2 else putOp p.1 p.2

/-- A neighbour's check arrives: `side` 0 from the previous rank, 1 from the next. -/
def takeCheck (o : FabOp) (side : Nat) (bs : List Byte) (s : State) : State :=
  if 1 < side ∨ o.checks.contains side then s
  else if !groupAgrees o.group bs then
    if memOk s o.eff (o.gpa + 24) then dropOp o.id ((chargeMem o.eff (o.gpa + 24) 8 s).wr (o.gpa + 24) 8 2) else s
  else
    let o1 := { o with checks := side :: o.checks }
    if o1.checks.length < 2 then putOp o1 s
    else
      let (kind, _) := collForm o.instr
      let ks := (List.range (collChunks kind o.group)).filter fun k => decide (chunkStart kind o.group k = gRank o.group)
      settleColl ({ o1 with todo := o1.todo ++ ks.map .start }, s)

/-- A partial sum of chunk `k` arrives and is combined with this member's elements. -/
def joinChunk (o : FabOp) (k : Nat) (bs : List Byte) (psn : Bool) (fl : Flags) (s : State) : State :=
  let (kind, ty) := collForm o.instr
  let g := o.group
  let last := decide (gRank g = chunkLast kind g k)
  if 2 ≤ kind ∨ o.joined.contains k ∨ bs.length ≠ 4 * chunkLen g k then s
  else if !bytesOk s o.eff (srcSlice o k ++ if last then dstSlice o k else []) then s
  else
    let (xs, bad) := ownElems o k s
    let s := chargeAll o.eff (srcSlice o k) s
    let rs := (List.range xs.length).map fun j => windowSum [decodeF .f32 (field bs (4 * j) 4), decodeF .f32 (xs.getD j 0)]
    let step := orFlags (rs.map Prod.snd)
    let f1 := fl ||| step
    -- the flags of each step are its core's too, whoever gets the result (R319)
    let o1 := { o with joined := k :: o.joined, flags := o.flags ||| step }
    if !last then settleColl (tellRank o1 (nextRank g) k (packBytes 4 (rs.map Prod.fst)) (psn || bad) f1, s)
    else
      let (out, f2) := finishChunk ty (rs.map Prod.fst)
      let (o2, t) := landChunk o1 k out (psn || bad) (f1 ||| f2) s
      let others := if kind = 1 then [] else (List.range (gNmem g)).filter fun r => decide (r ≠ gRank g)
      settleColl (others.foldl (fun x r => tellRank x r (collChunks kind g + k) out (psn || bad) (f1 ||| f2)) o2, t)

/-- The result of chunk `k` arrives. -/
def takeResult (o : FabOp) (k : Nat) (bs : List Byte) (psn : Bool) (fl : Flags) (s : State) : State :=
  let (kind, ty) := collForm o.instr
  let g := o.group
  let waits := match kind with
    | 0 => decide (gRank g ≠ chunkLast kind g k) && o.joined.contains k
    | 1 => false
    | _ => decide (gRank g ≠ chunkStart kind g k)
  if !waits || o.done.contains k || decide (bs.length ≠ ty.width / 8 * chunkLen g k) || !bytesOk s o.eff (dstSlice o k) then s
  else
    let (o1, t) := landChunk o k bs psn fl s
    let on := decide (2 ≤ kind) && decide (nextRank g ≠ chunkStart kind g k)
    settleColl (if on then tellRank o1 (nextRank g) (collChunks kind g + k) bs psn fl else o1, t)

/-- What a COLL has still to send goes out, one check or chunk at a time, over a port with an open channel and something left of the budget
(R123, R308, R319); with nothing left to send it may be performed. -/
def advanceColl (o : FabOp) (s : State) : State :=
  match o.todo, collPort s o with
  | [], _ => settleColl (o, s)
  | _, none => s
  | .check r :: l, some p => putOp { o with todo := l } (sendChunk o p r 0 o.group false 0 s)
  | .pass r k bs psn fl :: l, some p => settleColl ({ o with todo := l }, sendChunk o p r k bs psn fl s)
  | .start k :: l, some p =>
    if fabReady s o && bytesOk s o.eff (srcSlice o k ++ if (collForm o.instr).1 < 2 then [] else dstSlice o k) then
      settleColl (startChunk { o with todo := l } p k s)
    else s

/-- COLL_CHUNK. Until both neighbours' checks have come, what arrives is a check, taken once this member's own have gone out; then a number
below the number of chunks is a partial sum, and one above it a result. -/
def execCollChunk (id k : Nat) (bs : List Byte) (psn : Bool) (fl : BitVec 8) (s : State) : Out :=
  .next (
    match s.fab.ops.find? fun o => decide (o.id = id) with
    | none => s
    | some o =>
      if !o.isColl || o.lost || !fabReady s o then s
      else if o.checks.length < 2 then (if o.todo.isEmpty then takeCheck o k bs s else s)
      else
        let n := collChunks (collForm o.instr).1 o.group
        if k < n then joinChunk o k bs psn fl s
        else if k < 2 * n then takeResult o (k - n) bs psn fl s
        else s)

/-! ## Acceptances and responses (R310, R312, R313) -/

/-- FPUT's data leaves, piece by piece. -/
def putPieces (o : FabOp) : List (Nat × Nat) → Nat → State → State
  | [], _, s => s
  | (pa, l) :: r, off, s =>
    let ps := sliceP o.locals off l
    putPieces o r (off + l) (send s (OutMsg.put (remoteOf s pa).1 (remoteOf s pa).2 (readP s ps) (poisonOffsets s ps)))

/-- FGET's bytes arrive: those the response carries, or bytes the model does not know. -/
def getBytes (o : FabOp) (bs : List Byte) (psn : List Nat) (s : State) : State :=
  let s1 := o.remote.foldl (fun t p => send t (OutMsg.read (remoteOf t p.1).1 (remoteOf t p.1).2 p.2)) s
  let (got, s2) := if bs.length = o.n then (bs, s1) else freeBytes s1 o.n
  markOffsets o.locals (psn.filter fun k => decide (k < o.n)) (writeP o.locals got s2)

/-- An operation that has not been sent translates again where its translations were dropped (R105). -/
def fabAgain (o : FabOp) (s : State) : Except (Nat × Word) FabOp × State :=
  if !o.stale then (.ok o, s)
  else
    let (ra, la) : Acc × Acc := match o.instr with
      | .fput .. => (.w, .r)
      | .fget .. => (.r, .w)
      | _ => (.rw, .r)
    match transPieces o.core o.eff true ra (piecesOf o.vr o.n) s with
    | (.error e, s1) => (.error e, s1)
    | (.ok rem, s1) =>
      match transPieces o.core o.eff false la (if o.locals.isEmpty then [] else piecesOf o.vl o.n) s1 with
      | (.error e, s2) => (.error e, s2)
      | (.ok loc, s2) => (.ok { o with remote := rem, locals := loc, ports := portsOf s2 rem, stale := false }, s2)

/-- What an operation does at its acceptance. -/
def acceptOp (o : FabOp) (bs : List Byte) (psn : List Nat) (s : State) : State :=
  let t := chargeAll o.eff o.cost s
  match o.instr with
  | .fput .. => dropOp o.id (putPieces o o.remote 0 t)
  | .fget .. => dropOp o.id (getBytes o bs psn t)
  | .fsig _ count =>
    let pa := (o.remote.headD (0, 0)).1
    dropOp o.id (send t (OutMsg.signal (remoteOf s pa).1 (remoteOf s pa).2 count.toNat))
  | _ => s

/-- The local destination of an operation, which has undefined contents once the operation is lost. -/
def lostDest (o : FabOp) : List (Nat × Nat) :=
  match o.instr with
  | .fput .. | .fsig .. => []
  | _ => o.locals

/-- What the loss of an operation writes: its local destination, and the status of a COLL. -/
def lostBytes (o : FabOp) : List (Nat × Nat) := lostDest o ++ if o.isColl then [(o.gpa + 24, 8)] else []

/-- An operation that is lost counts as complete, and its local destination has undefined contents. -/
def endLost (o : FabOp) (s : State) : State :=
  let (bs, s1) := freeBytes (chargeAll o.eff (lostBytes o) s) ((lostDest o).map Prod.snd).sum
  let s2 := writeP (lostDest o) bs s1
  let s3 := if o.isColl then s2.wr (o.gpa + 24) 8 3 else s2
  let s4 := dropOp o.id s3
  setFab s4 { s4.fab with lost := (o.tid, 1) :: s4.fab.lost }

/-- An operation is lost, at once or, where the budget of its RCB holds back what that writes (R123), at a later FABRIC_ACCEPTANCE. -/
def loseOp (o : FabOp) (s : State) : State := if bytesOk s o.eff (lostBytes o) then endLost o s else putOp { o with lost := true } s

/-- FABRIC_ACCEPTANCE; of a COLL, that the fabric takes what it sends next. An operation whose new translation fails performs nothing, and its task learns of it as of a copy error (DESIGN CHOICE:
log entry 35). -/
def execFabricAcceptance (id : Nat) (bs : List Byte) (psn : List Nat) (s : State) : Out :=
  .next (
    match s.fab.ops.find? fun o => decide (o.id = id) with
    | none => s
    | some o =>
      if o.lost then loseOp o s
      else if o.isColl then advanceColl o s
      else if !fabReady s o then s
      else match fabAgain o s with
        | (.error (c, va), s1) =>
          let t := dropOp id s1
          { t with copy := { t.copy with errors := t.copy.errors ++ [⟨o.core, o.tid, c, va⟩] } }
        | (.ok o1, s1) => if fabReady (putOp o1 s1) o1 then acceptOp o1 bs psn s1 else putOp o1 s1)

/-! ## Losing a port (R308, R316) -/

/-- The scalar accesses of the current core that go over a port are lost: each is complete, and a register it was to write has undefined
contents. -/
def loseReturns (p : Nat) (s : State) : State :=
  let mine := fun (r : ReturnSlot) => (r.via.map Prod.fst) == some p
  let gone := s.core.seq.returns.filter mine
  let q := s.core.seq
  let s1 := setSeq s { q with returns := q.returns.filter fun r => !mine r }
  let s2 := gone.foldl (fun t r =>
    let t1 := setSeq t { t.core.seq with busy := t.core.seq.busy.erase r.d }
    if r.posted then t1 else
      let (bs, t2) := freeBytes t1 8
      setS t2 r.d (BitVec.ofNat 64 (bytesNat bs))) s1
  if gone.isEmpty then s else setFab s2 { s2.fab with lost := (q.tid, gone.length) :: s2.fab.lost }

def putPort (p : Nat) (x : FPort) (s : State) : State :=
  if h : p < 24 then { s with ports := s.ports.set p x } else s

/-- A running stream has bytes on a port that fails: they are lost, it counts as complete, for its task or its COPY packet, and it ends
once its status can be written (R123, R316). -/
def loseStream (t : Stream) (s : State) : State :=
  let x := { t with ports := [], sent := true, lost := true }
  let s1 := if t.launch = 0 then setFab s { s.fab with lost := (t.tid, 1) :: s.fab.lost } else s
  if statusOk x s1 then settleStream x s1 else setStream s1 x

/-- The port enters FAILED. Which port a COLL uses is not given: one is lost where the next choice says so, or where no port is left. -/
def failPort (p : Nat) (s : State) : State :=
  let s1 := putPort p { (s.ports[p]?.getD {}) with st := 3 } s
  let none_ := (List.range 24).all fun q => decide (portSt s1 q = 3)
  let s2 := s1.fab.ops.foldl (fun t o =>
    if o.lost then t
    else if o.isColl then
      let (c, t1) := popChoice t
      if c || none_ then loseOp o t1 else t1
    else if o.ports.contains p then loseOp o t
    else t) s1
  let s3 := (s2.copy.streams.filter fun x => x.running && x.ports.contains p).foldl (fun t x => loseStream x t) s2
  flushPosts (((allCores s3).map Core.id).foldl (fun t c => onCore c (loseReturns p) t) s3)

/-- A flit on a port fails its CRC: replayed, or the 16th failure in a row of one flit. The next choice says whether it is another flit than
the one that failed before. -/
def portReplay (p : Nat) (s : State) : State :=
  match s.ports[p]? with
  | none => s
  | some x =>
    if x.st ≠ 2 then s
    else
      let (fresh, t) := popChoice s
      let n := if fresh then 1 else x.consec + 1
      if 16 ≤ n then failPort p t else putPort p { x with consec := n, retries := min 65535 (x.retries + 1) } t

/-- No acknowledgement came in time. -/
def portTimeout (p : Nat) (s : State) : State := if portSt s p = 1 ∨ portSt s p = 2 then failPort p s else s

/-- What waits for a port goes out. -/
def flushPorts (s : State) : State := flushPosts (flushReplies s)

/-- FABRIC_LINK_TRAINED: from down through training to up; the next choice says whether the port is still training. A FAILED port stays
so until reset (R308), and none trains before the firmware is up (R334). -/
def execFabricLinkTrained (port partner : Nat) (s : State) : Out :=
  .next (
    match s.ports[port]? with
    | none => s
    | some x =>
      if s.boot ≠ .up then s
      else if x.st = 0 then
        let (half, t) := popChoice s
        flushPorts (putPort port { x with st := if half then 1 else 2, partner := partner % 4096 } t)
      else if x.st = 1 then flushPorts (putPort port { x with st := 2, partner := partner % 4096 } s)
      else s)

/-- VIRTUAL_CHANNEL_PAUSE. -/
def execVirtualChannelPause (port vc : Nat) (on : Bool) (s : State) : Out :=
  .next (
    match s.ports[port]? with
    | none => s
    | some x => if vc < 4 then flushPorts (putPort port { x with paused := putBits x.paused vc 1 on.toNat } s) else s)

end Sys2Proof.Machine
end

