-- ==== Sys2Proof/Machine/Ras.lean ====
section
/-! DEFINITION. Events of reliability (24): link retry (R308, R331), corrected and uncorrectable errors (R324, R325, R327, R330), row
sparing (R332, R333). -/

namespace Sys2Proof.Machine

/-! ## Golhan links (R331) -/

def golhanBase (c : Nat) : Nat := tierBase + c * 2 ^ 38

def onChip (c pa : Nat) : Bool := decide (golhanBase c ≤ pa) && decide (pa < golhanBase (c + 1))

def putGlink (c : Nat) (x : GLinkSt) (s : State) : State := if h : c < 16 then { s with glinks := s.glinks.set c x } else s

/-- The launch of a task, wherever its context is. -/
def launchOfTid (s : State) (tid : BitVec 31) : Nat :=
  let onCores := ((allCores s).filter fun k => decide (k.seq.mode ≠ .idle ∧ k.seq.tid = tid)).map fun k => k.seq.launch
  let inShadow := (allCores s).filterMap fun k => k.shadow.bind fun x => if x.seq.tid = tid then some x.seq.launch else none
  let spilled := (s.slots.filter fun e => decide (e.tid = tid)).map fun e => e.seq.launch
  (onCores ++ inShadow ++ spilled).headD 0

/-- The first address on chip `c` that a running stream has still to touch. -/
def endOnChip (s : State) (c : Nat) (t : Stream) : Option Word :=
  let hit := fun (a : Acc) (va : Word) => match (transC t a va s).1 with
    | .ok p => onChip c p.pa
    | .error _ => false
  let go := fun (k : Nat) =>
    let (a, b) := streamAddrs s t (t.landed + k)
    if hit .r a then some a else if t.deliver.isNone && hit .w b then some b else none
  if t.running && t.ends.isNone then (List.range (descCount t.image - t.landed)).findSome? go else none

/-- Streams with an endpoint on the chip stop, with cause 0x25. -/
def stopChipStreams (hits : List (Nat × Word)) (s : State) : State :=
  hits.foldl (fun u h =>
    match getStream u h.1 with
    | none => u
    | some t =>
      let l := launchOfTid u t.tid
      failStream t 0x25 h.2 false (stopStream t t.landed 0x25 h.2 true (if t.launch = 0 then tierLost l u else u))) s

/-- Near-memory commands that have been sent to the chip are performed as lost; one that is sent later is lost at its performance, where the
link is still down (R298). -/
def loseChipNear (c : Nat) (s : State) : State :=
  (s.near.filter fun x => x.data.isSome && x.rows.any fun pa => onChip c pa).foldl (fun u x => performNear x u) s

/-- Scalar accesses that are out to the chip are lost. -/
def loseChipScalar (c : Nat) (s : State) : State :=
  let go := fun (k : Core) => { k with seq := { k.seq with flight := k.seq.flight.map fun x => { x with lost := x.lost || onChip c x.pa } } }
  { s with core := go s.core, others := s.others.map go }

def linkRecord (c : Nat) (s : State) : State := logRecord { kind := 0x0B, unit := 7, at_ := 16 + c, addr := golhanBase c } s

def putChip (c : Nat) (on : Bool) (s : State) : State :=
  { s with caps := { s.caps with chips := BitVec.ofNat 16 (putBits s.caps.chips.toNat c 1 on.toNat) } }

/-- Every vector access on its way translates again. -/
def staleCores (s : State) : State :=
  let go := fun (k : Core) => { k with vec := staleAll k.vec }
  { s with core := go s.core, others := s.others.map go }

/-- The link of chip `c` enters FAILED. -/
def failGolhan (c : Nat) (s : State) : State :=
  let hits := s.copy.streams.filterMap fun t => (endOnChip s c t).map fun a => (t.id, a)
  let s1 := putGlink c { failed := true } (linkRecord c s)
  let s2 := staleCores (dropFrames (golhanBase c) (2 ^ 38) (putChip c false s1))
  loseChipNear c (loseChipScalar c (stopChipStreams hits s2))

/-- A flit on a chip's link fails its CRC, as for a port (R308). -/
def golhanReplay (c : Nat) (s : State) : State :=
  match s.glinks[c]? with
  | none => s
  | some x =>
    if chipDown s c then s
    else
      let (fresh, t) := popChoice s
      let n := if fresh then 1 else x.consec + 1
      if 16 ≤ n then failGolhan c t else putGlink c { x with consec := n } t

def execLinkReplay (lk : Link) (s : State) : Out :=
  .next (match lk with
    | .port p => portReplay p s
    | .golhan c => golhanReplay c s)

def execLinkAckTimeout (lk : Link) (s : State) : Out :=
  .next (match lk with
    | .port p => portTimeout p s
    | .golhan c => match s.glinks[c]? with
      | some _ => if chipDown s c then s else failGolhan c s
      | none => s)

/-- A write of GLINK retrains the links of its bits. -/
def doGlink (v : Word) (s : State) : State :=
  (List.range 16).foldl (fun t c => if v.getLsbD c then putGlink c { (t.glinks[c]?.getD {}) with retraining := true } t else t) s

def execGlink (v : Word) (s : State) : Out := .next (doGlink v s)

/-- RETRAIN_DONE: the range is backed again, or a second record is written. -/
def execRetrainDone (chip : Nat) (ok : Bool) (s : State) : Out :=
  .next (
    match s.glinks[chip]? with
    | none => s
    | some x =>
      if !x.retraining then s
      else if ok then putChip chip true (putGlink chip {} s)
      else if chipDown s chip then linkRecord chip (putGlink chip { x with retraining := false } s)
      else failGolhan chip s)

/-! ## Row sparing (R332, R333) -/

def spareCount (row : Nat) : Nat := if Config.rowBase row < hbmEnd then 8 else 16

/-- The lowest spare of the row's bank that is neither retired nor in use. -/
def chooseSpare (s : State) (row : Nat) : Option Nat :=
  let b := Config.bankOf row
  (List.range (spareCount row)).find? fun n =>
    !(s.ras.retired.contains (b, n)) && !(s.ras.remapped.any fun p => decide (Config.bankOf p.1 = b ∧ p.2 = n)) &&
      !(s.ras.jobs.any fun j => decide (Config.bankOf j.row = b ∧ j.spare = n))

def rasRecord (kind row spare : Nat) (s : State) : State :=
  logRecord { kind := kind, unit := 12, at_ := engineOf (Config.rowBase row), addr := Config.rowBase row, syndrome := spare } s

/-- The copy of a row to a spare begins, or a page-retire request is written where none is left. -/
def beginSpare (row : Nat) (s : State) : State :=
  match chooseSpare s row with
  | some n => { s with ras := { s.ras with jobs := ⟨row, n⟩ :: s.ras.jobs } }
  | none => logRecord { kind := 9, unit := 12, at_ := engineOf (Config.rowBase row), addr := Config.rowBase row / 4096 * 4096 } s

def startSpare (row : Nat) (s : State) : State := if s.ras.jobs.any fun j => decide (j.row = row) then s else beginSpare row s

def dropJob (row : Nat) (s : State) : State := { s with ras := { s.ras with jobs := s.ras.jobs.filter fun j => decide (j.row ≠ row) } }

/-- ROW_SPARE_SWITCH: reads and writes have gone to the original row's address throughout, so memory holds what the spare now holds. -/
def execRowSpareSwitch (row : Nat) (s : State) : Out :=
  .next (
    match s.ras.jobs.find? fun j => decide (j.row = row) with
    | none => s
    | some j =>
      let t := dropJob row s
      rasRecord 8 row j.spare { t with ras := { t.ras with
        remapped := (row, j.spare) :: t.ras.remapped.filter (fun p => decide (p.1 ≠ row))
        rows := t.ras.rows.filter fun p => decide (p.1 ≠ row) } })

/-- SPARE_ABORT: the spare is retired, and the copy starts again on the next. -/
def execSpareAbort (row : Nat) (s : State) : Out :=
  .next (
    match s.ras.jobs.find? fun j => decide (j.row = row) with
    | none => s
    | some j =>
      let t := dropJob row s
      beginSpare row (rasRecord 7 row j.spare { t with ras := { t.ras with retired := (Config.bankOf row, j.spare) :: t.ras.retired } }))

/-- A write of the SPARE register. -/
def doSpare (pa : Word) (s : State) : State := if inDevice pa.toNat 1 then startSpare (Config.rowOf pa.toNat) s else s

def execSpare (pa : Word) (s : State) : Out := .next (doSpare pa s)

/-! ## Corrected errors (R324, R327, R329) -/

/-- Counts of a unit. -/
def bumpCount (u loc : Nat) : List (Nat × Nat × Nat) → List (Nat × Nat × Nat) × Nat
  | [] => ([(u, loc, 1)], 1)
  | (a, b, n) :: r =>
    if a = u ∧ b = loc then ((a, b, n + 1) :: r, n + 1)
    else
      let (r1, m) := bumpCount u loc r
      ((a, b, n) :: r1, m)

/-- A corrected error of a row: the fourth starts its sparing. -/
def rowError (pa : Nat) (s : State) : State :=
  let row := Config.rowOf pa
  let n := (((s.ras.rows.find? fun p => decide (p.1 = row)).map Prod.snd).getD 0) + 1
  let t := { s with ras := { s.ras with rows := (row, n) :: s.ras.rows.filter fun p => decide (p.1 ≠ row) } }
  if n = 4 then startSpare row t else t

/-- CORRECTED_ERROR: counted, with a record for each 2^12. Which of them is the overflow that R327 makes a machine check of domain 0 is not
given: the next choice says whether this one is. -/
def execCorrectedError (un : ErrUnit) (loc pa : Nat) (s : State) : Out :=
  let (l, n) := bumpCount un.code loc s.ras.corrected
  let s1 := { s with ras := { s.ras with corrected := l } }
  let s2 := if un = .dram then rowError pa s1 else s1
  .next (
    if n % 2 ^ 12 = 0 then
      let at_ := if un = .dram then engineOf pa else loc % 2 ^ 16
      let (over_, t) := popChoice (logRecord { kind := 1, unit := un.code, at_ := at_, count := 2 ^ 12, addr := pa } s2)
      if over_ then machineCheck0 un.code at_ pa false t else t
    else s2)

/-! ## Uncorrectable errors (R324, R325, R327, R330) -/

/-- An error in state of core `c` that is a machine check of its task, or of domain 0 where it has none. -/
def coreCheck (c unit : Nat) (s : State) : State :=
  let q := (getCore s c).seq
  match q.mode with
  | .idle | .held _ => machineCheck0 unit c 0 false s
  | _ => machineCheck c unit 0 0 q.pc.toNat false s

/-- Marks a word of a core's registers. -/
def markWord (c : Nat) (f : Core → Core) (s : State) : State := onCore c (fun t => { t with core := f t.core }) s

def execUncorrectableError (site : ErrSite) (s : State) : Out :=
  .next (
    match site with
    | .mem pa => if inDevice pa 1 || (match place pa with | .pad _ _ => true | _ => false) then markPoison s pa 1 else s
    | .tileWord c t w => markWord c (fun k => { k with psnA := (t.toNat, w) :: k.psnA }) s
    | .vecWord c r l true => markWord c (fun k => { k with psnV := (r, l) :: k.psnV }) s
    | .vecWord c r l false => markWord c (fun k => { k with psnV := (r, l) :: k.psnV, psnT := (r, l) :: k.psnT }) s
    | .maskWord c m w lasts => markWord c (fun k => if m = 0 then k else { k with par := (m.toNat, w, lasts) :: k.par }) s
    | .tableWord c lane w lasts => markWord c (fun k => { k with par := (16 + lane, w, lasts) :: k.par }) s
    | .scalar c => coreCheck c 0 s
    | .mittLibrary c => coreCheck c 2 s
    | .patrol pa => machineCheck0 12 (engineOf pa) pa true (if inDevice pa 1 then markPoison s pa 1 else s)
    | .global => enterViral s)

end Sys2Proof.Machine
end

