-- ==== Sys2Proof/Machine/Ether.lean ====
section
/-! DEFINITION. Ethernet ingress (R321 to R323). -/

namespace Sys2Proof.Machine

def getEth (s : State) (p : Nat) : Eth := s.eth[p]?.getD {}

def putEth (p : Nat) (x : Eth) (s : State) : State := if h : p < 2 then { s with eth := s.eth.set p x } else s

/-- The clock of a port moved by some nanoseconds. -/
def Eth.move (x : Eth) (ns : Int) : Eth :=
  let t := ((x.secs * 10 ^ 9 + x.nanos : Nat) : Int) + ns
  { x with secs := (t / 10 ^ 9 % (2 ^ 48 : Nat)).toNat, nanos := (t % (10 ^ 9 : Nat)).toNat }

/-- The clock goes on by a time the manual does not give: the rate adjustment is part of it. -/
def tickEth (p : Nat) (s : State) : State :=
  { putEth p ((getEth s p).move (Config.elapsed s.freeCtr)) s with freeCtr := s.freeCtr + 1 }

def Eth.bufSize (x : Eth) : Nat := 2 ^ (bits x.pool.toNat 8 2 + 11)
def Eth.bufCount (x : Eth) : Nat := 2 ^ bits x.pool.toNat 0 5
def Eth.buffer (x : Eth) : Nat := bits x.pool.toNat 12 40 * 4096 + x.frames.toNat % x.bufCount * x.bufSize

/-- The FRAME packet of an accepted frame (R113); its seqno and check come when it is appended. -/
def framePacket (port : Nat) (x : Eth) (bs : List Byte) : List Byte :=
  natBytes 4 (7 + 2 ^ 16) ++ natBytes 12 0 ++ natBytes 8 (x.secs % 2 ^ 48) ++ natBytes 4 x.nanos ++ natBytes 1 port ++ natBytes 1 0 ++
    natBytes 2 bs.length ++ natBytes 8 x.buffer ++ natBytes 4 x.frames.toNat ++ natBytes 20 (field bs 0 20)

/-- FRAME_INGRESS: a bad or long frame is counted at the port; one without a buffer or a slot at its queue (R323). -/
def execFrameIngress (port : Nat) (bs : List Byte) (fcsOk : Bool) (s : State) : Out :=
  .next (
    if 2 ≤ port then s
    else
      let s1 := tickEth port s
      let x := getEth s1 port
      let q := x.queue.toNat
      if !fcsOk || decide (x.mtu.toNat < bs.length) || decide (9216 < bs.length) then putEth port { x with dropped := x.dropped + 1 } s1
      else if x.bufCount ≤ (x.frames - x.released).toNat ∨ x.bufSize < bs.length ∨ (getQ s1 q).st = .disabled ∨ !ringRoom (getQ s1 q) 1 then
        setQ (countDrop (getQ s1 q)) s1
      else
        let s2 := if inHbm x.buffer x.bufSize then s1.wrBytes x.buffer bs else s1
        putEth port { x with frames := x.frames + 1 } (appendPacket q (framePacket port x bs) s2))

/-- PPS_EDGE. -/
def execPpsEdge (port : Nat) (s : State) : Out :=
  .next (
    let s1 := tickEth port s
    let x := getEth s1 port
    putEth port { x with pps := BitVec.ofNat 64 (x.secs % 2 ^ 32 * 2 ^ 32 + x.nanos) } s1)

/-- A write of TCTL: the step once, and the rate from now on. -/
def doTctl (port : Nat) (v : Word) (s : State) : State :=
  let s1 := tickEth port s
  putEth port { (getEth s1 port).move (sgn 32 (bits v.toNat 32 32)) with tctl := v } s1

def execTctl (port : Nat) (v : Word) (s : State) : Out := .next (doTctl port v s)

end Sys2Proof.Machine
end

