-- ==== Sys2Proof/Machine/Device.lean ====
section
/-! DEFINITION. Bring-up, configuration space, attestation, power and the management port (25; R132, R144). -/

namespace Sys2Proof.Machine

/-! ## Boot (R334, R335) -/

/-- An image is accepted. -/
def imageGood (i : FwImage) : Bool :=
  decide (Config.sha3 i.key = Config.rootKeyHash) && Config.mlDsaVerify i.key i.digest i.sig && decide (Config.sha3 i.body = i.digest)

/-- A measurement register takes in a digest. -/
def extendMeas (k : Nat) (digest : BitVec 256) (s : State) : State :=
  if h : k < 8 then
    { s with meas := s.meas.set k (Config.sha3 (natBytes 32 (s.meas[k]'h).toNat ++ natBytes 32 digest.toNat)) }
  else s

/-- Trains chips `c` on: the next choice of each says whether it failed; such a chip's bit of the chip mask is clear, and its range
is unbacked (R337; DESIGN CHOICE: log entry 79). -/
def trainChips : Nat → Nat → State → State
  | 0, _, s => s
  | n + 1, c, s =>
    let (failed, t) := popChoice s
    trainChips n (c + 1) (if failed then putChip c false t else t)

/-- The device once all four images have been accepted (R335): the links trained, every core idle, every queue DISABLED, every domain
live, the log registers zero. Memory, the measurements, the Ethernet clocks, the node id and retired spares are as they were. -/
def bootUp (s : State) : State :=
  trainChips 16 0 { State.reset with
    mem := s.mem, poison := s.poison, meas := s.meas, eth := s.eth, boot := .up
    caps := { State.reset.caps with node := s.caps.node }
    ras := { State.reset.ras with retired := s.ras.retired, remapped := s.ras.remapped }
    agenda := s.agenda, choices := s.choices, freeCtr := s.freeCtr, out := s.out }

/-- Verifies images `k` to 3, copy A first: where both copies fail, the device stays in BOOTFAIL. -/
def bootFrom (a b : List FwImage) : Nat → Nat → State → State
  | 0, _, s => bootUp s
  | n + 1, k, s =>
    let good := fun (l : List FwImage) => (l[k]? : Option FwImage).filter imageGood
    match good a, good b with
    | some i, _ => bootFrom a b n (k + 1) (extendMeas k i.digest s)
    | none, some i => bootFrom a b n (k + 1) (extendMeas k i.digest s)
    | none, none => { s with boot := .fail k }

def execBoot (copyA copyB : List FwImage) (s : State) : Out := .next (if s.boot = .reset then bootFrom copyA copyB 4 0 s else s)

/-- The state after a cold reset: as after power-on; spares that have been retired stay so (R333). -/
def afterReset (s : State) : State :=
  { State.reset with ras := { State.reset.ras with retired := s.ras.retired }, agenda := s.agenda, choices := s.choices, freeCtr := s.freeCtr, out := s.out }

def execColdReset (s : State) : Out := .next (afterReset s)

/-- BOOT_FROM_B: from reset, with copy B alone. -/
def execBootFromB (copyB : List FwImage) (s : State) : Out := .next (bootFrom [] copyB 4 0 (afterReset s))

/-! ## Power (R339, R340) -/

def clusterActive (s : State) (k : Nat) : Bool :=
  (allCores s).any fun c => decide (clusterOf c.id = k) && (c.shadow.isSome || (match c.seq.mode with
    | .idle | .held _ => false     -- a held core stays idle (R344)
    | _ => true))

/-- The two bits of CLSTATE. Before the firmware is up they read as at reset. -/
def clusterCode (s : State) (k : Nat) : Nat :=
  match s.power[k]?.getD .active with
  | .gated => 2
  | .waking => 3
  | _ => if s.boot ≠ .up ∨ clusterActive s k then 0 else 1

def putPower (k : Nat) (p : Power) (s : State) : State := if h : k < 96 then { s with power := s.power.set k p } else s

def siteCluster : TlbSite → Nat
  | .scalar c | .range c | .banked c => clusterOf c
  | .dispatcher k => k

/-- The SRAM and the TLBs of a cluster are lost. -/
def loseSram (k : Nat) (s : State) : State :=
  let fresh := if clusterOf s.core.id = k then ({ id := s.core.id } : Core) else s.core
  let t := { s with core := fresh
                    others := s.others.filter (fun c => decide (clusterOf c.id ≠ k))
                    tlb := { leaves := s.tlb.leaves.filter fun e => decide (siteCluster e.site ≠ k),
                             walks := s.tlb.walks.filter fun e => decide (siteCluster e.site ≠ k) } }
  zeroMem (padBase + 16 * k * 0x100000) (16 * 0x100000) t

/-- CLUSTER_GATE. -/
def execClusterGate (k : Nat) (s : State) : Out :=
  .next (
    if k < 96 ∧ clusterUp s k ∧ !clusterActive s k ∧ s.cfg.clgate.getLsbD k ∧ !((liveRegions s).any fun r => bitAt r.clusters k) then
      putPower k .gated (loseSram k s)
    else s)

/-- CLUSTER_WAKE: a placement needs the cluster, or its CLGATE bit has been cleared. -/
def execClusterWake (k : Nat) (s : State) : Out :=
  .next (
    if s.power[k]?.getD .active = .gated ∧
        (!s.cfg.clgate.getLsbD k ∨ (liveRegions s).any fun r => bitAt r.clusters k && !(rqItems s r).isEmpty) then
      putPower k .waking s
    else s)

def execClusterWakeDone (k : Nat) (s : State) : Out := .next (if s.power[k]?.getD .active = .waking then putPower k .idle s else s)

/-- CLOCK_THROTTLE: the arithmetic clock in sixteenths of 1.3 GHz, from 8 to 16. -/
def execClockThrottle (down : Bool) (s : State) : Out :=
  .next { s with clock := if down then max 8 (s.clock - 1) else min 16 (s.clock + 1) }

/-- CRITICAL_TEMPERATURE: power is removed. -/
def execCriticalTemperature (s : State) : Out := .next { s with boot := .off }

/-! ## Registers with a behaviour (R336) -/

def setCfg (s : State) (c : Cfg) : State := { s with cfg := c }

/-- DEAD: writing 1 clears. -/
def doDead (k : Nat) (v : Word) (s : State) : State :=
  if k < 4 then setCfg s { s.cfg with dead := s.cfg.dead &&& ~~~(BitVec.ofNat 256 (v.toNat * 2 ^ (64 * k))) } else s

def execDead (k : Nat) (v : Word) (s : State) : Out := .next (doDead k v s)

/-- SWAP: every core of the partition is asked to pre-empt (R144); an RCB that is no partition is refused. -/
def doPartitionSwap (v : Word) (s : State) : State :=
  let a := bits v.toNat 8 44 * 256
  if s.cfg.swap = 1 then s
  else
    let isPart : Bool := match region s a with
      | some r => decide (r.part = a)
      | none => false
    if !isPart then setCfg s { s.cfg with swap := 3, swapRcb := a }
    else
      let t := setCfg s { s.cfg with swap := 1, swapRcb := a }
      let cores := (allCores t).filter fun k => decide (k.seq.mode = .running ∧ k.seq.eff.part = a)
      noteSwap ((cores.map Core.id).foldl (fun u c => onCore c askPreempt u) t)

def execPartitionSwap (v : Word) (s : State) : Out := .next (doPartitionSwap v s)

/-- FWCMD: the interpreter leaves service for its new firmware (R132). -/
def doFwcmd (v : Word) (s : State) : State :=
  let i := bits v.toNat 0 6
  if s.cfg.fwcmd = 1 ∨ !v.getLsbD 8 then s
  else setFe (setCfg s { s.cfg with fwcmd := 1, fwItp := i }) { s.fe with itpBusy := i :: s.fe.itpBusy.filter fun j => decide (j ≠ i) }

def execFwcmd (v : Word) (s : State) : Out := .next (doFwcmd v s)

/-- The image stands in HBM at FWIMG (R336). How its fields lie there is not given: `Config.imageBytes` (DESIGN CHOICE: log entry 80). -/
def staged (s : State) (img : FwImage) : Bool :=
  let pa := s.cfg.fwimg.toNat
  let bs := Config.imageBytes img.body img.digest img.key img.sig
  inHbm pa bs.length && !isPoisoned s pa bs.length && decide (s.rdBytes pa bs.length = bs)

/-- FIRMWARE_REPLACEMENT_DONE: once its queues have moved, the interpreter returns with the staged image, measured in M0, or, where that
is not accepted, with the old one. -/
def execFirmwareReplacementDone (itp : Nat) (img : FwImage) (s : State) : Out :=
  .next (
    if s.cfg.fwcmd ≠ 1 ∨ s.cfg.fwItp ≠ itp ∨ (s.fe.queues.any fun x => decide (x.st ≠ .disabled ∧ x.interp = itp)) then s
    else
      let good := staged s img && imageGood img
      let t := setFe (setCfg s { s.cfg with fwcmd := if good then 2 else 3 }) { s.fe with itpBusy := s.fe.itpBusy.filter fun j => decide (j ≠ itp) }
      if good then extendMeas 0 img.digest t else t)

/-- PWRCAP: outside 1,600 to 3,200 the write is ignored. -/
def doPwrcap (v : Word) (s : State) : State :=
  if 1600 ≤ v.toNat % 4096 ∧ v.toNat % 4096 ≤ 3200 then setCfg s { s.cfg with pwrcap := v.truncate 12 } else s

def execPwrcap (v : Word) (s : State) : Out := .next (doPwrcap v s)

/-! ## Attestation (R338) -/

def putAtt (x : Attest) (s : State) : State := { s with att := x }

/-- A write to the mailbox. -/
def doAttest (off : Nat) (v : Word) (s : State) : State :=
  let x := s.att
  if off = 0 then
    if v ≠ 1 then s
    else match x.req with
      | some _ => putAtt { x with status := 3 } s
      | none => putAtt { x with status := 1, req := some (x.addr, x.nonce) } s
  else if off = 0x10 then putAtt { x with addr := v } s
  else if 0x20 ≤ off ∧ off < 0x40 ∧ off % 8 = 0 then
    putAtt { x with nonce := BitVec.ofNat 256 (putBits x.nonce.toNat (8 * (off - 0x20)) 64 v.toNat) } s
  else s

def execAttest (off : Nat) (v : Word) (s : State) : Out := .next (doAttest off v s)

/-- The report, up to its signature. -/
def reportBody (nonce : BitVec 256) (s : State) : List Byte :=
  natBytes 32 nonce.toNat ++ (s.meas.toList.flatMap fun m => natBytes 32 m.toNat) ++ natBytes 16 Config.serial.toNat

/-- ATTEST_REPORT_DONE: the report is written, and then status reads 2. -/
def execAttestReportDone (s : State) : Out :=
  .next (
    match s.att.req with
    | none => s
    | some (a, nonce) =>
      let body := reportBody nonce s
      let rep := body ++ Config.mlDsaSign (Config.sha3 body) ++ Config.certificate
      let pa := bits a.toNat 12 40 * 4096
      let t := if inHbm pa rep.length then s.wrBytes pa rep else s
      putAtt { t.att with status := 2, req := none } t)

/-! ## Capabilities (R337) -/

/-- An entry at `off`: its header and body words. -/
def capEntry (off id : Nat) (degraded : Bool) (last : Bool) (body : List Nat) : List Nat :=
  let len := 8 * body.length
  [id + 2 ^ 16 + (1 + 2 * degraded.toNat) * 2 ^ 24 + len * 2 ^ 32, if last then 0 else off + 16 + len] ++ body

/-- The list, word by word: it stands once the firmware is up (R335). -/
def capWords (s : State) : List Nat :=
  if s.boot ≠ .up then []
  else
    capEntry 0x00 1 false false [1536, 2 ^ 64 - 1, 2 ^ 32 - 1, hbmEnd] ++
      capEntry 0x30 2 (decide (s.caps.chips ≠ 0xFFFF)) false [s.caps.chips.toNat, 2 ^ 38] ++
      capEntry 0x50 3 false false [3, 9216] ++ capEntry 0x70 4 false false [7] ++ capEntry 0x88 5 false false [0x7F] ++
      capEntry 0xA0 6 false false [2 ^ 24 - 1, match s.caps.node with
        | some n => n
        | none => 2 ^ 64 - 1] ++
      capEntry 0xC0 7 false true [7]

/-- NODE_ID_ASSIGNMENT. -/
def execNodeIdAssignment (id : Nat) (s : State) : Out := .next { s with caps := { s.caps with node := some (id % 2 ^ 12) } }

/-! ## Configuration space (R336) -/

/-- Word `k` of a 128-bit entry. -/
def half (x : BitVec 128) (hi : Bool) : Nat := bits x.toNat (if hi then 64 else 0) 64

def ethWord (x : Eth) (k : Nat) : Nat :=
  match k with
  | 0 => x.pool.toNat
  | 1 => x.released.toNat
  | 2 => x.queue.toNat
  | 3 => x.mtu.toNat
  | 4 => x.tctl.toNat
  | 5 => x.pps.toNat
  | _ => 0

/-- GLINK as it reads. -/
def glinkWord (s : State) : Nat :=
  bitMap (fun c => (s.glinks[c]?.getD {}).failed) 16 + bitMap (fun c => (s.glinks[c]?.getD {}).retraining) 16 * 2 ^ 16

/-- What an aligned 8-byte read at offset `off` returns; 0 where the table names nothing. -/
def cfgRead (s : State) (off : Nat) : Nat :=
  let c := s.cfg
  if off < 0x10000 then (capWords s).getD (off / 8) 0
  else if off = 0x10000 then c.qdbase.toNat
  else if off = 0x10008 then c.logbase.toNat
  else if off = 0x10010 then c.logwr.toNat
  else if off = 0x10018 then c.logrel.toNat
  else if off = 0x10020 then c.logdrop.toNat
  else if 0x10040 ≤ off ∧ off < 0x10060 then bits c.dead.toNat (8 * (off - 0x10040)) 64
  else if off = 0x10060 then c.swap
  else if off = 0x10070 then c.fwimg.toNat
  else if off = 0x10078 then c.fwcmd * 2 ^ 8
  else if off = 0x10080 then c.pwrcap.toNat
  else if 0x10088 ≤ off ∧ off < 0x100A0 then
    ((List.range 32).map fun j => clusterCode s (4 * (off - 0x10088) + j) * 4 ^ j).sum
  else if off = 0x100A0 ∨ off = 0x100A8 then bits c.clgate.toNat (8 * (off - 0x100A0)) 64
  else if off = 0x100B0 then glinkWord s
  else if 0x11000 ≤ off ∧ off < 0x11400 then half (c.aperture[(off - 0x11000) / 16]?.getD 0) (decide (off % 16 = 8))
  else if 0x11400 ≤ off ∧ off < 0x11600 then half (c.infilt[(off - 0x11400) / 16]?.getD 0) (decide (off % 16 = 8))
  else if 0x12000 ≤ off ∧ off < 0x12080 then ethWord (getEth s ((off - 0x12000) / 64)) (off % 64 / 8)
  else if off = 0x13008 then s.att.status
  else if off = 0x13010 then s.att.addr.toNat
  else if 0x13020 ≤ off ∧ off < 0x13040 then bits s.att.nonce.toNat (8 * (off - 0x13020)) 64
  else if 0x14000 ≤ off ∧ off < 0x14100 then bits (s.meas[(off - 0x14000) / 32]?.getD 0).toNat (8 * (off % 32)) 64
  else 0

def putHalf (x : BitVec 128) (hi : Bool) (v : Nat) : BitVec 128 := BitVec.ofNat 128 (putBits x.toNat (if hi then 64 else 0) 64 v)

/-- Keeps the named bits of an aperture word (R309) and of a filter word (R310). -/
def apertureMask (hi : Bool) (v : Nat) : Nat := Nat.land v (if hi then 0x00FFFFFF00000FFF else 0xC00FFFFFFFFFF000)
def filterMask (hi : Bool) (v : Nat) : Nat := Nat.land v (if hi then 0x000FFFFFFFFFF000 else 0x00001F0700000FFF)

def putAperture (i : Nat) (hi : Bool) (v : Nat) (s : State) : State :=
  if h : i < 64 then
    let x := putHalf (s.cfg.aperture[i]'h) hi (apertureMask hi v)
    setCfg s { s.cfg with aperture := s.cfg.aperture.set i x }
  else s

def putFilter (i : Nat) (hi : Bool) (v : Nat) (s : State) : State :=
  if h : i < 32 then
    let x := putHalf (s.cfg.infilt[i]'h) hi (filterMask hi v)
    setCfg s { s.cfg with infilt := s.cfg.infilt.set i x }
  else s

/-- A write to a register of an Ethernet port. -/
def putEthReg (p k : Nat) (v : Word) (s : State) : State :=
  let x := getEth s p
  match k with
  | 0 => putEth p { x with pool := v &&& 0x000FFFFFFFFFFF1F } s
  | 1 => putEth p { x with released := v.truncate 32 } s
  | 2 => putEth p { x with queue := v.truncate 16 } s
  | 3 => if 60 ≤ v.toNat ∧ v.toNat ≤ 9216 then putEth p { x with mtu := v.truncate 14 } s else s
  | 4 => doTctl p v s
  | 5 => putEth p { x with pps := v } s
  | _ => s

/-- An aligned 8-byte write at offset `off`. -/
def cfgWrite (off : Nat) (v : Word) (s : State) : State :=
  let c := s.cfg
  if off = 0x10000 then setCfg s { c with qdbase := v &&& 0x000FFFFFFFFFFFC0 }
  else if off = 0x10008 then setCfg s { c with logbase := v &&& 0x000FFFFFFFFFFFDF }
  else if off = 0x10018 then setCfg s { c with logrel := v.truncate 32 }
  else if 0x10040 ≤ off ∧ off < 0x10060 then doDead ((off - 0x10040) / 8) v s
  else if off = 0x10060 then doPartitionSwap v s
  else if off = 0x10068 then doSpare v s
  else if off = 0x10070 then setCfg s { c with fwimg := v &&& 0x000FFFFFFFFFF000 }
  else if off = 0x10078 then doFwcmd v s
  else if off = 0x10080 then doPwrcap v s
  else if off = 0x100A0 then setCfg s { c with clgate := BitVec.ofNat 96 (putBits c.clgate.toNat 0 64 v.toNat) }
  else if off = 0x100A8 then setCfg s { c with clgate := BitVec.ofNat 96 (putBits c.clgate.toNat 64 32 (v.toNat % 2 ^ 32)) }
  else if off = 0x100B0 then doGlink v s
  else if 0x11000 ≤ off ∧ off < 0x11400 then putAperture ((off - 0x11000) / 16) (decide (off % 16 = 8)) v.toNat s
  else if 0x11400 ≤ off ∧ off < 0x11600 then putFilter ((off - 0x11400) / 16) (decide (off % 16 = 8)) v.toNat s
  else if 0x12000 ≤ off ∧ off < 0x12080 then putEthReg ((off - 0x12000) / 64) (off % 64 / 8) v s
  else if 0x13000 ≤ off ∧ off < 0x13040 then doAttest (off - 0x13000) v s
  else s

/-- CONFIG_WRITE. -/
def execConfigWrite (off : Nat) (v : Word) (s : State) : Out := .next (if off % 8 = 0 then cfgWrite off v s else s)

/-! ## The management port (R341) -/

/-- MANAGEMENT_READ: temperatures and power are what the sensor says. -/
def execManagementRead (item : MgmtItem) (sense : Word) (s : State) : Out :=
  .next (send s (OutMsg.mgmt (match item with
    | .temperature | .power => natBytes 8 sense.toNat
    | .measurement k => natBytes 32 (s.meas[k]?.getD 0).toNat
    | .logBase => natBytes 8 s.cfg.logbase.toNat
    | .logWr => natBytes 4 s.cfg.logwr.toNat
    | .logRel => natBytes 4 s.cfg.logrel.toNat
    | .logDrop => natBytes 4 s.cfg.logdrop.toNat
    | .failingImage => match s.boot with
      | .fail k => natBytes 1 k
      | _ => [])))

/-- RESUME_CORE: a core that HALT has stopped goes on. -/
def execResumeCore (c : Nat) (s : State) : Out :=
  .next (onCore c (fun t => if t.core.seq.mode = .halted then setSeq t { t.core.seq with mode := .running, stall := false } else t) s)

end Sys2Proof.Machine
end

