-- ==== Sys2Proof/Machine/Flow.lean ====
section
/-! DEFINITION. Control flow, traps and halt, class 0x0 but for the system registers (R153, R157, R158, R160). -/

namespace Sys2Proof.Machine

def execNop (s : State) : Out := done s

/-- The conditions of BR.cc (R157). -/
def condHolds (cc : Cc) (a b : Word) : Bool :=
  match cc with
  | .eq => decide (a = b)
  | .ne => decide (a ≠ b)
  | .lt => decide (a.toInt < b.toInt)
  | .ge => decide (b.toInt ≤ a.toInt)
  | .ltz => decide (a.toNat < b.toNat)
  | .gez => decide (b.toNat ≤ a.toNat)

def execBrCc (cc : Cc) (a b : SReg) (tgt : BitVec 24) (s : State) : Out :=
  if condHolds cc (getS s a) (getS s b) then takeTo s s (targetPc s.core.seq.pc tgt) else done s

def execJmp (tgt : BitVec 24) (s : State) : Out := takeTo s s (targetPc s.core.seq.pc tgt)

def execJmpr (a : SReg) (s : State) : Out := takeTo s s (getS s a)

def execCall (d : SReg) (tgt : BitVec 24) (s : State) : Out :=
  takeTo s (setS s d (nextPc s)) (targetPc s.core.seq.pc tgt)

def execRet (a : SReg) (s : State) : Out := takeTo s s (getS s a)

/-- Entering a loop (R136, R158). The target is checked before the depth of the stack (DESIGN CHOICE: log entry 77). -/
def enterLoop (c : SReg) (tgt : BitVec 24) (entry : Word → Word → LoopEntry) (slip : Nat) (s : State) : Out :=
  let stop := targetPc s.core.seq.pc tgt
  let n := getS s c
  if stop.toNat ≤ s.core.seq.pc.toNat then trapHere 0x03 stop s
  else
    match loopTargetBad stop s with
    | (none, _) => stall false s
    | (some true, _) => trapHere 0x03 stop s
    | (some false, s1) =>
      if n.toInt ≤ 0 then takeAfter s s stop
      else if 6 ≤ s.core.seq.loops.length then trapHere 0x06 6 s
      else
        let q := s1.core.seq
        let t := setSeq s1 { q with loops := entry (nextPc s) stop :: q.loops }
        .next (goto (setVec t { t.core.vec with slip := slip }) (nextPc s) false)

def execLoop (c : SReg) (tgt : BitVec 24) (s : State) : Out :=
  enterLoop c tgt (fun a z => { start := a, stop := z, remaining := getS s c, index := 0, loopr := false, slip := 1, step := 1, rot := 0,
                                outer := s.core.vec.slip }) s.core.vec.slip s

def execLoopr (c : SReg) (slip : BitVec 6) (rstep : BitVec 4) (tgt : BitVec 24) (s : State) : Out :=
  enterLoop c tgt (fun a z => { start := a, stop := z, remaining := getS s c, index := 0, loopr := true, slip := slip.toNat + 1,
                                step := rstep.toNat + 1, rot := 0, outer := s.core.vec.slip }) (slip.toNat + 1) s

/-- LEAVE (R136, R158): pops the innermost entry and continues at the head after its end PC. -/
def execLeave (s : State) : Out :=
  match s.core.seq.loops with
  | [] => illegal s
  | e :: r =>
    let t := setSeq s { s.core.seq with loops := r }
    takeAfter s (setVec t { t.core.vec with slip := popSlip e t.core.vec.slip }) e.stop

def execTrap (code : BitVec 12) (s : State) : Out := .next (raise 0x0A (nextPc s) (code.zeroExtend 64) s)

def execBrkpt (code : BitVec 12) (s : State) : Out := .next (raise 0x0B s.core.seq.pc (code.zeroExtend 64) s)

/-- ERET (R153): at `sys.epc`, subject to R32. An address whose bits 5:0 are zero, as a frame slot's, raises the illegal-target trap of R203
whatever stands there. -/
def execEret (s : State) : Out :=
  if s.core.seq.prv then
    if s.core.seq.epc.toNat % 64 = 0 then trapHere 0x03 s.core.seq.epc s
    else takeTo s (setSeq s { s.core.seq with prv := s.core.seq.pprv, inh := false }) s.core.seq.epc
  else privilegeTrap s

/-- HALT (R160): only the management port resumes the core. -/
def execHalt (s : State) : Out :=
  if s.core.seq.prv then
    let t := advance s
    .next (setSeq t { t.core.seq with mode := .halted, stall := false })
  else privilegeTrap s

end Sys2Proof.Machine
end

