-- ==== Sys2Proof/Machine/Inbound.lean ====
section
/-! DEFINITION. Accesses that arrive from the fabric (R310). -/

namespace Sys2Proof.Machine

/-- The host node is one that a valid aperture entry calls so (R309). -/
def isHost (s : State) (node : Nat) : Bool :=
  s.cfg.aperture.toList.any fun e => bitAt e.toNat 63 && bitAt e.toNat 62 && decide (bits e.toNat 64 12 = node)

/-- An entry of the node grants the right (0 read, 1 write, 2 atomic) over the whole access. -/
def granted (s : State) (node right pa n : Nat) : Bool :=
  s.cfg.infilt.toList.any fun e =>
    let x := e.toNat
    let base := bits x 76 40 * 4096
    decide (bits x 0 12 = node) && bitAt x (32 + right) && decide (base ≤ pa) && decide (pa + n ≤ base + 2 ^ (bits x 40 5 + 12))

/-- The access is refused, and counted. -/
def refuse (node : Nat) (s : State) : State := respond (OutMsg.error node) (setFab s { s.fab with refused := s.fab.refused + 1 })

/-- Where an inbound access goes. -/
inductive Target where
  | memory
  | windowAt (q off : Nat)
  | configAt (off : Nat)
  | lost                    -- a chip out of reach (R331, R337)
  | wrong
  deriving DecidableEq, Repr

def targetOf (s : State) (node pa n : Nat) : Target :=
  if inHbm pa n then .memory
  else match place pa with
    | .tier c => if !inDevice pa n then .wrong else if chipDown s c then .lost else .memory
    | .window q off => if isHost s node then .windowAt q off else .wrong
    | .config off => if isHost s node then .configAt off else .wrong
    | _ => .wrong

/-- INBOUND_READ. -/
def execInboundRead (node pa n : Nat) (s : State) : Out :=
  .next (
    if n = 0 ∨ 4096 < n ∨ !granted s node 0 pa n then refuse node s
    else match targetOf s node pa n with
      | .memory => respond (OutMsg.reply node (s.rdBytes pa n) (poisonOffsets s [(pa, n)])) s
      | .configAt off => if n = 8 ∧ off % 8 = 0 then respond (OutMsg.reply node (natBytes 8 (cfgRead s off)) []) s else refuse node s
      | .lost => respond (OutMsg.error node) s
      | _ => refuse node s)

/-- A host's write to a launch window (R108). -/
def windowWrite (q off : Nat) (bs : List Byte) (s : State) : State :=
  if bs.length = 64 ∧ off = 0 then inlineWrite q bs s
  else if bs.length = 8 ∧ off % 8 = 0 then doorbell q off (BitVec.ofNat 64 (bytesNat bs)) s
  else windowError q 1 s

/-- INBOUND_WRITE: acknowledged once performed. Poison that the flits carry marks the granules. -/
def execInboundWrite (node pa : Nat) (bs : List Byte) (psn : List Nat) (s : State) : Out :=
  let n := bs.length
  let ok := fun (t : State) => respond (OutMsg.accept node) t
  .next (
    if n = 0 ∨ 4096 < n ∨ !granted s node 1 pa n then refuse node s
    else match targetOf s node pa n with
      | .memory => ok (markOffsets [(pa, n)] (psn.filter fun k => decide (k < n)) (s.wrBytes pa bs))
      | .windowAt q off => ok (windowWrite q off bs s)
      | .configAt off => ok (if n = 8 ∧ off % 8 = 0 then cfgWrite off (BitVec.ofNat 64 (bytesNat bs)) s else s)
      | .lost => respond (OutMsg.error node) s
      | .wrong => refuse node s)

/-- INBOUND_ATOMIC: the old value goes back. -/
def execInboundAtomic (node pa : Nat) (op : HAtomic) (x y : Word) (s : State) : Out :=
  .next (
    if pa % 8 ≠ 0 ∨ !granted s node 2 pa 8 then refuse node s
    else match targetOf s node pa 8 with
      | .memory =>
        let old := s.rd pa 8
        let t := match op with
          | .add => s.wr pa 8 ((old + x.toNat) % 2 ^ 64)
          | .swap => s.wr pa 8 x.toNat
          | .cas => if old = x.toNat then s.wr pa 8 y.toNat else s
        respond (OutMsg.reply node (natBytes 8 old) (poisonOffsets s [(pa, 8)])) t
      | .lost => respond (OutMsg.error node) s
      | _ => refuse node s)

/-- INBOUND_SIGNAL_DECREMENT: as R116 gives. -/
def execInboundSignalDecrement (node pa : Nat) (count : Word) (s : State) : Out :=
  .next (
    if pa % 64 ≠ 0 ∨ !granted s node 2 pa 64 then refuse node s
    else match targetOf s node pa 64 with
      | .memory => respond (OutMsg.accept node) (sigDec pa count.toNat 0x100 s)
      | .lost => respond (OutMsg.error node) s
      | _ => refuse node s)

end Sys2Proof.Machine
end

