-- ==== Sys2Proof/Machine/Scalar.lean ====
section
/-! DEFINITION. Scalar arithmetic, classes 0x1 and 0x2 (R155, R162 to R164): one value into one register, then sequential
flow. -/

namespace Sys2Proof.Machine

/-- A scalar result: `d` takes the value and flow goes on (R155). -/
def putS (d : SReg) (v : Word) (s : State) : Out := done (setS s d v)

/-- A three-register form (R162). -/
def alu3 (f : Word → Word → Word) (d a b : SReg) (s : State) : Out := putS d (f (getS s a) (getS s b)) s

/-- 1 or 0. -/
def truth (c : Bool) : Word := if c then 1 else 0

/-- Quotient toward zero; all ones for a zero divisor; −2^63 ÷ −1 wraps (R162). -/
def divS (a b : Word) : Word := if b = 0 then BitVec.allOnes 64 else a.sdiv b

def divU (a b : Word) : Word := if b = 0 then BitVec.allOnes 64 else a / b

/-- Remainder with the sign of `a`; `a` itself for a zero divisor (R162). -/
def remS (a b : Word) : Word := if b = 0 then a else a - b * a.sdiv b

def remU (a b : Word) : Word := if b = 0 then a else a - b * (a / b)

/-- The upper half of a signed and of an unsigned product (R162). -/
def mulHigh (a b : Word) : Word := BitVec.ofInt 64 (a.toInt * b.toInt / 2 ^ 64)

def mulHighU (a b : Word) : Word := BitVec.ofNat 64 (a.toNat * b.toNat / 2 ^ 64)

/-- Leading zeros and 1 bits of a `w`-bit number (R163, R207). -/
def clzN (w x : Nat) : Nat := if x = 0 then w else w - 1 - x.log2

def popN (x : Nat) : Nat → Nat
  | 0 => 0
  | w + 1 => popN x w + x / 2 ^ w % 2

/-- Bits lo to lo + w − 1 of a value replaced by the low bits of another (R163). -/
def insertBits (x : Nat) (lo w y : Nat) : Nat := x - x / 2 ^ lo % 2 ^ w * 2 ^ lo + y % 2 ^ w * 2 ^ lo

/-! ## Class 0x1 -/

def execAdd (d a b : SReg) (s : State) : Out := alu3 (fun x y => x + y) d a b s
def execSub (d a b : SReg) (s : State) : Out := alu3 (fun x y => x - y) d a b s
def execAnd (d a b : SReg) (s : State) : Out := alu3 (fun x y => x &&& y) d a b s
def execOr (d a b : SReg) (s : State) : Out := alu3 (fun x y => x ||| y) d a b s
def execXor (d a b : SReg) (s : State) : Out := alu3 (fun x y => x ^^^ y) d a b s
def execAndn (d a b : SReg) (s : State) : Out := alu3 (fun x y => x &&& ~~~y) d a b s
def execShl (d a b : SReg) (s : State) : Out := alu3 (fun x y => x <<< (y.toNat % 64)) d a b s
def execShr (d a b : SReg) (s : State) : Out := alu3 (fun x y => x >>> (y.toNat % 64)) d a b s
def execSra (d a b : SReg) (s : State) : Out := alu3 (fun x y => x.sshiftRight (y.toNat % 64)) d a b s
def execMul (d a b : SReg) (s : State) : Out := alu3 (fun x y => x * y) d a b s
def execMulh (d a b : SReg) (s : State) : Out := alu3 mulHigh d a b s
def execMulhz (d a b : SReg) (s : State) : Out := alu3 mulHighU d a b s
def execDiv (d a b : SReg) (s : State) : Out := alu3 divS d a b s
def execDivz (d a b : SReg) (s : State) : Out := alu3 divU d a b s
def execRem (d a b : SReg) (s : State) : Out := alu3 remS d a b s
def execRemz (d a b : SReg) (s : State) : Out := alu3 remU d a b s
def execMin (d a b : SReg) (s : State) : Out := alu3 (fun x y => if x.toInt ≤ y.toInt then x else y) d a b s
def execMax (d a b : SReg) (s : State) : Out := alu3 (fun x y => if x.toInt ≤ y.toInt then y else x) d a b s
def execMinz (d a b : SReg) (s : State) : Out := alu3 (fun x y => if x.toNat ≤ y.toNat then x else y) d a b s
def execMaxz (d a b : SReg) (s : State) : Out := alu3 (fun x y => if x.toNat ≤ y.toNat then y else x) d a b s
def execSlt (d a b : SReg) (s : State) : Out := alu3 (fun x y => truth (decide (x.toInt < y.toInt))) d a b s
def execSltz (d a b : SReg) (s : State) : Out := alu3 (fun x y => truth (decide (x.toNat < y.toNat))) d a b s
def execSeq (d a b : SReg) (s : State) : Out := alu3 (fun x y => truth (decide (x = y))) d a b s

def execSel (d c a b : SReg) (s : State) : Out := putS d (if getS s c = 0 then getS s b else getS s a) s

def execClz (d a : SReg) (s : State) : Out := putS d (BitVec.ofNat 64 (clzN 64 (getS s a).toNat)) s

def execPopc (d a : SReg) (s : State) : Out := putS d (BitVec.ofNat 64 (popN (getS s a).toNat 64)) s

/-- BEXT (R163); lo + width above 64 is an illegal-instruction trap (R47). -/
def execBext (d a : SReg) (lo wm1 : BitVec 6) (s : State) : Out :=
  if 64 < lo.toNat + wm1.toNat + 1 then illegal s
  else putS d (BitVec.ofNat 64 (bits (getS s a).toNat lo.toNat (wm1.toNat + 1))) s

/-- BINS (R163). -/
def execBins (d a : SReg) (lo wm1 : BitVec 6) (s : State) : Out :=
  if 64 < lo.toNat + wm1.toNat + 1 then illegal s
  else putS d (BitVec.ofNat 64 (insertBits (getS s d).toNat lo.toNat (wm1.toNat + 1) (getS s a).toNat)) s

/-! ## Class 0x2 (R164) -/

def execAddi (d a : SReg) (imm : BitVec 22) (s : State) : Out := putS d (getS s a + imm.signExtend 64) s
def execAndi (d a : SReg) (imm : BitVec 22) (s : State) : Out := putS d (getS s a &&& imm.zeroExtend 64) s
def execOri (d a : SReg) (imm : BitVec 22) (s : State) : Out := putS d (getS s a ||| imm.zeroExtend 64) s
def execXori (d a : SReg) (imm : BitVec 22) (s : State) : Out := putS d (getS s a ^^^ imm.zeroExtend 64) s
def execShli (d a : SReg) (imm : BitVec 6) (s : State) : Out := putS d (getS s a <<< imm.toNat) s
def execShri (d a : SReg) (imm : BitVec 6) (s : State) : Out := putS d (getS s a >>> imm.toNat) s
def execSrai (d a : SReg) (imm : BitVec 6) (s : State) : Out := putS d ((getS s a).sshiftRight imm.toNat) s
def execSlti (d a : SReg) (imm : BitVec 22) (s : State) : Out :=
  putS d (truth (decide ((getS s a).toInt < (imm.signExtend 64).toInt))) s
def execLi (d : SReg) (imm : BitVec 47) (s : State) : Out := putS d (imm.signExtend 64) s

/-- LIH: bits 63:32 from the immediate, bits 31:0 kept (R164). -/
def execLih (d : SReg) (imm : BitVec 32) (s : State) : Out := putS d (imm ++ (getS s d).extractLsb' 0 32) s

end Sys2Proof.Machine
end

