-- ==== Sys2Proof/Machine/VArith.lean ====
section
/-! DEFINITION. Vector integer, floating-point, conversion, logic and shift instructions, classes 0x5 to 0x7 (R204 to R218): each is
dispatched to the VXQ; what an element computes is `vCompute`. -/

namespace Sys2Proof.Machine

def execVadd (d : VDst) (a b : VSrc) (m : MReg) (ps : PReg) (ty : ETy) (s : State) : Out := vDispatch (.vadd d a b m ps ty) s

def execVsub (d : VDst) (a b : VSrc) (m : MReg) (ps : PReg) (ty : ETy) (s : State) : Out := vDispatch (.vsub d a b m ps ty) s

def execVmul (d : VDst) (a b : VSrc) (m : MReg) (ps : PReg) (ty : ETy) (s : State) : Out := vDispatch (.vmul d a b m ps ty) s

def execVmulh (d : VDst) (a b : VSrc) (m : MReg) (ps : PReg) (ty : ETy) (s : State) : Out := vDispatch (.vmulh d a b m ps ty) s

def execVmulhz (d : VDst) (a b : VSrc) (m : MReg) (ps : PReg) (ty : ETy) (s : State) : Out := vDispatch (.vmulhz d a b m ps ty) s

def execVmadd (d : VDst) (a b : VSrc) (m : MReg) (ps : PReg) (ty : ETy) (s : State) : Out := vDispatch (.vmadd d a b m ps ty) s

def execVmin (d : VDst) (a b : VSrc) (m : MReg) (ps : PReg) (ty : ETy) (s : State) : Out := vDispatch (.vmin d a b m ps ty) s

def execVmax (d : VDst) (a b : VSrc) (m : MReg) (ps : PReg) (ty : ETy) (s : State) : Out := vDispatch (.vmax d a b m ps ty) s

def execVminz (d : VDst) (a b : VSrc) (m : MReg) (ps : PReg) (ty : ETy) (s : State) : Out := vDispatch (.vminz d a b m ps ty) s

def execVmaxz (d : VDst) (a b : VSrc) (m : MReg) (ps : PReg) (ty : ETy) (s : State) : Out := vDispatch (.vmaxz d a b m ps ty) s

def execVabs (d : VDst) (a : VSrc) (m : MReg) (ps : PReg) (ty : ETy) (s : State) : Out := vDispatch (.vabs d a m ps ty) s

def execVadds (d : VDst) (a b : VSrc) (m : MReg) (ps : PReg) (ty : ETy) (s : State) : Out := vDispatch (.vadds d a b m ps ty) s

def execVsubs (d : VDst) (a b : VSrc) (m : MReg) (ps : PReg) (ty : ETy) (s : State) : Out := vDispatch (.vsubs d a b m ps ty) s

def execVpopc (d : VDst) (a : VSrc) (m : MReg) (ps : PReg) (ty : ETy) (s : State) : Out := vDispatch (.vpopc d a m ps ty) s

def execVclz (d : VDst) (a : VSrc) (m : MReg) (ps : PReg) (ty : ETy) (s : State) : Out := vDispatch (.vclz d a m ps ty) s

def execVfadd (rm : Rm) (d : VDst) (a b : VSrc) (m : MReg) (ps : PReg) (ty : ETy) (s : State) : Out :=
  vDispatch (.vfadd rm d a b m ps ty) s

def execVfsub (rm : Rm) (d : VDst) (a b : VSrc) (m : MReg) (ps : PReg) (ty : ETy) (s : State) : Out :=
  vDispatch (.vfsub rm d a b m ps ty) s

def execVfmul (rm : Rm) (d : VDst) (a b : VSrc) (m : MReg) (ps : PReg) (ty : ETy) (s : State) : Out :=
  vDispatch (.vfmul rm d a b m ps ty) s

def execVfma (rm : Rm) (d : VDst) (a b : VSrc) (m : MReg) (ps : PReg) (ty : ETy) (s : State) : Out := vDispatch (.vfma rm d a b m ps ty) s

def execVfms (rm : Rm) (d : VDst) (a b : VSrc) (m : MReg) (ps : PReg) (ty : ETy) (s : State) : Out := vDispatch (.vfms rm d a b m ps ty) s

def execVfnma (rm : Rm) (d : VDst) (a b : VSrc) (m : MReg) (ps : PReg) (ty : ETy) (s : State) : Out :=
  vDispatch (.vfnma rm d a b m ps ty) s

def execVfdiv (rm : Rm) (d : VDst) (a b : VSrc) (m : MReg) (ps : PReg) (ty : ETy) (s : State) : Out :=
  vDispatch (.vfdiv rm d a b m ps ty) s

def execVfrcp (rm : Rm) (d : VDst) (a : VSrc) (m : MReg) (ps : PReg) (ty : ETy) (s : State) : Out := vDispatch (.vfrcp rm d a m ps ty) s

def execVfsqrt (rm : Rm) (d : VDst) (a : VSrc) (m : MReg) (ps : PReg) (ty : ETy) (s : State) : Out := vDispatch (.vfsqrt rm d a m ps ty) s

def execVfrsq (d : VDst) (a : VSrc) (m : MReg) (ps : PReg) (ty : ETy) (s : State) : Out := vDispatch (.vfrsq d a m ps ty) s

def execVfexp2 (d : VDst) (a : VSrc) (m : MReg) (ps : PReg) (ty : ETy) (s : State) : Out := vDispatch (.vfexp2 d a m ps ty) s

def execVflog2 (d : VDst) (a : VSrc) (m : MReg) (ps : PReg) (ty : ETy) (s : State) : Out := vDispatch (.vflog2 d a m ps ty) s

def execVfsin (d : VDst) (a : VSrc) (m : MReg) (ps : PReg) (ty : ETy) (s : State) : Out := vDispatch (.vfsin d a m ps ty) s

def execVfcos (d : VDst) (a : VSrc) (m : MReg) (ps : PReg) (ty : ETy) (s : State) : Out := vDispatch (.vfcos d a m ps ty) s

def execVftanh (d : VDst) (a : VSrc) (m : MReg) (ps : PReg) (ty : ETy) (s : State) : Out := vDispatch (.vftanh d a m ps ty) s

def execVfmin (d : VDst) (a b : VSrc) (m : MReg) (ps : PReg) (ty : ETy) (s : State) : Out := vDispatch (.vfmin d a b m ps ty) s

def execVfmax (d : VDst) (a b : VSrc) (m : MReg) (ps : PReg) (ty : ETy) (s : State) : Out := vDispatch (.vfmax d a b m ps ty) s

def execVfabs (d : VDst) (a : VSrc) (m : MReg) (ps : PReg) (ty : ETy) (s : State) : Out := vDispatch (.vfabs d a m ps ty) s

def execVfneg (d : VDst) (a : VSrc) (m : MReg) (ps : PReg) (ty : ETy) (s : State) : Out := vDispatch (.vfneg d a m ps ty) s

def execVfclass (d : VDst) (a : VSrc) (m : MReg) (ps : PReg) (ty : ETy) (s : State) : Out := vDispatch (.vfclass d a m ps ty) s

def execVscacc (d : VDst) (a b : VSrc) (m : MReg) (ps : PReg) (sb : BitVec 3) (s : State) : Out := vDispatch (.vscacc d a b m ps sb) s

def execVcvt (rm : Rm) (d : VDst) (a : VSrc) (td : ETy) (m : MReg) (ps : PReg) (ts : ETy) (s : State) : Out :=
  vDispatch (.vcvt rm d a td m ps ts) s

def execVnarrow (rm : Rm) (d : VDst) (a : VSrc) (td : ETy) (m : MReg) (ps : PReg) (ts : ETy) (s : State) : Out :=
  vDispatch (.vnarrow rm d a td m ps ts) s

def execVwiden (d : VDst) (a : VSrc) (td : ETy) (m : MReg) (ps : PReg) (ts : ETy) (s : State) : Out :=
  vDispatch (.vwiden d a td m ps ts) s

def execVdeq (d : VDst) (a b : VSrc) (m : MReg) (ps : PReg) (ty : ETy) (s : State) : Out := vDispatch (.vdeq d a b m ps ty) s

def execVand (d : VDst) (a b : VSrc) (m : MReg) (ps : PReg) (ty : ETy) (s : State) : Out := vDispatch (.vand d a b m ps ty) s

def execVor (d : VDst) (a b : VSrc) (m : MReg) (ps : PReg) (ty : ETy) (s : State) : Out := vDispatch (.vor d a b m ps ty) s

def execVxor (d : VDst) (a b : VSrc) (m : MReg) (ps : PReg) (ty : ETy) (s : State) : Out := vDispatch (.vxor d a b m ps ty) s

def execVandn (d : VDst) (a b : VSrc) (m : MReg) (ps : PReg) (ty : ETy) (s : State) : Out := vDispatch (.vandn d a b m ps ty) s

def execVshl (d : VDst) (a b : VSrc) (m : MReg) (ps : PReg) (ty : ETy) (s : State) : Out := vDispatch (.vshl d a b m ps ty) s

def execVshr (d : VDst) (a b : VSrc) (m : MReg) (ps : PReg) (ty : ETy) (s : State) : Out := vDispatch (.vshr d a b m ps ty) s

def execVsra (d : VDst) (a b : VSrc) (m : MReg) (ps : PReg) (ty : ETy) (s : State) : Out := vDispatch (.vsra d a b m ps ty) s

def execVshlw (d : VDst) (a : VSrc) (r : SReg) (ty : ETy) (s : State) : Out := vDispatch (.vshlw d a r ty) s

def execVshrw (d : VDst) (a : VSrc) (r : SReg) (ty : ETy) (s : State) : Out := vDispatch (.vshrw d a r ty) s

def execVfunl (d : VDst) (a b : VSrc) (r : SReg) (ty : ETy) (s : State) : Out := vDispatch (.vfunl d a b r ty) s

def execVfunr (d : VDst) (a b : VSrc) (r : SReg) (ty : ETy) (s : State) : Out := vDispatch (.vfunr d a b r ty) s

def execVrndb (d : VDst) (m : MReg) (ps : PReg) (ty : ETy) (s : State) : Out := vDispatch (.vrndb d m ps ty) s


end Sys2Proof.Machine
end

