-- ==== Sys2Proof/Machine/VEvents.lean ====
section
/-! DEFINITION. What the vector engine does on its own: issue, completions, fills (R11, R178, R188). -/

namespace Sys2Proof.Machine

/-- VECTOR_ISSUE: the oldest instruction of a queue. -/
def execVectorIssue (c : Nat) (vq : VQueue) (rc : Recheck) (s : State) : Out :=
  .next (onCore c (match vq with
    | .vlq => issueLoad
    | .vxq => issueLanes rc
    | .vsq => issueStore) s)

def execVectorLoadCompletion (c seq : Nat) (s : State) : Out := .next (onCore c (completeLoad seq) s)

def execVectorStoreCompletion (c seq : Nat) (s : State) : Out := .next (onCore c (completeStore seq) s)

def execMittFill (c : Nat) (rc : Recheck) (s : State) : Out := .next (onCore c (mittFill rc) s)

/-- WATERMARK_RECHECK (R86): the `vld.w` at the front of the VLQ reads `pub` again, where no budget holds the read back (R123). An object in host
or peer memory is read as this module's own memory at its address (DESIGN CHOICE: log entry 78). -/
def execWatermarkRecheck (c : Nat) (s : State) : Out :=
  .next (onCore c (fun t =>
    match t.core.vec.vlq with
    | e :: r =>
      match e.instr with
      | .vldW _ _ _ w _ _ _ =>
        match (t.core.seq.w[w.toNat]?).getD none with
        | some x =>
          if memOk t t.core.seq.eff x.obj then
            chargeMem t.core.seq.eff x.obj 8 (setVec t { t.core.vec with vlq := { e with pub := t.rd x.obj 8 } :: r })
          else t
        | none => t
      | _ => t
    | [] => t) s)

end Sys2Proof.Machine
end

