-- ==== Sys2Proof/Machine/VLoadStore.lean ====
section
/-! DEFINITION. Vector loads, stores, gathers, scatters, lane tables and fences, class 0x9 (R233 to R240). -/

namespace Sys2Proof.Machine

def execVld (d : VDst) (b : SReg) (disp : BitVec 14) (m : MReg) (ps : PReg) (ty : ETy) (s : State) : Out :=
  vDispatch (.vld d b disp m ps ty) s

def execVldW (d : VDst) (b : SReg) (disp : BitVec 14) (w : BitVec 3) (m : MReg) (ps : PReg) (ty : ETy) (s : State) : Out :=
  vDispatch (.vldW d b disp w m ps ty) s

def execVlds (d : VDst) (b x : SReg) (disp : BitVec 14) (m : MReg) (ps : PReg) (ty : ETy) (s : State) : Out :=
  vDispatch (.vlds d b x disp m ps ty) s

def execVldff (d : VDst) (b x : SReg) (disp : BitVec 14) (m : MReg) (ps : PReg) (ty : ETy) (s : State) : Out :=
  vDispatch (.vldff d b x disp m ps ty) s

def execVst (a : VSrc) (b : SReg) (disp : BitVec 12) (m : MReg) (ps : PReg) (ty : ETy) (s : State) : Out :=
  vDispatch (.vst a b disp m ps ty) s

def execVsts (a : VSrc) (b x : SReg) (disp : BitVec 12) (m : MReg) (ps : PReg) (ty : ETy) (s : State) : Out :=
  vDispatch (.vsts a b x disp m ps ty) s

def execVgath (d : VDst) (b : SReg) (idx : VSrc) (k : BitVec 2) (m : MReg) (ps : PReg) (ty : ETy) (s : State) : Out :=
  vDispatch (.vgath d b idx k m ps ty) s

def execVscat (a idx : VSrc) (b : SReg) (k : BitVec 2) (m : MReg) (ps : PReg) (ty : ETy) (s : State) : Out :=
  vDispatch (.vscat a idx b k m ps ty) s

def execVscadd (a idx : VSrc) (b : SReg) (k : BitVec 2) (m : MReg) (ps : PReg) (ty : ETy) (s : State) : Out :=
  vDispatch (.vscadd a idx b k m ps ty) s

def execVtld (d : VDst) (a : VSrc) (m : MReg) (ps : PReg) (ty : ETy) (s : State) : Out := vDispatch (.vtld d a m ps ty) s

def execVtst (a b : VSrc) (m : MReg) (ps : PReg) (ty : ETy) (s : State) : Out := vDispatch (.vtst a b m ps ty) s

def execVfence (s : State) : Out := vDispatch .vfence s

def execVsell (d di : VDst) (b : SReg) (md : MReg) (c : SReg) (ty : ETy) (s : State) : Out := vDispatch (.vsell d di b md c ty) s

/-- VFENCE_ARR (R88, R239). -/
def execVfenceArr (b : SReg) (sc : Scope) (s : State) : Out := vDispatchArr b sc s

end Sys2Proof.Machine
end

