-- ==== Sys2Proof/Machine/VMask.lean ====
section
/-! DEFINITION. Vector masks, selection, reductions and vector state, class 0x8 (R220 to R232). -/

namespace Sys2Proof.Machine

def execVcmp (cc : CmpCc) (d : MReg) (a b : VSrc) (m : MReg) (ps : PReg) (ty : ETy) (s : State) : Out :=
  vDispatch (.vcmp cc d a b m ps ty) s

def execVfcmp (cc : CmpCc) (d : MReg) (a b : VSrc) (m : MReg) (ps : PReg) (ty : ETy) (s : State) : Out :=
  vDispatch (.vfcmp cc d a b m ps ty) s

def execVsel (d : VDst) (a b : VSrc) (m : MReg) (ps : PReg) (ty : ETy) (s : State) : Out := vDispatch (.vsel d a b m ps ty) s

def execMand (d a b : MReg) (s : State) : Out := vDispatch (.mand d a b) s

def execMor (d a b : MReg) (s : State) : Out := vDispatch (.mor d a b) s

def execMxor (d a b : MReg) (s : State) : Out := vDispatch (.mxor d a b) s

def execMnot (d a : MReg) (s : State) : Out := vDispatch (.mnot d a) s

def execMcnt (d : SReg) (a : MReg) (s : State) : Out := vDispatch (.mcnt d a) s

def execMfirst (d : SReg) (a : MReg) (s : State) : Out := vDispatch (.mfirst d a) s

def execVpres (d : MReg) (a : VSrc) (m : MReg) (ps : PReg) (ty : ETy) (s : State) : Out := vDispatch (.vpres d a m ps ty) s

def execVred (op : RedOp) (d : VDst) (a : VSrc) (b : RedSrc) (m : MReg) (ps : PReg) (ty : ETy) (s : State) : Out :=
  vDispatch (.vred op d a b m ps ty) s

def execVfred (op : RedOp) (d : VDst) (a : VSrc) (b : RedSrc) (m : MReg) (ps : PReg) (ty : ETy) (s : State) : Out :=
  vDispatch (.vfred op d a b m ps ty) s

def execVscan (op : RedOp) (d : VDst) (a : VSrc) (b : RedSrc) (m : MReg) (ps : PReg) (ty : ETy) (s : State) : Out :=
  vDispatch (.vscan op d a b m ps ty) s

def execVfscan (op : RedOp) (d : VDst) (a : VSrc) (b : RedSrc) (m : MReg) (ps : PReg) (ty : ETy) (s : State) : Out :=
  vDispatch (.vfscan op d a b m ps ty) s

def execVthr (d : VDst) (a b : VSrc) (m : MReg) (ps : PReg) (ty : ETy) (s : State) : Out := vDispatch (.vthr d a b m ps ty) s

def execVmvs (d : SReg) (a : VSrc) (ty : ETy) (s : State) : Out := vDispatch (.vmvs d a ty) s

def execVsplat (d : VDst) (a : SReg) (m : MReg) (ps : PReg) (ty : ETy) (s : State) : Out := vDispatch (.vsplat d a m ps ty) s

def execMclr (d : MReg) (s : State) : Out := vDispatch (.mclr d) s

/-- SETTLE of named registers (R193, R228). -/
def execSettle (x y w : VDst) (s : State) : Out :=
  let rot := ((s.core.seq.loops.find? fun e => e.loopr).map LoopEntry.rot).getD 0
  marked (settleOver (some ([x, y, w].filterMap (dstSlot rot))) true fun t => done (takeSeqn (.settle x y w) t)) s

def execSettleAll (s : State) : Out := marked (settleOver none true fun t => done (takeSeqn .settleAll t)) s

/-- SETVL (R225). -/
def execSetvl (d a : SReg) (ty : ETy) (s : State) : Out :=
  marked (fun u =>
    let n := BitVec.ofNat 64 (min (getS u a).toNat ty.vlmax)
    let t := takeSeqn (.setvl d a ty) u
    done (setS (setVec t { t.core.vec with vl := n }) d n)) s

/-- SETVT (R226). -/
def execSetvt (a : SReg) (s : State) : Out :=
  marked (fun u =>
    let t := takeSeqn (.setvt a) u
    done (setVec t { t.core.vec with vtype := (getS u a).truncate 8 })) s

/-- VSLIP (R227). -/
def execVslip (nm1 : BitVec 6) (s : State) : Out :=
  marked (fun u =>
    let t := takeSeqn (.vslip nm1) u
    done (setVec t { t.core.vec with slip := nm1.toNat + 1 })) s

end Sys2Proof.Machine
end

