-- ==== Sys2Proof/Machine/VPermute.lean ====
section
/-! DEFINITION. Permutes, class 0xA (R241 to R243). -/

namespace Sys2Proof.Machine

def execVslideu (d : VDst) (a : VSrc) (r : SReg) (m : MReg) (ps : PReg) (ty : ETy) (s : State) : Out :=
  vDispatch (.vslideu d a r m ps ty) s

def execVslided (d : VDst) (a : VSrc) (r : SReg) (m : MReg) (ps : PReg) (ty : ETy) (s : State) : Out :=
  vDispatch (.vslided d a r m ps ty) s

def execVperm (d : VDst) (a b : VSrc) (m : MReg) (ps : PReg) (ty : ETy) (s : State) : Out := vDispatch (.vperm d a b m ps ty) s

def execVxchg (d : VDst) (a : VSrc) (j : BitVec 4) (m : MReg) (ps : PReg) (ty : ETy) (s : State) : Out :=
  vDispatch (.vxchg d a j m ps ty) s

def execVcomp (d : VDst) (a : VSrc) (r : SReg) (m : MReg) (ps : PReg) (ty : ETy) (s : State) : Out := vDispatch (.vcomp d a r m ps ty) s

def execVexp (d : VDst) (a : VSrc) (m : MReg) (ps : PReg) (ty : ETy) (s : State) : Out := vDispatch (.vexp d a m ps ty) s

def execVfib (sr sl : SReg) (a : VSrc) (c : SReg) (md : MReg) (ty : ETy) (s : State) : Out := vDispatch (.vfib sr sl a c md ty) s


end Sys2Proof.Machine
end

