-- ==== Sys2Proof/Machine/Window.lean ====
section
/-! DEFINITION. Writes to a queue's launch register window (R108). -/

namespace Sys2Proof.Machine

/-- INLINE_PACKET: a 64-byte write is a packet of length 1; a write of another size is malformed. -/
def execInlinePacket (q : Nat) (bs : List Byte) (s : State) : Out :=
  .next (if bs.length = 64 then inlineWrite q bs s else windowError q 1 s)

def execTail (q : Nat) (arg : Word) (s : State) : Out := .next (doTail q arg s)

def execEnable (q : Nat) (s : State) : Out := .next (doEnable q s)

def execDisable (q : Nat) (s : State) : Out := .next (doDisable q s)

def execResume (q : Nat) (s : State) : Out := .next (doResume q s)

def execSwap (q : Nat) (arg : Word) (s : State) : Out := .next (doSwap q arg s)

/-- MALFORMED_WINDOW_WRITE: ignored, with errcode 1. -/
def execMalformedWindowWrite (q : Nat) (s : State) : Out := .next (windowError q 1 s)

end Sys2Proof.Machine
end

