-- ==== Sys2Proof/Machine/Dispatch.lean ====
section
/-! DEFINITION. The one dispatch from an instruction to its meaning: one arm per constructor. -/

namespace Sys2Proof.Machine

def exec (i : Instr) (s : State) : Host.Outcome State Fault Refusal :=
  match i with
  | .nop => Sys2Proof.Machine.execNop s
  | .brCc cc a b tgt => Sys2Proof.Machine.execBrCc cc a b tgt s
  | .jmp tgt => Sys2Proof.Machine.execJmp tgt s
  | .jmpr a => Sys2Proof.Machine.execJmpr a s
  | .call d tgt => Sys2Proof.Machine.execCall d tgt s
  | .ret a => Sys2Proof.Machine.execRet a s
  | .loop c tgt => Sys2Proof.Machine.execLoop c tgt s
  | .loopr c slip rstep tgt => Sys2Proof.Machine.execLoopr c slip rstep tgt s
  | .leave => Sys2Proof.Machine.execLeave s
  | .trap code => Sys2Proof.Machine.execTrap code s
  | .eret => Sys2Proof.Machine.execEret s
  | .sysrd d num => Sys2Proof.Machine.execSysrd d num s
  | .syswr a num => Sys2Proof.Machine.execSyswr a num s
  | .vrestore a => Sys2Proof.Machine.execVrestore a s
  | .icinv a => Sys2Proof.Machine.execIcinv a s
  | .tlbinv a => Sys2Proof.Machine.execTlbinv a s
  | .halt => Sys2Proof.Machine.execHalt s
  | .brkpt code => Sys2Proof.Machine.execBrkpt code s
  | .add d a b => Sys2Proof.Machine.execAdd d a b s
  | .sub d a b => Sys2Proof.Machine.execSub d a b s
  | .and d a b => Sys2Proof.Machine.execAnd d a b s
  | .or d a b => Sys2Proof.Machine.execOr d a b s
  | .xor d a b => Sys2Proof.Machine.execXor d a b s
  | .andn d a b => Sys2Proof.Machine.execAndn d a b s
  | .shl d a b => Sys2Proof.Machine.execShl d a b s
  | .shr d a b => Sys2Proof.Machine.execShr d a b s
  | .sra d a b => Sys2Proof.Machine.execSra d a b s
  | .mul d a b => Sys2Proof.Machine.execMul d a b s
  | .mulh d a b => Sys2Proof.Machine.execMulh d a b s
  | .mulhz d a b => Sys2Proof.Machine.execMulhz d a b s
  | .div d a b => Sys2Proof.Machine.execDiv d a b s
  | .divz d a b => Sys2Proof.Machine.execDivz d a b s
  | .rem d a b => Sys2Proof.Machine.execRem d a b s
  | .remz d a b => Sys2Proof.Machine.execRemz d a b s
  | .min d a b => Sys2Proof.Machine.execMin d a b s
  | .max d a b => Sys2Proof.Machine.execMax d a b s
  | .minz d a b => Sys2Proof.Machine.execMinz d a b s
  | .maxz d a b => Sys2Proof.Machine.execMaxz d a b s
  | .slt d a b => Sys2Proof.Machine.execSlt d a b s
  | .sltz d a b => Sys2Proof.Machine.execSltz d a b s
  | .seq d a b => Sys2Proof.Machine.execSeq d a b s
  | .sel d c a b => Sys2Proof.Machine.execSel d c a b s
  | .clz d a => Sys2Proof.Machine.execClz d a s
  | .popc d a => Sys2Proof.Machine.execPopc d a s
  | .bext d a lo wm1 => Sys2Proof.Machine.execBext d a lo wm1 s
  | .bins d a lo wm1 => Sys2Proof.Machine.execBins d a lo wm1 s
  | .addi d a imm => Sys2Proof.Machine.execAddi d a imm s
  | .andi d a imm => Sys2Proof.Machine.execAndi d a imm s
  | .ori d a imm => Sys2Proof.Machine.execOri d a imm s
  | .xori d a imm => Sys2Proof.Machine.execXori d a imm s
  | .shli d a imm => Sys2Proof.Machine.execShli d a imm s
  | .shri d a imm => Sys2Proof.Machine.execShri d a imm s
  | .srai d a imm => Sys2Proof.Machine.execSrai d a imm s
  | .slti d a imm => Sys2Proof.Machine.execSlti d a imm s
  | .li d imm => Sys2Proof.Machine.execLi d imm s
  | .lih d imm => Sys2Proof.Machine.execLih d imm s
  | .ld ty d b disp => Sys2Proof.Machine.execLd ty d b disp s
  | .st ty a b disp => Sys2Proof.Machine.execSt ty a b disp s
  | .amo op d b a sc w64 disp => Sys2Proof.Machine.execAmo op d b a sc w64 disp s
  | .cas d b e n sc w64 disp => Sys2Proof.Machine.execCas d b e n sc w64 disp s
  | .acq a sc => Sys2Proof.Machine.execAcq a sc s
  | .tryacq d a sc => Sys2Proof.Machine.execTryacq d a sc s
  | .rel a sc => Sys2Proof.Machine.execRel a sc s
  | .xfence p q => Sys2Proof.Machine.execXfence p q s
  | .fence sc => Sys2Proof.Machine.execFence sc s
  | .waitc l st c t => Sys2Proof.Machine.execWaitc l st c t s
  | .spawn a => Sys2Proof.Machine.execSpawn a s
  | .join a => Sys2Proof.Machine.execJoin a s
  | .commit => Sys2Proof.Machine.execCommit s
  | .endTask => Sys2Proof.Machine.execEndTask s
  | .yield => Sys2Proof.Machine.execYield s
  | .wmpub w a => Sys2Proof.Machine.execWmpub w a s
  | .sigdec a sc count => Sys2Proof.Machine.execSigdec a sc count s
  | .sigwait a sc => Sys2Proof.Machine.execSigwait a sc s
  | .vadd d a b m ps ty => Sys2Proof.Machine.execVadd d a b m ps ty s
  | .vsub d a b m ps ty => Sys2Proof.Machine.execVsub d a b m ps ty s
  | .vmul d a b m ps ty => Sys2Proof.Machine.execVmul d a b m ps ty s
  | .vmulh d a b m ps ty => Sys2Proof.Machine.execVmulh d a b m ps ty s
  | .vmulhz d a b m ps ty => Sys2Proof.Machine.execVmulhz d a b m ps ty s
  | .vmadd d a b m ps ty => Sys2Proof.Machine.execVmadd d a b m ps ty s
  | .vmin d a b m ps ty => Sys2Proof.Machine.execVmin d a b m ps ty s
  | .vmax d a b m ps ty => Sys2Proof.Machine.execVmax d a b m ps ty s
  | .vminz d a b m ps ty => Sys2Proof.Machine.execVminz d a b m ps ty s
  | .vmaxz d a b m ps ty => Sys2Proof.Machine.execVmaxz d a b m ps ty s
  | .vabs d a m ps ty => Sys2Proof.Machine.execVabs d a m ps ty s
  | .vadds d a b m ps ty => Sys2Proof.Machine.execVadds d a b m ps ty s
  | .vsubs d a b m ps ty => Sys2Proof.Machine.execVsubs d a b m ps ty s
  | .vpopc d a m ps ty => Sys2Proof.Machine.execVpopc d a m ps ty s
  | .vclz d a m ps ty => Sys2Proof.Machine.execVclz d a m ps ty s
  | .vfadd rm d a b m ps ty => Sys2Proof.Machine.execVfadd rm d a b m ps ty s
  | .vfsub rm d a b m ps ty => Sys2Proof.Machine.execVfsub rm d a b m ps ty s
  | .vfmul rm d a b m ps ty => Sys2Proof.Machine.execVfmul rm d a b m ps ty s
  | .vfma rm d a b m ps ty => Sys2Proof.Machine.execVfma rm d a b m ps ty s
  | .vfms rm d a b m ps ty => Sys2Proof.Machine.execVfms rm d a b m ps ty s
  | .vfnma rm d a b m ps ty => Sys2Proof.Machine.execVfnma rm d a b m ps ty s
  | .vfdiv rm d a b m ps ty => Sys2Proof.Machine.execVfdiv rm d a b m ps ty s
  | .vfrcp rm d a m ps ty => Sys2Proof.Machine.execVfrcp rm d a m ps ty s
  | .vfsqrt rm d a m ps ty => Sys2Proof.Machine.execVfsqrt rm d a m ps ty s
  | .vfrsq d a m ps ty => Sys2Proof.Machine.execVfrsq d a m ps ty s
  | .vfexp2 d a m ps ty => Sys2Proof.Machine.execVfexp2 d a m ps ty s
  | .vflog2 d a m ps ty => Sys2Proof.Machine.execVflog2 d a m ps ty s
  | .vfsin d a m ps ty => Sys2Proof.Machine.execVfsin d a m ps ty s
  | .vfcos d a m ps ty => Sys2Proof.Machine.execVfcos d a m ps ty s
  | .vftanh d a m ps ty => Sys2Proof.Machine.execVftanh d a m ps ty s
  | .vfmin d a b m ps ty => Sys2Proof.Machine.execVfmin d a b m ps ty s
  | .vfmax d a b m ps ty => Sys2Proof.Machine.execVfmax d a b m ps ty s
  | .vfabs d a m ps ty => Sys2Proof.Machine.execVfabs d a m ps ty s
  | .vfneg d a m ps ty => Sys2Proof.Machine.execVfneg d a m ps ty s
  | .vfclass d a m ps ty => Sys2Proof.Machine.execVfclass d a m ps ty s
  | .vscacc d a b m ps sb => Sys2Proof.Machine.execVscacc d a b m ps sb s
  | .vcvt rm d a td m ps ts => Sys2Proof.Machine.execVcvt rm d a td m ps ts s
  | .vnarrow rm d a td m ps ts => Sys2Proof.Machine.execVnarrow rm d a td m ps ts s
  | .vwiden d a td m ps ts => Sys2Proof.Machine.execVwiden d a td m ps ts s
  | .vdeq d a b m ps ty => Sys2Proof.Machine.execVdeq d a b m ps ty s
  | .vand d a b m ps ty => Sys2Proof.Machine.execVand d a b m ps ty s
  | .vor d a b m ps ty => Sys2Proof.Machine.execVor d a b m ps ty s
  | .vxor d a b m ps ty => Sys2Proof.Machine.execVxor d a b m ps ty s
  | .vandn d a b m ps ty => Sys2Proof.Machine.execVandn d a b m ps ty s
  | .vshl d a b m ps ty => Sys2Proof.Machine.execVshl d a b m ps ty s
  | .vshr d a b m ps ty => Sys2Proof.Machine.execVshr d a b m ps ty s
  | .vsra d a b m ps ty => Sys2Proof.Machine.execVsra d a b m ps ty s
  | .vshlw d a sc_ ty => Sys2Proof.Machine.execVshlw d a sc_ ty s
  | .vshrw d a sc_ ty => Sys2Proof.Machine.execVshrw d a sc_ ty s
  | .vfunl d a b sc_ ty => Sys2Proof.Machine.execVfunl d a b sc_ ty s
  | .vfunr d a b sc_ ty => Sys2Proof.Machine.execVfunr d a b sc_ ty s
  | .vrndb d m ps ty => Sys2Proof.Machine.execVrndb d m ps ty s
  | .vcmp cc d a b m ps ty => Sys2Proof.Machine.execVcmp cc d a b m ps ty s
  | .vfcmp cc d a b m ps ty => Sys2Proof.Machine.execVfcmp cc d a b m ps ty s
  | .vsel d a b m ps ty => Sys2Proof.Machine.execVsel d a b m ps ty s
  | .mand d a b => Sys2Proof.Machine.execMand d a b s
  | .mor d a b => Sys2Proof.Machine.execMor d a b s
  | .mxor d a b => Sys2Proof.Machine.execMxor d a b s
  | .mnot d a => Sys2Proof.Machine.execMnot d a s
  | .mcnt d a => Sys2Proof.Machine.execMcnt d a s
  | .mfirst d a => Sys2Proof.Machine.execMfirst d a s
  | .vpres d a m ps ty => Sys2Proof.Machine.execVpres d a m ps ty s
  | .settle x y w => Sys2Proof.Machine.execSettle x y w s
  | .settleAll => Sys2Proof.Machine.execSettleAll s
  | .setvl d a ty => Sys2Proof.Machine.execSetvl d a ty s
  | .setvt a => Sys2Proof.Machine.execSetvt a s
  | .vred op d a b m ps ty => Sys2Proof.Machine.execVred op d a b m ps ty s
  | .vfred op d a b m ps ty => Sys2Proof.Machine.execVfred op d a b m ps ty s
  | .vscan op d a b m ps ty => Sys2Proof.Machine.execVscan op d a b m ps ty s
  | .vfscan op d a b m ps ty => Sys2Proof.Machine.execVfscan op d a b m ps ty s
  | .vthr d a b m ps ty => Sys2Proof.Machine.execVthr d a b m ps ty s
  | .vmvs d a ty => Sys2Proof.Machine.execVmvs d a ty s
  | .vsplat d a m ps ty => Sys2Proof.Machine.execVsplat d a m ps ty s
  | .vslip nm1 => Sys2Proof.Machine.execVslip nm1 s
  | .mclr d => Sys2Proof.Machine.execMclr d s
  | .vld d b disp m ps ty => Sys2Proof.Machine.execVld d b disp m ps ty s
  | .vldW d b disp w m ps ty => Sys2Proof.Machine.execVldW d b disp w m ps ty s
  | .vlds d b x disp m ps ty => Sys2Proof.Machine.execVlds d b x disp m ps ty s
  | .vldff d b x disp m ps ty => Sys2Proof.Machine.execVldff d b x disp m ps ty s
  | .vst a b disp m ps ty => Sys2Proof.Machine.execVst a b disp m ps ty s
  | .vsts a b x disp m ps ty => Sys2Proof.Machine.execVsts a b x disp m ps ty s
  | .vgath d b idx k m ps ty => Sys2Proof.Machine.execVgath d b idx k m ps ty s
  | .vscat a idx b k m ps ty => Sys2Proof.Machine.execVscat a idx b k m ps ty s
  | .vscadd a idx b k m ps ty => Sys2Proof.Machine.execVscadd a idx b k m ps ty s
  | .vtld d a m ps ty => Sys2Proof.Machine.execVtld d a m ps ty s
  | .vtst a b m ps ty => Sys2Proof.Machine.execVtst a b m ps ty s
  | .vfence => Sys2Proof.Machine.execVfence s
  | .vfenceArr b sc => Sys2Proof.Machine.execVfenceArr b sc s
  | .vsell d di b md c ty => Sys2Proof.Machine.execVsell d di b md c ty s
  | .vslideu d a sc_ m ps ty => Sys2Proof.Machine.execVslideu d a sc_ m ps ty s
  | .vslided d a sc_ m ps ty => Sys2Proof.Machine.execVslided d a sc_ m ps ty s
  | .vperm d a b m ps ty => Sys2Proof.Machine.execVperm d a b m ps ty s
  | .vxchg d a j m ps ty => Sys2Proof.Machine.execVxchg d a j m ps ty s
  | .vcomp d a sc_ m ps ty => Sys2Proof.Machine.execVcomp d a sc_ m ps ty s
  | .vexp d a m ps ty => Sys2Proof.Machine.execVexp d a m ps ty s
  | .vfib sr sl a c md ty => Sys2Proof.Machine.execVfib sr sl a c md ty s
  | .mzero f l => Sys2Proof.Machine.execMzero f l s
  | .mma t a b ty ld ta tb => Sys2Proof.Machine.execMma t a b ty ld ta tb s
  | .mmaq t a b z ta tb g => Sys2Proof.Machine.execMmaq t a b z ta tb g s
  | .mmas t a b md ty => Sys2Proof.Machine.execMmas t a b md ty s
  | .mmac rm t src b ty => Sys2Proof.Machine.execMmac rm t src b ty s
  | .mscale t src a b => Sys2Proof.Machine.execMscale t src a b s
  | .mld t b disp => Sys2Proof.Machine.execMld t b disp s
  | .mst t b disp => Sys2Proof.Machine.execMst t b disp s
  | .mdrain rm t tgt ty => Sys2Proof.Machine.execMdrain rm t tgt ty s
  | .pdrain f l set o p rb vd oty => Sys2Proof.Machine.execPdrain f l set o p rb vd oty s
  | .padj rb g o ln oty => Sys2Proof.Machine.execPadj rb g o ln oty s
  | .pstat f l set p o => Sys2Proof.Machine.execPstat f l set p o s
  | .pfix f l set th o oty => Sys2Proof.Machine.execPfix f l set th o oty s
  | .prld b nm1 => Sys2Proof.Machine.execPrld b nm1 s
  | .prst b nm1 => Sys2Proof.Machine.execPrst b nm1 s
  | .cbind p d => Sys2Proof.Machine.execCbind p d s
  | .cgo p tag rg => Sys2Proof.Machine.execCgo p tag rg s
  | .cgoMx p tag rg => Sys2Proof.Machine.execCgoMx p tag rg s
  | .cgoAuto d tag rg => Sys2Proof.Machine.execCgoAuto d tag rg s
  | .cgoAutoMx d tag rg => Sys2Proof.Machine.execCgoAutoMx d tag rg s
  | .cvld vd md d x tag ty => Sys2Proof.Machine.execCvld vd md d x tag ty s
  | .rinit rg b z n => Sys2Proof.Machine.execRinit rg b z n s
  | .await rg n => Sys2Proof.Machine.execAwait rg n s
  | .rels rg => Sys2Proof.Machine.execRels rg s
  | .ccancel p => Sys2Proof.Machine.execCcancel p s
  | .nlookup d o tag => Sys2Proof.Machine.execNlookup d o tag s
  | .nadd op a src tag => Sys2Proof.Machine.execNadd op a src tag s
  | .naddr op d a src tag => Sys2Proof.Machine.execNaddr op d a src tag s
  | .nfence sc => Sys2Proof.Machine.execNfence sc s
  | .nfenceTag sc tag => Sys2Proof.Machine.execNfenceTag sc tag s
  | .fput r l n tag => Sys2Proof.Machine.execFput r l n tag s
  | .fget r l n tag => Sys2Proof.Machine.execFget r l n tag s
  | .fsig r count => Sys2Proof.Machine.execFsig r count s
  | .collAllreduce g sc_ d tag ty => Sys2Proof.Machine.execCollAllreduce g sc_ d tag ty s
  | .collRedscat g sc_ d tag ty => Sys2Proof.Machine.execCollRedscat g sc_ d tag ty s
  | .collAllgather g sc_ d tag ty => Sys2Proof.Machine.execCollAllgather g sc_ d tag ty s
  | .collBcast g sc_ d tag ty => Sys2Proof.Machine.execCollBcast g sc_ d tag ty s
  | .ffence => Sys2Proof.Machine.execFfence s
  | .fstat d idx => Sys2Proof.Machine.execFstat d idx s
  | .movb d imm => Sys2Proof.Machine.execMovb d imm s
  | .addb d a b => Sys2Proof.Machine.execAddb d a b s
  | .addib d a imm => Sys2Proof.Machine.execAddib d a imm s
  | .andb d a b => Sys2Proof.Machine.execAndb d a b s
  | .orb d a b => Sys2Proof.Machine.execOrb d a b s
  | .shlib d a imm => Sys2Proof.Machine.execShlib d a imm s
  | .shrib d a imm => Sys2Proof.Machine.execShrib d a imm s
  | .bfxb d a lo wm1 => Sys2Proof.Machine.execBfxb d a lo wm1 s
  | .ldpb d imm => Sys2Proof.Machine.execLdpb d imm s
  | .ldqb d imm => Sys2Proof.Machine.execLdqb d imm s
  | .stqb a => Sys2Proof.Machine.execStqb a s
  | .srdb d imm => Sys2Proof.Machine.execSrdb d imm s
  | .sdecb a imm => Sys2Proof.Machine.execSdecb a imm s
  | .ssetb a imm => Sys2Proof.Machine.execSsetb a imm s
  | .waitb d a => Sys2Proof.Machine.execWaitb d a s
  | .placeb res => Sys2Proof.Machine.execPlaceb res s
  | .imgb => Sys2Proof.Machine.execImgb s
  | .copyb => Sys2Proof.Machine.execCopyb s
  | .beqb a b imm => Sys2Proof.Machine.execBeqb a b imm s
  | .bneb a b imm => Sys2Proof.Machine.execBneb a b imm s
  | .bltb a b imm => Sys2Proof.Machine.execBltb a b imm s
  | .loopb len count => Sys2Proof.Machine.execLoopb len count s
  | .fwdb a => Sys2Proof.Machine.execFwdb a s
  | .doneb a => Sys2Proof.Machine.execDoneb a s
  | .beretStepLimit q => Sys2Proof.Machine.execBeretStepLimit q s
  | .inlinePacket q bs => Sys2Proof.Machine.execInlinePacket q bs s
  | .tail q arg => Sys2Proof.Machine.execTail q arg s
  | .enable q => Sys2Proof.Machine.execEnable q s
  | .disable q => Sys2Proof.Machine.execDisable q s
  | .resume q => Sys2Proof.Machine.execResume q s
  | .swap q arg => Sys2Proof.Machine.execSwap q arg s
  | .malformedWindowWrite q => Sys2Proof.Machine.execMalformedWindowWrite q s
  | .packetFetch q => Sys2Proof.Machine.execPacketFetch q s
  | .packetRefetch q => Sys2Proof.Machine.execPacketRefetch q s
  | .launch q => Sys2Proof.Machine.execLaunch q s
  | .image q => Sys2Proof.Machine.execImage q s
  | .barrier q => Sys2Proof.Machine.execBarrier q s
  | .signal q => Sys2Proof.Machine.execSignal q s
  | .copy q => Sys2Proof.Machine.execCopy q s
  | .nopPacket q => Sys2Proof.Machine.execNopPacket q s
  | .frame q => Sys2Proof.Machine.execFrame q s
  | .barrierEvaluation q => Sys2Proof.Machine.execBarrierEvaluation q s
  | .placementResume q => Sys2Proof.Machine.execPlacementResume q s
  | .readyQueueArbitration c => Sys2Proof.Machine.execReadyQueueArbitration c s
  | .preemptionRequest k => Sys2Proof.Machine.execPreemptionRequest k s
  | .taskSave c => Sys2Proof.Machine.execTaskSave c s
  | .contextSpill c => Sys2Proof.Machine.execContextSpill c s
  | .budgetPeriod rcb act arb => Sys2Proof.Machine.execBudgetPeriod rcb act arb s
  | .queueMigration q itp => Sys2Proof.Machine.execQueueMigration q itp s
  | .signalPoll sig => Sys2Proof.Machine.execSignalPoll sig s
  | .sigwaitWake c => Sys2Proof.Machine.execSigwaitWake c s
  | .latchGrant pa => Sys2Proof.Machine.execLatchGrant pa s
  | .watermarkRecheck c => Sys2Proof.Machine.execWatermarkRecheck c s
  | .invalidationRequest tg => Sys2Proof.Machine.execInvalidationRequest tg s
  | .invalidationAck tg => Sys2Proof.Machine.execInvalidationAck tg s
  | .lineRefetch c => Sys2Proof.Machine.execLineRefetch c s
  | .endCompletion c => Sys2Proof.Machine.execEndCompletion c s
  | .vectorIssue c vq rc => Sys2Proof.Machine.execVectorIssue c vq rc s
  | .vectorLoadCompletion c seq => Sys2Proof.Machine.execVectorLoadCompletion c seq s
  | .mittFill c rc => Sys2Proof.Machine.execMittFill c rc s
  | .streamStart id => Sys2Proof.Machine.execStreamStart id s
  | .streamCompletion id => Sys2Proof.Machine.execStreamCompletion id s
  | .streamError id => Sys2Proof.Machine.execStreamError id s
  | .matrixIssue c => Sys2Proof.Machine.execMatrixIssue c s
  | .matrixCompletion c un => Sys2Proof.Machine.execMatrixCompletion c un s
  | .nmePerformed id => Sys2Proof.Machine.execNmePerformed id s
  | .inboundRead node pa n => Sys2Proof.Machine.execInboundRead node pa n s
  | .inboundWrite node pa bs psn => Sys2Proof.Machine.execInboundWrite node pa bs psn s
  | .inboundAtomic node pa op x y => Sys2Proof.Machine.execInboundAtomic node pa op x y s
  | .inboundSignalDecrement node pa count => Sys2Proof.Machine.execInboundSignalDecrement node pa count s
  | .fabricAcceptance id bs psn => Sys2Proof.Machine.execFabricAcceptance id bs psn s
  | .linkReplay lk => Sys2Proof.Machine.execLinkReplay lk s
  | .linkAckTimeout lk => Sys2Proof.Machine.execLinkAckTimeout lk s
  | .collChunk id k bs psn fl => Sys2Proof.Machine.execCollChunk id k bs psn fl s
  | .frameIngress port bs fcsOk => Sys2Proof.Machine.execFrameIngress port bs fcsOk s
  | .ppsEdge port => Sys2Proof.Machine.execPpsEdge port s
  | .tctl port v => Sys2Proof.Machine.execTctl port v s
  | .correctedError un loc pa => Sys2Proof.Machine.execCorrectedError un loc pa s
  | .uncorrectableError site => Sys2Proof.Machine.execUncorrectableError site s
  | .rowSpareSwitch row => Sys2Proof.Machine.execRowSpareSwitch row s
  | .spareAbort row => Sys2Proof.Machine.execSpareAbort row s
  | .spare pa => Sys2Proof.Machine.execSpare pa s
  | .glink v => Sys2Proof.Machine.execGlink v s
  | .retrainDone chip ok => Sys2Proof.Machine.execRetrainDone chip ok s
  | .partitionSwap v => Sys2Proof.Machine.execPartitionSwap v s
  | .fwcmd v => Sys2Proof.Machine.execFwcmd v s
  | .dead k v => Sys2Proof.Machine.execDead k v s
  | .attest off v => Sys2Proof.Machine.execAttest off v s
  | .attestReportDone => Sys2Proof.Machine.execAttestReportDone s
  | .pwrcap v => Sys2Proof.Machine.execPwrcap v s
  | .configWrite off v => Sys2Proof.Machine.execConfigWrite off v s
  | .clockThrottle down => Sys2Proof.Machine.execClockThrottle down s
  | .criticalTemperature => Sys2Proof.Machine.execCriticalTemperature s
  | .clusterGate k => Sys2Proof.Machine.execClusterGate k s
  | .clusterWake k => Sys2Proof.Machine.execClusterWake k s
  | .clusterWakeDone k => Sys2Proof.Machine.execClusterWakeDone k s
  | .boot copyA copyB => Sys2Proof.Machine.execBoot copyA copyB s
  | .coldReset => Sys2Proof.Machine.execColdReset s
  | .bootFromB copyB => Sys2Proof.Machine.execBootFromB copyB s
  | .managementRead item sense => Sys2Proof.Machine.execManagementRead item sense s
  | .resumeCore c => Sys2Proof.Machine.execResumeCore c s
  | .vectorStoreCompletion c seq => Sys2Proof.Machine.execVectorStoreCompletion c seq s
  | .scalarDataReturn c v => Sys2Proof.Machine.execScalarDataReturn c v s
  | .fabricLinkTrained port partner => Sys2Proof.Machine.execFabricLinkTrained port partner s
  | .nodeIdAssignment id => Sys2Proof.Machine.execNodeIdAssignment id s
  | .virtualChannelPause port vc on => Sys2Proof.Machine.execVirtualChannelPause port vc on s
  | .firmwareReplacementDone itp img => Sys2Proof.Machine.execFirmwareReplacementDone itp img s

end Sys2Proof.Machine
end

