-- ==== Sys2Proof/Machine/Progress.lean ====
section
/-! DEFINITION. Who moves: a core's instruction, an interpreter's, an event; and, with nothing on the agenda, a move of the machine's
own (DESIGN CHOICE: log entries 1 and 14). The placing of one instruction for `State.withFetchWord`. -/

namespace Sys2Proof.Machine

/-! ## One move -/

/-- Whether a constructor is an event. -/
def isEvent (i : Instr) : Bool := decide (encode i = .event)

/-- An event happens; an instruction is no event. -/
def runEvent (i : Instr) (s : State) : Out := if isEvent i then exec i s else .next s

/-- The current core moves (R35, R144, R199). -/
def coreTurn (s : State) : Out :=
  match turn s with
  | .done t => .next t
  | .run i t => exec i t

/-- The interpreter of the current queue runs the instruction `w` of its program, or ends the packet where the program is over (R129). -/
def beretAtWord (w : Option Nat) (s : State) : Out :=
  match w with
  | none => beretStep (fun x _ t => beretDone x 0 t) s
  | some w => match decodeBeret w with
    | .ok i => exec i s
    | .error _ => .next s

/-- The program of queue `q` moves. -/
def beretTurn (q : Nat) (s : State) : Out :=
  let x := getQ s q
  let t := setFe s { s.fe with cur := q }
  match x.st, x.ctx with
  | .process, some c => if 512 ≤ c.steps then execBeretStepLimit q t else beretAtWord x.code[c.at_]? t
  | _, _ => .next t

def runTurn (m : Turn) (s : State) : Out :=
  match m with
  | .event i => runEvent i s
  | .core c => coreTurn (focus s c)
  | .beret q => beretTurn q s

/-! ## Moves of the machine's own -/

/-- What a core's engines can do. -/
def coreMoves (k : Core) : List (State → Out) :=
  let c := k.id
  [execVectorIssue c .vlq .agree, execVectorIssue c .vxq .agree, execVectorIssue c .vsq .agree] ++
    (k.vec.loads.map fun l => execVectorLoadCompletion c l.env.seqn) ++ ((k.vec.stores.map (fun x => x.env.seqn) ++ k.vec.defer.map fun d => d.env.seqn).eraseDups.map fun n => execVectorStoreCompletion c n) ++
    [execMittFill c .agree, execMatrixIssue c, execMatrixCompletion c .array, execMatrixCompletion c .port, execLineRefetch c,
      execWatermarkRecheck c, execTaskSave c, execEndCompletion c] ++
    (match k.seq.returns with
      | r :: _ => if r.here.isSome then [execScalarDataReturn c 0] else []
      | [] => [])

/-- What can happen at a queue. -/
def queueMoves (x : Queue) : List (State → Out) :=
  let q := x.q
  [execPacketFetch q, execPacketRefetch q, execLaunch q, execImage q, execBarrier q, execSignal q, execCopy q, execNopPacket q, execFrame q,
    execBarrierEvaluation q, execPlacementResume q]

/-- Idle cores that an RCB with waiting items could use. -/
def idleCores (s : State) : List Nat :=
  let ks := (List.range 96).filter fun k => (liveRegions s).any fun r => bitAt r.clusters k && !(rqItems s r).isEmpty
  ks.flatMap fun k => ((List.range 16).map fun j => 16 * k + j).filter fun c => match (getCore s c).seq.mode with
    | .idle | .held _ => true
    | _ => false

/-- What can happen without anything from outside. -/
def ownMoves (s : State) : List (State → Out) :=
  (allCores s).flatMap coreMoves ++ (s.copy.streams.flatMap fun t => [execStreamStart t.id, execStreamCompletion t.id, execStreamError t.id]) ++
    (s.near.map fun c => execNmePerformed c.id) ++ (s.fab.ops.map fun o => execFabricAcceptance o.id [] []) ++
    ((s.fe.waits.filter fun w => !isRemote w.pa).map fun w => execLatchGrant w.pa) ++
    (s.shoot.flatMap fun h => (h.pending.map fun t => execInvalidationRequest t) ++ h.unacked.map fun t => execInvalidationAck t) ++
    s.fe.queues.flatMap queueMoves ++ ((idleCores s).map fun c => execReadyQueueArbitration c) ++
    (((allCores s).map fun k => clusterOf k.id).eraseDups.map fun k => execPreemptionRequest k)

/-- The first of some moves that changes something. -/
def tryMoves : List (State → Out) → State → Option Out
  | [], _ => none
  | f :: r, s =>
    match f s with
    | .next t => if t = s then tryMoves r s else some (.next t)
    | o => some o

/-- Every waiting core tries again. -/
def wakeAll (s : State) : State :=
  let w := fun (k : Core) => { k with seq := { k.seq with stall := false } }
  { s with core := w s.core, others := s.others.map w }

def canMove (k : Core) : Bool := decide (k.seq.mode = .running) && !k.seq.stall

/-- With nothing on the agenda: the current core runs; where it waits or is idle, an engine, an interpreter or another core moves. -/
def ownMove (s : State) : Out :=
  if canMove s.core then coreTurn s
  else
    match tryMoves (ownMoves s) s with
    | some (.next t) => .next (wakeAll t)
    | some o => o
    | none =>
      match s.fe.queues.find? fun x => decide (x.st = .process) && x.ctx.isSome && !x.blocked with
      | some x => beretTurn x.q s
      | none =>
        match s.others.find? canMove with
        | some k => coreTurn (focus s k.id)
        | none => .next (wakeAll s)

/-- The device is stopped: in the viral state, before its firmware is up, or with the power gone (R330, R334, R340; log entry 82). -/
def stopped (s : State) : Bool := s.viral || decide (s.boot ≠ .up)

/-- What still moves in a stopped device: the management port in every state but without power, the boot ROM after reset, the
thermal controls (R330, R334, R340, R341). -/
def stillMoves (s : State) : Instr → Bool
  | .coldReset | .bootFromB _ => true
  | .managementRead _ _ | .resumeCore _ | .criticalTemperature | .clockThrottle _ => decide (s.boot ≠ .off)
  | .boot _ _ => !s.viral
  | _ => false

/-- One move of the machine. -/
def move (s : State) : Out :=
  match s.agenda with
  | [] => if stopped s then .next s else ownMove s
  | m :: r =>
    let t := { s with agenda := r }
    if stopped s then
      match m with
      | .event i => if stillMoves s i then exec i t else .next t
      | _ => .next t
    else runTurn m t

/-! ## Placing one instruction -/

/-- The line with one instruction at slot 1 (R26 to R29). -/
def oneLine (head tail tlen : Nat) : Nat :=
  let l := 2 ^ 11 + head * 2 ^ 16 + tail * 2 ^ (8 * (64 - tlen))
  l + lineCrc l

/-- A line in the current core's scratchpad window, the core running it, the firmware up. -/
def placeLine (line : Nat) (s : State) : State :=
  let q := s.core.seq
  let eff := { q.eff with spstart := 0, spsize := 864 }
  let t := setSeq s { q with eff := eff, pc := BitVec.ofNat 64 (windowBase + 2), line := none, mode := .running, stall := false }
  { t.wr (padAddr s.core.id eff 0) 64 line with agenda := [], boot := .up }

/-- A program of one word, on queue 0, in the middle of a packet. -/
def placeBeret (w : Nat) (s : State) : State :=
  let x : Queue := { q := 0, st := .process, pkt := natBytes 64 (6 + 2 ^ 16), prog := 64, code := [w] }
  { setQ { x with ctx := some (startBeret x) } s with agenda := [.beret 0], boot := .up }

/-- A table word where the machine fetches next. -/
def placeWord (nbits w : Nat) (s : State) : State :=
  let (h, t) := splitWord nbits w
  if (tableWirath nbits w).isSome || decide (nbits ≠ 32) then placeLine (oneLine h t (nbits / 8 - 2)) s else placeBeret w s

end Sys2Proof.Machine
end

