-- ==== Sys2Proof/Machine/Step.lean ====
section
/-! DEFINITION. One step of the machine, and where an instruction is put so that the next step runs it. -/

namespace Sys2Proof.Machine

/-- One step: the move the agenda asks for, or one of the machine's own. -/
def step (s : State) : Host.Outcome State Fault Refusal := move s

/-- The state with an instruction where the next step fetches: a line of its own in the scratchpad window of the current core, which
runs; a Beret word as the program of a queue that has a packet in hand (DEDUCED: log entry 12). -/
def State.withFetchWord (s : State) (nbits w : Nat) : State := placeWord nbits w s

end Sys2Proof.Machine
end

