-- ==== Sys2Proof/Safety.lean ====
section
/-! DEFINITION. What counts as a safe run, and the frames that statements about instructions are written in: which parts of a state
an instruction leaves as they were. -/

namespace Sys2Proof.Safety

open Sys2Proof.Machine

/-- The machine does not stop at this state. -/
def Moves (s : State) : Prop := ∃ t, step s = .next t

/-- The states a run of any length can be in. -/
inductive Reaches (s : State) : State → Prop where
  | here : Reaches s s
  | step {t u : State} : Reaches s t → step t = .next u → Reaches s u

/-- A run from `s` never stops with a fault or a refusal. -/
def Safe (s : State) : Prop := ∀ t, Reaches s t → Moves t

/-! ## Frames -/

/-- One byte of memory. -/
def byteAt (s : State) (a : Nat) : Byte := memGet s.mem a

/-- Every byte of memory reads as before. -/
def MemKept (s t : State) : Prop := ∀ a, byteAt t a = byteAt s a

/-- Every byte outside `n` bytes from `pa` up reads as before. -/
def MemKeptOutside (pa n : Nat) (s t : State) : Prop := ∀ a, (a < pa ∨ pa + n ≤ a) → byteAt t a = byteAt s a

/-- Every scalar register but those listed reads as before. -/
def RegsKept (ws : List SReg) (s t : State) : Prop := ∀ r, r ∉ ws → getS t r = getS s r

/-- Every vector register, mask, lane table and vector system register of the current core is as before (R44, R45). -/
def VectorKept (s t : State) : Prop :=
  t.core.vec.v = s.core.vec.v ∧ t.core.vec.o = s.core.vec.o ∧ t.core.vec.l = s.core.vec.l ∧ t.core.vec.m = s.core.vec.m ∧
  t.core.vec.pv = s.core.vec.pv ∧ t.core.vec.po = s.core.vec.po ∧ t.core.vec.pl = s.core.vec.pl ∧
  t.core.vec.table = s.core.vec.table ∧ t.core.vec.vl = s.core.vec.vl ∧ t.core.vec.vtype = s.core.vec.vtype ∧
  t.core.vec.vfill = s.core.vec.vfill ∧ t.core.vec.vseed = s.core.vec.vseed ∧ t.core.vec.vbase = s.core.vec.vbase ∧
  t.core.vec.vstat = s.core.vec.vstat ∧ t.core.vec.vidx = s.core.vec.vidx ∧ t.core.vec.vdrop = s.core.vec.vdrop ∧
  t.core.vec.vdropn = s.core.vec.vdropn

/-- The accumulator store of the current core is as before. -/
def TilesKept (s t : State) : Prop := t.core.mat.a = s.core.mat.a

/-- The privilege bits, the registers a trap saves into, and the task's region are as before (R137, R152). -/
def StatusKept (s t : State) : Prop :=
  t.core.seq.prv = s.core.seq.prv ∧ t.core.seq.pprv = s.core.seq.pprv ∧ t.core.seq.inh = s.core.seq.inh ∧
  t.core.seq.epc = s.core.seq.epc ∧ t.core.seq.cause = s.core.seq.cause ∧ t.core.seq.tval = s.core.seq.tval ∧
  t.core.seq.eff = s.core.seq.eff ∧ t.core.seq.tid = s.core.seq.tid ∧ t.core.seq.mode = s.core.seq.mode

/-- The device outside the cores is as before: configuration space, ports, links, boot, power, reliability. -/
def DeviceKept (s t : State) : Prop :=
  t.cfg = s.cfg ∧ t.eth = s.eth ∧ t.ports = s.ports ∧ t.glinks = s.glinks ∧ t.caps = s.caps ∧ t.att = s.att ∧ t.meas = s.meas ∧
  t.boot = s.boot ∧ t.power = s.power ∧ t.clock = s.clock ∧ t.ras = s.ras ∧ t.viral = s.viral

/-- The queues, latches' requests, handles and other state of the front end are as before, and the other cores. -/
def OthersKept (s t : State) : Prop := t.fe = s.fe ∧ t.others = s.others ∧ t.slots = s.slots

/-- Nothing but scalar registers, the current core's flow of control and its cached line has changed. -/
def ScalarOnly (s t : State) : Prop :=
  t = { s with core := { s.core with
          seq := { s.core.seq with regs := t.core.seq.regs, pc := t.core.seq.pc, line := t.core.seq.line, loops := t.core.seq.loops,
                                   atPoint := t.core.seq.atPoint }
          vec := { s.core.vec with slip := t.core.vec.slip } } }

/-- Control has gone on sequentially: outside a loop, to the next head (R30). -/
def FlowsOn (s t : State) : Prop := s.core.seq.loops = [] → t.core.seq.pc = nextPc s ∧ t.core.seq.loops = []

/-- The instruction completes, writes `v` into `d` and changes nothing else: a write to `s0` is discarded (R44). -/
def Puts (i : Instr) (s : State) (d : SReg) (v : Word) : Prop :=
  ∃ t, exec i s = .next t ∧ (d ≠ 0 → getS t d = v) ∧ getS t 0 = 0 ∧ RegsKept [d] s t ∧ FlowsOn s t ∧ ScalarOnly s t

/-- The trap that stands at the head at the PC is entered (R153): what it saves, what it sets, where control goes; no other register. -/
def EntersTrap (i : Instr) (s : State) (cause : Nat) (epc tval : Word) : Prop :=
  ∃ t, exec i s = .next t ∧ t.core.seq.epc = epc ∧ t.core.seq.cause = BitVec.ofNat 64 cause ∧ t.core.seq.tval = tval ∧
    t.core.seq.pprv = s.core.seq.prv ∧ t.core.seq.prv = true ∧ t.core.seq.inh = true ∧ t.core.seq.pc = s.core.seq.eff.trap ∧
    t.core.seq.cmt = s.core.seq.cmt ∧ RegsKept [] s t ∧ VectorKept s t ∧ TilesKept s t ∧ MemKept s t ∧ DeviceKept s t ∧ OthersKept s t

/-- A trap can be entered here: INH = 0, a trap vector, every earlier scalar instruction complete, and no vector memory instruction still
to translate (R35, R153, R201). -/
def CanTrap (s : State) : Prop := s.core.seq.inh = false ∧ s.core.seq.eff.trap ≠ 0 ∧ trapWaits s = false

/-- The instruction completes, changes no register, and flow goes on. -/
def Continues (i : Instr) (s : State) : Prop := ∃ t, exec i s = .next t ∧ RegsKept [] s t ∧ FlowsOn s t ∧ ScalarOnly s t

/-- Control goes to `p`, with the registers in `ws` written and the loop stack as it was. -/
def Jumps (i : Instr) (s : State) (ws : List SReg) (p : Word) : Prop :=
  ∃ t, exec i s = .next t ∧ t.core.seq.pc = p ∧ t.core.seq.loops = s.core.seq.loops ∧ RegsKept ws s t ∧ ScalarOnly s t

/-- `p` is a slot of the line control is in that a branch may name (R31, R32, R53). -/
def InLine (s : State) (p : Word) : Prop :=
  badSlot p = false ∧ lineBase p = lineBase s.core.seq.pc ∧ slotOf p ≤ curN s ∧ followSlot (curLine s) (slotOf p) = false

/-- `p` is no slot that a branch may name, in the line control is in or in another one whose checks 1 and 2 pass (R31, R32, R35). -/
def BadTarget (s : State) (p : Word) : Prop :=
  (lineBase p = lineBase s.core.seq.pc ∧ ¬InLine s p) ∨
    (lineBase p ≠ lineBase s.core.seq.pc ∧ ∃ l u, enterLine p s = (.ok l, u) ∧ slotOk l p = false)

/-- Whether the line of `p` has a slot at `p` that a target may name, a follow-on's being none (`there`): the line control is in, or another
one whose checks 1 and 2 pass (R31, R53). -/
def TargetSlot (s : State) (p : Word) (there : Bool) : Prop :=
  badSlot p = false ∧
    ((lineBase p = lineBase s.core.seq.pc ∧ slotOk (curLine s) p = there) ∨
      (lineBase p ≠ lineBase s.core.seq.pc ∧ ∃ l u, enterLine p s = (.ok l, u) ∧ slotOk l p = there))

/-- The address a target field names (R31): 19 signed bits of lines from the line of the PC, and a slot. -/
def targetOfField (pc : Word) (tgt : BitVec 24) : Word :=
  BitVec.ofInt 64 ((pc.toNat / 64 * 64 : Nat) + 64 * (tgt.extractLsb' 5 19).toInt + 2 * (tgt.toNat % 32 : Nat))

/-- The address lies in HBM, the capacity tier or a scratchpad. -/
def PlainPlace (pa : Nat) : Prop := place pa = .hbm ∨ (∃ c, place pa = .tier c) ∨ ∃ c o, place pa = .pad c o

/-- The bytes lie in HBM, the capacity tier or a scratchpad, and none is poisoned. -/
def PlainAccess (s : State) (pa n : Nat) : Prop := PlainPlace pa ∧ isPoisoned s pa n = false

/-- The data cache has no copy of the line of `pa` that differs from memory (R73). -/
def FreshLine (s : State) (pa : Nat) : Prop := ∀ e ∈ s.core.seq.dcache, e.1 = pa / 64 * 64 → e.2 = memRead s.mem e.1 64

/-- Everything but scalar registers, flow, caches, translations, choices and the program-order number is as before, memory aside. -/
def MemoryFrame (s t : State) : Prop :=
  VectorKept s t ∧ TilesKept s t ∧ StatusKept s t ∧ DeviceKept s t ∧ OthersKept s t ∧ t.copy = s.copy ∧ t.near = s.near ∧ t.fab = s.fab ∧
    t.core.seq.latches = s.core.seq.latches ∧ t.core.seq.w = s.core.seq.w ∧ t.out = s.out

/-- An access to `pa` is performed as it is sent: the address is behind no chip's link, or the next choice says so (R331; the model's: log
entry 15). -/
def AtOnce (s : State) (pa : Nat) : Prop := ∀ c, place pa = .tier c → (popChoice s).1 = false

/-- The state after that choice. -/
def afterLink (s : State) (pa : Nat) : State :=
  match place pa with
  | .tier _ => (popChoice s).2
  | _ => s

/-- Nothing of the head at the PC has been sent yet, and no order point and no earlier access holds its access back (R12, R168). -/
def MaySend (s : State) : Prop := s.core.seq.flight = none ∧ scalarWaits s = false

/-- The common start of a memory operation: an aligned address, nothing to wait for, a translation to plain bytes that are reached at once,
and something left of the budget they draw on (R123). -/
def Reached (s : State) (acc : Acc) (a : Word) (n : Nat) (s1 : State) (p : Phys) : Prop :=
  a.toNat % n = 0 ∧ MaySend s ∧ transS acc a s = (.ok p, s1) ∧ PlainAccess s p.pa n ∧ memOk s1 s1.core.seq.eff p.pa = true ∧
    AtOnce s1 p.pa

/-- A scalar memory operation completes, with `ws` the registers it writes and `n` bytes at `pa` the memory it writes. -/
def Stores (i : Instr) (s : State) (ws : List SReg) (pa n : Nat) (post : State → Prop) : Prop :=
  ∃ t, exec i s = .next t ∧ post t ∧ getS t 0 = 0 ∧ RegsKept ws s t ∧ FlowsOn s t ∧ MemKeptOutside pa n s t ∧ MemoryFrame s t

/-- Every byte outside the ranges reads as before. -/
def MemKeptOff (rs : List (Nat × Nat)) (s t : State) : Prop := ∀ a, (∀ r ∈ rs, a < r.1 ∨ r.1 + r.2 ≤ a) → byteAt t a = byteAt s a

/-- The vector and matrix state, the trap registers, the device and the other agents are as before. -/
def CoreFrame (s t : State) : Prop :=
  VectorKept s t ∧ TilesKept s t ∧ StatusKept s t ∧ DeviceKept s t ∧ t.others = s.others ∧ t.slots = s.slots ∧ t.copy = s.copy ∧
    t.near = s.near ∧ t.fab = s.fab ∧ t.core.seq.w = s.core.seq.w

/-- The instruction completes: `post` holds of the state after it, the registers in `ws` and the bytes in `rs` may have changed, flow goes
on, and the rest is as before. -/
def Finishes (i : Instr) (s : State) (ws : List SReg) (rs : List (Nat × Nat)) (post : State → Prop) : Prop :=
  ∃ t, exec i s = .next t ∧ post t ∧ getS t 0 = 0 ∧ RegsKept ws s t ∧ FlowsOn s t ∧ MemKeptOff rs s t ∧ CoreFrame s t

/-- The instruction waits at its head, having written no register and no memory. -/
def Waits (i : Instr) (s : State) : Prop :=
  ∃ t, exec i s = .next t ∧ t.core.seq.pc = s.core.seq.pc ∧ t.core.seq.stall = true ∧ RegsKept [] s t ∧ MemKept s t ∧ VectorKept s t ∧
    TilesKept s t ∧ StatusKept s t ∧ DeviceKept s t

/-- A latch at `p.pa` that an ACQ, TRYACQ or REL at `va` reaches: aligned, translated, well formed, it and its table entries without poison
(R77, R326), and with something left of the budget that the table entries draw on (R123). -/
def LatchAt (s s1 : State) (p : Phys) (va : Word) (l : LatchView) : Prop :=
  Reached s .rw va 64 s1 p ∧ l = latchView (memRead s.mem p.pa 64) ∧ latchBad s l = false ∧ latchTablePoison s l = false ∧
    tableOk (chargeMem s1.core.seq.eff p.pa 64 s1) l = true

/-- The task holds the latch at `pa`: the latch says so, and the task's list (R76, R150); of the cached lines those that lie in a region of
the latch are gone, and no others (R73, R79). -/
def Holds (s t : State) (pa : Nat) (va : Word) (l : LatchView) : Prop :=
  let inside := fun (b : Nat) => overlaps [(b, 64)] (regionSpans t (latchRegions s l))
  latchView (memRead t.mem pa 64) = { l with held := true, holder := s.core.seq.tid.toNat } ∧
    t.core.seq.latches = ⟨va, pa⟩ :: s.core.seq.latches ∧
    (∀ e ∈ t.core.seq.dcache, inside e.1 = false ∧ ∃ o ∈ s.core.seq.dcache, o.1 = e.1) ∧
    ∀ o ∈ s.core.seq.dcache, inside o.1 = false → ∃ e ∈ t.core.seq.dcache, e.1 = o.1

/-- The oldest instruction of a queue of core `c` is `e`, before `r`, and may issue now: slip, scoreboard, no operand that a hole is still
to give, no poison, no mask with an error, and from the VXQ only with room in the hole queue (R178, R179, R191, R192, R324, R326). -/
def CanIssue (s : State) (c : Nat) (q : VQueue) (e : VEntry) (r : List VEntry) : Prop :=
  let k := (focus s c).core
  queueOf k.vec q = e :: r ∧ e.rest = none ∧ mayIssue (focus s c) q e = true ∧
    (∀ o ∈ vWaits (holeReader k.vec) k.vec e.env e.instr, o.ready = true) ∧ readsPoison k e.env e.instr = false ∧
    readsParity k e.instr = false ∧ (q = .vxq → holeCount k.vec < 128)

/-- The instruction `e` leaves its queue, and the state of the core is then as `post` says; scalar registers but those in `ws`, memory and
the accumulator store stay. -/
def Issues (s : State) (c : Nat) (q : VQueue) (r : List VEntry) (ws : List SReg) (post : State → Prop) : Prop :=
  ∃ u, exec (.vectorIssue c q .agree) s = .next (focus u s.core.id) ∧ queueOf u.core.vec q = r ∧ post u ∧ getS u 0 = 0 ∧
    RegsKept ws (focus s c) u ∧ MemKept s u ∧ TilesKept (focus s c) u ∧ StatusKept (focus s c) u

/-- Every tile but those numbered in `ts` is as before. -/
def TilesKeptBut (ts : List Nat) (s t : State) : Prop := ∀ k : Fin 24, k.val ∉ ts → t.core.mat.a[k] = s.core.mat.a[k]

/-- `e` is the command that the unit `un` of core `c` completes next, and it meets no poison (R269, R326). -/
def OnUnit (s : State) (c : Nat) (un : MUnit) (e : MEntry) : Prop :=
  ((focus s c).core.mat.queue.find? fun x => x.issued && decide (x.unit = un)) = some e ∧ mConsumes (focus s c) (focus s c).core e = false

/-- The command `e` completes: it leaves the queue, `post` holds, and scalar registers, all tiles but `ts` and all bytes but those in `rs`
stay. -/
def MatDone (s : State) (c : Nat) (un : MUnit) (e : MEntry) (ts : List Nat) (rs : List (Nat × Nat)) (post : State → Prop) : Prop :=
  ∃ u, exec (.matrixCompletion c un) s = .next (focus u s.core.id) ∧
    u.core.mat.queue = ((focus s c).core.mat.queue.filter fun x => decide (x.id ≠ e.id)) ∧ post u ∧ RegsKept [] (focus s c) u ∧
    TilesKeptBut ts (focus s c) u ∧ MemKeptOff rs s u ∧ StatusKept (focus s c) u

/-- Where a window address lies in the scratchpad share of core `c` (R94). -/
def padOf (s : State) (c : Nat) (va : Nat) : Nat := padAddr c (focus s c).core.seq.eff (va - windowBase)

/-- A stream of the running task joins the queued streams, `x` its description; control goes to `p`, and registers and memory stay
(R257). -/
def QueuesStream (i : Instr) (s : State) (p : Word) (x : Stream → Prop) (post : State → Prop) : Prop :=
  ∃ t st, exec i s = .next t ∧ t.copy.streams = s.copy.streams ++ [st] ∧ st.id = s.copy.nextId ∧ t.copy.nextId = s.copy.nextId + 1 ∧
    st.core = s.core.id ∧ st.tid = s.core.seq.tid ∧ st.running = false ∧ st.launch = 0 ∧ x st ∧ post t ∧
    (s.core.seq.loops = [] → t.core.seq.pc = p) ∧ RegsKept [] s t ∧ MemKept s t ∧ VectorKept s t ∧ TilesKept s t ∧ StatusKept s t

/-- The ports of the class that fits two endpoints (R248, R256). -/
def portsFor (a b : EndKind) : List Nat :=
  let pad := fun (e : EndKind) => match e with
    | .local_ | .frame _ => true
    | _ => false
  if a = .remote ∨ b = .remote then [8, 9, 10, 11]
  else if a = .tier ∨ b = .tier then [6, 7]
  else if pad a && pad b then [13, 14, 15]
  else [0, 1, 2, 3, 4, 5]

/-- How many streams load a port of the current core: those that run there, and the running task's (R145, R256). -/
def portLoad (s : State) (p : Nat) : Nat :=
  (s.copy.streams.filter fun x => decide (x.core = s.core.id ∧ x.port = p ∧ x.launch = 0) &&
    (x.running || decide (x.tid = s.core.seq.tid))).length

/-- The port that `cgo.auto` takes for two endpoints: of those that fit the least loaded, and of the least loaded the lowest (R256). -/
def AutoPort (s : State) (a b : EndKind) (p : Nat) : Prop :=
  p ∈ portsFor a b ∧ ∀ q ∈ portsFor a b, portLoad s p < portLoad s q ∨ (portLoad s p = portLoad s q ∧ p ≤ q)

/-- The event completes, and `post` holds of the state after it. -/
def Happens (i : Instr) (s : State) (post : State → Prop) : Prop := ∃ t, exec i s = .next t ∧ post t

/-- No core has changed. -/
def CoresKept (s t : State) : Prop := t.core = s.core ∧ t.others = s.others

/-- A command of the running task joins the near-memory queue, `x` its description; `commits` says whether the task commits (R296, R302). -/
def QueuesNear (i : Instr) (s : State) (commits : Bool) (x : NearCmd → Prop) : Prop :=
  ∃ t c, exec i s = .next t ∧ t.near = s.near ++ [c] ∧ c.id = s.nearId ∧ t.nearId = s.nearId + 1 ∧ c.core = s.core.id ∧
    c.tid = s.core.seq.tid ∧ c.instr = i ∧ c.launch = s.core.seq.launch ∧ x c ∧ t.core.seq.cmt = (s.core.seq.cmt || commits) ∧
    RegsKept [] s t ∧ FlowsOn s t ∧ MemKept s t ∧ VectorKept s t ∧ TilesKept s t ∧ StatusKept s t

/-- An operation of the running task joins the fabric queue, `x` its description and `rs` the bytes dispatch writes (R311). -/
def QueuesFab (i : Instr) (s : State) (commits : Bool) (rs : List (Nat × Nat)) (x : FabOp → Prop) (post : State → Prop) : Prop :=
  ∃ t o, exec i s = .next t ∧ t.fab.ops = s.fab.ops ++ [o] ∧ o.id = s.fab.nextId ∧ t.fab.nextId = s.fab.nextId + 1 ∧ o.core = s.core.id ∧
    o.tid = s.core.seq.tid ∧ o.instr = i ∧ o.launch = s.core.seq.launch ∧ x o ∧ post t ∧ t.core.seq.cmt = (s.core.seq.cmt || commits) ∧
    RegsKept [] s t ∧ FlowsOn s t ∧ MemKeptOff rs s t ∧ VectorKept s t ∧ TilesKept s t ∧ StatusKept s t

/-- Queue `q` runs a Beret program in PROCESS that may take its next step: `x` the queue, `c` the registers it has come to (R129). -/
def InBeret (s : State) (x : Queue) (c : Beret) : Prop :=
  getQ s s.fe.cur = x ∧ x.q = s.fe.cur ∧ x.st = .process ∧ x.ctx = some c ∧ x.blocked = false ∧ c.steps < 512

/-- The step of the program runs: one more is counted, registers but those in `ws` stay, and no core changes. -/
def BeretRuns (i : Instr) (s : State) (c : Beret) (ws : List (BitVec 4)) (post : Beret → State → Prop) : Prop :=
  ∃ t c', exec i s = .next t ∧ t.fe.cur = s.fe.cur ∧ (getQ t s.fe.cur).ctx = some c' ∧ c'.steps = c.steps + 1 ∧
    (∀ r, r ∉ ws → bGet c' r = bGet c r) ∧ post c' t ∧ CoresKept s t

/-- The program goes on at the next instruction: outside a LOOPB body, at the next index. -/
def BeretNext (c c' : Beret) : Prop := c.loops = [] → c'.at_ = c.at_ + 1 ∧ c'.loops = []

/-- A Beret instruction that writes `v` into `d` and nothing else. -/
def BeretPuts (i : Instr) (s : State) (c : Beret) (d : BitVec 4) (v : Word) : Prop :=
  BeretRuns i s c [d] fun c' t => bGet c' d = v ∧ BeretNext c c' ∧ t.mem = s.mem ∧ (getQ t s.fe.cur).st = .process

/-- The packet of queue `q` has ended: the queue is past it and in state `st`, or DISABLED where a DISABLE was waiting (R110). -/
def PacketEnds (s t : State) (q : Nat) (st : QState) : Prop :=
  let x := getQ s q
  let y := getQ t q
  y.head = x.head + BitVec.ofNat 32 (pLen x.pkt) ∧ y.ctx = none ∧ y.st = (if x.disabling then .disabled else st)

/-- The state of a queue that goes on with the packets after the one in hand (R110). -/
def restState (s : State) (q : Nat) : QState :=
  let x := getQ s q
  if x.head + BitVec.ofNat 32 (pLen x.pkt) = x.tail then .idle else .fetch

end Sys2Proof.Safety
end

