-- ==== Sys2Proof/Certificates/Slice0/Obligations.lean ====
section
/-! DEFINITION. The statements of this slice, written from the numbered rules of the manual. -/

open Sys2Proof Sys2Proof.Machine Sys2Proof.Safety

/-! ## Encoding -/

/-- Every well-formed instruction is read back from its own encoding, operands included (R27, R47 to R53, R128). -/
def Obligations.DecodeOfEncode : Prop :=
  ∀ i : Instr, i.wf = true →
    match encode i with
    | .wirath h t => decodeHT h t = .ok i
    | .beret w => decodeBeret w = .ok i
    | .event => True

/-- A head and a tail have one reading: what is read from them encodes to them again (R34, R43). -/
def Obligations.EncodeOfDecode : Prop :=
  ∀ (h t : Nat) (i : Instr), h < 2 ^ 16 → t < 2 ^ (16 * bits h 14 2) → decodeHT h t = .ok i → encode i = .wirath h t

/-- The words that the manual works out stand for the instructions it gives them. -/
def Obligations.WorkedEncodings : Prop :=
  decodeHT 0x5020 0x7400 = .ok (.rel 14 .sys) ∧ decodeHT 0x90C0 0x7C000001 = .ok (.sigdec 15 .sys 1) ∧
  decodeHT 0x1090 0 = .ok .endTask ∧
  decodeHT 0xD800 0x0240C5011008 = .ok (.vfadd .rne (.v 2) ⟨.o, 0, .w 1⟩ ⟨.o, 0, .e 1⟩ 0 0 .f32)

/-! ## A step -/

/-- A step of a running core that stands at a checked line runs the instruction its head decodes to: `step` is `exec` of it, on the state
with that core current and the agenda moved on. A step with an event at the head of the agenda is `exec` of that event; one with an
interpreter is `exec` of the word its program stands at; the agenda is a part of the model only: log entry 1.
A head that is no instruction raises an illegal-instruction trap that shows the head, and nothing else happens (R34, R35, R129, R153). -/
def Obligations.StepRunsOneTurn : Prop :=
  (
  ∀ (s : State) (c : Nat) (r : List Turn) (p : Word) (l : Nat) (i : Instr),
    s.agenda = .core c :: r → s.viral = false → s.boot = .up → s.core.id = c → s.core.seq.mode = .running → s.core.seq.preempt = false →
    s.shoot = [] → s.core.vec.faults = [] → s.core.seq.line = some (p, l) → decodeSlot l (slotOf s.core.seq.pc) = .ok i → i.wf = true →
    (∀ x ∈ headRegs l (slotOf s.core.seq.pc) i, x ∉ s.core.seq.busy) →
    step s = exec i { s with agenda := r }) ∧
  (
  (∀ (s : State) (r : List Turn) (i : Instr), s.agenda = .event i :: r → encode i = .event → s.viral = false → s.boot = .up →
    step s = exec i { s with agenda := r }) ∧
  (∀ (s : State) (r : List Turn) (q w : Nat) (c : Beret) (i : Instr), s.agenda = .beret q :: r → s.viral = false → s.boot = .up →
    (getQ s q).st = .process → (getQ s q).ctx = some c → c.steps < 512 → (getQ s q).code[c.at_]? = some w → decodeBeret w = .ok i →
    step s = exec i { s with agenda := r, fe := { s.fe with cur := q } })) ∧
  (
  ∀ (s : State) (c : Nat) (r : List Turn) (p : Word) (l : Nat) (x : Reject),
    s.agenda = .core c :: r → s.viral = false → s.boot = .up → s.core.id = c → s.core.seq.mode = .running → s.core.seq.preempt = false →
    s.shoot = [] → s.core.vec.faults = [] → s.core.seq.line = some (p, l) → decodeSlot l (slotOf s.core.seq.pc) = .error x → CanTrap s →
    ∃ t, step s = .next t ∧ t.core.seq.epc = s.core.seq.pc ∧ t.core.seq.cause = 1 ∧
      t.core.seq.tval = BitVec.ofNat 64 (lineHead l (slotOf s.core.seq.pc)) ∧ t.core.seq.prv = true ∧ t.core.seq.inh = true ∧
      t.core.seq.pprv = s.core.seq.prv ∧ t.core.seq.pc = s.core.seq.eff.trap ∧ RegsKept [] s t ∧ VectorKept s t ∧ TilesKept s t ∧ MemKept s t)

/-- No step is refused, and one that stops names the ready queue of a region, which does not lie in HBM (R126). -/
def Obligations.NeverRefused : Prop :=
  ∀ s : State, (∃ t, step s = .next t) ∨ ∃ rcb r, region s rcb = some r ∧ step s = .fault (.noSuchAddress r.readyq) ∧
    inHbm r.readyq (64 + 160 * 2 ^ r.rqsize) = false

/-! ## Reset and invariants -/

/-- After reset no memory byte is listed, every core is idle, every queue is DISABLED, every domain is live, the log registers and the
measurement registers read zero (R335, R336). That memory lists nothing, and so reads 0, is the model's choice: log entry 5. -/
def Obligations.ResetState : Prop :=
  State.reset.mem = [] ∧ (∀ c, (getCore State.reset c).seq.mode = .idle) ∧ (∀ q, (getQ State.reset q).st = .disabled) ∧
  State.reset.cfg.dead = 0 ∧ State.reset.cfg.logwr = 0 ∧ State.reset.cfg.logrel = 0 ∧ State.reset.cfg.logdrop = 0 ∧
  (∀ k : Fin 8, State.reset.meas[k] = 0) ∧ State.reset.viral = false

/-- Memory keeps its canonical form at every step: addresses rise and no listed byte is 0, what an unlisted one reads as (the form is the
model's: log entry 5). -/
def Obligations.MemoryCanonical : Prop := ∀ s t : State, MemWf s.mem → step s = .next t → MemWf t.mem

/-- At reset memory has its canonical form (the model's: log entry 5). -/
def Obligations.ResetMemoryCanonical : Prop := MemWf State.reset.mem

/-! ## Scalar arithmetic -/

/-- The three-register forms of class 0x1: the head, and the value of d (R162). -/
def Obligations.ThreeRegisterForms : Prop :=
  (∀ (d a b : SReg), [Instr.add d a b, .sub d a b, .and d a b, .or d a b, .xor d a b, .andn d a b, .shl d a b, .shr d a b, .sra d a b,
      .mul d a b, .mulh d a b, .mulhz d a b, .div d a b, .divz d a b, .rem d a b, .remz d a b, .min d a b, .max d a b, .minz d a b,
      .maxz d a b, .slt d a b, .sltz d a b, .seq d a b].map encode =
    (List.range 23).map fun op => Code.wirath (0x4400 + 16 * op) (d.toNat * 2 ^ 11 + a.toNat * 2 ^ 6 + b.toNat * 2)) ∧
  ∀ (d a b : SReg) (s : State),
    let x := getS s a
    let y := getS s b
    let n := y.toNat % 64
    Puts (.add d a b) s d (BitVec.ofNat 64 (x.toNat + y.toNat)) ∧
    Puts (.sub d a b) s d (BitVec.ofInt 64 (x.toInt - y.toInt)) ∧
    Puts (.and d a b) s d (x &&& y) ∧ Puts (.or d a b) s d (x ||| y) ∧ Puts (.xor d a b) s d (x ^^^ y) ∧
    Puts (.andn d a b) s d (x &&& ~~~y) ∧
    Puts (.shl d a b) s d (BitVec.ofNat 64 (x.toNat * 2 ^ n)) ∧
    Puts (.shr d a b) s d (BitVec.ofNat 64 (x.toNat / 2 ^ n)) ∧
    Puts (.sra d a b) s d (BitVec.ofInt 64 (x.toInt / 2 ^ n)) ∧
    Puts (.mul d a b) s d (BitVec.ofInt 64 (x.toInt * y.toInt)) ∧
    Puts (.mulh d a b) s d (BitVec.ofInt 64 (x.toInt * y.toInt / 2 ^ 64)) ∧
    Puts (.mulhz d a b) s d (BitVec.ofNat 64 (x.toNat * y.toNat / 2 ^ 64)) ∧
    Puts (.div d a b) s d (if y = 0 then 0xFFFFFFFFFFFFFFFF else BitVec.ofInt 64 (x.toInt.tdiv y.toInt)) ∧
    Puts (.divz d a b) s d (if y = 0 then 0xFFFFFFFFFFFFFFFF else BitVec.ofNat 64 (x.toNat / y.toNat)) ∧
    Puts (.rem d a b) s d (if y = 0 then x else BitVec.ofInt 64 (x.toInt.tmod y.toInt)) ∧
    Puts (.remz d a b) s d (if y = 0 then x else BitVec.ofNat 64 (x.toNat % y.toNat)) ∧
    Puts (.min d a b) s d (BitVec.ofInt 64 (min x.toInt y.toInt)) ∧
    Puts (.max d a b) s d (BitVec.ofInt 64 (max x.toInt y.toInt)) ∧
    Puts (.minz d a b) s d (BitVec.ofNat 64 (min x.toNat y.toNat)) ∧
    Puts (.maxz d a b) s d (BitVec.ofNat 64 (max x.toNat y.toNat)) ∧
    Puts (.slt d a b) s d (if x.toInt < y.toInt then 1 else 0) ∧
    Puts (.sltz d a b) s d (if x.toNat < y.toNat then 1 else 0) ∧
    Puts (.seq d a b) s d (if x = y then 1 else 0)

/-- The heads and tails of SEL, CLZ, POPC, BEXT and BINS and what they give, where lo + width is at most 64 (above it they are illegal), and the immediate forms of class 0x2 (R163,
R164). -/
def Obligations.BitFieldAndImmediateForms : Prop :=
  (
  ∀ (d a b c : SReg) (lo wm1 : BitVec 6) (s : State),
    let x := getS s a
    let w := wm1.toNat + 1
    [Instr.sel d c a b, .clz d a, .popc d a, .bext d a lo wm1, .bins d a lo wm1].map encode =
      [Code.wirath 0x8570 (d.toNat * 2 ^ 27 + c.toNat * 2 ^ 22 + a.toNat * 2 ^ 17 + b.toNat * 2 ^ 12),
        .wirath 0x4580 (d.toNat * 2 ^ 11 + a.toNat * 2 ^ 6), .wirath 0x4590 (d.toNat * 2 ^ 11 + a.toNat * 2 ^ 6),
        .wirath 0x85A0 (d.toNat * 2 ^ 27 + a.toNat * 2 ^ 22 + lo.toNat * 2 ^ 16 + wm1.toNat * 2 ^ 10),
        .wirath 0x85B0 (d.toNat * 2 ^ 27 + a.toNat * 2 ^ 22 + lo.toNat * 2 ^ 16 + wm1.toNat * 2 ^ 10)] ∧
    Puts (.sel d c a b) s d (if getS s c ≠ 0 then x else getS s b) ∧
    (∃ n, n ≤ 64 ∧ x.toNat < 2 ^ (64 - n) ∧ (n < 64 → 2 ^ (63 - n) ≤ x.toNat) ∧ Puts (.clz d a) s d (BitVec.ofNat 64 n)) ∧
    Puts (.popc d a) s d (BitVec.ofNat 64 ((List.range 64).filter fun k => x.getLsbD k).length) ∧
    (lo.toNat + w ≤ 64 →
      Puts (.bext d a lo wm1) s d (BitVec.ofNat 64 (x.toNat / 2 ^ lo.toNat % 2 ^ w)) ∧
      ∃ v : Word, Puts (.bins d a lo wm1) s d v ∧
        ∀ k, k < 64 → v.getLsbD k = if lo.toNat ≤ k ∧ k < lo.toNat + w then x.getLsbD (k - lo.toNat) else (getS s d).getLsbD k) ∧
    (64 < lo.toNat + w → CanTrap s →
      EntersTrap (.bext d a lo wm1) s 1 s.core.seq.pc (BitVec.ofNat 64 (curHead s)) ∧
      EntersTrap (.bins d a lo wm1) s 1 s.core.seq.pc (BitVec.ofNat 64 (curHead s)))) ∧
  (
  ∀ (d a : SReg) (i22 : BitVec 22) (i6 : BitVec 6) (i47 : BitVec 47) (i32 : BitVec 32) (s : State),
    let x := getS s a
    Puts (.addi d a i22) s d (BitVec.ofInt 64 (x.toInt + i22.toInt)) ∧
    Puts (.andi d a i22) s d (x &&& BitVec.ofNat 64 i22.toNat) ∧
    Puts (.ori d a i22) s d (x ||| BitVec.ofNat 64 i22.toNat) ∧
    Puts (.xori d a i22) s d (x ^^^ BitVec.ofNat 64 i22.toNat) ∧
    Puts (.shli d a i6) s d (BitVec.ofNat 64 (x.toNat * 2 ^ i6.toNat)) ∧
    Puts (.shri d a i6) s d (BitVec.ofNat 64 (x.toNat / 2 ^ i6.toNat)) ∧
    Puts (.srai d a i6) s d (BitVec.ofInt 64 (x.toInt / 2 ^ i6.toNat)) ∧
    Puts (.slti d a i22) s d (if x.toInt < i22.toInt then 1 else 0) ∧
    Puts (.li d i47) s d (BitVec.ofInt 64 i47.toInt) ∧
    Puts (.lih d i32) s d (BitVec.ofNat 64 (i32.toNat * 2 ^ 32 + (getS s d).toNat % 2 ^ 32)))

/-! ## Control flow -/

/-- BR.cc, JMP, JMPR, CALL and RET within the line: where control goes, and the return address CALL writes (R30, R31, R157). -/
def Obligations.BranchesAndJumps : Prop :=
  ∀ (a b d : SReg) (tgt : BitVec 24) (s : State),
    let x := getS s a
    let y := getS s b
    let p := targetOfField s.core.seq.pc tgt
    let branch := fun (cc : Cc) (c : Prop) =>
      (c → InLine s p → Jumps (.brCc cc a b tgt) s [] p) ∧ (¬c → Continues (.brCc cc a b tgt) s)
    branch .eq (x = y) ∧ branch .ne (x ≠ y) ∧ branch .lt (x.toInt < y.toInt) ∧ branch .ge (y.toInt ≤ x.toInt) ∧
    branch .ltz (x.toNat < y.toNat) ∧ branch .gez (y.toNat ≤ x.toNat) ∧
    (InLine s p → Jumps (.jmp tgt) s [] p) ∧
    (InLine s x → Jumps (.jmpr a) s [] x ∧ Jumps (.ret a) s [] x) ∧
    (InLine s p → Jumps (.call d tgt) s [d] p ∧
      ∃ t, exec (.call d tgt) s = .next t ∧ (d ≠ 0 → getS t d = nextPc s) ∧ getS t 0 = 0)

/-- A transfer to another line goes there once that line has been entered: its check byte, form and slot (BR.cc where its condition holds,
JMP, JMPR, RET, CALL with its return address, ERET with its privilege). One to a slot that the target line, once its earlier checks pass,
does not offer a branch raises an illegal-target trap at the branch (R31, R32, R34, R35, R153, R157). -/
def Obligations.TransfersAcrossLines : Prop :=
  (
  ∀ (a b d : SReg) (tgt : BitVec 24) (l : Nat) (s u : State),
    let q := s.core.seq
    let x := getS s a
    let y := getS s b
    let p := targetOfField q.pc tgt
    let other := fun (z : Word) (v : State) => lineBase z ≠ lineBase q.pc ∧ enterLine z v = (.ok l, u) ∧ slotOk l z = true
    let crosses := fun (i : Instr) (ws : List SReg) (z : Word) (post : State → Prop) =>
      ∃ t, exec i s = .next t ∧ t.core.seq.pc = z ∧ t.core.seq.line = some (z, l) ∧ lineIntact l = true ∧ lineFormOk l = true ∧
        t.core.seq.loops = q.loops ∧ getS t 0 = 0 ∧ RegsKept ws s t ∧ MemKept s t ∧ VectorKept s t ∧ TilesKept s t ∧ post t
    (other x s → crosses (.jmpr a) [] x (StatusKept s) ∧ crosses (.ret a) [] x (StatusKept s)) ∧
    (other p s → crosses (.jmp tgt) [] p (StatusKept s) ∧
      (x = y → crosses (.brCc .eq a b tgt) [] p (StatusKept s)) ∧ (x ≠ y → crosses (.brCc .ne a b tgt) [] p (StatusKept s)) ∧
      (x.toInt < y.toInt → crosses (.brCc .lt a b tgt) [] p (StatusKept s)) ∧
      (y.toInt ≤ x.toInt → crosses (.brCc .ge a b tgt) [] p (StatusKept s)) ∧
      (x.toNat < y.toNat → crosses (.brCc .ltz a b tgt) [] p (StatusKept s)) ∧
      (y.toNat ≤ x.toNat → crosses (.brCc .gez a b tgt) [] p (StatusKept s))) ∧
    (other p (setS s d (nextPc s)) → crosses (.call d tgt) [d] p fun t => (d ≠ 0 → getS t d = nextPc s) ∧ StatusKept s t) ∧
    (q.prv = true → other q.epc (setSeq s { q with prv := q.pprv, inh := false }) → crosses .eret [] q.epc fun t =>
      t.core.seq.prv = q.pprv ∧ t.core.seq.inh = false ∧ t.core.seq.epc = q.epc ∧ t.core.seq.pprv = q.pprv)) ∧
  (
  ∀ (a d : SReg) (tgt : BitVec 24) (s : State), CanTrap s →
    let p := targetOfField s.core.seq.pc tgt
    (BadTarget s (getS s a) →
      EntersTrap (.jmpr a) s 3 s.core.seq.pc (getS s a) ∧ EntersTrap (.ret a) s 3 s.core.seq.pc (getS s a)) ∧
    (BadTarget s p →
      EntersTrap (.jmp tgt) s 3 s.core.seq.pc p ∧ EntersTrap (.call d tgt) s 3 s.core.seq.pc p ∧
      EntersTrap (.brCc .eq a a tgt) s 3 s.core.seq.pc p))

/-- LOOP and LOOPR with a positive count push an entry, LOOPR also setting the slip; six entries raise the loop-stack trap; a count of 0
or below passes control behind the body; a target at or before the LOOP, or at a slot its line does not have, raises the illegal-target trap
there, a follow-on's slot being none a target may name (R53), and does so before a full stack is looked at, which is the model's choice: log
entry 77; LEAVE pops. The head at the innermost entry's end PC ends an iteration: it counts, and goes to
the start PC while any remain; otherwise the entry is popped and flow continues. Of an outer loop with the same end PC, and of LEAVE with no loop, nothing is said here
(R136, R158). -/
def Obligations.Loops : Prop :=
  (
  ∀ (c : SReg) (sl : BitVec 6) (rs : BitVec 4) (tgt : BitVec 24) (s : State),
    let q := s.core.seq
    let p := targetOfField q.pc tgt
    let n := getS s c
    let frame := fun (t : State) => RegsKept [] s t ∧ MemKept s t ∧ VectorKept s t ∧ TilesKept s t ∧ StatusKept s t ∧ OthersKept s t ∧
      (lineBase p = lineBase q.pc → ScalarOnly s t)
    (q.pc.toNat < p.toNat → TargetSlot s p true →
      (0 < n.toInt → q.loops.length < 6 →
        (∃ t e, exec (.loop c tgt) s = .next t ∧ t.core.seq.loops = e :: q.loops ∧ e.start = nextPc s ∧ e.stop = p ∧ e.remaining = n ∧
          e.index = 0 ∧ e.loopr = false ∧ t.core.seq.pc = nextPc s ∧ t.core.vec.slip = s.core.vec.slip ∧ frame t) ∧
        ∃ t e, exec (.loopr c sl rs tgt) s = .next t ∧ t.core.seq.loops = e :: q.loops ∧ e.start = nextPc s ∧ e.stop = p ∧
          e.remaining = n ∧ e.index = 0 ∧ e.loopr = true ∧ e.step = rs.toNat + 1 ∧ t.core.seq.pc = nextPc s ∧
          t.core.vec.slip = sl.toNat + 1 ∧ e.outer = s.core.vec.slip ∧ frame t) ∧
      (0 < n.toInt → 6 ≤ q.loops.length → CanTrap s →
        EntersTrap (.loop c tgt) s 6 q.pc 6 ∧ EntersTrap (.loopr c sl rs tgt) s 6 q.pc 6) ∧
      (n.toInt ≤ 0 → InLine s (p + 2) → lineBase p = lineBase q.pc → slotOf p < curN s →
        Jumps (.loop c tgt) s [] (p + 2) ∧ Jumps (.loopr c sl rs tgt) s [] (p + 2))) ∧
    (p.toNat ≤ q.pc.toNat ∨ badSlot p = true ∨ TargetSlot s p false → CanTrap s →
      EntersTrap (.loop c tgt) s 3 q.pc p ∧ EntersTrap (.loopr c sl rs tgt) s 3 q.pc p) ∧
    (∀ e r, q.loops = e :: r → InLine s (e.stop + 2) → lineBase e.stop = lineBase q.pc → slotOf e.stop < curN s →
      ∃ t, exec .leave s = .next t ∧ t.core.seq.loops = r ∧ t.core.seq.pc = e.stop + 2 ∧
        t.core.vec.slip = (if e.loopr then e.outer else s.core.vec.slip) ∧ RegsKept [] s t ∧ ScalarOnly s t)) ∧
  (
  ∀ (s : State) (e : LoopEntry) (r : List LoopEntry), s.core.seq.loops = e :: r →
    (e.stop = s.core.seq.pc → 1 < e.remaining.toInt →
      ∃ t e', exec .nop s = .next t ∧ t.core.seq.pc = e.start ∧ t.core.seq.loops = e' :: r ∧ e'.remaining = e.remaining - 1 ∧
        e'.index = e.index + 1 ∧ e'.start = e.start ∧ e'.stop = e.stop ∧ RegsKept [] s t ∧ ScalarOnly s t) ∧
    (e.stop = s.core.seq.pc → e.remaining.toInt = 1 → (∀ x ∈ r.head?, x.stop ≠ s.core.seq.pc) →
      ∃ t, exec .nop s = .next t ∧ t.core.seq.pc = nextPc s ∧ t.core.seq.loops = r ∧ RegsKept [] s t ∧ ScalarOnly s t) ∧
    (e.stop ≠ s.core.seq.pc →
      ∃ t, exec .nop s = .next t ∧ t.core.seq.pc = nextPc s ∧ t.core.seq.loops = e :: r ∧ RegsKept [] s t ∧ ScalarOnly s t))

/-- NOP only goes on; COMMIT sets CMT and goes on; YIELD goes on where every ready task that this core could take is of the task's own RCB or
of lower effective priority than the task, and otherwise a committed task asks to be saved, past its YIELD (R142, R160, R173). -/
def Obligations.NopCommitYield : Prop :=
  (
  ∀ s : State, Continues .nop s ∧
    ∃ t, exec .commit s = .next t ∧ t.core.seq.cmt = true ∧ RegsKept [] s t ∧ FlowsOn s t ∧ VectorKept s t ∧ TilesKept s t ∧
      StatusKept s t ∧ MemKept s t ∧ DeviceKept s t ∧ OthersKept s t) ∧
  (
  ∀ s : State,
    let r := s.core.seq.eff
    let k := clusterOf s.core.id
    let own := match handleOf s r.rcb with
      | some h => effPrio k h r
      | none => r.prio
    let other := fun (x : RcbHandle × Region × ItemLoc × Nat) => x.2.1.rcb ≠ r.rcb ∧ own ≤ effPrio k x.1 x.2.1
    ((∀ x ∈ candidates s s.core, ¬other x) → Continues .yield s) ∧
    ((∃ x ∈ candidates s s.core, other x) → s.core.seq.cmt = true →
      ∃ t, exec .yield s = .next t ∧ t.core.seq.preempt = true ∧ t.core.seq.atPoint = true ∧ RegsKept [] s t ∧ FlowsOn s t ∧ MemKept s t ∧
        CoreFrame s t))

/-! ## Traps and privilege -/

/-- TRAP and BRKPT enter the handler: TRAP with the next head as its epc, BRKPT with its own; with INH = 1 or no vector the task ends with
a fault (R152 to R154). -/
def Obligations.SoftwareTraps : Prop :=
  ∀ (code : BitVec 12) (s : State),
    (CanTrap s → EntersTrap (.trap code) s 0x0A (nextPc s) (BitVec.ofNat 64 code.toNat) ∧
      EntersTrap (.brkpt code) s 0x0B s.core.seq.pc (BitVec.ofNat 64 code.toNat)) ∧
    (trapWaits s = false → s.core.seq.inh = true ∨ s.core.seq.eff.trap = 0 →
      ∃ t, exec (.trap code) s = .next t ∧ t.core.seq.mode = .ending true ∧ RegsKept [] s t ∧ t.core.seq.epc = s.core.seq.epc)

/-- ERET at runtime privilege: PRV := PPRV, INH := 0, control at `sys.epc`; HALT stops the core. At task privilege the privileged
instructions raise a privilege trap that shows their head, and do nothing else (R45, R153, R160, R161, R203). -/
def Obligations.PrivilegedInstructions : Prop :=
  (
  ∀ s : State, s.core.seq.prv = true →
    (InLine s s.core.seq.epc →
      ∃ t, exec .eret s = .next t ∧ t.core.seq.pc = s.core.seq.epc ∧ t.core.seq.prv = s.core.seq.pprv ∧ t.core.seq.inh = false ∧
        t.core.seq.epc = s.core.seq.epc ∧ RegsKept [] s t ∧ VectorKept s t ∧ TilesKept s t ∧ MemKept s t ∧ DeviceKept s t ∧
        OthersKept s t) ∧
    ∃ t, exec .halt s = .next t ∧ t.core.seq.mode = .halted ∧ RegsKept [] s t ∧ FlowsOn s t ∧ VectorKept s t ∧ TilesKept s t ∧
      MemKept s t ∧ DeviceKept s t ∧ OthersKept s t) ∧
  (
  ∀ (a : SReg) (s : State), s.core.seq.prv = false → CanTrap s →
    ∀ i ∈ [Instr.eret, .halt, .icinv a, .tlbinv a, .vrestore a, .sysrd a 0x42, .sysrd a 0x43, .sysrd a 0x44, .syswr a 0x41,
        .syswr a 0x42, .syswr a 0x43, .syswr a 0x44],
      EntersTrap i s 5 s.core.seq.pc (BitVec.ofNat 64 (curHead s)))

/-! ## System registers -/

/-- SYSRD gives the value of the register that a number names, the vector ones once the VXQ is empty. SYSWR writes the vector registers and,
at runtime privilege, the status and the trap registers; every other register, system register and byte of memory stays. A write to
`sys.vl` above 1,024, one to a read-only register, and any access to a number that names none are illegal (R45, R46, R63, R64, R135, R161,
R180). -/
def Obligations.SystemRegisters : Prop :=
  (
  ∀ (d : SReg) (s : State),
    let v := s.core.vec
    let q := s.core.seq
    (v.vxq = [] → v.block = none →
      Puts (.sysrd d 0x000) s d v.vl ∧ Puts (.sysrd d 0x001) s d (BitVec.ofNat 64 v.vtype.toNat) ∧
      Puts (.sysrd d 0x002) s d v.vfill ∧ Puts (.sysrd d 0x003) s d v.vseed ∧ Puts (.sysrd d 0x004) s d v.vbase ∧
      Puts (.sysrd d 0x005) s d (BitVec.ofNat 64 v.vstat.toNat) ∧
      (∀ k : Fin 8, Puts (.sysrd d (BitVec.ofNat 12 (0x10 + k))) s d v.vidx[k]) ∧
      Puts (.sysrd d 0x020) s d (BitVec.ofNat 64 v.vdrop.toNat) ∧ Puts (.sysrd d 0x021) s d v.vdropn) ∧
    (∀ k, k < 6 → Puts (.sysrd d (BitVec.ofNat 12 (0x30 + k))) s d (match q.loops[k]? with | some e => e.index | none => 0)) ∧
    Puts (.sysrd d 0x040) s d (BitVec.ofNat 64 v.slip) ∧ Puts (.sysrd d 0x041) s d (statusReg q) ∧
    (q.prv = true → Puts (.sysrd d 0x042) s d q.epc ∧ Puts (.sysrd d 0x043) s d q.cause ∧ Puts (.sysrd d 0x044) s d q.tval) ∧
    Puts (.sysrd d 0x060) s d (BitVec.ofNat 64 q.eff.rcb) ∧
    Puts (.sysrd d 0x061) s d (BitVec.ofNat 64 (q.rcbx.toNat * 2 ^ 32 + q.tid.toNat)) ∧
    Puts (.sysrd d 0x062) s d (BitVec.ofNat 64 s.core.id) ∧
    Puts (.sysrd d 0x063) s d (BitVec.ofNat 64 Config.helperBase.toNat)) ∧
  (
  ∀ (a d : SReg) (s : State),
    let x := getS s a
    let v := s.core.vec
    let q := s.core.seq
    -- `u` is the state with the named register written and nothing else
    let writes := fun (n : Nat) (u : State) =>
      ∃ t, exec (.syswr a (BitVec.ofNat 12 n)) s = .next t ∧ ScalarOnly u t ∧ RegsKept [] s t ∧ FlowsOn s t
    let named := fun (n : Nat) => n ≤ 5 ∨ (0x10 ≤ n ∧ n ≤ 0x17) ∨ n = 0x20 ∨ n = 0x21 ∨ (0x30 ≤ n ∧ n ≤ 0x35) ∨
      (0x40 ≤ n ∧ n ≤ 0x44) ∨ (0x60 ≤ n ∧ n ≤ 0x63)
    let readOnly := fun (n : Nat) => (0x30 ≤ n ∧ n ≤ 0x35) ∨ n = 0x40 ∨ (0x60 ≤ n ∧ n ≤ 0x63)
    (v.vxq = [] → v.block = none →
      (x.toNat ≤ 1024 → writes 0x00 (setVec s { v with vl := x })) ∧ writes 0x01 (setVec s { v with vtype := x.truncate 8 }) ∧
      writes 0x02 (setVec s { v with vfill := x }) ∧ writes 0x03 (setVec s { v with vseed := x }) ∧
      writes 0x04 (setVec s { v with vbase := x }) ∧
      writes 0x05 (setVec s { v with vstat := x.truncate 8,
                                     vidx := Vector.ofFn fun k => if x.getLsbD k.val then v.vidx[k] else BitVec.allOnes 64 }) ∧
      (∀ k : Fin 8, writes (0x10 + k) (setVec s { v with vidx := v.vidx.set k x })) ∧
      writes 0x20 (setVec s { v with vdrop := x.truncate 32 }) ∧ writes 0x21 (setVec s { v with vdropn := x })) ∧
    (q.prv = true →
      writes 0x41 (setSeq s { q with prv := x.getLsbD 0, pprv := x.getLsbD 5 }) ∧ writes 0x42 (setSeq s { q with epc := x }) ∧
      writes 0x43 (setSeq s { q with cause := x }) ∧ writes 0x44 (setSeq s { q with tval := x })) ∧
    (CanTrap s →
      (1024 < x.toNat → EntersTrap (.syswr a 0) s 1 q.pc x) ∧
      ∀ n : BitVec 12,
        (readOnly n.toNat → EntersTrap (.syswr a n) s 1 q.pc (BitVec.ofNat 64 (curHead s))) ∧
        (¬named n.toNat → EntersTrap (.sysrd d n) s 1 q.pc (BitVec.ofNat 64 (curHead s)) ∧
          EntersTrap (.syswr a n) s 1 q.pc (BitVec.ofNat 64 (curHead s)))))

/-- ICINV empties the instruction cache; TLBINV sends its request to every target of its scope and completes once all have acknowledged;
VRESTORE frees the slot it names and returns to the PC its frame holds, a memory frame's queued instructions, loads, stores and holes going
back in front of those of the engine (R33, R105, R203). -/
def Obligations.CacheAndFrameActions : Prop :=
  ∀ (a : SReg) (s : State), s.core.seq.prv = true →
    (∃ t, exec (.icinv a) s = .next t ∧ t.core.seq.icache = [] ∧ RegsKept [] s t ∧ FlowsOn s t ∧ VectorKept s t ∧ TilesKept s t ∧
      StatusKept s t ∧ MemKept s t) ∧
    (tlbinvBad (getS s a).toNat = false → s.shoot = [] → scalarWaits s = false → s.core.seq.returns = [] →
      ∃ t h, exec (.tlbinv a) s = .next t ∧ t.shoot = [h] ∧ h.core = s.core.id ∧ h.asn = s.core.seq.eff.asn ∧
        h.unacked = shootTargets s.core.id ((getS s a).toNat % 8) ∧ h.pending = h.unacked ∧ t.core.seq.pc = s.core.seq.pc ∧
        RegsKept [] s t ∧ MemKept s t) ∧
    (tlbinvBad (getS s a).toNat = false → s.shoot = [] → s.core.seq.returns ≠ [] → Waits (.tlbinv a) s) ∧
    (∀ h, tlbinvBad (getS s a).toNat = false → s.shoot = [h] → sameShoot s.core.id s.core.seq.eff.asn (getS s a).toNat h = true →
      h.unacked = [] →
      ∃ t, exec (.tlbinv a) s = .next t ∧ t.shoot = [] ∧ RegsKept [] s t ∧ FlowsOn s t ∧ VectorKept s t ∧ StatusKept s t ∧ MemKept s t) ∧
    (∀ i, slotAt s s.core.seq.eff true (getS s a).toNat = some i → slotUsed s s.core.seq.eff i = true → MemWf s.mem →
      let pa := slotAddr s s.core.seq.eff i
      let hdr := s.rd pa 24
      let byte := s.core.seq.eff.frames + 64 + i / 8
      let freed := fun (t : State) => t.core.seq.pc = BitVec.ofNat 64 (bits hdr 64 64) ∧ t.core.seq.prv = s.core.seq.pprv ∧
        t.core.seq.inh = false ∧ slotUsed t s.core.seq.eff i = false ∧ (∀ e ∈ t.slots, e.slot ≠ pa) ∧
        (∀ e ∈ s.slots, e.slot ≠ pa → e ∈ t.slots) ∧ MemKeptOutside byte 1 s t ∧ RegsKept [] s t ∧ TilesKept s t
      bits hdr 0 40 = 0x5646524D + 2 ^ 32 → bits hdr 128 31 = s.core.seq.tid.toNat →
      (bitAt hdr 40 = false → ∃ t, exec (.vrestore a) s = .next t ∧ freed t ∧ VectorKept s t) ∧
      (∀ e, bitAt hdr 40 = true → (s.slots.find? fun x => decide (x.slot = pa)) = some e →
        ∃ t, exec (.vrestore a) s = .next t ∧ freed t ∧ t.core.vec.vlq = e.vec.vlq ++ s.core.vec.vlq ∧
          t.core.vec.vxq = e.vec.vxq ++ s.core.vec.vxq ∧ t.core.vec.vsq = e.vec.vsq ++ s.core.vec.vsq ∧
          t.core.vec.loads = e.vec.loads ++ s.core.vec.loads ∧ t.core.vec.stores = e.vec.stores ++ s.core.vec.stores ∧
          t.core.vec.defer = e.vec.defer ++ s.core.vec.defer ∧
          t.core.vec.holes.map Hole.id = e.vec.holes.map Hole.id ++ s.core.vec.holes.map Hole.id ∧
          t.core.vec.v = s.core.vec.v ∧ t.core.vec.o = s.core.vec.o ∧ t.core.vec.l = e.vec.l))

/-! ## Scalar memory -/

/-- A translation gives the byte of the page that the address names, and stops where the address is out of range, outside the local
window, or its leaf lacks the permission, both of a read-and-write's, or the path (R94, R102, R103). -/
def Obligations.TranslationChecks : Prop :=
  ∀ (site : TlbSite) (eff : Region) (p : Path) (a : Acc) (reach : Reach) (va : Word) (s : State),
    (2 ^ 57 ≤ va.toNat → (translateFor site (some s.core.id) eff p a reach va s).1 = .error 0x20) ∧
    (windowBase ≤ va.toNat → va.toNat < windowBase + eff.spsize * 1024 → va.toNat < 2 ^ 57 →
      ∃ q, translateFor site (some s.core.id) eff p a reach va s = (.ok q, s) ∧
        q.pa = padBase + s.core.id * 0x100000 + eff.spstart * 1024 + (va.toNat - windowBase)) ∧
    (windowBase + eff.spsize * 1024 ≤ va.toNat → va.toNat < 2 ^ 57 →
      (translateFor site (some s.core.id) eff p a reach va s).1 = .error 0x27) ∧
    ∀ l s1, va.toNat < windowBase → findLeaf site eff.root eff.asn (va.toNat / 4096) s = (.ok l, s1) →
      let stops := fun (c : Nat) => (translateFor site (some s.core.id) eff p a reach va s).1 = .error c
      let may := match a with
        | .r => bitAt l.attr 1
        | .w => bitAt l.attr 2
        | .rw => bitAt l.attr 1 && bitAt l.attr 2
        | .x => bitAt l.attr 3
      (may = false → stops 0x23) ∧ (may = true → bitAt l.attr (10 + p.code) = false → stops 0x24) ∧
      (leafChecks s1 l p a reach ((l.frame + (va.toNat / 4096 - l.vpage)) * 4096 + va.toNat % 4096) = none →
        ∃ q, translateFor site (some s.core.id) eff p a reach va s = (.ok q, s1) ∧
          q.pa = (l.frame + (va.toNat / 4096 - l.vpage)) * 4096 + va.toNat % 4096 ∧ q.pa % 4096 = va.toNat % 4096)

/-- LD reads the bytes of its width at the address, little-endian, and extends them by the type; no byte of memory changes. A load that its
cache does not serve may leave its register awaited until the data comes back: log entry 15. Poisoned bytes raise the poison trap, and an
address off its alignment the misaligned trap (R156, R165, R326). -/
def Obligations.ScalarLoads : Prop :=
  ∀ (ty : ETy) (d b : SReg) (disp : BitVec 22) (s s1 : State) (p : Phys), (Instr.ld ty d b disp).wf = true →
    let a := getS s b + disp.signExtend 64
    let n := ty.width / 8
    let x := memRead s.mem p.pa n
    let past := p.hs = true ∨ p.ni = true ∨ isPad p.pa = true ∨ ∀ e ∈ s.core.seq.dcache, e.1 ≠ p.pa / 64 * 64
    let link := afterLink s1 p.pa
    (Reached s .r a n s1 p → past ∨ FreshLine s p.pa → (popChoice link).1 = false →
      Stores (.ld ty d b disp) s [d] p.pa 0 fun t =>
        d ≠ 0 → getS t d = if ty.isS then (BitVec.ofNat ty.width x).signExtend 64 else BitVec.ofNat 64 x) ∧
    (Reached s .r a n s1 p → past → (popChoice link).1 = true →
      Stores (.ld ty d b disp) s [] p.pa 0 fun t => (d ≠ 0 → d ∈ t.core.seq.busy) ∧
        ∃ r, t.core.seq.returns = s.core.seq.returns ++ [r] ∧ r.d = d ∧ r.ty = ty ∧ r.here = some p.pa ∧ r.posted = false ∧ r.old = x) ∧
    (a.toNat % n = 0 → MaySend s → transS .r a s = (.ok p, s1) → PlainPlace p.pa → memOk s1 s1.core.seq.eff p.pa = true → AtOnce s1 p.pa →
      past → isPoisoned s p.pa n = true → CanTrap s → EntersTrap (.ld ty d b disp) s 0x26 s.core.seq.pc a) ∧
    (a.toNat % n ≠ 0 → CanTrap s → EntersTrap (.ld ty d b disp) s 9 s.core.seq.pc a)

/-- ST writes the low bytes of its register at the address it computes, and no other byte; an address off its alignment raises the misaligned
trap. An 8-byte store to a launch window is the doorbell write there; one of another width raises a trap (R108, R165, R343). -/
def Obligations.ScalarStores : Prop :=
  (
  ∀ (ty : ETy) (a b : SReg) (disp : BitVec 22) (s s1 : State) (p : Phys), (Instr.st ty a b disp).wf = true →
    let va := getS s b + disp.signExtend 64
    let n := ty.width / 8
    (MemWf s.mem → va.toNat % n = 0 → MaySend s → transStore n va s = (.ok p, s1) → PlainPlace p.pa → AtOnce s1 p.pa →
      memOk s1 s1.core.seq.eff p.pa = true → Stores (.st ty a b disp) s [] p.pa n fun t => memRead t.mem p.pa n = (getS s a).toNat % 2 ^ (8 * n)) ∧
    (va.toNat % n ≠ 0 → CanTrap s → EntersTrap (.st ty a b disp) s 9 s.core.seq.pc va)) ∧
  (
  ∀ (ty : ETy) (a b : SReg) (disp : BitVec 22) (s s1 : State) (p : Phys) (l : Leaf) (q off : Nat),
    let va := getS s b + disp.signExtend 64
    let n := ty.width / 8
    MaySend s →
    (va.toNat % 8 = 0 → transStore 8 va s = (.ok p, s1) → place p.pa = .window q off →
      ∃ t, exec (.st .z64 a b disp) s = .next t ∧ t.fe = (doorbell q off (getS s a) s1).fe ∧ t.mem = (doorbell q off (getS s a) s1).mem) ∧
    ((Instr.st ty a b disp).wf = true → n ≠ 8 → va.toNat % n = 0 → va.toNat < windowBase →
      findLeaf (.scalar s.core.id) s.core.seq.eff.root s.core.seq.eff.asn (va.toNat / 4096) s = (.ok l, s1) →
      place ((l.frame + (va.toNat / 4096 - l.vpage)) * 4096 + va.toNat % 4096) = .window q off → bitAt l.attr 2 = true →
      bitAt l.attr (10 + Path.code .s) = true → CanTrap s → EntersTrap (.st ty a b disp) s 0x25 s.core.seq.pc va))

/-- An AMO gives d the old value and writes f(old, a) in one step, on 4 or 8 bytes; CAS writes n only where the old value equals e. Both
commit the task (R74, R142, R166, R167). -/
def Obligations.Atomics : Prop :=
  (
  ∀ (d b a : SReg) (sc : Scope) (w64 : Bool) (disp : BitVec 16) (s s1 : State) (p : Phys),
    let va := getS s b + disp.signExtend 64
    let n := if w64 then 8 else 4
    let w := 8 * n
    let old := memRead s.mem p.pa n
    let v := (getS s a).toNat % 2 ^ w
    let sv := fun x => (BitVec.ofNat w x).toInt
    let holds := fun (op : AmoOp) (y : Nat) => Stores (.amo op d b a sc w64 disp) s [d] p.pa n fun t =>
      (d ≠ 0 → getS t d = BitVec.ofNat 64 old) ∧ memRead t.mem p.pa n = y ∧ t.core.seq.cmt = true
    MemWf s.mem → Reached s .rw va n s1 p →
      holds .add ((old + v) % 2 ^ w) ∧ holds .and (Nat.land old v) ∧ holds .or (Nat.lor old v) ∧ holds .xor (Nat.xor old v) ∧
      holds .min (if sv old ≤ sv v then old else v) ∧ holds .max (if sv old ≤ sv v then v else old) ∧
      holds .minz (min old v) ∧ holds .maxz (max old v) ∧ holds .swap v) ∧
  (
  ∀ (d b e nw : SReg) (sc : Scope) (w64 : Bool) (disp : BitVec 16) (s s1 : State) (p : Phys),
    let va := getS s b + disp.signExtend 64
    let n := if w64 then 8 else 4
    let old := memRead s.mem p.pa n
    MemWf s.mem → Reached s .rw va n s1 p →
      Stores (.cas d b e nw sc w64 disp) s [d] p.pa n fun t =>
        (d ≠ 0 → getS t d = BitVec.ofNat 64 old) ∧ t.core.seq.cmt = true ∧
        memRead t.mem p.pa n = if old = (getS s e).toNat % 2 ^ (8 * n) then (getS s nw).toNat % 2 ^ (8 * n) else old)

/-- A load from host or peer memory goes out and leaves its register awaited; a store goes out without one; each waits while the channel it
takes is paused. Whether the answer of such a load will be poisoned is the next choice, and is then the poison trap at the load; whether an
access to the capacity tier is performed as it is sent or at a later turn is the next choice too: log entry 15. One that is lost with its
chip's link comes back poisoned, or, of a store, completes with its bytes undefined. The oldest answer, SCALAR_DATA_RETURN, writes its
register and no other, with what came back or, where the access is to the module's own memory, with what stands there; that of a store writes
none (R156, R168, R308, R326, R331). -/
def Obligations.RemoteLoadAndReturn : Prop :=
  (∀ (ty : ETy) (d b : SReg) (disp : BitVec 22) (s s1 : State) (p : Phys) (ap : Nat), (Instr.ld ty d b disp).wf = true →
    let a := getS s b + disp.signExtend 64
    let n := ty.width / 8
    a.toNat % n = 0 → MaySend s → transS .r a s = (.ok p, s1) → place p.pa = .remote ap →
    (∀ e ∈ s.core.seq.dcache, e.1 ≠ p.pa / 64 * 64) → memOk s1 s1.core.seq.eff p.pa = true →
    (wayOpen s p.pa 0 = true → (popChoice s1).1 = false →
      ∃ t, exec (.ld ty d b disp) s = .next t ∧ t.out = s.out ++ [OutMsg.read (remoteOf s p.pa).1 (remoteOf s p.pa).2 n] ∧
        (d ≠ 0 → d ∈ t.core.seq.busy) ∧ (∃ r, t.core.seq.returns = s.core.seq.returns ++ [r] ∧ r.d = d ∧ r.ty = ty ∧ r.posted = false) ∧
        RegsKept [] s t ∧ FlowsOn s t ∧ MemKept s t ∧ VectorKept s t ∧ TilesKept s t ∧ StatusKept s t) ∧
    (wayOpen s p.pa 0 = true → (popChoice s1).1 = true → CanTrap s → EntersTrap (.ld ty d b disp) s 0x26 s.core.seq.pc a) ∧
    (wayOpen s p.pa 0 = false → Waits (.ld ty d b disp) s)) ∧
  (∀ (ty : ETy) (x b : SReg) (disp : BitVec 22) (s s1 : State) (p : Phys) (ap : Nat), (Instr.st ty x b disp).wf = true →
    let a := getS s b + disp.signExtend 64
    let n := ty.width / 8
    a.toNat % n = 0 → MaySend s → transStore n a s = (.ok p, s1) → place p.pa = .remote ap →
    memOk s1 s1.core.seq.eff p.pa = true →
    (wayOpen s p.pa 0 = true → ∃ t, exec (.st ty x b disp) s = .next t ∧
      t.out = s.out ++ [OutMsg.write (remoteOf s p.pa).1 (remoteOf s p.pa).2 (natBytes n (getS s x).toNat)] ∧
      (∃ r, t.core.seq.returns = s.core.seq.returns ++ [r] ∧ r.posted = true) ∧ t.core.seq.busy = s.core.seq.busy ∧
      RegsKept [] s t ∧ FlowsOn s t ∧ MemKept s t ∧ VectorKept s t ∧ TilesKept s t ∧ StatusKept s t) ∧
    (wayOpen s p.pa 0 = false → Waits (.st ty x b disp) s)) ∧
  (∀ (ty : ETy) (d x b : SReg) (disp : BitVec 22) (s s1 : State) (p : Phys) (c : Nat),
    let a := getS s b + disp.signExtend 64
    let n := ty.width / 8
    let sent := fun (i : Instr) => Waits i s ∧ ∃ t, exec i s = .next t ∧ t.core.seq.flight = some { pa := p.pa, hs := p.hs, ni := p.ni }
    a.toNat % n = 0 → MaySend s → place p.pa = .tier c → memOk s1 s1.core.seq.eff p.pa = true → (popChoice s1).1 = true →
    ((Instr.ld ty d b disp).wf = true → transS .r a s = (.ok p, s1) → (∀ e ∈ s.core.seq.dcache, e.1 ≠ p.pa / 64 * 64) →
      sent (.ld ty d b disp)) ∧
    ((Instr.st ty x b disp).wf = true → transStore n a s = (.ok p, s1) → sent (.st ty x b disp))) ∧
  (∀ (ty : ETy) (d x b : SReg) (disp : BitVec 22) (fl : Flight) (c : Nat) (s : State),
    let a := getS s b + disp.signExtend 64
    let n := ty.width / 8
    let lost := fun (t : State) => s.core.seq.launch ≠ 0 → (s.core.seq.launch, 10) ∈ t.fe.lostLaunch
    a.toNat % n = 0 → s.core.seq.flight = some fl → place fl.pa = .tier c → MemWf s.mem →
    ((Instr.ld ty d b disp).wf = true → fl.lost = false → isPoisoned s fl.pa n = false → (popChoice s).1 = false →
      Stores (.ld ty d b disp) s [d] fl.pa 0 fun t => d ≠ 0 → getS t d = extendTy ty (memRead s.mem fl.pa n)) ∧
    ((Instr.st ty x b disp).wf = true → fl.lost = false →
      Stores (.st ty x b disp) s [] fl.pa n fun t => memRead t.mem fl.pa n = (getS s x).toNat % 2 ^ (8 * n)) ∧
    ((Instr.ld ty d b disp).wf = true → fl.lost = true → CanTrap s → ∃ t, exec (.ld ty d b disp) s = .next t ∧
      t.core.seq.epc = s.core.seq.pc ∧ t.core.seq.cause = 0x26 ∧ t.core.seq.tval = a ∧ t.core.seq.pc = s.core.seq.eff.trap ∧
      t.core.seq.flight = none ∧ lost t ∧ RegsKept [] s t ∧ MemKept s t ∧ VectorKept s t ∧ TilesKept s t) ∧
    ((Instr.st ty x b disp).wf = true → fl.lost = true → ∃ t, exec (.st ty x b disp) s = .next t ∧ t.core.seq.flight = none ∧ lost t ∧
      RegsKept [] s t ∧ FlowsOn s t ∧ MemKeptOutside fl.pa n s t ∧ VectorKept s t ∧ TilesKept s t ∧ StatusKept s t)) ∧
  ∀ (c : Nat) (v : Word) (r : ReturnSlot) (rest : List ReturnSlot) (s : State), (focus s c).core.seq.returns = r :: rest →
    r.out (focus s c) = true →
    let n := r.ty.width / 8
    let gives := fun (ws : List SReg) (post : State → Prop) =>
      ∃ u, exec (.scalarDataReturn c v) s = .next (focus u s.core.id) ∧ u.core.seq.returns = rest ∧ post u ∧ getS u 0 = 0 ∧
        u.core.seq.pc = (focus s c).core.seq.pc ∧ StatusKept (focus s c) u ∧ RegsKept ws (focus s c) u ∧ MemKept s u ∧
        VectorKept (focus s c) u ∧ TilesKept (focus s c) u
    let brings := fun (x : Nat) => gives [r.d] fun u => r.d ≠ 0 → getS u r.d = extendTy r.ty x
    (r.posted = true → gives [] fun _ => True) ∧
    (r.posted = false → (r.here = none → brings v.toNat) ∧
      ∀ pa, r.here = some pa → (isPoisoned s pa n = false → engineLost s pa = false → brings (memRead s.mem pa n)) ∧
        (isPoisoned s pa n = true ∨ engineLost s pa = true → brings r.old))

/-- The current core is one of several: making another one current changes what no core is (the model's way of holding 1,536 cores: log
entry 3). -/
def Obligations.FocusKeepsEveryCore : Prop :=
  ∀ (s : State) (c : Nat), (focus s c).core.id = c ∧ (∀ j, getCore (focus s c) j = getCore s j) ∧ (focus s c).mem = s.mem ∧
    (focus s c).fe = s.fe ∧ (focus s c).copy = s.copy ∧ (focus s c).near = s.near ∧ (focus s c).fab = s.fab

/-! ## Order and synchronisation -/

/-- FENCE completes once every scalar access has been answered, and waits before; XFENCE of two paths records an order point and goes on, and of one path with itself is
illegal; WAITC goes on once every counter is at or below its bound. WMPUB raises the watermark to the count it names, once the elements
below it have been written, and never lowers it; that the object is updated at the physical address its register holds, in this module's own
memory even where that address is another's, is the model's: log entries 53 and 78 (R12, R85, R86, R170, R172). -/
def Obligations.FencesAndWatermarks : Prop :=
  (
  ∀ (sc : Scope) (p q : Path) (l st c x : BitVec 4) (s : State),
    (s.core.seq.returns ≠ [] → Waits (.fence sc) s) ∧
    (scalarWaits s = false → s.core.seq.returns = [] → Finishes (.fence sc) s [] [] fun t => (sc ≠ .core → t.core.seq.dcache = []) ∧ t.fe = s.fe ∧ t.out = s.out) ∧
    (p ≠ q → takeError s = none → Finishes (.xfence p q) s [] [] fun t =>
      ∃ o r, t.core.vec.points = o :: r ∧ o.a = p ∧ o.b = q ∧ o.num = s.core.vec.num + 1 ∧ (∀ y ∈ r, y ∈ s.core.vec.points) ∧ t.fe = s.fe) ∧
    (p = q → CanTrap s → EntersTrap (.xfence p q) s 1 s.core.seq.pc (BitVec.ofNat 64 (curHead s))) ∧
    (takeError s = none → (min (cntLd s.core) 15 ≤ l.toNat ∧ min (cntSt s.core) 15 ≤ st.toNat ∧ min (cntCp s s.core) 15 ≤ c.toNat ∧
      min (cntMx s.core) 15 ≤ x.toNat → Continues (.waitc l st c x) s) ∧
      (l.toNat < min (cntLd s.core) 15 → Waits (.waitc l st c x) s))) ∧
  (
  ∀ (k : Fin 8) (a : SReg) (r : WReg) (s : State), MemWf s.mem → s.core.seq.w[k] = some r → scalarWaits s = false →
    isPoisoned s r.obj 64 = false → markObjectBad s r.obj = false → writesPending s [(r.base, (getS s a).toNat * r.esize)] = false →
    memOk s s.core.seq.eff r.obj = true → Finishes (.wmpub (BitVec.ofNat 3 k) a) s [] [(r.obj, 8)] fun t => memRead t.mem r.obj 8 = max (memRead s.mem r.obj 8) (getS s a).toNat)

/-- ACQ and TRYACQ of a free latch that no request waits for take it; ACQ of a latch another task holds enters its request and waits, and
TRYACQ then writes 0; ACQ of a latch the task holds raises the latch trap. REL commits the task, and frees a latch the task holds once no
write to its regions is pending: held becomes 0, the release count goes up by one, and the task's list no longer has it (R76 to R79, R169). -/
def Obligations.Latches : Prop :=
  (
  ∀ (a d : SReg) (sc : Scope) (s s1 : State) (p : Phys) (l : LatchView),
    let va := getS s a
    MemWf s.mem → LatchAt s s1 p va l →
    (l.held = false → (∀ w ∈ s.fe.waits, w.pa ≠ p.pa) → s.core.seq.latches.length < 16 →
      Finishes (.acq a sc) s [] [(p.pa, 8)] (fun t => Holds s t p.pa va l) ∧
      Finishes (.tryacq d a sc) s [d] [(p.pa, 8)] fun t => Holds s t p.pa va l ∧ (d ≠ 0 → getS t d = 1)) ∧
    (l.held = true → Finishes (.tryacq d a sc) s [d] [] fun t => d ≠ 0 → getS t d = 0) ∧
    (l.held = true → l.holder ≠ s.core.seq.tid.toNat → s.core.seq.latches.length < 16 → getWait s p.pa = none →
      Waits (.acq a sc) s ∧ ∃ t w, exec (.acq a sc) s = .next t ∧ t.fe.waits = s.fe.waits ++ [w] ∧ w.pa = p.pa ∧ w.core = s.core.id ∧
        w.tid = s.core.seq.tid ∧ w.granted = false) ∧
    (ownLatch s l = true → getWait s p.pa = none → CanTrap s → EntersTrap (.acq a sc) s 8 s.core.seq.pc va)) ∧
  (
  ∀ (a : SReg) (sc : Scope) (s s1 : State) (p : Phys) (l : LatchView),
    let va := getS s a
    MemWf s.mem → LatchAt s s1 p va l →
    (ownLatch s l = true → writesPending s (latchRegions s l) = false →
      Finishes (.rel a sc) s [] [(p.pa, 8)] fun t =>
        latchView (memRead t.mem p.pa 64) = { l with held := false } ∧
        memRead t.mem p.pa 4 = (memRead s.mem p.pa 4 + 1) % 2 ^ 32 ∧
        t.core.seq.latches = (s.core.seq.latches.filter fun h => decide (h.pa ≠ p.pa)) ∧ t.core.seq.cmt = true) ∧
    (ownLatch s l = true → writesPending s (latchRegions s l) = true →
      Waits (.rel a sc) s ∧ ∃ t, exec (.rel a sc) s = .next t ∧ t.core.seq.cmt = true) ∧
    (ownLatch s l = false → CanTrap s → EntersTrap (.rel a sc) s 8 s.core.seq.pc va))

/-- SPAWN marks the record spawned, writes the task's priority and RCB index into it and counts it in the launch; a join count at or below
0 puts it on the ready queue. JOIN takes 1 off the join count, and puts a spawned record whose count becomes 0 on the ready queue. Both
commit (R138, R139, R173). -/
def Obligations.SpawnAndJoin : Prop :=
  ∀ (a : SReg) (s s1 : State) (p : Phys),
    let q := s.core.seq
    let va := getS s a
    let b := q.launch
    MemWf s.mem → q.returns = [] → Reached s .rw va 32 s1 p → p.pa + 32 ≤ hbmEnd →
    (recordBad (memRead s.mem p.pa 32) = false → (∀ x ∈ s.fe.spawned, x.rec_ = p.pa → x.launch ≠ b) →
      b + 40 ≤ p.pa ∨ p.pa + 32 ≤ b →
      ∃ t u, exec (.spawn a) s = .next t ∧ memRead u.mem (p.pa + 20) 4 = (q.eff.prio * 2 ^ 12 + q.rcbx.toNat * 2 ^ 16) % 2 ^ 32 ∧
        memRead u.mem (b + 36) 4 = (memRead s.mem (b + 36) 4 + 1) % 2 ^ 32 ∧ MemKeptOff [(p.pa + 20, 4), (b + 36, 4)] s u ∧
        (0 < recJoin (memRead s.mem p.pa 32) → t.mem = u.mem) ∧
        (recJoin (memRead s.mem p.pa 32) ≤ 0 → t.mem = (pushRecord q.eff p.pa u).mem) ∧ ⟨p.pa, b⟩ ∈ t.fe.spawned ∧
        t.core.seq.cmt = true ∧ RegsKept [] s t ∧ FlowsOn s t ∧ VectorKept s t ∧ TilesKept s t ∧ StatusKept s t) ∧
    (0 < recJoin (memRead s.mem p.pa 32) →
      ∃ t u, exec (.join a) s = .next t ∧ memRead u.mem (p.pa + 16) 4 + 1 = memRead s.mem (p.pa + 16) 4 ∧
        MemKeptOff [(p.pa + 16, 4)] s u ∧
        (recJoin (memRead s.mem p.pa 32) ≠ 1 → t.mem = u.mem) ∧
        (recJoin (memRead s.mem p.pa 32) = 1 → (∃ x ∈ s.fe.spawned, x.rec_ = p.pa) →
          t.mem = (pushRecord (recordRegion u p.pa) p.pa u).mem) ∧
        t.core.seq.cmt = true ∧ RegsKept [] s t ∧ FlowsOn s t ∧ VectorKept s t ∧ TilesKept s t ∧ StatusKept s t) ∧
    (recJoin (memRead s.mem p.pa 32) ≤ 0 → CanTrap s → EntersTrap (.join a) s 0x0C q.pc va)

/-- SIGDEC takes its count off the signal, and commits; SIGWAIT goes on where the signal is at or below 0, and waits otherwise; SIGWAIT_WAKE
lets the waiting core read its signal again; LATCH_GRANT gives a free latch to the request that has waited longest (R79, R116, R171). -/
def Obligations.SignalsAndWakes : Prop :=
  (
  ∀ (a : SReg) (sc : Scope) (count : BitVec 24) (s s1 : State) (p : Phys),
    let v := (BitVec.ofNat 64 (memRead s.mem p.pa 8)).toInt
    MemWf s.mem → Reached s .rw (getS s a) 64 s1 p →
    Finishes (.sigdec a sc count) s [] [(p.pa, 12)] (fun t =>
      (BitVec.ofNat 64 (memRead t.mem p.pa 8)).toInt = max (-(2 ^ 63)) (v - count.toNat) ∧ t.core.seq.cmt = true) ∧
    (v ≤ 0 → Finishes (.sigwait a sc) s [] [(p.pa + 32, 32)] fun t => t.core.seq.cmt = true ∧ t.core.seq.polls = false) ∧
    (0 < v → ∃ t, exec (.sigwait a sc) s = .next t ∧ t.core.seq.pc = s.core.seq.pc ∧ t.core.seq.stall = true ∧ t.core.seq.cmt = true ∧
      RegsKept [] s t ∧ MemKeptOff [(p.pa + 31, 33)] s t ∧ CoreFrame s t)) ∧
  (
  ∀ (c : Nat) (s : State), (focus s c).core.seq.mode = .running →
    ∃ u, exec (.sigwaitWake c) s = .next (focus u s.core.id) ∧ u.core.seq.stall = false ∧ u.core.seq.pc = (focus s c).core.seq.pc ∧
      RegsKept [] (focus s c) u ∧ MemKept s u ∧ CoreFrame (focus s c) u) ∧
  (
  ∀ (pa : Nat) (w : LatchWait) (s : State), MemWf s.mem → PlainPlace pa →
    (∀ y ∈ s.fe.waits, y.pa = pa → y.granted = false) → (s.fe.waits.find? fun y => decide (y.pa = pa)) = some w →
    bitAt (memRead s.mem pa 8) 63 = false →
    ∃ t, exec (.latchGrant pa) s = .next t ∧ memRead t.mem pa 8 = 2 ^ 63 + w.tid.toNat * 2 ^ 32 + memRead s.mem pa 8 % 2 ^ 32 ∧
      MemKeptOff [(pa, 8)] s t ∧ { w with granted := true } ∈ t.fe.waits)

/-- END begins the drains of the task once its copies have ended and no hole waits, and END run with INH = 1 ends the task with FAULT; a
frame that the task has not restored is discarded. Once the drains are over, what depends on fault holes discarded (R154), END_COMPLETION
leaves the core idle, with no latch of the task held, no ring or binding of it left, and its registers as the task left them (R150, R154,
R203, R293). -/
def Obligations.EndOfTask : Prop :=
  (∀ s : State, takeError s = none →
    let mine := ∃ e ∈ s.slots, e.tid = s.core.seq.tid
    (s.core.seq.inh = true → ∃ t, exec .endTask s = .next t ∧ t.core.seq.mode = .ending true ∧ RegsKept [] s t ∧
      (∀ e ∈ t.slots, e.tid ≠ s.core.seq.tid) ∧ (¬mine → MemKept s t)) ∧
    (s.core.seq.inh = false → s.core.vec.holes = [] → settleWaits s none = false → settleWaitsOutside s none = false →
      cntCp s s.core = 0 →
      ∃ t, exec .endTask s = .next t ∧ t.core.seq.mode = .ending false ∧ t.core.seq.pc = s.core.seq.pc ∧ RegsKept [] s t ∧ VectorKept s t ∧
        TilesKept s t ∧ (∀ e ∈ t.slots, e.tid ≠ s.core.seq.tid) ∧ (¬mine → MemKept s t ∧ OthersKept s t))) ∧
  ∀ (c : Nat) (fault : Bool) (s : State),
    let v := if fault then discardFaults (focus s c) else focus s c
    (focus s c).core.seq.mode = .ending fault → v.core.vec.faults = [] → drained v = true →
    ∃ u, exec (.endCompletion c) s = .next (focus u s.core.id) ∧ u.core.seq.mode = .idle ∧ u.core.seq.latches = [] ∧
      VectorKept v u ∧ TilesKept (focus s c) u ∧ RegsKept [] (focus s c) u ∧
      (∀ x ∈ u.copy.rings, x.tid ≠ (focus s c).core.seq.tid) ∧ ∀ x ∈ u.copy.binds, x.tid ≠ (focus s c).core.seq.tid

/-! ## Vector engine -/

/-- A vector instruction whose checks pass enters its queue, taking the next sequence number and VL, type control, fill, base, PC and scalar
operands as they are at its place; its scalar destinations are awaited, and nothing else changes. A VL above the VLMAX of the type raises
the vector-length trap, and a base off its alignment the misaligned trap (R8, R34, R177, R204, R205, R219, R233). -/
def Obligations.VectorDispatch : Prop :=
  (
  (∀ (i : Instr) (f : VForm) (s : State), vForm i = some f → (∀ b sc, i ≠ .vfenceArr b sc) →
    s.core.vec.block = none → vChecks i f (vScalars s i).1 (vScalars s i).2 s = none → (queueOf s.core.vec f.queue).length < 64 →
    ∃ t e, exec i s = .next t ∧ queueOf t.core.vec f.queue = queueOf s.core.vec f.queue ++ [e] ∧
      (∀ q, q ≠ f.queue → queueOf t.core.vec q = queueOf s.core.vec q) ∧ e.instr = i ∧
      e.env.seqn = s.core.vec.seqn + 1 ∧ t.core.vec.seqn = s.core.vec.seqn + 1 ∧ e.env.vl = s.core.vec.vl.toNat ∧
      e.env.vtype = s.core.vec.vtype.toNat ∧ e.env.vfill = s.core.vec.vfill ∧ e.env.vbase = s.core.vec.vbase ∧
      e.env.vseed = s.core.vec.vseed ∧ e.env.pc = s.core.seq.pc ∧ e.env.x = (vScalars s i).1 ∧ e.env.y = (vScalars s i).2 ∧
      (∀ r ∈ f.sd, r ≠ 0 → r ∈ t.core.seq.busy) ∧ (∀ r, r ∉ f.sd → (r ∈ t.core.seq.busy ↔ r ∈ s.core.seq.busy)) ∧
      RegsKept [] s t ∧ FlowsOn s t ∧ MemKept s t ∧ CoreFrame s t ∧ t.fe = s.fe) ∧
  ∀ (b : SReg) (sc : Scope) (s s1 : State) (p : Phys), s.core.vec.block = none → (getS s b).toNat % 64 = 0 →
    transS .rw (getS s b) s = (.ok p, s1) → isPoisoned s p.pa 64 = false → s.core.vec.vsq.length < 64 →
    ∃ t e, exec (.vfenceArr b sc) s = .next t ∧ t.core.vec.vsq = s.core.vec.vsq ++ [e] ∧ e.instr = .vfenceArr b sc ∧ e.pa = p.pa ∧
      t.core.seq.cmt = true ∧ RegsKept [] s t ∧ FlowsOn s t ∧ MemKept s t ∧ CoreFrame s t) ∧
  (
  ∀ (i : Instr) (f : VForm) (s : State), vForm i = some f → (∀ b sc, i ≠ .vfenceArr b sc) → s.core.vec.block = none → CanTrap s →
    ((∀ d a b m ps ty, i ≠ .vdeq d a b m ps ty) → (∃ t ∈ f.types, t.vlmax < s.core.vec.vl.toNat) → EntersTrap i s 4 s.core.seq.pc s.core.vec.vl) ∧
    ((∃ d b disp m ps ty, i = .vld d b disp m ps ty ∨ ∃ a disp, i = .vst a b disp m ps ty) →
      (∀ t ∈ f.types, s.core.vec.vl.toNat ≤ t.vlmax) → (vScalars s i).1.toNat % accSize (memTy i) ≠ 0 →
      EntersTrap i s 9 s.core.seq.pc (vScalars s i).1))

/-- SETVL, SETVT and VSLIP: what they write, and nothing else but the sequence number; each enters the VXQ as a marker, and a full VXQ holds
it. SETTLE goes on once the queues have issued, the matrix, copy and near-memory commands that write vector registers too, no hole it covers is
pending and no store waits for one; with a hole pending, or a VLDFF or VFIB not complete, it waits (R8, R193, R219, R225 to R228, R235). -/
def Obligations.VectorStateAndSettle : Prop :=
  (
  ∀ (d a : SReg) (ty : ETy) (n : BitVec 6) (s : State), s.core.vec.block = none → s.core.vec.vxq.length < 64 →
    let v := s.core.vec
    let vl := BitVec.ofNat 64 (min (getS s a).toNat ty.vlmax)
    let rest := fun (i : Instr) (t : State) (ws : List SReg) => t.core.vec.seqn = v.seqn + 1 ∧
      (∃ e, t.core.vec.vxq = v.vxq ++ [e] ∧ e.instr = i ∧ e.env.seqn = v.seqn + 1) ∧ t.core.vec.vlq = v.vlq ∧ t.core.vec.vsq = v.vsq ∧
      t.core.vec.v = v.v ∧ t.core.vec.o = v.o ∧
      t.core.vec.m = v.m ∧ t.core.vec.vstat = v.vstat ∧ getS t 0 = 0 ∧ RegsKept ws s t ∧ FlowsOn s t ∧ MemKept s t ∧ TilesKept s t ∧
      StatusKept s t ∧ DeviceKept s t ∧ OthersKept s t
    (∃ t, exec (.setvl d a ty) s = .next t ∧ t.core.vec.vl = vl ∧ (d ≠ 0 → getS t d = vl) ∧ t.core.vec.vtype = v.vtype ∧
      rest (.setvl d a ty) t [d]) ∧
    (∃ t, exec (.setvt a) s = .next t ∧ t.core.vec.vtype = (getS s a).truncate 8 ∧ t.core.vec.vl = v.vl ∧ rest (.setvt a) t []) ∧
    ((∀ e ∈ s.core.seq.loops.head?, e.stop ≠ s.core.seq.pc) → ∃ t, exec (.vslip n) s = .next t ∧ t.core.vec.slip = n.toNat + 1 ∧
      t.core.vec.vl = v.vl ∧ rest (.vslip n) t [])) ∧
  (
  ∀ (d a : SReg) (ty : ETy) (n : BitVec 6) (x y w : VDst) (i : Instr) (s : State),
    i = .setvl d a ty ∨ i = .setvt a ∨ i = .vslip n ∨ i = .settle x y w ∨ i = .settleAll →
    s.core.vec.block.isSome = true ∨ 64 ≤ s.core.vec.vxq.length → Waits i s) ∧
  (
  ∀ (x y w : VDst) (s : State), s.core.vec.block = none →
    (s.core.vec.holes = [] → settleWaits s none = false → settleWaitsOutside s none = false →
      Finishes .settleAll s [] [] fun t => t.core.vec.seqn = s.core.vec.seqn + 1) ∧
    (s.core.vec.holes = [] → s.core.vec.vlq = [] → s.core.vec.vxq = [] → s.core.vec.vsq = [] → s.core.vec.defer = [] →
      outsideUnissued s s.core = [] → Finishes (.settle x y w) s [] [] fun t => t.core.vec.seqn = s.core.vec.seqn + 1) ∧
    (s.core.vec.holes = [] → settleWaitsOutside s none = true → Waits .settleAll s) ∧
    (∀ h, s.core.vec.holes = [h] → h.fault = none → h.ops = [] → Waits .settleAll s))

/-- The oldest VXQ instruction issues: each element it writes takes the value its operands give, whatever else is queued; every other
element, every other register and memory stay (R178, R204). -/
def Obligations.VectorIssueWritesElements : Prop :=
  ∀ (c : Nat) (e : VEntry) (r : List VEntry) (s : State),
    let k := (focus s c).core
    let v := k.vec
    let f := formOf e.instr
    let w := vWork (holeReader v) v e.env e.instr
    CanIssue s c .vxq e r → laned e.instr = true →
    (∀ p ∈ w, (∀ o ∈ p.2, o.ready = true) ∧ f.wd * p.1 + f.wd ≤ 8192 ∧
      vHard e.instr e.env (p.2.map HOp.val) (vCompute e.instr e.env p.1 (p.2.map HOp.val)) = false) →
    (w.map Prod.fst).Nodup →
    Issues s c .vxq r [] fun u =>
      (∀ d ∈ slotsOf e.env.rot f.dest, ∀ p ∈ w,
        bits (regImg u.core.vec d) (f.wd * p.1) f.wd = (vCompute e.instr e.env p.1 (p.2.map HOp.val)).1 % 2 ^ f.wd) ∧
      (∀ d ∈ slotsOf e.env.rot f.dest, ∀ el, f.wd * el + f.wd ≤ 8192 → el ∉ w.map Prod.fst →
        bits (regImg u.core.vec d) (f.wd * el) f.wd = bits (regImg v d) (f.wd * el) f.wd) ∧
      (∀ d, d < 72 → d ∉ slotsOf e.env.rot f.dest → regImg u.core.vec d = regImg v d) ∧
      (∀ j : Fin 15, u.core.vec.m[j] = v.m[j]) ∧ u.core.vec.vl = v.vl ∧ u.core.vec.vtype = v.vtype ∧ u.core.vec.vfill = v.vfill

/-- What the integer and logic forms compute from elements of a type (R207, R216). -/
def Obligations.VectorIntegerElements : Prop :=
  ∀ (d : VDst) (a b : VSrc) (m : MReg) (ps : PReg) (t : ETy) (env : VEnv) (e x y z : Nat),
    let w := t.width
    let sx := fun (n : Nat) => (BitVec.ofNat w n).toInt
    let pat := fun (n : Int) => (BitVec.ofInt w n).toNat
    let gives := fun (i : Instr) (xs : List Nat) (r : Nat) => vCompute i env e xs = (r, 0)
    x < 2 ^ w → y < 2 ^ w → z < 2 ^ w →
    (t.isInt = true →
      gives (.vadd d a b m ps t) [x, y] ((x + y) % 2 ^ w) ∧ gives (.vsub d a b m ps t) [x, y] (pat ((x : Int) - y)) ∧
      gives (.vmul d a b m ps t) [x, y] (x * y % 2 ^ w) ∧ gives (.vmadd d a b m ps t) [x, y, z] ((z + x * y) % 2 ^ w) ∧
      gives (.vpopc d a m ps t) [x] ((List.range w).filter fun k => x.testBit k).length ∧
      (∃ n, n ≤ w ∧ x < 2 ^ (w - n) ∧ (n < w → 2 ^ (w - n - 1) ≤ x) ∧ gives (.vclz d a m ps t) [x] n) ∧
      gives (.vshl d a b m ps t) [x, y] (if w ≤ y then 0 else x * 2 ^ y % 2 ^ w) ∧
      gives (.vshr d a b m ps t) [x, y] (if w ≤ y then 0 else x / 2 ^ y) ∧
      gives (.vsra d a b m ps t) [x, y] (pat (sx x / 2 ^ min y w))) ∧
    (t.isPlain = true →
      gives (.vand d a b m ps t) [x, y] (Nat.land x y) ∧ gives (.vor d a b m ps t) [x, y] (Nat.lor x y) ∧
      gives (.vxor d a b m ps t) [x, y] (Nat.xor x y) ∧ gives (.vandn d a b m ps t) [x, y] (Nat.land x (2 ^ w - 1 - y))) ∧
    (t.isS = true →
      gives (.vmulh d a b m ps t) [x, y] (pat (sx x * sx y / 2 ^ w)) ∧
      gives (.vmin d a b m ps t) [x, y] (pat (min (sx x) (sx y))) ∧ gives (.vmax d a b m ps t) [x, y] (pat (max (sx x) (sx y))) ∧
      gives (.vabs d a m ps t) [x] (pat |sx x|) ∧
      vCompute (.vadds d a b m ps t) env e [x, y] =
        (pat (max (-(2 ^ (w - 1))) (min (2 ^ (w - 1) - 1) (sx x + sx y))),
          if -(2 ^ (w - 1)) ≤ sx x + sx y ∧ sx x + sx y ≤ 2 ^ (w - 1) - 1 then 0 else fSAT) ∧
      vCompute (.vsubs d a b m ps t) env e [x, y] =
        (pat (max (-(2 ^ (w - 1))) (min (2 ^ (w - 1) - 1) (sx x - sx y))),
          if -(2 ^ (w - 1)) ≤ sx x - sx y ∧ sx x - sx y ≤ 2 ^ (w - 1) - 1 then 0 else fSAT)) ∧
    (t.isZ = true →
      gives (.vmulhz d a b m ps t) [x, y] (x * y / 2 ^ w) ∧
      gives (.vminz d a b m ps t) [x, y] (min x y) ∧ gives (.vmaxz d a b m ps t) [x, y] (max x y) ∧
      vCompute (.vadds d a b m ps t) env e [x, y] = (min (2 ^ w - 1) (x + y), if x + y < 2 ^ w then 0 else fSAT) ∧
      vCompute (.vsubs d a b m ps t) env e [x, y] = (x - y, if y ≤ x then 0 else fSAT))

/-- What the lanes' floating forms give in the special cases the manual names: NaNs, infinities, zeros, and the bitwise forms (R208 to
R211). -/
def Obligations.VectorFloatSpecialCases : Prop :=
  ∀ (rm : Rm) (d : VDst) (a b : VSrc) (m : MReg) (ps : PReg) (t : ETy) (env : VEnv) (e x y : Nat), t.isLaneFloat = true →
    let w := t.width
    let X := decodeF t x
    let Y := decodeF t y
    let nan := fun (i : Instr) (xs : List Nat) (fl : Flags) => vCompute i env e xs = (cnan t, fl)
    x < 2 ^ w → y < 2 ^ w →
    (∀ q, X = .nan q → Y ≠ .nan true →
      nan (.vfadd rm d a b m ps t) [x, y] (fIV.when q) ∧ nan (.vfsub rm d a b m ps t) [x, y] (fIV.when q) ∧
      nan (.vfmul rm d a b m ps t) [x, y] (fIV.when q) ∧ nan (.vfdiv rm d a b m ps t) [x, y] (fIV.when q) ∧
      nan (.vfsqrt rm d a m ps t) [x] (fIV.when q) ∧ nan (.vfrcp rm d a m ps t) [x] (fIV.when q) ∧
      nan (.vfrsq d a m ps t) [x] (fIV.when q) ∧ nan (.vfexp2 d a m ps t) [x] (fIV.when q) ∧ nan (.vflog2 d a m ps t) [x] (fIV.when q) ∧
      nan (.vfsin d a m ps t) [x] (fIV.when q) ∧ nan (.vfcos d a m ps t) [x] (fIV.when q) ∧ nan (.vftanh d a m ps t) [x] (fIV.when q) ∧
      (Y.isNan = false → vCompute (.vfmin d a b m ps t) env e [x, y] = (y, fIV.when q) ∧
        vCompute (.vfmax d a b m ps t) env e [x, y] = (y, fIV.when q))) ∧
    (∀ n k, X = .inf n → Y = .inf k → nan (.vfdiv rm d a b m ps t) [x, y] fIV ∧
      (n ≠ k → nan (.vfadd rm d a b m ps t) [x, y] fIV) ∧ (n = k → nan (.vfsub rm d a b m ps t) [x, y] fIV)) ∧
    (∀ n k g, X = .inf n → Y = .fin k 0 g → nan (.vfmul rm d a b m ps t) [x, y] fIV ∧ nan (.vfmul rm d a b m ps t) [y, x] fIV) ∧
    (∀ n p g k h, X = .fin n p g → Y = .fin k 0 h →
      (p = 0 → nan (.vfdiv rm d a b m ps t) [x, y] fIV) ∧
      (p ≠ 0 → vCompute (.vfdiv rm d a b m ps t) env e [x, y] = (infBits t (xor n k), fDZ))) ∧
    (∀ n p g, X = .fin n p g →
      (p = 0 → vCompute (.vfrcp rm d a m ps t) env e [x] = (infBits t n, fDZ) ∧ vCompute (.vfrsq d a m ps t) env e [x] = (infBits t n, fDZ) ∧
        vCompute (.vflog2 d a m ps t) env e [x] = (infBits t true, fDZ) ∧ vCompute (.vfsqrt rm d a m ps t) env e [x] = (zeroBits t n, 0) ∧
        vCompute (.vfsin d a m ps t) env e [x] = (zeroBits t n, 0) ∧ vCompute (.vftanh d a m ps t) env e [x] = (zeroBits t n, 0)) ∧
      (p ≠ 0 → n = true → nan (.vfsqrt rm d a m ps t) [x] fIV ∧ nan (.vfrsq d a m ps t) [x] fIV ∧ nan (.vflog2 d a m ps t) [x] fIV)) ∧
    (∀ n, X = .inf n →
      vCompute (.vfrcp rm d a m ps t) env e [x] = (zeroBits t n, 0) ∧ nan (.vfsin d a m ps t) [x] fIV ∧ nan (.vfcos d a m ps t) [x] fIV ∧
      vCompute (.vfexp2 d a m ps t) env e [x] = (if n then 0 else infBits t false, 0) ∧
      (n = true → nan (.vfsqrt rm d a m ps t) [x] fIV ∧ nan (.vfrsq d a m ps t) [x] fIV ∧ nan (.vflog2 d a m ps t) [x] fIV)) ∧
    vCompute (.vfabs d a m ps t) env e [x] = (x % 2 ^ (w - 1), 0) ∧
    vCompute (.vfneg d a m ps t) env e [x] = ((x + 2 ^ (w - 1)) % 2 ^ w, 0) ∧
    ∃ k, k < 10 ∧ vCompute (.vfclass d a m ps t) env e [x] = (2 ^ k, 0)

/-- A sum or product that the format holds exactly, and that is not zero, is the result in every rounding mode, without a flag (R60,
R208). -/
def Obligations.VectorFloatExactResults : Prop :=
  ∀ (rm : Rm) (d : VDst) (a b : VSrc) (m : MReg) (ps : PReg) (t : ETy) (env : VEnv) (e x y r : Nat) (n k h : Bool) (p q u : Nat)
    (g j l : Int), t.isLaneFloat = true → x < 2 ^ t.width → y < 2 ^ t.width → r < 2 ^ t.width →
    decodeF t x = .fin n p g → decodeF t y = .fin k q j → decodeF t r = .fin h u l → u ≠ 0 →
    let val := fun (neg : Bool) (m : Nat) (e : Int) => (if neg then -(m : ℚ) else (m : ℚ)) * (2 : ℚ) ^ e
    (val n p g + val k q j = val h u l → vCompute (.vfadd rm d a b m ps t) env e [x, y] = (r, 0)) ∧
    (val n p g - val k q j = val h u l → vCompute (.vfsub rm d a b m ps t) env e [x, y] = (r, 0)) ∧
    (val n p g * val k q j = val h u l → vCompute (.vfmul rm d a b m ps t) env e [x, y] = (r, 0))

/-- The mask operations with their heads and tails: they act on all 1,024 bits; a compare and VPRES write the bits of the active elements and keep the others; every other mask
and every vector register stays. A write to `m0` is discarded (R220, R222, R224). -/
def Obligations.VectorMaskResults : Prop :=
  (
  ∀ d a b : MReg, [Instr.mand d a b, .mor d a b, .mxor d a b, .mnot d a, .mclr d].map encode =
    [Code.wirath 0x6030 (d.toNat * 2 ^ 12 + a.toNat * 2 ^ 8 + b.toNat * 2 ^ 4),
      .wirath 0x6040 (d.toNat * 2 ^ 12 + a.toNat * 2 ^ 8 + b.toNat * 2 ^ 4),
      .wirath 0x6050 (d.toNat * 2 ^ 12 + a.toNat * 2 ^ 8 + b.toNat * 2 ^ 4), .wirath 0x6060 (d.toNat * 2 ^ 12 + a.toNat * 2 ^ 8),
      .wirath 0x6150 (d.toNat * 2 ^ 12)]) ∧
  (
  ∀ (c : Nat) (e : VEntry) (r : List VEntry) (d a b : MReg) (x y : VSrc) (m : MReg) (ps : PReg) (ty : ETy) (cc : CmpCc) (s : State),
    let v := (focus s c).core.vec
    let f := formOf e.instr
    let writes := fun (g : Nat → Bool) => Issues s c .vxq r [] fun u =>
      (∀ k, k < 1024 → bitAt (maskImg u.core.vec d) k = g k) ∧ (∀ j : MReg, j ≠ d → maskImg u.core.vec j = maskImg v j) ∧
      u.core.vec.v = v.v ∧ u.core.vec.o = v.o ∧ u.core.vec.l = v.l ∧ u.core.vec.vl = v.vl
    let old := maskImg v d
    let val := fun (z : VSrc) (k : Nat) => (readSrc v e.env.rot z ty.width k).val
    d ≠ 0 → CanIssue s c .vxq e r →
    (e.instr = .mand d a b → writes fun k => bitAt (maskImg v a) k && bitAt (maskImg v b) k) ∧
    (e.instr = .mor d a b → writes fun k => bitAt (maskImg v a) k || bitAt (maskImg v b) k) ∧
    (e.instr = .mxor d a b → writes fun k => xor (bitAt (maskImg v a) k) (bitAt (maskImg v b) k)) ∧
    (e.instr = .mnot d a → writes fun k => !bitAt (maskImg v a) k) ∧
    (e.instr = .mclr d → writes fun _ => false) ∧
    (e.instr = .vcmp cc d x y m ps ty → writes fun k => if isActive v e.env f k then (cmpElem false cc ty (val x k) (val y k)).1 else bitAt old k) ∧
    (e.instr = .vfcmp cc d x y m ps ty → writes fun k => if isActive v e.env f k then (cmpElem true cc ty (val x k) (val y k)).1 else bitAt old k) ∧
    (e.instr = .vpres d x m ps ty → writes fun k =>
      if isActive v e.env f k then present v (srcSlot e.env.rot x) ty.width (repIndex x.rep ty.width k) else bitAt old k)) ∧
  (
  ∀ (c : Nat) (e : VEntry) (r : List VEntry) (a b : MReg) (s : State), CanIssue s c .vxq e r →
    e.instr = .mand 0 a b ∨ e.instr = .mor 0 a b ∨ e.instr = .mxor 0 a b ∨ e.instr = .mnot 0 a ∨ e.instr = .mclr 0 →
    Issues s c .vxq r [] fun u => maskImg u.core.vec 0 = 2 ^ 1024 - 1 ∧ ∀ j : MReg, maskImg u.core.vec j = maskImg (focus s c).core.vec j)

/-- The conditions of a compare: signed or unsigned by the type, and of floating elements with their NaN rules. The combine functions of the
integer reductions and scans do not depend on the order of their set (R220, R231). -/
def Obligations.ConditionsAndReductions : Prop :=
  (
  ∀ (t : ETy) (x y : Nat), x < 2 ^ t.width → y < 2 ^ t.width →
    let sx := fun (n : Nat) => (BitVec.ofNat t.width n).toInt
    let c := fun (cc : CmpCc) => cmpElem false cc t x y
    let f := fun (cc : CmpCc) => cmpElem true cc t x y
    (t.isS = true → c .eq = (decide (x = y), 0) ∧ c .ne = (decide (x ≠ y), 0) ∧ c .lt = (decide (sx x < sx y), 0) ∧
      c .le = (decide (sx x ≤ sx y), 0) ∧ c .gt = (decide (sx y < sx x), 0) ∧ c .ge = (decide (sx y ≤ sx x), 0)) ∧
    (t.isZ = true → c .eq = (decide (x = y), 0) ∧ c .ne = (decide (x ≠ y), 0) ∧ c .lt = (decide (x < y), 0) ∧
      c .le = (decide (x ≤ y), 0) ∧ c .gt = (decide (y < x), 0) ∧ c .ge = (decide (y ≤ x), 0)) ∧
    (∀ q, decodeF t x = .nan q → decodeF t y ≠ .nan true → f .eq = (false, 0) ∧ f .ne = (true, 0) ∧ f .un = (true, fIV.when q) ∧
      f .ord = (false, fIV.when q) ∧ f .lt = (false, fIV) ∧ f .le = (false, fIV) ∧ f .gt = (false, fIV) ∧ f .ge = (false, fIV)) ∧
    (∀ g h : Int, decodeF t x = .fin true 0 g → decodeF t y = .fin false 0 h → f .eq = (true, 0) ∧ f .lt = (false, 0) ∧ f .un = (false, 0))) ∧
  (
  ∀ (op : RedOp) (d : VDst) (a : VSrc) (b : RedSrc) (m : MReg) (ps : PReg) (t : ETy) (env : VEnv) (e : Nat) (xs ys : List Nat),
    xs.Perm ys → (∀ x ∈ xs, x < 2 ^ t.width) →
    vCompute (.vred op d a b m ps t) env e xs = vCompute (.vred op d a b m ps t) env e ys ∧
    vCompute (.vscan op d a b m ps t) env e xs = vCompute (.vscan op d a b m ps t) env e ys ∧
    vCompute (.vred .add d a b m ps t) env e xs = (xs.sum % 2 ^ t.width, 0))

/-- MCNT, MFIRST and VMVS write their scalar registers when they complete, VCOMP its count with its packed elements, or a count of 0 and
no element where its stage predicate is off; VFIB takes the longest run of lengths whose sum its cap admits, or a part of the first length,
and writes the new VL, the rows, the remainder and the mask of the rows' first elements; VTHR writes +0 where a lies below its threshold in
magnitude and a elsewhere, and counts what it drops (R223, R229, R232, R242, R243). -/
def Obligations.VectorScalarResults : Prop :=
  (
  ∀ (c : Nat) (e : VEntry) (r : List VEntry) (d x y : SReg) (a : MReg) (z : VSrc) (dv : VDst) (m : MReg) (ps : PReg) (ty : ETy) (s : State),
    let v := (focus s c).core.vec
    let n := e.env.vl
    let act := activeElems v e.env (formOf e.instr)
    let at_ := fun (k : Nat) => (readSrc v e.env.rot z ty.width k).val
    let gives := fun (u : State) (w : Word) => d ≠ 0 → getS u d = w
    CanIssue s c .vxq e r →
    (e.instr = .mcnt d a → Issues s c .vxq r [d] fun u => VectorKept (focus s c) u ∧
      gives u (BitVec.ofNat 64 ((List.range n).filter fun k => bitAt (maskImg v a) k).length)) ∧
    (e.instr = .mfirst d a → Issues s c .vxq r [d] fun u => VectorKept (focus s c) u ∧
      (∀ k, k < n → bitAt (maskImg v a) k = true → (∀ j, j < k → bitAt (maskImg v a) j = false) → gives u (BitVec.ofNat 64 k)) ∧
      ((∀ k, k < n → bitAt (maskImg v a) k = false) → gives u (BitVec.allOnes 64))) ∧
    (e.instr = .vmvs d z ty → Issues s c .vxq r [d] fun u => VectorKept (focus s c) u ∧
      gives u (if ty.isS then (BitVec.ofNat ty.width (at_ 0)).signExtend 64 else BitVec.ofNat 64 (at_ 0))) ∧
    (e.instr = .vcomp dv z d m ps ty → e.env.ps = true → n * ty.width ≤ 8192 → Issues s c .vxq r [d] fun u =>
      gives u (BitVec.ofNat 64 act.length) ∧
      ∀ q ∈ slotsOf e.env.rot (some dv), ∀ k, k < n → bits (regImg u.core.vec q) (ty.width * k) ty.width =
        match act[k]? with
        | some j => at_ j % 2 ^ ty.width
        | none => e.env.vfill.toNat % 2 ^ ty.width) ∧
    (e.instr = .vcomp dv z d m ps ty → e.env.ps = false → Issues s c .vxq r [d] fun u =>
      gives u 0 ∧ u.core.vec.v = v.v ∧ u.core.vec.o = v.o) ∧
    (∀ k, e.instr = .vfib d x z y m ty → k ≤ n →
      let sum := fun (j : Nat) => ((List.range j).map at_).sum
      let cap := min e.env.x.toNat 1024
      let part := k = 0 ∧ 0 < n ∧ cap < at_ 0
      (∀ j, j < k → sum (j + 1) ≤ cap) → (k < n → cap < sum (k + 1)) →
      Issues s c .vxq r [d, x] fun u =>
        (part → u.core.vec.vl = BitVec.ofNat 64 cap) ∧ (¬part → u.core.vec.vl = BitVec.ofNat 64 (sum k)) ∧
        (x ≠ 0 → (part → getS u x = BitVec.ofNat 64 (at_ 0 - cap)) ∧ (¬part → getS u x = 0)) ∧ (d ≠ x → gives u (BitVec.ofNat 64 k)) ∧
        (m ≠ 0 → ∀ b, b < 1024 → (bitAt (maskImg u.core.vec m) b = true ↔
          (part ∧ b = 0 ∧ 0 < cap) ∨ (¬part ∧ ∃ j, j < k ∧ 0 < at_ j ∧ sum j = b))) ∧
        (∀ j : Fin 16, j.val ≠ m.toNat → u.core.vec.m[j] = v.m[j]) ∧ u.core.vec.v = v.v ∧ u.core.vec.o = v.o ∧ u.core.vec.l = v.l)) ∧
  (
  ∀ (c : Nat) (e : VEntry) (r : List VEntry) (d : VDst) (a b : VSrc) (m : MReg) (ps : PReg) (ty : ETy) (s : State),
    let v := (focus s c).core.vec
    let x := fun (k : Nat) => (readSrc v e.env.rot a ty.width k).val
    let y := fun (k : Nat) => (readSrc v e.env.rot b ty.width k).val
    let mag := fun (n : Nat) => decodeF ty (n % 2 ^ (ty.width - 1))
    let low := fun (k : Nat) => !(mag (x k)).isNan && !(mag (y k)).isNan && decide (realKey (mag (x k)) < realKey (mag (y k)))
    let act := activeElems v e.env (formOf e.instr)
    CanIssue s c .vxq e r → e.instr = .vthr d a b m ps ty → ty.isLaneFloat = true → e.env.vl * ty.width ≤ 8192 →
    Issues s c .vxq r [] fun u =>
      u.core.vec.vdropn = v.vdropn + BitVec.ofNat 64 (act.filter low).length ∧
      ∀ q ∈ slotsOf e.env.rot (some d), ∀ k, k * ty.width + ty.width ≤ 8192 → bits (regImg u.core.vec q) (ty.width * k) ty.width =
        if k ∈ act then (if low k then 0 else x k % 2 ^ ty.width) else bits (regImg v q) (ty.width * k) ty.width)

/-- A vector load whose elements all translate is on its way; its completion writes each element from the bytes of its own address, and
no other vector register; memory stays (R11, R233 to R236). -/
def Obligations.VectorLoads : Prop :=
  (∀ (c : Nat) (e : VEntry) (r : List VEntry) (ok : List (Nat × Nat × Phys)) (s s1 : State),
    let v := (focus s c).core.vec
    CanIssue s c .vlq e r → transAll e.instr (memElems v e.env e.instr) [] (focus s c) = (ok, [], s1) →
    (∃ d b disp m ps ty, e.instr = .vld d b disp m ps ty) ∨ (∃ d b x disp m ps ty, e.instr = .vlds d b x disp m ps ty) ∨
      (∃ d b x disp m ps ty, e.instr = .vldff d b x disp m ps ty) ∨
      (∃ d b w disp m ps ty, e.instr = .vldW d b disp w m ps ty ∧ markReached (focus s c) e w = true) ∨
      (∃ d b idx k m ps ty, e.instr = .vgath d b idx k m ps ty) →
    ∃ u l, exec (.vectorIssue c .vlq .agree) s = .next (focus u s.core.id) ∧ u.core.vec.vlq = r ∧ u.core.vec.loads = v.loads ++ [l] ∧
      l.instr = e.instr ∧ l.env = e.env ∧ l.cells = (ok.map fun p => (p.1, p.2.2.pa)) ∧ l.vas = (ok.map fun p => p.2.1) ∧
      u.core.vec.v = v.v ∧ u.core.vec.o = v.o ∧ MemKept s u ∧
      ∀ d b x disp m ps ty, e.instr = .vldff d b x disp m ps ty → x ≠ 0 → getS u x = BitVec.ofNat 64 e.env.vl) ∧
  ∀ (c n d : Nat) (l : VLoad) (s : State),
    let v := (focus s c).core.vec
    let t := memTy l.instr
    (v.loads.find? fun x => decide (x.env.seqn = n)) = some l → (∀ x ∈ v.loads, x.env.seqn = n → x = l) → l.stale = false →
    loadReady (focus s c) l = true → l.md = none → slotsOf l.env.rot (formOf l.instr).dest = [d] → d < 72 → t.isPlain = true →
    (l.cells.map Prod.fst).Nodup → (∀ p ∈ l.cells, p.1 < 1024 ∧ t.width * p.1 + t.width ≤ 8192) →
    ∃ u, exec (.vectorLoadCompletion c n) s = .next (focus u s.core.id) ∧
      u.core.vec.loads = (v.loads.filter fun x => decide (x.env.seqn ≠ n)) ∧
      (∀ p ∈ l.cells, bits (regImg u.core.vec d) (t.width * p.1) t.width = memRead s.mem p.2 (t.width / 8)) ∧
      (∀ k, t.width * k + t.width ≤ 8192 → k ∉ l.cells.map Prod.fst →
        bits (regImg u.core.vec d) (t.width * k) t.width = bits (regImg v d) (t.width * k) t.width) ∧
      (∀ q, q < 72 → q ≠ d → regImg u.core.vec q = regImg v q) ∧ RegsKept [] (focus s c) u ∧ MemKept s u

/-- VLDFF whose first element translates and a later one does not gives the number of elements before the first failure as VL and in its
register, and raises nothing. Of a VSELL that issues, a column the slice has not got gives an empty mask; otherwise the values and indices of
its column are on their way. That it reads its header as it issues is the model's: log entry 33 (R235, R240). -/
def Obligations.SpecialLoads : Prop :=
  (
  ∀ (c : Nat) (e : VEntry) (r : List VEntry) (ok : List (Nat × Nat × Phys)) (bad : List BadAccess) (f a : Nat) (cz : Nat × Nat)
    (d : VDst) (b x : SReg) (disp : BitVec 14) (m : MReg) (ps : PReg) (ty : ETy) (s s1 : State),
    let v := (focus s c).core.vec
    CanIssue s c .vlq e r → e.instr = .vldff d b x disp m ps ty → x ≠ 0 →
    transAll e.instr (memElems v e.env e.instr) [] (focus s c) = (ok, (f, a, cz) :: bad, s1) →
    (activeElems v e.env (formOf e.instr)).head? ≠ some f →
    ∃ u, exec (.vectorIssue c .vlq .agree) s = .next (focus u s.core.id) ∧ u.core.vec.vl = BitVec.ofNat 64 f ∧
      getS u x = BitVec.ofNat 64 f ∧ u.core.vec.faults = v.faults ∧ u.core.vec.vlq = r ∧ MemKept s u) ∧
  (
  ∀ (c w hp : Nat) (e : VEntry) (r : List VEntry) (d di : VDst) (b x : SReg) (md : MReg) (ty : ETy) (s s1 : State),
    CanIssue s c .vlq e r → e.instr = .vsell d di b md x ty → sellHeader e (focus s c) = (some (.ok (hp, w)), s1) →
    isPoisoned s1 hp 4 = false →
    (w ≤ e.env.y.toNat → ∃ u l, exec (.vectorIssue c .vlq .agree) s = .next (focus u s.core.id) ∧ u.core.vec.vlq = r ∧
      u.core.vec.loads = s1.core.vec.loads ++ [l] ∧ l.cells = [] ∧ l.md = some (md, 0)) ∧
    ∀ ok s2, e.env.y.toNat < w → transAll e.instr (sellElems e.env ty w) [] s1 = (ok, [], s2) →
      ∃ u l, exec (.vectorIssue c .vlq .agree) s = .next (focus u s.core.id) ∧ u.core.vec.vlq = r ∧
        u.core.vec.loads = s2.core.vec.loads ++ [l] ∧ l.cells = (ok.map fun p => (p.1, p.2.2.pa)) ∧ l.md = some (md, 1))

/-- A vector store whose elements all translate is on its way with one write for each; when it is performed each write stores its data at
its address and nothing else changes (R11, R72, R237). VSCADD adds to what stands there. -/
def Obligations.VectorStores : Prop :=
  (∀ (c : Nat) (e : VEntry) (r : List VEntry) (ok : List (Nat × Nat × Phys)) (s s1 : State),
    let v := (focus s c).core.vec
    CanIssue s c .vsq e r → usesPoison (focus s c) e = false →
    transAll e.instr (memElems v e.env e.instr) [] (focus s c) = (ok, [], s1) →
    (∀ w ∈ storeWrites v (focus s c).core e ok, ∀ o ∈ w.vals, o.ready = true) →
    (∃ a b disp m ps ty, e.instr = .vst a b disp m ps ty) ∨ (∃ a b x disp m ps ty, e.instr = .vsts a b x disp m ps ty) ∨
      (∃ a idx b k m ps ty, e.instr = .vscat a idx b k m ps ty) ∨ (∃ a idx b k m ps ty, e.instr = .vscadd a idx b k m ps ty) →
    ∃ u x, exec (.vectorIssue c .vsq .agree) s = .next (focus u s.core.id) ∧ u.core.vec.vsq = r ∧ u.core.vec.stores = v.stores ++ [x] ∧
      x.instr = e.instr ∧ x.env = e.env ∧ x.writes = storeWrites v (focus s c).core e ok ∧ u.core.vec.defer = v.defer ∧ MemKept s u ∧
      u.core.vec.v = v.v) ∧
  ∀ (c n : Nat) (x : VStore) (w : VWrite) (s : State),
    let v := (focus s c).core.vec
    MemWf s.mem → v.stores = [x] → x.env.seqn = n → x.stale = false → x.arr = none → x.writes = [w] → v.defer = [] → v.faults = [] →
    storeReady (focus s c) x = true →
    (w.kind = .put → ∃ u, exec (.vectorStoreCompletion c n) s = .next (focus u s.core.id) ∧ u.core.vec.stores = [] ∧
      memRead u.mem w.addr w.n = (w.vals.map HOp.val).headD 0 % 2 ^ (8 * w.n) ∧ MemKeptOutside w.addr w.n s u ∧
      RegsKept [] (focus s c) u ∧ VectorKept (focus s c) u) ∧
    (∀ y, w.kind = .add .s32 → w.n = 4 → w.vals.map HOp.val = [y] →
      ∃ u, exec (.vectorStoreCompletion c n) s = .next (focus u s.core.id) ∧
        memRead u.mem w.addr 4 = (memRead s.mem w.addr 4 + y) % 2 ^ 32 ∧ MemKeptOutside w.addr 4 s u ∧ RegsKept [] (focus s c) u)

/-- The fences of the vector engine and the lane tables: VFENCE and VFENCE_ARR join the stores on their way, and a performed VFENCE_ARR takes
1 off its signal, by a message where the signal's home is elsewhere (R88); VTST writes the entry its index names in the element's lane, and VTLD reads it (R238, R239). -/
def Obligations.VectorFencesAndTables : Prop :=
  (∀ (c : Nat) (e : VEntry) (r : List VEntry) (b : SReg) (sc : Scope) (s : State),
    CanIssue s c .vsq e r → usesPoison (focus s c) e = false → e.instr = .vfence ∨ e.instr = .vfenceArr b sc →
    ∃ u x, exec (.vectorIssue c .vsq .agree) s = .next (focus u s.core.id) ∧ u.core.vec.vsq = r ∧
      u.core.vec.stores = (focus s c).core.vec.stores ++ [x] ∧ x.instr = e.instr ∧ x.env = e.env ∧ x.writes = [] ∧
      x.arr = (if e.instr = .vfence then none else some e.pa) ∧ MemKept s u) ∧
  (∀ (c n pa : Nat) (b : SReg) (sc : Scope) (x : VStore) (s : State),
    let v := (focus s c).core.vec
    MemWf s.mem → v.stores = [x] → x.env.seqn = n → x.stale = false → x.instr = .vfenceArr b sc → x.arr = some pa → v.defer = [] →
    storeReady (focus s c) x = true →
    (isRemote pa = false → 0 < (BitVec.ofNat 64 (memRead s.mem pa 8)).toInt →
      ∃ u, exec (.vectorStoreCompletion c n) s = .next (focus u s.core.id) ∧ memRead u.mem pa 8 + 1 = memRead s.mem pa 8 ∧
        MemKeptOutside pa 8 s u ∧ u.core.vec.stores = []) ∧
    (isRemote pa = true → ∃ u, exec (.vectorStoreCompletion c n) s = .next (focus u s.core.id) ∧
      u.out = s.out ++ [OutMsg.signal (remoteOf s pa).1 (remoteOf s pa).2 1] ∧ MemKept s u ∧ u.core.vec.stores = [])) ∧
  (∀ (c q bit : Nat) (e : VEntry) (r : List VEntry) (d : VDst) (a : VSrc) (m : MReg) (ps : PReg) (ty : ETy) (s : State),
    let v := (focus s c).core.vec
    CanIssue s c .vlq e r → tableParity (focus s c) e = false → e.instr = .vtld d a m ps ty → ty.isPlain = true → slotsOf e.env.rot (some d) = [q] → v.vsq = [] → v.defer = [] →
    activeElems v e.env (formOf e.instr) = [0] →
    tableBit (focus s c).core.seq.eff ty (readSrc v e.env.rot a ty.width 0).val = some bit →
    Issues s c .vlq r [] fun u => bits (regImg u.core.vec q) 0 ty.width = bits (v.table[0]).toNat bit ty.width ∧ u.core.vec.table = v.table) ∧
  ∀ (c bit : Nat) (e : VEntry) (r : List VEntry) (a b : VSrc) (m : MReg) (ps : PReg) (ty : ETy) (s : State),
    let v := (focus s c).core.vec
    CanIssue s c .vsq e r → usesPoison (focus s c) e = false → e.instr = .vtst a b m ps ty → ty.isPlain = true → v.vlq = [] → v.defer = [] →
    activeElems v e.env (formOf e.instr) = [0] → (readSrc v e.env.rot b ty.width 0).ready = true → bit + ty.width ≤ 16384 →
    tableBit (focus s c).core.seq.eff ty (readSrc v e.env.rot a ty.width 0).val = some bit →
    Issues s c .vsq r [] fun u => bits (u.core.vec.table[0]).toNat bit ty.width = (readSrc v e.env.rot b ty.width 0).val % 2 ^ ty.width ∧
      (∀ j : Fin 64, j ≠ 0 → u.core.vec.table[j] = v.table[j]) ∧ u.core.vec.v = v.v

/-- A mitt fills the earliest entry whose operands are there: its element takes the value unless it has been written since, and the entry is
free. A `vld.w` that waits reads its watermark again where a budget does not hold the read back, and goes on waiting where one does; that an
object of another module's memory is read in this module's own is the model's choice: log entry 78 (R86, R123, R188). -/
def Obligations.MittsAndWatermarks : Prop :=
  (∀ (c q : Nat) (h : Hole) (s : State),
    let k := (focus s c).core
    let res := vCompute h.instr h.env h.elem (h.ops.map HOp.val)
    k.vec.holes = [h] → h.fault = none → (∀ o ∈ h.ops, o.parts = []) → k.vec.defer = [] → h.dest = some q → q < 72 → h.live = true →
    h.lpos = [] → h.w * h.elem + h.w ≤ 8192 → budgetOk (focus s c) k.seq.eff .mitt k.id = true →
    (traps h.instr = true → enabledOf h.env.vtype res.2 = 0) →
    ∃ u, exec (.mittFill c .agree) s = .next (focus u s.core.id) ∧ u.core.vec.holes = [] ∧
      bits (regImg u.core.vec q) (h.w * h.elem) h.w = res.1 % 2 ^ h.w ∧ (∀ j, j < 72 → j ≠ q → regImg u.core.vec j = regImg k.vec j) ∧
      RegsKept [] (focus s c) u ∧ MemKept s u) ∧
  ∀ (c : Nat) (e : VEntry) (r : List VEntry) (d : VDst) (b : SReg) (disp : BitVec 14) (j : Fin 8) (m : MReg) (ps : PReg) (ty : ETy)
    (x : WReg) (s : State),
    let k := (focus s c).core
    k.vec.vlq = e :: r → e.instr = .vldW d b disp (BitVec.ofNat 3 j) m ps ty → k.seq.w[j] = some x →
    ∃ u, exec (.watermarkRecheck c) s = .next (focus u s.core.id) ∧
      u.core.vec.vlq = (if memOk (focus s c) k.seq.eff x.obj then { e with pub := memRead s.mem x.obj 8 } else e) :: r ∧
      RegsKept [] (focus s c) u ∧ MemKept s u ∧ VectorKept (focus s c) u

/-! ## Matrix engine -/

/-- Every matrix and Fennel command whose checks pass enters the matrix queue with the registers it names, and nothing else changes; one whose
checks fail raises the trap of the first that fails. The oldest command that waits for no stream issues once its unit, its tiles, its
bytes and its registers are free (R267, R269, R270, R283). -/
def Obligations.MatrixDispatchAndIssue : Prop :=
  (
  ∀ (f l t src : Tile) (a b c x : SReg) (ty ta tb : ETy) (p q : Bool) (g : Grp) (rm : Rm) (disp : BitVec 22) (tgt : DrainTo) (set : Sys2Proof.PSet)
    (vd : VDst) (oty : OutTy) (n : BitVec 6) (s : State),
    ∀ i ∈ [Instr.mzero f l, .mma t a b ty c p q, .mmaq t a b c ta tb g, .mmas t a b c ty, .mmac rm t src a ty, .mscale t src a b,
        .mld t a disp, .mst t a disp, .mdrain rm t tgt ty, .pdrain f l set a b c vd oty, .padj a b c x oty, .pstat f l set a b,
        .pfix f l set a b oty, .prld a n, .prst a n],
      (∀ e, mPrep i (curHead s) s = .ok e → (s.core.mat.queue.filter fun o => !o.issued && o.stream.isNone).length < 16 →
        ∃ u, exec i s = .next u ∧ u.core.mat.queue = s.core.mat.queue ++ [e] ∧ e.instr = i ∧ e.x = mRegs s i ∧ e.issued = false ∧
          RegsKept [] s u ∧ FlowsOn s u ∧ MemKept s u ∧ CoreFrame s u) ∧
      (∀ z v, mPrep i (curHead s) s = .error (z, v) → CanTrap s → EntersTrap i s z s.core.seq.pc v)) ∧
  (
  ∀ (c : Nat) (e : MEntry) (s : State), nextMat (focus s c).core.mat = some e → matReady (focus s c) e = true →
    ∃ u, exec (.matrixIssue c) s = .next (focus u s.core.id) ∧
      u.core.mat.queue = ((focus s c).core.mat.queue.map fun o => if o.id = e.id then { o with issued := true } else o) ∧
      RegsKept [] (focus s c) u ∧ MemKept s u ∧ TilesKept (focus s c) u ∧ VectorKept (focus s c) u)

/-- MZERO, MLD, MST and the raw MDRAIN: the words of the tiles they write and the bytes they store. What any matrix or Fennel command
leaves alone when it completes: the tiles it does not name as written, the bytes outside its write ranges, scalar registers, and the
vector registers but for the destination and `msat` of a drain (R269 to R271, R274, R275, R281). -/
def Obligations.TileMovesAndFrames : Prop :=
  (
  ∀ (c : Nat) (e : MEntry) (f l t : Tile) (b : SReg) (disp : BitVec 22) (rm : Rm) (s : State),
    let k := (focus s c).core
    let at_ := padOf s c (e.x.getD 0 0).toNat
    MemWf s.mem → t.toNat < 24 → f.toNat ≤ l.toNat → l.toNat < 24 → OnUnit s c .port e →
    (e.instr = .mzero f l → MatDone s c .port e (tileRange f l) [] fun u =>
      (∀ j : Fin 24, f.toNat ≤ j → j ≤ l.toNat → u.core.mat.a[j] = 0) ∧ VectorKept (focus s c) u) ∧
    (e.instr = .mld t b disp → MatDone s c .port e [t.toNat] [] fun u =>
      (u.core.mat.a[t.toNat]?.getD 0).toNat = memRead s.mem at_ 16384 ∧ VectorKept (focus s c) u) ∧
    (e.instr = .mst t b disp → MatDone s c .port e [] [(at_, 16384)] fun u =>
      memRead u.mem at_ 16384 = (k.mat.a[t.toNat]?.getD 0).toNat ∧ VectorKept (focus s c) u) ∧
    (e.instr = .mdrain rm t (.pad b) .s32 → MatDone s c .port e [] [(at_, 16384)] fun u =>
      memRead u.mem at_ 16384 = (k.mat.a[t.toNat]?.getD 0).toNat ∧ VectorKept (focus s c) u)) ∧
  (
  ∀ (c : Nat) (un : MUnit) (e : MEntry) (s : State), MemWf s.mem → OnUnit s c un e → e.instr.wf = true →
    mCheck (mUse e.instr e.x) (focus s c).core.seq.eff.spsize = none →
    MatDone s c un e (mUse e.instr e.x).tw ((mUse e.instr e.x).wr.map fun r => (padOf s c r.1, r.2)) fun u =>
      (∀ q, q < 72 → q ∉ mVecRegs e → regImg u.core.vec q = regImg (focus s c).core.vec q) ∧
      (∀ j : Fin 15, u.core.vec.m[j] = (focus s c).core.vec.m[j]) ∧ u.core.vec.l = (focus s c).core.vec.l ∧
      u.core.vec.vl = (focus s c).core.vec.vl)

/-- The products: every word of an MMA, MMAS, MMAC or MSCALE tile is one window sum of its exact terms, whatever order the array works in;
MMA reads its operands normal or transposed, dense or with the pitches of its leading-dimension register; an illegal MMAS entry gives zeros,
SM and its group's index; MMAC rounds its source tile first; an MMAQ word is the exact integer sum, or 0 with IV for a zero point no nibble
holds; and the flags of all words, and of MMAC's conversions, are merged into `sys.vstat`; that MSCALE multiplies its three factors from the left, which decides IV where
one of them is a NaN, is the model's choice: log entry 74 (R65, R69, R268, R271, R276 to R280). -/
def Obligations.MatrixProducts : Prop :=
  ∀ (c : Nat) (e : MEntry) (t src : Tile) (a b d : SReg) (ty tb : ETy) (ta' tb' : Bool) (rm : Rm) (g : Grp) (s : State),
    let x := fun (n : Nat) => (e.x.getD n 0).toNat
    let word := fun (u : State) (q : Tile) (i j : Nat) => elem (u.core.mat.a[q.toNat]?.getD 0).toNat 32 (64 * i + j)
    let byte := fun (va n : Nat) => memRead s.mem (padOf s c va) n
    let w := ty.width / 8
    let el := fun (base pitch i j : Nat) => decodeF ty (byte (base + i * pitch + j * w) w)
    let kk := if ty = .f32 then 32 else 64
    let word0 := fun (i j : Nat) => decodeF .f32 (word (focus s c) t i j)
    let flags := fun (u : State) (p : Nat → Prop) => ∀ k, k < 8 → (u.core.vec.vstat.getLsbD k = true ↔
      (focus s c).core.vec.vstat.getLsbD k = true ∨ p k)
    let results := fun (f : Nat → Nat → ER) (more : Nat → Prop) (u : State) =>
      (∀ i j, i < 64 → j < 64 → word u t i j = (f i j).1 % 2 ^ 32) ∧
      flags u fun k => more k ∨ ∃ i j, i < 64 ∧ j < 64 ∧ (f i j).2.getLsbD k = true
    let gives := fun (f : Nat → Nat → ER) => MatDone s c .array e [t.toNat] [] (results f fun _ => False)
    t.toNat < 24 → OnUnit s c .array e →
    (e.instr = .mma t a b ty d ta' tb' → mmaType ty = true →
      let pa := if x 2 % 2 ^ 32 = 0 then (if ta' then 64 else kk) * w else x 2 % 2 ^ 32
      let pb := if x 2 / 2 ^ 32 = 0 then (if tb' then kk else 64) * w else x 2 / 2 ^ 32
      gives fun i j => windowSum (word0 i j :: (List.range kk).map fun q =>
        mulTerm (if ta' then el (x 0) pa q i else el (x 0) pa i q) (if tb' then el (x 1) pb j q else el (x 1) pb q j))) ∧
    (e.instr = .mmaq t a b d ty tb g → ty = .s8 ∨ ty = .q8 → tb = .q4 ∨ tb = .q8 →
      let av := fun (i q : Nat) => let n := byte (x 0 + i * g.size + q) 1
        if ty = .s8 then (BitVec.ofNat 8 n).toInt else (n : Int) - byte (x 2 + i) 1
      let bv := fun (q j : Nat) => if tb = .q4 then byte (x 1 + q * 32 + j / 2) 1 / 16 ^ (j % 2) % 16 else byte (x 1 + q * 64 + j) 1
      let zb := fun (j : Nat) => byte (x 2 + 64 + j) 1
      gives fun i j => if tb = .q4 ∧ 15 < zb j then (0, fIV)
        else (ofInt 32 ((List.range g.size).map fun q => av i q * ((bv q j : Int) - zb j)).sum, 0)) ∧
    (e.instr = .mmas t a b d ty → mmaType ty = true →
      let ent := fun (n : Nat) => byte (x 2 + n / 2) 1 / 16 ^ (n % 2) % 16
      let bad := fun (n : Nat) => n < kk / 4 * 64 ∧ ent n % 4 = ent n / 4
      MatDone s c .array e [t.toNat] [] fun u =>
        results (fun i j => windowSum (word0 i j :: (List.range kk).map fun r =>
          let m := ent (64 * (r / 4) + j)
          mulTerm (el (x 0) (kk * w) i r)
            (if m % 4 = m / 4 then .fin false 0 0
              else if r % 4 = m % 4 then el (x 1) (64 * w) (2 * (r / 4)) j
              else if r % 4 = m / 4 then el (x 1) (64 * w) (2 * (r / 4) + 1) j else .fin false 0 0))) (fun k => k = 7 ∧ ∃ n, bad n) u ∧
        (∀ n, bad n → (∀ n', bad n' → n ≤ n') →
          u.core.vec.vidx[7] = if n < (focus s c).core.vec.vidx[7].toNat then BitVec.ofNat 64 n else (focus s c).core.vec.vidx[7]) ∧
        ((∀ n, ¬bad n) → u.core.vec.vidx = (focus s c).core.vec.vidx)) ∧
    (e.instr = .mmac rm t src b ty → ty = .bf16 ∨ ty = .e4m3 → rm = .rne ∨ rm = .sr →
      let conv := fun (i q : Nat) => cvtFF ty rm (rhoOf e.env.vseed e.env.vbase (64 * i + q)) (bitAt e.env.vtype 7)
        (decodeF .f32 (word (focus s c) src i q))
      MatDone s c .array e [t.toNat] [] (results
        (fun i j => windowSum (word0 i j :: (List.range 64).map fun q => mulTerm (decodeF ty (conv i q).1) (el (x 0) (64 * w) q j)))
        fun k => ∃ i q, i < 64 ∧ q < 64 ∧ (conv i q).2.getLsbD k = true)) ∧
    (e.instr = .mscale t src a b → gives fun i j =>
      let v := (BitVec.ofNat 32 (word (focus s c) src i j)).toInt
      windowSum [word0 i j,
        mulTerm (mulTerm (.fin (decide (v < 0)) v.natAbs 0) (decodeF .f16 (byte (x 0 + 2 * i) 2))) (decodeF .f16 (byte (x 1 + 2 * j) 2))])

/-- What the projections give: as many outputs as elements; a NaN row for a NaN element in every set but NONE; within its ball L1BALL only
converts; BOX keeps what lies inside and gives a bound outside. PRST and PRLD are inverse on a record of 1 to 24 tiles, and as many bytes
are taken as were written, 24 + 16T (R284, R285, R287, R292). -/
def Obligations.FennelRows : Prop :=
  (
  ∀ (set : Sys2Proof.PSet) (ot : OutTy) (xs : List FVal) (p hi : FVal),
    (projRow set ot xs p hi).ys.length = xs.length ∧
    (set ≠ .none → xs.any FVal.isNan = true →
      (projRow set ot xs p hi).ys = List.replicate xs.length (cnan (OutTy.ety ot)) ∧ (projRow set ot xs p hi).nan = true ∧
      (projRow set ot xs p hi).count = 0 ∧ (projRow set ot xs p hi).flags = fIV) ∧
    ((∀ x ∈ xs, ∃ n m e, x = FVal.fin n m e) → (xs.map fun x => ((fix149 x).natAbs : Int)).sum ≤ fix149 p →
      (projRow .l1ball ot xs p hi).ys = (projRow .none ot xs p hi).ys ∧ (projRow .l1ball ot xs p hi).proj = false) ∧
    ((∀ x ∈ xs, x.isNan = false) →
      ((∀ x ∈ xs, orderKey p ≤ orderKey x ∧ orderKey x ≤ orderKey hi) →
        (projRow .box ot xs p hi).ys = (projRow .none ot xs p hi).ys) ∧
      ((∀ x ∈ xs, orderKey x < orderKey p) → orderKey p ≤ orderKey hi →
        (projRow .box ot xs p hi).ys = (projRow .none ot (List.replicate xs.length p) p hi).ys))) ∧
  (
  ∀ (set : Sys2Proof.PSet) (t par hi : Nat) (row : PRow), 1 ≤ t → t ≤ 24 → par < 2 ^ 32 → hi < 2 ^ 32 → row.tau < 2 ^ 32 → row.count < 2 ^ 16 →
    row.mapA < 2 ^ (64 * t) → row.mapB < 2 ^ (64 * t) →
    let r := recordImage set t par hi (64 * t) row
    (packRecord r).2 = 24 + 16 * t ∧ unpackRecord (packRecord r).1 = (r, 24 + 16 * t))


/-! ## Copy engine -/

/-- CBIND binds a port to a descriptor and the destination the descriptor names; CGO queues a stream on a bound port, with the next slot of
its ring where it has one; CGO `.mx` also places its follow-on in the matrix queue and control passes it; CGO `.auto` takes, of the ports that
fit its endpoints, the lowest of the least loaded, its destination being the ring's slots where it has a ring, and commits the task where the
destination lies outside the task frame; CVLD queues a delivery and holds later vector instructions, another CVLD among them (R142, R256 to
R258, R261). -/
def Obligations.CopyDispatch : Prop :=
  ∀ (p : BitVec 4) (tag : BitVec 8) (d rg x : SReg) (vd : VDst) (md : MReg) (ty : ETy) (ph : Phys) (s s1 : State),
    let a := getS s d
    let obj := getS s rg
    let room := (queuedStreams s s.core).length < 32
    let follow := (s.core.mat.queue.filter fun o => o.follow && !o.issued).length < 4
    let read := (readCached ph 16 (afterLink (chargeMem s1.core.seq.eff ph.pa 16 s1) ph.pa)).2
    let src := BitVec.ofNat 64 (memRead s.mem ph.pa 8)
    let dst := BitVec.ofNat 64 (memRead s.mem (ph.pa + 8) 8)
    let fits := fun (target : Word) (q : Nat) =>
      AutoPort s (autoKind (taskStream s) src read) (autoKind (taskStream s) target read) q
    let commits := fun (t : State) (target : Word) => t.core.seq.cmt = (s.core.seq.cmt || !inTaskFrame s target)
    let reserves := fun (t : State) (r : Ring) => ∃ r', getRing t s.core.id s.core.seq.tid obj = some r' ∧ r'.resv = r.resv + 1 ∧
      r'.wptr = r.wptr ∧ r'.rptr = r.rptr
    (p ≠ 12 → a.toNat % 64 = 0 → Reached s .r (a + 8) 8 s1 ph → FreshLine s ph.pa →
      ∃ t, exec (.cbind p d) s = .next t ∧
        getBind t p.toNat = some ⟨s.core.id, s.core.seq.tid, p.toNat, a, BitVec.ofNat 64 (memRead s.mem ph.pa 8)⟩ ∧
        (∀ q, q ≠ p.toNat → getBind t q = getBind s q) ∧ t.copy.streams = s.copy.streams ∧ RegsKept [] s t ∧ FlowsOn s t ∧ MemKept s t) ∧
    (∀ b, takeError s = none → getBind s p.toNat = some b → p ≠ 12 → room →
      QueuesStream (.cgo p tag 0) s (nextPc s) (fun y => y.port = p.toNat ∧ y.desc = b.desc ∧ y.tag = tag.toNat ∧ y.ring = none)
        (fun t => commits t b.dst) ∧
      (∀ r, rg ≠ 0 → obj.toNat % 64 = 0 → getRing s s.core.id s.core.seq.tid obj = some r →
        QueuesStream (.cgo p tag rg) s (nextPc s) (fun y => y.port = p.toNat ∧ y.desc = b.desc ∧ y.ring = some (obj, r.resv))
          (fun t => reserves t r ∧ commits t r.base)) ∧
      (∀ e, misplaced true s = none → followOn s = .ok e → follow →
        slotOf (nextPc s) < curN s → lineBase (nextPc s) = lineBase s.core.seq.pc →
        QueuesStream (.cgoMx p tag 0) s (s.core.seq.pc + 4) (fun y => y.port = p.toNat ∧ y.desc = b.desc ∧ y.follow = true)
          (fun t => t.core.mat.queue = s.core.mat.queue ++ [{ e with stream := some s.copy.nextId, follow := true }]))) ∧
    (takeError s = none → a.toNat % 64 = 0 → Reached s .r a 16 s1 ph → FreshLine s ph.pa → room →
      QueuesStream (.cgoAuto d tag 0) s (nextPc s) (fun y => y.desc = a ∧ y.tag = tag.toNat ∧ y.ring = none ∧ fits dst y.port)
        (fun t => commits t dst) ∧
      (∀ r, rg ≠ 0 → obj.toNat % 64 = 0 → getRing s s.core.id s.core.seq.tid obj = some r →
        QueuesStream (.cgoAuto d tag rg) s (nextPc s) (fun y => y.desc = a ∧ y.ring = some (obj, r.resv) ∧ fits r.base y.port)
          (fun t => reserves t r ∧ commits t r.base)) ∧
      (∀ e u, misplaced true s = none → followOn read = .ok e → follow →
        u = s.core.mat.queue ++ [{ e with stream := some s.copy.nextId, follow := true }] →
        slotOf (nextPc s) < curN s → lineBase (nextPc s) = lineBase s.core.seq.pc →
        QueuesStream (.cgoAutoMx d tag 0) s (s.core.seq.pc + 4) (fun y => y.desc = a ∧ y.follow = true ∧ fits dst y.port)
          (fun t => t.core.mat.queue = u))) ∧
    (takeError s = none → a.toNat % 64 = 0 → vd ≠ .nil → s.core.vec.block.isSome = true → Waits (.cvld vd md d x tag ty) s) ∧
    (takeError s = none → a.toNat % 64 = 0 → vd ≠ .nil → s.core.vec.vl.toNat ≤ ty.vlmax → s.core.vec.block = none → room →
      QueuesStream (.cvld vd md d x tag ty) s (nextPc s)
        (fun y => y.port = 12 ∧ y.desc = a ∧ ∃ dv, y.deliver = some dv ∧ dv.m = md ∧ dv.ty = ty ∧ dv.vl = s.core.vec.vl.toNat)
        (fun t => t.core.vec.block.isSome = true ∧ (x ≠ 0 → x ∈ t.core.seq.busy)))

/-- RINIT writes the ring object and registers the ring, empty; AWAIT goes on once the slot it names is filled and not released, and waits
before; RELS releases the oldest filled slot; CCANCEL stops every stream of the core on a port, and no stream that has nothing to do with the
port or its rings: it goes on once each is gone, its status written, and waits for one with bytes out that are not accepted yet (R253, R259,
R260, R262). -/
def Obligations.Rings : Prop :=
  ∀ (rg b z n : SReg) (p : BitVec 4) (r : Ring) (ph : Phys) (s s1 : State),
    let obj := getS s rg
    let k : BitVec 32 := (getS s n).truncate 32
    let onPort := fun (x : Stream) => x ∈ queuedStreams s s.core ∧ x.port = p.toNat
    let marked := fun (t : State) => ∃ x ∈ t.copy.streams, x.core = s.core.id ∧ x.launch = 0 ∧ x.ends = some (0, 1)
    takeError s = none → obj.toNat % 64 = 0 → MemWf s.mem →
    (ringBad s obj (getS s b) (getS s z) (getS s n) = false → MaySend s → transS .w obj s = (.ok ph, s1) → PlainPlace ph.pa →
      memOk s1 s1.core.seq.eff ph.pa = true → AtOnce s1 ph.pa →
      ∃ t r', exec (.rinit rg b z n) s = .next t ∧ getRing t s.core.id s.core.seq.tid obj = some r' ∧ r'.base = getS s b ∧
        r'.ssize = (getS s z).toNat ∧ r'.scount = (getS s n).toNat ∧ r'.wptr = 0 ∧ r'.rptr = 0 ∧ r'.resv = 0 ∧
        memRead t.mem ph.pa 8 = (getS s b).toNat ∧ memRead t.mem (ph.pa + 8) 4 = (getS s z).toNat ∧
        memRead t.mem (ph.pa + 12) 4 = (getS s n).toNat ∧ memRead t.mem (ph.pa + 16) 48 = 0 ∧ MemKeptOutside ph.pa 64 s t ∧
        RegsKept [] s t ∧ FlowsOn s t) ∧
    (getRing s s.core.id s.core.seq.tid obj = some r →
      (∀ j : Nat, (k - r.rptr).toNat < r.scount → (r.wptr - k).toNat = j → 1 ≤ j → j ≤ r.scount → Continues (.await rg n) s) ∧
      ((k - r.rptr).toNat < r.scount → k = r.wptr → Waits (.await rg n) s) ∧
      (r.scount ≤ (k - r.rptr).toNat → CanTrap s → EntersTrap (.await rg n) s 1 s.core.seq.pc (getS s n)) ∧
      (copyPointPending s = false → wordOk (taskStream s) (r.obj + 16) s = true → r.rptr ≠ r.wptr →
        ∃ t r', exec (.rels rg) s = .next t ∧ getRing t s.core.id s.core.seq.tid obj = some r' ∧ r'.rptr = r.rptr + 1 ∧ r'.wptr = r.wptr ∧
          RegsKept [] s t ∧ FlowsOn s t ∧ VectorKept s t ∧ StatusKept s t)) ∧
    (∃ t, exec (.ccancel p) s = .next t ∧ RegsKept [] s t ∧ (¬marked t → FlowsOn s t) ∧
      (marked t → t.core.seq.pc = s.core.seq.pc ∧ t.core.seq.stall = true) ∧
      (∀ x, onPort x → ∀ y ∈ t.copy.streams, y.id = x.id → y.ends = some (0, 1)) ∧
      ∀ x ∈ s.copy.streams, x.core ≠ s.core.id ∨ (x.ring = none ∧ ¬onPort x) → (s.copy.streams.map Stream.id).Nodup → x ∈ t.copy.streams) ∧
    (¬marked s → (∀ x, ¬onPort x) → ∃ t, exec (.ccancel p) s = .next t ∧ t.copy = s.copy ∧ RegsKept [] s t ∧ FlowsOn s t ∧ MemKept s t) ∧
    ∀ x, ¬marked s → onPort x → (∀ y, onPort y → y = x) → (s.copy.streams.map Stream.id).Nodup → x.ring = none → x.ports = [] →
      transC x .w (x.desc + 24) s = (.ok ph, s1) → PlainPlace ph.pa → memOk s x.eff ph.pa = true →
      ∃ t, exec (.ccancel p) s = .next t ∧ t.copy.streams = s.copy.streams.filter (fun y => decide (y.id ≠ x.id)) ∧
        memRead t.mem ph.pa 8 = statusWord (x.landed % 2 ^ 32) 0 3 ∧ MemKeptOutside ph.pa 8 s t ∧ RegsKept [] s t ∧ FlowsOn s t

/-- The dispatchers: a start reads the descriptor and marks the stream running; each element in range is copied from its source address to
its destination address and nothing else is written, one out of range is passed over, one whose budget is spent waits, and one whose
endpoints do not fit the port stops the stream at the endpoint that does not fit; a completed stream is gone, where it wrote to host or peer
memory only once its bytes have been accepted, and so is a failed or cancelled one, the failed one leaving its cause for its task (R123, R248,
R249, R251, R252, R254, R262, R263). -/
def Obligations.Streams : Prop :=
  (∀ (id : Nat) (t : Stream) (bs : List Byte) (s s1 : State), getStream s id = some t → mayStart s t = true → t.deliver = none →
    openDesc t s = (.ok bs, s1) →
    ∃ u, exec (.streamStart id) s = .next u ∧ u.core = s.core ∧
      getStream u id = some { t with running := true, image := bs }) ∧
  (∀ (t : Stream) (n : Nat) (p q : Phys) (s s1 s2 : State),
    let e := descEsize t.image
    let sa := (streamAddrs s t n).1
    let da := (streamAddrs s t n).2
    MemWf s.mem → t.deliver = none →
    (inRange (descDims t.image) (elemIdx (descDims t.image) n) = false → moveElem t n s = .ok t s) ∧
    (inRange (descDims t.image) (elemIdx (descDims t.image) n) = true → transC t .r sa s = (.ok p, s1) → PlainAccess s p.pa e →
      streamOk t s1 p.pa = true → transC t .w da s1 = (.ok q, s2) → PlainPlace q.pa →
      let a := endKind sa.toNat p.pa
      (endsFit t.port a (endKind da.toNat q.pa) = false → moveElem t n s = .bad 0x24 (if sourceFits t.port a then da else sa)) ∧
      (endsFit t.port a (endKind da.toNat q.pa) = true → streamOk t s2 q.pa = false → moveElem t n s = .wait) ∧
      (endsFit t.port a (endKind da.toNat q.pa) = true → streamOk t s2 q.pa = true →
        ∃ u, moveElem t n s = .ok t u ∧ memRead u.mem q.pa e = memRead s.mem p.pa e ∧ MemKeptOutside q.pa e s u ∧ u.core = s.core)) ∧
    (inRange (descDims t.image) (elemIdx (descDims t.image) n) = true → ∀ c, transC t .r sa s = (.error c, s1) →
      moveElem t n s = .bad c sa)) ∧
  ∀ (id : Nat) (t now t1 : Stream) (s s1 : State), getStream s id = some t → t.id = id → t.launch = 0 →
    let quiet := ∀ p ∈ t.ports, chanOpen s p 0 = true
    (quiet → now = { t with ports := [] }) → (¬quiet → now = t) →
    (t.running = true → t.sent = false → t.ends = none → runStream now s = (s1, t1, none) →
      (t1.ports = [] → statusOk t1 s1 = true →
        ∃ u, exec (.streamCompletion id) s = .next u ∧ getStream u id = none ∧ u.core.seq.regs = s1.core.seq.regs) ∧
      (t1.ports ≠ [] ∨ statusOk t1 s1 = false →
        ∃ u, exec (.streamCompletion id) s = .next u ∧ getStream u id = some { t1 with sent := true })) ∧
    (t.sent = true → t.ends = none → quiet → statusOk t s = true →
      ∃ u, exec (.streamCompletion id) s = .next u ∧ getStream u id = none) ∧
    (t.sent = true ∨ t.ends ≠ none → ¬quiet ∨ statusOk t s = false → exec (.streamCompletion id) s = .next s) ∧
    (∀ c va, t.running = true → t.sent = false → t.ends = none → c ≠ 0 → runStream now s = (s1, t1, some (c, va)) →
      (t1.ports = [] → statusOk t1 s1 = true →
        ∃ u, exec (.streamError id) s = .next u ∧ getStream u id = none ∧ ⟨t.core, t.tid, c, va⟩ ∈ u.copy.errors) ∧
      (t1.ports ≠ [] ∨ statusOk t1 s1 = false →
        ∃ u, exec (.streamError id) s = .next u ∧ getStream u id = some { t1 with ends := some (c, va) } ∧ u.copy.errors = s1.copy.errors)) ∧
    (∀ c va, t.ends = some (c, va) → quiet → statusOk t s = true →
      ∃ u, exec (.streamCompletion id) s = .next u ∧ getStream u id = none ∧ (c ≠ 0 → ⟨t.core, t.tid, c, va⟩ ∈ u.copy.errors))

/-! ## Near memory -/

/-- NLOOKUP whose descriptor, indices, weights, rows and outputs translate, once its budgets let its own reads through, and NADD and NADDR whose row does, join the near-memory queue,
the two updates committing the task; an update at VL 0 only commits. NFENCE goes on where no command it covers is queued. A command is
sent, its source elements read, once its budgets let its bytes through (R305); how many events that takes is the model's (log entry 17). A
performed update gives every word of its row the combined value, NADDR's destination the old words; a performed lookup writes its pooled words
(R296, R298 to R304). -/
def Obligations.NearMemory : Prop :=
  (∀ (op : NOp) (a d o : SReg) (vd : VDst) (src : VSrc) (tag : BitVec 8) (sc : Scope) (s : State),
    let dv := getS s d
    let ov := getS s o
    let vl := s.core.vec.vl.toNat
    let room := (nearOf s).length < 32
    let eff := s.core.seq.eff
    let db := listBytes 64 1 dv s
    (∀ (x : Nat) (l : Looked) (s1 s2 : State), dv.toNat % 64 = 0 → ov.toNat % 4 = 0 →
      heldByPoint s s.core .n (nextNum s) = false → room → portHeld s db = false → bytesOk s eff db = true → readN 64 1 dv s = (.ok [x], s1) →
      bagBad x = false → bagMisaligned (bagOf x) = none → portHeld s1 (bagLists (bagOf x) s1) = false →
      bytesOk s1 eff (bagLists (bagOf x) s1) = true →
      portLookup ov (bagOf x) s1 = (.ok l, s2) →
      QueuesNear (.nlookup d o tag) s false fun c => c.rows = l.rows ∧ c.wts = l.wts ∧ c.out = l.out ∧ c.w = (bagOf x).w ∧
        c.isMax = (bagOf x).isMax ∧ c.env.tag = tag.toNat ∧ c.data = none) ∧
    (dv.toNat % 64 = 0 → ov.toNat % 4 = 0 → portHeld s db = true ∨ bytesOk s eff db = false → Waits (.nlookup d o tag) s) ∧
    (dv.toNat % 64 ≠ 0 → CanTrap s → EntersTrap (.nlookup d o tag) s 9 s.core.seq.pc dv) ∧
    (∀ (pa : Nat) (s1 : State), s.core.vec.block = none → 1 ≤ vl → vl ≤ 256 → room → transRow .rw (getS s a) (4 * vl) s = (.ok pa, s1) →
      QueuesNear (.nadd op a src tag) s true (fun c => c.rows = [pa] ∧ c.w = vl ∧ c.env.tag = tag.toNat) ∧
      (vd ≠ .nil → QueuesNear (.naddr op vd a src tag) s true fun c => c.rows = [pa] ∧ c.w = vl ∧ c.env.tag = tag.toNat)) ∧
    (s.core.vec.block = none → vl = 0 → ∀ i, i = .nadd op a src tag ∨ (i = .naddr op vd a src tag ∧ vd ≠ .nil) →
      ∃ t, exec i s = .next t ∧ t.near = s.near ∧ t.core.seq.cmt = true ∧ RegsKept [] s t ∧ FlowsOn s t ∧ MemKept s t) ∧
    (nearOf s = [] → Continues (.nfence sc) s) ∧ (nearOf s ≠ [] → Waits (.nfence sc) s) ∧
    (room → (∀ c ∈ nearOf s, c.env.tag ≠ tag.toNat) → Continues (.nfenceTag sc tag) s) ∧
    (¬room ∨ (∃ c ∈ nearOf s, c.env.tag = tag.toNat) → Waits (.nfenceTag sc tag) s)) ∧
  (∀ (id : Nat) (c : NearCmd) (s : State), (s.near.find? fun y => decide (y.id = id)) = some c → c.data = none → c.stale = false →
    nearReady s c = true →
    (bytesOk s c.eff (nearCost c) = true → Happens (.nmePerformed id) s fun t => MemKept s t ∧ CoresKept s t ∧
      t.near = s.near.map fun y => if y.id = id then { c with data := some (nearSource c (focus s c.core).core) } else y) ∧
    (bytesOk s c.eff (nearCost c) = false → Happens (.nmePerformed id) s fun t => MemKept s t ∧ CoresKept s t ∧ t.budgets = s.budgets ∧
      t.near = s.near.map fun y => if y.id = id then c else y)) ∧
  (∀ (id pa : Nat) (c : NearCmd) (l : List (Nat × Bool)) (op : NOp) (a : SReg) (src : VSrc) (tag : BitVec 8) (s : State),
    let old := fun (e : Nat) => memRead s.mem (pa + 4 * e) 4
    let post := fun (t : State) => t.near = s.near.filter (fun y => decide (y.id ≠ id)) ∧ 
      MemKeptOff ((pa, 4 * c.w) :: s.slots.map fun x => (x.slot + 600, 1)) s t ∧
      (∀ e, e < c.w → memRead t.mem (pa + 4 * e) 4 = (updElem op (old e) (l.getD e (0, false)).1).1 % 2 ^ 32) ∧
      RegsKept [] (focus s c.core) (focus t c.core) ∧ TilesKept (focus s c.core) (focus t c.core)
    MemWf s.mem → (s.near.find? fun y => decide (y.id = id)) = some c → c.data = some l → c.rows = [pa] → engineLost s pa = false →
    (∀ x ∈ s.slots, x.slot + 601 ≤ pa ∨ pa + 4 * c.w ≤ x.slot + 600) →
    (c.instr = .nadd op a src tag → Happens (.nmePerformed id) s post) ∧
    (∀ vd slot, c.instr = .naddr op vd a src tag → dstSlot c.env.rot vd = some slot → slot < 72 → c.w ≤ 256 →
      Happens (.nmePerformed id) s fun t => post t ∧
        (onTask (focus s c.core).core c.tid = true → ∀ e, e < c.w → bits (regImg (focus t c.core).core.vec slot) (32 * e) 32 = old e) ∧
        (onTask (focus s c.core).core c.tid = false →
          regImg (focus t c.core).core.vec slot = regImg (focus s c.core).core.vec slot))) ∧
  (∀ (id : Nat) (c : NearCmd) (d o : SReg) (tag : BitVec 8) (s : State),
    MemWf s.mem → (s.near.find? fun y => decide (y.id = id)) = some c → c.data.isSome = true → c.instr = .nlookup d o tag →
    (∀ pa ∈ c.rows, engineLost s pa = false) → c.out.length = c.w →
    (∀ i j, i < c.w → j < i → c.out.getD i 0 + 4 ≤ c.out.getD j 0 ∨ c.out.getD j 0 + 4 ≤ c.out.getD i 0) →
    (∀ e ∈ s.slots, e.tid ≠ c.tid) →
    Happens (.nmePerformed id) s fun t => t.near = s.near.filter (fun y => decide (y.id ≠ id)) ∧
      MemKeptOff (c.out.map fun pa => (pa, 4)) s t ∧
      ∀ j, j < c.w → memRead t.mem (c.out.getD j 0) 4 = (poolWord s c j).1 % 2 ^ 32)

/-! ## Scale-up fabric -/

/-- FPUT, FGET, FSIG and the four COLLs whose ranges translate join the fabric queue; all but FGET commit the task; a COLL, once a budget lets
its descriptor be read, also sets its status to 0xFF and has its check to send to both neighbours. A length of 0 moves nothing; what
`sys.tval` shows of a misaligned length, and that a COLL's checks are its first two messages, are the model's: log entries 40 and 41. FFENCE goes
on where the core has no operation outstanding; FSTAT gives a port's word or the core's, once the fabric queue has room (R8, R123, R311 to R315,
R317 to R319). -/
def Obligations.FabricDispatch : Prop :=
  ∀ (r l n d g sr : SReg) (tag : BitVec 8) (count : BitVec 24) (ty : ETy) (s : State),
    let rv := getS s r
    let lv := getS s l
    let nv := getS s n
    let room := (fabOf s).length < 32
    (∀ (put : Bool) (i : Instr), i = (if put then .fput r l n tag else .fget r l n tag) → rv.toNat % 4 = 0 → lv.toNat % 4 = 0 →
      nv.toNat % 4 = 0 → nv.toNat ≤ 2 ^ 24 →
      (nv = 0 → ∃ t, exec i s = .next t ∧ t.fab = s.fab ∧ t.core.seq.cmt = (s.core.seq.cmt || put) ∧ RegsKept [] s t ∧ FlowsOn s t ∧
        MemKept s t) ∧
      (∀ (rem loc : List (Nat × Nat)) (s1 s2 : State), nv ≠ 0 → room →
        transRange true (if put then .w else .r) rv nv.toNat s = (.ok rem, s1) →
        transRange false (if put then .r else .w) lv nv.toNat s1 = (.ok loc, s2) →
        QueuesFab i s put [] (fun o => o.remote = rem ∧ o.locals = loc ∧ o.n = nv.toNat ∧ o.tag = tag.toNat) fun _ => True)) ∧
    (nv.toNat % 4 ≠ 0 → rv.toNat % 4 = 0 → lv.toNat % 4 = 0 → nv.toNat ≤ 2 ^ 24 → CanTrap s →
      EntersTrap (.fput r l n tag) s 9 s.core.seq.pc nv ∧ EntersTrap (.fget r l n tag) s 9 s.core.seq.pc nv) ∧
    (∀ (rem : List (Nat × Nat)) (s1 : State), count ≠ 0 → rv.toNat % 64 = 0 → room → transRange true .rw rv 64 s = (.ok rem, s1) →
      QueuesFab (.fsig r count) s true [] (fun o => o.remote = rem) fun _ => True) ∧
    (∀ (i : Instr) (gp src dst pm : List (Nat × Nat)) (s1 s2 s3 s4 : State),
      let kind := (collForm i).1
      let e := (collForm i).2.width / 8
      let gs := readP s1 gp
      let nbit := if kind = 2 then collChunks 2 gs else blockChunks gs
      let gpa := (gp.headD (0, 0)).1
      i ∈ [Instr.collAllreduce g sr d tag ty, .collRedscat g sr d tag ty, .collAllgather g sr d tag ty, .collBcast g sr d tag ty] → MemWf s.mem →
      (getS s g).toNat % 64 = 0 → (getS s sr).toNat % e = 0 → (getS s d).toNat % e = 0 → room → ((fabOf s).filter FabOp.isColl).length < 4 →
      heldByPoint s s.core .f (nextNum s) = false → transRange false .rw (getS s g) 192 s = (.ok gp, s1) →
      ((fabOf s1).any fun o => overlaps (o.reads ++ o.writes) gp) = false → bytesOk s1 s1.core.seq.eff gp = true → poisonedP s1 gp = false →
      groupBad gs = false →
      transRange false .r (getS s sr) (e * collSrcCount kind gs) s1 = (.ok src, s2) →
      transRange false .w (getS s d) (e * collDstCount kind gs) s2 = (.ok dst, s3) →
      transRange false .w (gPmap gs) ((nbit + 7) / 8) s3 = (.ok pm, s4) →
      QueuesFab i s true [(gpa + 24, 8)]
        (fun o => o.src = src ∧ o.locals = dst ∧ o.pm = pm ∧ o.gpa = gpa ∧ o.group = gs ∧ o.tag = tag.toNat ∧ o.checks = [] ∧
          o.todo = [.check (nextRank gs), .check (prevRank gs)])
        fun t => memRead t.mem (gpa + 24) 8 = 0xFF ∧ t.out = s.out) ∧
    (fabOf s = [] → Continues .ffence s) ∧ (fabOf s ≠ [] → Waits .ffence s) ∧
    (∀ p : Fin 24, rv = BitVec.ofNat 64 p.val → room → Puts (.fstat d r) s d (portWord s.ports[p])) ∧
    (rv = 255 → room → Puts (.fstat d r) s d (summaryWord s)) ∧ (rv.toNat < 24 ∨ rv = 255 → ¬room → Waits (.fstat d r) s) ∧
    (24 ≤ rv.toNat → rv ≠ 255 → CanTrap s → EntersTrap (.fstat d r) s 1 s.core.seq.pc rv)

/-- An accepted FPUT sends its bytes as they stand then, a moment that is the model's between dispatch and performance (log entry 40), with their
poison, an accepted FGET writes the bytes its response carries, an accepted FSIG sends its
count, and the operation leaves the queue. A COLL whose neighbour disagrees ends with status 2; a partial sum is to go on to the next rank with
this member's elements added; a COLL sends one check or chunk at a time, over a port with an open channel and something left of its budget, and
nothing while no port has; how the check and the chunks are numbered, and which port takes them, are the model's: log entries 41 and 42. Ports
train, pause, replay and fail, where the manual leaves two outcomes by the next choice: log entries 1 and 42 (R123, R308, R312, R313, R316, R319,
R320). -/
def Obligations.FabricEvents : Prop :=
  (∀ (id la pa : Nat) (o : FabOp) (r l n : SReg) (tag : BitVec 8) (count : BitVec 24) (bs : List Byte) (psn : List Nat) (s : State),
    let gone := fun (t : State) => t.fab.ops = s.fab.ops.filter (fun x => decide (x.id ≠ id)) ∧ CoresKept s t
    let node := (remoteOf s pa).1
    let there := (remoteOf s pa).2
    (s.fab.ops.find? fun x => decide (x.id = id)) = some o → fabReady s o = true → o.lost = false → o.stale = false → o.remote = [(pa, o.n)] →
    0 < o.n →
    (o.instr = .fput r l n tag → o.locals = [(la, o.n)] → Happens (.fabricAcceptance id bs psn) s fun t => gone t ∧ MemKept s t ∧
      t.out = s.out ++ [.put node there (s.rdBytes la o.n) (poisonOffsets s [(la, o.n)])]) ∧
    (MemWf s.mem → o.instr = .fget r l n tag → o.locals = [(la, o.n)] → bs.length = o.n → Happens (.fabricAcceptance id bs psn) s fun t => gone t ∧
      MemKeptOutside la o.n s t ∧ t.rdBytes la o.n = bs ∧ t.out = s.out ++ [.read node there o.n]) ∧
    (o.instr = .fsig r count → Happens (.fabricAcceptance id bs psn) s fun t => gone t ∧ MemKept s t ∧
      t.out = s.out ++ [.signal node there count.toNat])) ∧
  (∀ (id k : Nat) (o : FabOp) (bs : List Byte) (psn : Bool) (fl : BitVec 8) (s : State),
    let kind := (collForm o.instr).1
    (s.fab.ops.find? fun x => decide (x.id = id)) = some o → fabReady s o = true → o.isColl = true →
    (MemWf s.mem → o.checks.length < 2 → o.todo = [] → k ≤ 1 → k ∉ o.checks → groupAgrees o.group bs = false → Happens (.collChunk id k bs psn fl) s fun t =>
      memRead t.mem (o.gpa + 24) 8 = 2 ∧ MemKeptOutside (o.gpa + 24) 8 s t ∧ ∀ x ∈ t.fab.ops, x.id ≠ id) ∧
    (o.checks = [] → o.todo = [] → k ≤ 1 → groupAgrees o.group bs = true → Happens (.collChunk id k bs psn fl) s fun t =>
      MemKept s t ∧ ({ o with checks := [k] } ∈ t.fab.ops) ∧ t.out = s.out) ∧
    (2 ≤ o.checks.length → k < collChunks kind o.group → kind < 2 → k ∉ o.joined → bs.length = 4 * chunkLen o.group k →
      gRank o.group ≠ chunkLast kind o.group k → bytesOk s o.eff (srcSlice o k) = true →
      Happens (.collChunk id k bs psn fl) s fun t => ∃ f xs, ∃ x ∈ t.fab.ops, x.id = id ∧ k ∈ x.joined ∧
        x.todo = o.todo ++ [.pass (nextRank o.group) k (packBytes 4 xs) (psn || (ownElems o k s).2) f] ∧
        t.out = s.out ∧ MemKept s t ∧ xs.length = chunkLen o.group k ∧ ∀ j, j < chunkLen o.group k →
          xs.getD j 0 = (windowSum [decodeF .f32 (field bs (4 * j) 4), decodeF .f32 ((ownElems o k s).1.getD j 0)]).1)) ∧
  (∀ (id r k p : Nat) (o : FabOp) (bs any : List Byte) (ps : List Nat) (psn : Bool) (fl : BitVec 8) (l : List CollMsg) (s : State),
    let sends := fun (b : List Byte) (t : State) (n : Nat) (bad : Bool) (f : BitVec 8) =>
      t.out = s.out ++ [.chunk (gNode o.group r) (gKey o.group) n b bad f] ∧ CoresKept s t
    (s.fab.ops.find? fun x => decide (x.id = id)) = some o → o.isColl = true → o.lost = false →
    (o.todo ≠ [] → collPort s o = none → exec (.fabricAcceptance id any ps) s = .next s) ∧
    (collPort s o = some p →
      (o.todo = .check r :: l → Happens (.fabricAcceptance id any ps) s fun t => sends o.group t 0 false 0 ∧ MemKept s t ∧
        { o with todo := l } ∈ t.fab.ops) ∧
      (o.todo = .pass r k bs psn fl :: l → l ≠ [] → Happens (.fabricAcceptance id any ps) s fun t => sends bs t k psn fl ∧ MemKept s t ∧
        { o with todo := l } ∈ t.fab.ops))) ∧
  (∀ (p : Fin 24) (s s1 : State) (b : Bool) (partner vc : Nat) (on : Bool),
    let x := s.ports[p]
    let n := if b then 1 else x.consec + 1
    let only := fun (t : State) => (∀ q : Fin 24, q ≠ p → t.ports[q] = s.ports[q])
    popChoice s = (b, s1) →
    (x.st = 2 → Happens (.linkReplay (.port p)) s fun t => only t ∧
      (n < 16 → t.ports[p] = { x with consec := n, retries := min 65535 (x.retries + 1) } ∧ t.fab = s.fab ∧ MemKept s t) ∧
      (16 ≤ n → t.ports[p].st = 3)) ∧
    (x.st = 1 ∨ x.st = 2 → Happens (.linkAckTimeout (.port p)) s fun t => only t ∧ t.ports[p].st = 3) ∧
    (s.boot = .up → Happens (.fabricLinkTrained p partner) s fun t => only t ∧ CoresKept s t ∧
      (x.st = 0 → t.ports[p].st = (if b then 1 else 2) ∧ t.ports[p].partner = partner % 4096) ∧
      (x.st = 1 → t.ports[p].st = 2 ∧ t.ports[p].partner = partner % 4096) ∧ (2 ≤ x.st → t = s)) ∧
    (vc < 4 → Happens (.virtualChannelPause p vc on) s fun t => only t ∧ CoresKept s t ∧ t.ports[p].st = x.st ∧
      bitAt t.ports[p].paused vc = on ∧ ∀ k, k ≠ vc → bitAt t.ports[p].paused k = bitAt x.paused k)) ∧
  (∀ (c : Fin 16) (s s1 : State) (b : Bool),
    let n := if b then 1 else s.glinks[c].consec + 1
    popChoice s = (b, s1) → chipDown s c.val = false →
    (Happens (.linkReplay (.golhan c)) s fun t => (n < 16 → t.glinks[c] = { s.glinks[c] with consec := n } ∧ MemKept s t) ∧
      (16 ≤ n → t.glinks[c].failed = true)) ∧
    (Happens (.linkAckTimeout (.golhan c)) s fun t => t.glinks[c].failed = true))

/-! ## Front end -/

/-- The Beret instructions, on a program in PROCESS that may take a step: what each writes, where the program goes on, and what it does to
its queue, its signals and the packet (R128, R129). WAITB reads its signals one after the other, and may be left between two reads, as the next
choice says (R118, R119). At 512 steps without DONEB the packet fails (R129). That FWDB drops at a DISABLED queue, that DONEB's barrier holds on
the last thing placed, and the saturation of SDECB above are the model's: log entries 26, 27 and 56; where an evaluation is interrupted is 58. -/
def Obligations.BeretInstructions : Prop :=
  (∀ (d a b : BitVec 4) (imm : BitVec 15) (sh lo wm1 : BitVec 6) (len count : BitVec 7) (res : Bool) (s : State) (x : Queue) (c : Beret),
    let q := s.fe.cur
    let u := bGet c a
    let w := bGet c b
    let goes := fun (i : Instr) (post : State → Prop) => BeretRuns i s c [] fun c' t => BeretNext c c' ∧ post t
    let branch := fun (i : Instr) (taken : Prop) => BeretRuns i s c [] fun c' t => t.mem = s.mem ∧
      (c.loops = [] → (taken → c'.at_ = c.at_ + 1 + imm.toNat) ∧ (¬taken → c'.at_ = c.at_ + 1))
    InBeret s x c →
    BeretPuts (.movb d imm) s c d (imm.signExtend 64) ∧ BeretPuts (.addb d a b) s c d (u + w) ∧
    BeretPuts (.addib d a imm) s c d (u + imm.signExtend 64) ∧ BeretPuts (.andb d a b) s c d (u &&& w) ∧
    BeretPuts (.orb d a b) s c d (u ||| w) ∧ BeretPuts (.shlib d a sh) s c d (u <<< sh.toNat) ∧
    BeretPuts (.shrib d a sh) s c d (u >>> sh.toNat) ∧
    BeretPuts (.bfxb d a lo wm1) s c d (BitVec.ofNat 64 (u.toNat / 2 ^ lo.toNat % 2 ^ (wm1.toNat + 1))) ∧
    (imm.toNat + 8 ≤ 64 * pLen x.pkt → BeretPuts (.ldpb d imm) s c d (BitVec.ofNat 64 (field x.pkt imm.toNat 8))) ∧
    (64 * pLen x.pkt < imm.toNat + 8 → Happens (.ldpb d imm) s fun t => PacketEnds s t q .skip) ∧
    BeretPuts (.ldqb d imm) s c d (BitVec.ofNat 64 (bits (descImage x) (8 * imm.toNat) 64)) ∧
    goes (.stqb a) (fun t => t.mem = s.mem ∧ (getQ t q).pword = u) ∧
    (∀ p, MemWf s.mem → manifestSignal x imm.toNat = some p → p ≠ 0 → sigOk p = true → isPoisoned s p 64 = false →
      BeretPuts (.srdb d imm) s c d (BitVec.ofNat 64 (memRead s.mem p 8)) ∧
      goes (.sdecb a imm) (fun t => sigValue t p = max (-(2 ^ 63)) (min (2 ^ 63 - 1) (sigValue s p - u.toInt)) ∧ MemKeptOutside p 12 s t) ∧
      goes (.ssetb a imm) (fun t => sigValue t p = u.toInt ∧ MemKeptOutside p 12 s t)) ∧
    (∀ mask, mask = u.toNat % 65536 →
      (∀ j, j < 16 → bitAt mask j = true → ∃ p, manifestSignal x j = some p ∧ p ≠ 0 ∧ sigOk p = true ∧ isPoisoned s p 64 = false) →
      let sigs := maskSignals (fun j => (manifestSignal x j).getD 0) mask
      let holds := fun (t : State) => (getQ t q).st = .held ∧ (getQ t q).hold = some (.waitb d mask)
      ((∀ b ∈ s.choices, b = false) →
        (evalSignals s sigs = 1 → BeretPuts (.waitb d a) s c d 0) ∧ (evalSignals s sigs = 2 → BeretPuts (.waitb d a) s c d 1) ∧
        (evalSignals s sigs = 0 → goes (.waitb d a) fun t => holds t ∧ (getQ t q).pass = none)) ∧
      ∀ p l r, sigs = p :: l → l ≠ [] → 0 ≤ sigValue s p → s.choices = true :: r →
        goes (.waitb d a) fun t => holds t ∧ (getQ t q).pass = some (l, decide (sigValue s p = 0))) ∧
    (16 ≤ (bGet c 14).toNat → bGet c 13 = 0 → isPoisoned s x.rcb 256 = false →
      (∀ blk s1, 1 ≤ (bGet c 12).toNat → (bGet c 12).toNat ≤ 2 ^ 24 → (bGet c 11).toNat < 2 ^ 32 → (bGet c 11).toNat % 64 = 0 →
        placeLaunch ⟨(bGet c 8).toNat, (bGet c 9).toNat, (bGet c 10).toNat, (bGet c 11).toNat, (bGet c 12).toNat, 0, x.rcb, res, false, 0⟩ s =
          (.placed blk, s1) →
        goes (.placeb res) fun t => t.mem = s1.mem ∧ (getQ t q).last = some (.launch blk)) ∧
      (∀ g blk s1, (bGet c 8).toNat ≠ 0 → (bGet c 8).toNat % 65536 = 0 → inHbm (bGet c 8).toNat 0x78000 = true →
        (bGet c 10).toNat < 2 ^ 56 → region s x.rcb = some g → isPoisoned s (bGet c 8).toNat 0x2000 = false →
        imageOk s (bGet c 8).toNat g = true →
        placeLaunch { code := (bGet c 8).toNat, rcb := x.rcb, image := true, extra := (bGet c 9).toNat + (bGet c 10).toNat * 2 ^ 64 } s =
          (.placed blk, s1) →
        goes .imgb fun t => t.mem = s1.mem ∧ (getQ t q).last = some (.launch blk)) ∧
      (∀ job s1, startCopy (bGet c 8).toNat ((bGet c 9).toNat % 256) 0 x.rcb s = (.placed job, s1) →
        goes .copyb fun t => t.mem = s1.mem ∧ t.copy = s1.copy ∧ (getQ t q).last = some (.copy job)) ∧
      (∀ s1, startCopy (bGet c 8).toNat ((bGet c 9).toNat % 256) 0 x.rcb s = (.wait, s1) →
        Happens .copyb s fun t => (getQ t q).blocked = true ∧ (getQ t q).st = .process)) ∧
    branch (.beqb a b imm) (u = w) ∧ branch (.bneb a b imm) (u ≠ w) ∧ branch (.bltb a b imm) (u.toInt < w.toInt) ∧
    BeretRuns (.loopb len count) s c [] (fun c' t => t.mem = s.mem ∧ c'.at_ = c.at_ + 1 ∧
      c'.loops = (c.at_ + 1, c.at_ + 1 + len.toNat, count.toNat) :: c.loops) ∧
    (∀ e, x.manifest[u.toNat]? = some e → manifestKind e = 2 → goes (.fwdb a) fun t =>
      let y := getQ s (e % 2 ^ 16)
      let z := getQ t (e % 2 ^ 16)
      (y.st ≠ .disabled → ringRoom y (pLen x.pkt) = true → z.tail = y.tail + BitVec.ofNat 32 (pLen x.pkt) ∧ z.drops = y.drops) ∧
      (y.st = .disabled ∨ ringRoom y (pLen x.pkt) = false → z.tail = y.tail ∧ z.drops = min (2 ^ 32 - 1) (y.drops + 1))) ∧
    (u.toNat % 256 = 0 → Happens (.doneb a) s fun t => CoresKept s t ∧ PacketEnds s t q
      (match pBar x.pkt, x.last with
        | true, some _ => .held
        | _, _ => restState s q)) ∧
    (u.toNat % 256 ≠ 0 → Happens (.doneb a) s fun t => CoresKept s t ∧ PacketEnds s t q .skip)) ∧
  (∀ (q : Nat) (c : Beret) (s : State), (getQ s q).st = .process → (getQ s q).ctx = some c → 512 ≤ c.steps →
    Happens (.beretStepLimit q) s fun t => CoresKept s t ∧ PacketEnds s t q .skip)

/-- Writes to a launch window: an inline packet and TAIL move the tail where they fit; ENABLE of a sound descriptor starts a queue from it;
DISABLE stops one, at once or, where it processes, at the packet boundary; RESUME restarts one that failed its checks; SWAP takes a verified
program. Each that does not apply is ignored, with its error code. That head is past the packet of a queue stopped in WAITB, that a wrong length
comes before a full ring, and the interpreter after ENABLE are the model's: log entries 28, 59 and 60 (R107, R108, R110). -/
def Obligations.LaunchWindow : Prop :=
  ∀ (q : Nat) (arg : Word) (bs : List Byte) (s : State),
    let x := getQ s q
    let gives := fun (i : Instr) (post : Queue → Prop) => Happens i s fun t => CoresKept s t ∧ t.copy = s.copy ∧ post (getQ t q)
    let wrong := fun (i : Instr) (code : Nat) =>
      gives i fun y => y.errcode = code ∧ y.st = x.st ∧ y.tail = x.tail ∧ y.head = x.head ∧ y.prog = x.prog
    let at32 : BitVec 32 := arg.extractLsb' 0 32
    (MemWf s.mem → bs.length = 64 → pLen bs = 1 → x.st ≠ .disabled → ringRoom x 1 = true → x.lsize ≤ 20 →
      (descAddr s q + 64 ≤ slotPa x x.tail ∨ slotPa x x.tail + 64 ≤ descAddr s q) →
      Happens (.inlinePacket q bs) s fun t => CoresKept s t ∧ (getQ t q).tail = x.tail + 1 ∧ (getQ t q).head = x.head ∧
        (getQ t q).st = (if x.st = .idle then .fetch else x.st) ∧ t.rdBytes (slotPa x x.tail) 64 = bs) ∧
    (bs.length ≠ 64 → wrong (.inlinePacket q bs) 1) ∧ (bs.length = 64 → x.st = .disabled → wrong (.inlinePacket q bs) 7) ∧
    (bs.length = 64 → x.st ≠ .disabled → pLen bs ≠ 1 → wrong (.inlinePacket q bs) 1) ∧
    (bs.length = 64 → x.st ≠ .disabled → pLen bs = 1 → ringRoom x 1 = false →
      wrong (.inlinePacket q bs) 2 ∧ gives (.inlinePacket q bs) fun y => y.drops = min (2 ^ 32 - 1) (x.drops + 1)) ∧
    (x.st ≠ .disabled → (at32 - x.head).toNat ≤ 2 ^ x.lsize → (at32 - x.tail).toNat ≤ 2 ^ x.lsize → gives (.tail q arg) fun y =>
      y.tail = at32 ∧ y.head = x.head ∧ y.st = (if x.st = .idle ∧ x.head ≠ at32 then .fetch else x.st)) ∧
    (x.st ≠ .disabled → 2 ^ x.lsize < (at32 - x.head).toNat → wrong (.tail q arg) 3) ∧ (x.st = .disabled → wrong (.tail q arg) 7) ∧
    (x.st ≠ .disabled → wrong (.enable q) 8) ∧
    (∀ base lsize head tail rcb prio itp sq pword : Nat, x.st = .disabled →
      let a := descAddr s q
      let w := fun k => memRead s.mem (a + 8 * k) 8
      inHbm a 64 = true → isPoisoned s a 64 = false → base % 64 = 0 → base ≠ 0 → lsize ≤ 20 → inHbm base (64 * 2 ^ lsize) = true → w 0 = base + lsize →
      head < 2 ^ 32 → tail < 2 ^ 32 → w 1 = head + tail * 2 ^ 32 → rcb % 256 = 0 → rcb ≠ 0 → inHbm rcb 256 = true → prio < 16 →
      w 2 = rcb + prio → itp < 64 → w 3 = itp → sq < 2 ^ 32 → w 4 = sq → w 5 = 0 → w 6 = 0 → w 7 = pword →
      gives (.enable q) fun y => y.st = (if head = tail then .idle else .fetch) ∧ y.ringbase = base ∧ y.lsize = lsize ∧ y.head.toNat = head ∧
        y.tail.toNat = tail ∧ y.rcb = rcb ∧ y.qprio = prio ∧ y.interp = itp ∧ y.seq.toNat = sq ∧ y.pword.toNat = pword ∧ y.prog = 0) ∧
    (x.st = .disabled → 20 < memRead s.mem (descAddr s q) 8 % 32 → wrong (.enable q) 5) ∧
    (x.st = .process → gives (.disable q) fun y => y.disabling = true ∧ y.st = .process ∧ y.head = x.head) ∧
    ((x.st = .idle ∨ x.st = .fetch ∨ x.st = .skip ∨ x.st = .integrity ∨ (x.st = .held ∧ ∀ d m, x.hold ≠ some (.waitb d m))) →
      gives (.disable q) fun y => y.st = .disabled ∧ y.head = x.head ∧ y.tail = x.tail) ∧
    (∀ d m, x.st = .held → x.hold = some (.waitb d m) → gives (.disable q) fun y => y.st = .disabled ∧
      y.head = x.head + BitVec.ofNat 32 (pLen x.pkt) ∧ y.tail = x.tail) ∧
    (x.st = .integrity → gives (.resume q) fun y => y.st = .fetch ∧ y.head = x.head) ∧ (x.st = .disabled → wrong (.resume q) 7) ∧
    (x.st ≠ .disabled → x.st ≠ .integrity → wrong (.resume q) 8) ∧
    (x.st = .disabled → wrong (.swap q arg) 7) ∧
    (x.st ≠ .disabled → loadProg s (bits arg.toNat 6 46 * 64) = none → wrong (.swap q arg) 4) ∧
    (∀ p code m, x.st ≠ .disabled → progPoison s (bits arg.toNat 6 46 * 64) = none →
      loadProg s (bits arg.toNat 6 46 * 64) = some (p, code, m) → gives (.swap q arg) fun y => y.st = x.st ∧
      (x.st = .process → y.prog = x.prog ∧ y.swap = some (p, code, m)) ∧
      (x.st ≠ .process → x.st ≠ .held → y.prog = p ∧ y.code = code ∧ y.manifest = m)) ∧
    wrong (.malformedWindowWrite q) 1

/-- The packet of the queue that its die's arbiter picks is fetched; one that passes its checks is taken in hand, or skipped where the queue
was skipping; one that fails them is read again and, the fifth time, stops the queue. The stock program places LAUNCH, IMAGE and FRAME, moves the target of SIGNAL, starts the stream of COPY, ends NOP, and holds the queue on a BARRIER
until its signals are 0, reading them one after the other: an evaluation may be left between two reads, as the next choice says, and goes on from
there (R118, R119). A packet that waited for room is tried again; a queue moves between the interpreters of its die. The saturation of SIGNAL
above, where an evaluation is interrupted, and the order of the arbiter's round, are the model's: log entries 56, 58 and 61 (R113 to R118, R124, R131, R132, R265). -/
def Obligations.Packets : Prop :=
  (∀ (q : Nat) (s : State),
    let x := getQ s q
    let p := x.pkt
    let rcb := packetRcb x
    let ends := fun (i : Instr) (st : QState) => Happens i s fun t => PacketEnds s t q st
    let after := if pBar p then .held else restState s q
    let places := fun (i : Instr) (r : LaunchReq) =>
      (∀ b s1, placeLaunch r s = (.placed b, s1) → ends i after) ∧ (∀ st s1, placeLaunch r s = (.fail st, s1) → ends i .skip) ∧
      (∀ s1, placeLaunch r s = (.wait, s1) → Happens i s fun t => (getQ t q).blocked = true ∧ (getQ t q).st = .process) ∧
      (∀ pa s1, placeLaunch r s = (.fault pa, s1) → exec i s = .fault (.noSuchAddress pa))
    (stockHas s q 1 = true → x.blocked = false → isPoisoned s rcb 256 = false → places (.launch q) (launchReq p rcb)) ∧
    (∀ g, stockHas s q 2 = true → x.blocked = false → isPoisoned s rcb 256 = false → region s rcb = some g →
      isPoisoned s (field p 32 8) 0x2000 = false → imageOk s (field p 32 8) g = true → places (.image q) (imageReq p rcb)) ∧
    (stockHas s q 7 = true → x.blocked = false →
      (x.ing = true → x.pword.toNat % 2 ^ 16 ≠ q → ends (.frame q) (restState s q)) ∧
      (∀ a y b s1, x.ing = false → a = bits x.pword.toNat 6 46 * 64 → inHbm a 64 = true → y = s.rdBytes a 64 → pType y = 1 → pLen y = 1 →
        packetBad y false = false → isPoisoned s a 64 = false →
        let rcb' := if field y 24 8 = 0 then x.rcb else field y 24 8
        isPoisoned s rcb' 256 = false → placeLaunch { launchReq y rcb' with n := 1, arg := field p 32 8 } s = (.placed b, s1) →
        ends (.frame q) (restState s q))) ∧
    (stockHas s q 6 = true → Happens (.nopPacket q) s fun t => PacketEnds s t q (restState s q) ∧ CoresKept s t) ∧
    (∀ a v, MemWf s.mem → stockHas s q 4 = true → a = field p 16 8 → v = (BitVec.ofNat 64 (field p 24 8)).toInt → isPoisoned s a 64 = false →
      (a + 12 ≤ descAddr s q ∨ descAddr s q + 64 ≤ a) → Happens (.signal q) s fun t => PacketEnds s t q (restState s q) ∧
        sigValue t a = (if field p 32 1 = 0 then max (-(2 ^ 63)) (min (2 ^ 63 - 1) (sigValue s a - v)) else v)) ∧
    (stockHas s q 5 = true → x.blocked = false → isPoisoned s rcb 256 = false →
      (∀ job s1, startCopy (field p 32 8) (field p 40 1) (field p 16 8) rcb s = (.placed job, s1) →
        Happens (.copy q) s fun t => PacketEnds s t q after ∧ t.copy = s1.copy) ∧
      (∀ st s1, startCopy (field p 32 8) (field p 40 1) (field p 16 8) rcb s = (.fail st, s1) → ends (.copy q) .skip) ∧
      (∀ s1, startCopy (field p 32 8) (field p 40 1) (field p 16 8) rcb s = (.wait, s1) →
        Happens (.copy q) s fun t => (getQ t q).blocked = true ∧ (getQ t q).st = .process)) ∧
    (stockHas s q 3 = true → (∀ a ∈ packetSignal p :: barrierSignals p, a ≠ 0 → isPoisoned s a 64 = false) →
      ((∀ b ∈ s.choices, b = false) → (evalSignals s (barrierSignals p) = 1 → ends (.barrier q) (restState s q)) ∧
        (evalSignals s (barrierSignals p) = 2 → ends (.barrier q) .skip) ∧
        (evalSignals s (barrierSignals p) = 0 → ends (.barrier q) .held)) ∧
      ∀ a l r, barrierSignals p = a :: l → l ≠ [] → 0 ≤ sigValue s a → s.choices = true :: r → ends (.barrier q) .held ∧
        (x.disabling = false → Happens (.barrier q) s fun t => (getQ t q).pass = some (l, decide (sigValue s a = 0)))) ∧
    (∀ l zero, x.st = .held → x.hold = some .barrier → x.pass.getD (barrierSignals p, true) = (l, zero) →
      (∀ a ∈ packetSignal p :: l, a ≠ 0 → isPoisoned s a 64 = false) →
      ((∀ b ∈ s.choices, b = false) → Happens (.barrierEvaluation q) s fun t =>
        (evalSignals s l = 1 → zero = true → (getQ t q).hold = none ∧ (getQ t q).st = (if x.head = x.tail then .idle else .fetch)) ∧
        (evalSignals s l = 2 → (getQ t q).hold = none ∧ (getQ t q).st = .skip) ∧
        (evalSignals s l = 0 ∨ (evalSignals s l = 1 ∧ zero = false) → getQ t q = { x with pass := none } ∧ CoresKept s t ∧ t.mem = s.mem)) ∧
      ∀ a r cs, l = a :: r → r ≠ [] → 0 ≤ sigValue s a → s.choices = true :: cs → Happens (.barrierEvaluation q) s fun t =>
        getQ t q = { x with pass := some (r, zero && decide (sigValue s a = 0)) } ∧ CoresKept s t ∧ t.mem = s.mem) ∧
    (s.fe.queues = [x] → x.st = .held → x.hold = some .barrier → x.pass = none → (∀ b ∈ s.choices, b = false) →
      (∀ a ∈ packetSignal p :: barrierSignals p, a ≠ 0 → isPoisoned s a 64 = false) → ∀ a ∈ barrierSignals p, evalSignals s (barrierSignals p) = 1 →
      Happens (.signalPoll a) s fun t => (getQ t q).hold = none ∧ (getQ t q).st = (if x.head = x.tail then .idle else .fetch)) ∧
    (∀ a, s.others = [] → s.core.seq.polls = true → Happens (.signalPoll a) s fun t => t.core.seq.stall = false) ∧
    (x.st = .process → x.blocked = true → (x.ctx.isSome = true → Happens (.placementResume q) s fun t => (getQ t q).blocked = false) ∧
      (∀ b s1, x.ctx = none → pType p = 1 → isPoisoned s rcb 256 = false →
        placeLaunch (launchReq p rcb) (setQ { x with blocked := false } s) = (.placed b, s1) → ends (.placementResume q) after)) ∧
    (∀ itp, Happens (.queueMigration q itp) s fun t => CoresKept s t ∧ t.mem = s.mem ∧
      (x.st ≠ .disabled → x.st ≠ .process → itp < 64 → itp / 16 = x.interp / 16 → s.fe.itpBusy.contains itp = false →
        getQ t q = { x with interp := itp }) ∧
      (itp / 16 ≠ x.interp / 16 → t = s))) ∧
  ∀ (q : Nat) (p : List Byte) (s : State),
    let x := getQ s q
    let mine := arbiterPick s (x.interp / 16) = some q
    canFetch s q = true → x.st = .fetch → x.disabling = false →
    (x.pkt = [] → readPacket x s = some p → (∀ k, k < pLen p → isPoisoned s (slotPa x (x.head + BitVec.ofNat 32 k)) 64 = false) →
      ∀ i, (i = .packetFetch q ∧ x.tries = 0 ∧ mine) ∨ (i = .packetRefetch q ∧ x.tries ≠ 0) → Happens i s fun t => CoresKept s t ∧
        (getQ t q).seq = x.seq + 1 ∧ (getQ t q).tries = 0 ∧
        (x.skipping = true → pResume p = false → (getQ t q).st = .skip ∧ (getQ t q).head = x.head + BitVec.ofNat 32 (pLen p)) ∧
        (x.skipping = false ∨ pResume p = true → packetBad p (s.frameSlots.contains (slotPa x x.head)) = false → (getQ t q).st = .process ∧ (getQ t q).pkt = p ∧ (getQ t q).head = x.head ∧
          ((getQ t q).ctx.isSome = decide (x.prog ≠ 0))) ∧
        (x.skipping = false ∨ pResume p = true → packetBad p (s.frameSlots.contains (slotPa x x.head)) = true → (getQ t q).st = .skip ∧ (getQ t q).head = x.head + BitVec.ofNat 32 (pLen p))) ∧
    (readPacket x s = none →
      (x.tries = 0 → mine → Happens (.packetFetch q) s fun t => (getQ t q).tries = 1 ∧ (getQ t q).st = .fetch ∧ (getQ t q).head = x.head) ∧
      (1 ≤ x.tries → x.tries < 4 → Happens (.packetRefetch q) s fun t => (getQ t q).tries = x.tries + 1 ∧ (getQ t q).st = .fetch ∧
        (getQ t q).refetch = min 255 (x.refetch + 1)) ∧
      (4 ≤ x.tries → Happens (.packetRefetch q) s fun t => (getQ t q).st = .integrity ∧ (getQ t q).errcode = 6 ∧ (getQ t q).head = x.head ∧
        (getQ t q).skipping = x.skipping)) ∧
    (x.tries = 0 → ¬mine → exec (.packetFetch q) s = .next s)

/-! ## Tasks -/

/-- An idle core that its arbiter gives the next task of a gang starts it with the registers of R140; a core asked to pre-empt marks its
committed task; a task that is ready to be saved goes to the shadow slot, and an idle core's shadow context to a frame slot; a budget
period gives its arbiter the full amount again. A TLBINV's target drops the translations named and then acknowledges; a line whose check
byte fails twice is a machine check. A task's identity is no running or saved task's (R141). That identities count up, that an
unlimited core share needs no choice, and that everything of a core that has not been sent yet translates again are the model's: log entries 6,
16 and 35 (R34, R35, R105, R123, R125, R140, R144 to R146). -/
def Obligations.TaskEvents : Prop :=
  (∀ (c : Nat) (h : RcbHandle) (r : Region) (loc : ItemLoc) (e : Nat) (s : State),
    let u := focus s c
    let b := recLink e
    let i := blkNext s b
    MemWf s.mem → c < 1536 → u.core.seq.mode = .idle → clusterUp s (clusterOf c) = true →
    pickCandidate (clusterOf c) (candidates u u.core) = some (h, r, loc, e) → s.cfg.dead.getLsbD r.domain = false →
    amountOf s r.budgetRcb .core = 2 ^ 48 - 1 → recSaved e = false → recGang e = true → recJoin e < 0 → blkResident s b = false →
    recImg e = false → itemPoison u r loc e = none → i + 1 < blkN s b →
    Happens (.readyQueueArbitration c) s fun t =>
      let k := (focus t c).core
      k.seq.mode = .running ∧ k.seq.pc = BitVec.ofNat 64 (s.rd b 8) ∧ getS (focus t c) 1 = BitVec.ofNat 64 (s.rd (b + 16) 8 + i * s.rd (b + 24) 4) ∧
      getS (focus t c) 2 = BitVec.ofNat 64 i ∧ getS (focus t c) 3 = BitVec.ofNat 64 (blkN s b) ∧
      getS (focus t c) 4 = BitVec.ofNat 64 (s.rd (b + 8) 8) ∧ (∀ g : SReg, 5 ≤ g.toNat → getS (focus t c) g = 0) ∧ k.seq.launch = b ∧
      k.seq.eff = r ∧ k.seq.prv = false ∧ k.seq.cmt = false ∧ k.seq.inh = false ∧ k.seq.loops = [] ∧ k.seq.latches = [] ∧
      k.vec.vl = 0 ∧ MemKeptOff [(b + 32, 4)] s t ∧
      (s.fe.nextTid % 2 ^ 31 ≠ 0 → s.fe.nextTid % 2 ^ 31 ∉ usedTids u →
        k.seq.tid.toNat = s.fe.nextTid % 2 ^ 31 ∧ t.fe.nextTid = s.fe.nextTid % 2 ^ 31 + 1) ∧
      ((usedTids u).length + 2 ≤ 2 ^ 31 → k.seq.tid.toNat ≠ 0 ∧ k.seq.tid.toNat ∉ usedTids u)) ∧
  (∀ (k c : Nat) (s : State), k < 96 → preemptTarget s k = some c → (focus s c).core.seq.mode = .running → (focus s c).core.seq.cmt = true →
    Happens (.preemptionRequest k) s fun t => (focus t c).core.seq.preempt = true ∧ (focus t c).core.seq.mode = .running ∧
      RegsKept [] (focus s c) (focus t c) ∧ VectorKept (focus s c) (focus t c) ∧ MemKept s t) ∧
  (∀ (c : Nat) (s : State), saveReady (focus s c) = true → (focus s c).core.shadow = none →
    Happens (.taskSave c) s fun t => (focus t c).core.seq.mode = .idle ∧ (focus t c).core.shadow = some (coreShadow (focus s c).core)) ∧
  (∀ (c i : Nat) (x : Shadow) (s : State), (focus s c).core.seq.mode = .idle → (focus s c).core.shadow = some x →
    freeSlot (focus s c) x.seq.eff = some i → Happens (.contextSpill c) s fun t => (focus t c).core.shadow = none ∧
      ∃ e ∈ t.slots, e.slot = slotAddr s x.seq.eff i ∧ e.tid = x.seq.tid) ∧
  (∀ (rcb : Nat) (act : Activity) (arb : Nat) (s : State), Happens (.budgetPeriod rcb act arb) s fun t => CoresKept s t ∧ t.mem = s.mem ∧
    (∀ y, y ∈ t.budgets ↔ y ∈ s.budgets ∧ ¬(y.rcb = rcb ∧ y.act = act ∧ y.arb = arb))) ∧
  (∀ (tg : ShootTarget) (h : Shoot) (s : State), s.shoot = [h] → tg ∈ h.unacked →
    (tg ∈ h.pending → Happens (.invalidationRequest tg) s fun t => t.shoot = [{ h with pending := h.pending.erase tg }] ∧ MemKept s t ∧
      ∀ e ∈ t.tlb.leaves, e ∈ s.tlb.leaves ∧ ¬(siteIs tg e.site = true ∧
        (h.extent = 2 ∨ (e.asn = h.asn ∧ (h.extent = 1 ∨ holdsPage e h.vpage = true))))) ∧
    (tg ∈ h.pending → ∀ c, tg = .core c → Happens (.invalidationRequest tg) s fun t =>
      (∀ l ∈ (focus t c).core.vec.loads, l.stale = true) ∧ (∀ x ∈ (focus t c).core.vec.stores, x.stale = true) ∧
      (∀ r ∈ (focus t c).core.seq.returns, r.pinned = true) ∧
      (∀ x ∈ t.near, x.core = (focus s c).core.id → x.data = none → x.stale = true) ∧
      ∀ o ∈ t.fab.ops, o.core = (focus s c).core.id → o.isColl = false → o.stale = true) ∧
    (tg ∉ h.pending → ackWaits tg s = true → exec (.invalidationAck tg) s = .next s) ∧
    (tg ∉ h.pending → ackWaits tg s = false → Happens (.invalidationAck tg) s fun t => CoresKept s t ∧
      t.shoot = (if 1536 ≤ h.core ∧ h.unacked.erase tg = [] then [] else [{ h with unacked := h.unacked.erase tg }]))) ∧
  ∀ (c l : Nat) (p : Word) (s s1 : State), (focus s c).core.seq.refetch = some p →
    fetchLine (lineBase p) true (focus s c) = (.line l, s1) →
    (lineIntact l = true → Happens (.lineRefetch c) s fun t => (focus t c).core.seq.refetch = none ∧ (focus t c).core.seq.stall = false ∧
      RegsKept [] (focus s c) (focus t c) ∧ MemKept s t) ∧
    (lineIntact l = false → (focus s c).core.seq.eff.domain < 256 → Happens (.lineRefetch c) s fun t =>
      t.cfg.dead.getLsbD (focus s c).core.seq.eff.domain = true)

/-! ## The device from outside -/

/-- An inbound access that its filter grants reads, writes or changes memory and is answered; one it does not grant is refused, counted
and changes nothing; an answer waits while no port takes responses. An accepted frame fills the port's next buffer and appends a FRAME packet; a
bad one is counted. A PPS edge and TCTL act on the port's clock (R308, R310, R321 to R323, R335). The right that a signal decrement needs, a frame
dropped and counted for a DISABLED queue, the time between two steps, and which port's channel an answer waits for are the model's: log entries 43,
26, 46 and 71. -/
def Obligations.OutsideAccesses : Prop :=
  (∀ (node pa n : Nat) (bs : List Byte) (psn : List Nat) (op : HAtomic) (x y : Word) (s : State),
    let answers := fun (i : Instr) (m : OutMsg) (post : State → Prop) => Happens i s fun t => CoresKept s t ∧ post t ∧
      (replyOpen s = true → t.out = s.out ++ [m] ∧ t.replies = s.replies) ∧ (replyOpen s = false → t.out = s.out ∧ t.replies = s.replies ++ [m])
    let refused := fun (i : Instr) => answers i (.error node) fun t => t.mem = s.mem ∧ t.cfg = s.cfg ∧ t.fab.refused = s.fab.refused + 1
    (1 ≤ n → n ≤ 4096 →
      (granted s node 0 pa n = false → refused (.inboundRead node pa n)) ∧
      (granted s node 0 pa n = true → targetOf s node pa n = .memory →
        answers (.inboundRead node pa n) (.reply node (s.rdBytes pa n) (poisonOffsets s [(pa, n)])) fun t => t.mem = s.mem)) ∧
    (∀ off, granted s node 0 pa 8 = true → targetOf s node pa 8 = .configAt off → off % 8 = 0 →
      answers (.inboundRead node pa 8) (.reply node (natBytes 8 (cfgRead s off)) []) fun t => t.mem = s.mem) ∧
    (1 ≤ bs.length → bs.length ≤ 4096 →
      (granted s node 1 pa bs.length = false → refused (.inboundWrite node pa bs psn)) ∧
      (MemWf s.mem → granted s node 1 pa bs.length = true → targetOf s node pa bs.length = .memory →
        answers (.inboundWrite node pa bs psn) (.accept node) fun t => t.rdBytes pa bs.length = bs ∧ MemKeptOutside pa bs.length s t) ∧
      (∀ q u, bs.length = 64 → granted s node 1 pa 64 = true → targetOf s node pa 64 = .windowAt q 0 → exec (.inlinePacket q bs) s = .next u →
        exec (.inboundWrite node pa bs psn) s = .next (respond (.accept node) u)) ∧
      (∀ off u, bs.length = 8 → granted s node 1 pa 8 = true → targetOf s node pa 8 = .configAt off → off % 8 = 0 →
        exec (.configWrite off (BitVec.ofNat 64 (bytesNat bs))) s = .next u →
        exec (.inboundWrite node pa bs psn) s = .next (respond (.accept node) u))) ∧
    (MemWf s.mem → pa % 8 = 0 → granted s node 2 pa 8 = true → targetOf s node pa 8 = .memory →
      let old := BitVec.ofNat 64 (memRead s.mem pa 8)
      answers (.inboundAtomic node pa op x y) (.reply node (natBytes 8 old.toNat) (poisonOffsets s [(pa, 8)])) fun t =>
        MemKeptOutside pa 8 s t ∧ BitVec.ofNat 64 (memRead t.mem pa 8) = (match op with
          | .add => old + x
          | .swap => x
          | .cas => if old = x then y else old)) ∧
    (MemWf s.mem → pa % 64 = 0 → granted s node 2 pa 64 = true → targetOf s node pa 64 = .memory →
      answers (.inboundSignalDecrement node pa x) (.accept node) fun t =>
        sigValue t pa = max (-(2 ^ 63)) (sigValue s pa - x.toNat) ∧ MemKeptOutside pa 12 s t) ∧
    (granted s node 2 pa 8 = false → refused (.inboundAtomic node pa op x y)) ∧
    (granted s node 2 pa 64 = false → refused (.inboundSignalDecrement node pa x))) ∧
  (∀ (port : Fin 2) (bs : List Byte) (ok : Bool) (v : Word) (s : State),
    let x := getEth s port
    let q := x.queue.toNat
    let y := getQ s q
    let good := ok = true ∧ bs.length ≤ x.mtu.toNat ∧ bs.length ≤ 9216
    let free := (x.frames - x.released).toNat < x.bufCount ∧ bs.length ≤ x.bufSize ∧ y.st ≠ .disabled ∧ ringRoom y 1 = true
    (good → free → inHbm x.buffer x.bufSize = true → Happens (.frameIngress port bs ok) s fun t => CoresKept s t ∧
      (getEth t port).frames = x.frames + 1 ∧ (getEth t port).dropped = x.dropped ∧ (getQ t q).tail = y.tail + 1) ∧
    (MemWf s.mem → good → free → inHbm x.buffer x.bufSize = true →
      (slotPa y y.tail + 64 ≤ x.buffer ∨ x.buffer + bs.length ≤ slotPa y y.tail) →
      (descAddr s q + 64 ≤ x.buffer ∨ x.buffer + bs.length ≤ descAddr s q) →
      Happens (.frameIngress port bs ok) s fun t => t.rdBytes x.buffer bs.length = bs) ∧
    (¬good → Happens (.frameIngress port bs ok) s fun t => CoresKept s t ∧ t.mem = s.mem ∧ t.fe = s.fe ∧
      (getEth t port).dropped = x.dropped + 1 ∧ (getEth t port).frames = x.frames) ∧
    (good → ¬free → Happens (.frameIngress port bs ok) s fun t => CoresKept s t ∧ (getQ t q).drops = min (2 ^ 32 - 1) (y.drops + 1) ∧
      (getQ t q).tail = y.tail ∧ (getEth t port).frames = x.frames) ∧
    (Happens (.ppsEdge port) s fun t => CoresKept s t ∧ t.mem = s.mem ∧
      (getEth t port).pps = BitVec.ofNat 64 ((getEth t port).secs % 2 ^ 32 * 2 ^ 32 + (getEth t port).nanos)) ∧
    (Happens (.tctl port v) s fun t => CoresKept s t ∧ t.mem = s.mem ∧ (getEth t port).tctl = v ∧
      (((getEth t port).secs * 10 ^ 9 + (getEth t port).nanos : Nat) : Int) =
        (((x.secs * 10 ^ 9 + x.nanos : Nat) : Int) + Config.elapsed s.freeCtr + (BitVec.ofNat 32 (bits v.toNat 32 32)).toInt) % (2 ^ 48 * 10 ^ 9)))

/-- Errors are counted, marked as poison, or kill a fault domain, and one of no domain makes the device viral; rows move to spares; links
retrain. Which corrected error at a count of 2^12 overflows its counter is the next choice: log entries 44 and 1 (R324 to R327, R330 to R333). -/
def Obligations.Reliability : Prop :=
  (∀ (un : ErrUnit) (loc pa n : Nat) (l : List (Nat × Nat × Nat)) (s : State), bumpCount un.code loc s.ras.corrected = (l, n) →
    (n % 2 ^ 12 ≠ 0 → un = .dram → Happens (.correctedError un loc pa) s fun t =>
      let row := Config.rowOf pa
      let m := (((s.ras.rows.find? fun p => decide (p.1 = row)).map Prod.snd).getD 0) + 1
      t.ras.corrected = l ∧ CoresKept s t ∧ (row, m) ∈ t.ras.rows ∧ (m = 4 → (∀ y ∈ s.ras.jobs, y.row ≠ row) →
        ∀ j, chooseSpare s row = some j → ⟨row, j⟩ ∈ t.ras.jobs)) ∧
    (n % 2 ^ 12 ≠ 0 → un ≠ .dram → Happens (.correctedError un loc pa) s fun t => t.ras.corrected = l ∧ CoresKept s t ∧ MemKept s t ∧
      t.cfg = s.cfg) ∧
    (n % 2 ^ 12 = 0 → un ≠ .dram → s.choices = [] → logOn s = true → (s.cfg.logwr - s.cfg.logrel).toNat < 2 ^ logK s →
      Happens (.correctedError un loc pa) s fun t => t.ras.corrected = l ∧ CoresKept s t ∧ t.cfg.logwr = s.cfg.logwr + 1 ∧
        t.cfg.logdrop = s.cfg.logdrop)) ∧
  (∀ (pa c : Nat) (t' : Tile) (w rg lane : Nat) (keep : Bool) (s : State),
    (inDevice pa 1 = true → Happens (.uncorrectableError (.mem pa)) s fun t => granuleOf pa ∈ t.poison ∧ MemKept s t ∧ CoresKept s t) ∧
    (Happens (.uncorrectableError (.tileWord c t' w)) s fun t => (t'.toNat, w) ∈ (focus t c).core.psnA ∧ MemKept s t) ∧
    (Happens (.uncorrectableError (.vecWord c rg lane keep)) s fun t => (rg, lane) ∈ (focus t c).core.psnV ∧ MemKept s t) ∧
    ((getCore s c).seq.mode = .running → (getCore s c).seq.eff.domain < 256 → Happens (.uncorrectableError (.scalar c)) s fun t =>
      t.cfg.dead.getLsbD (getCore s c).seq.eff.domain = true) ∧
    ((getCore s c).seq.mode = .idle → Happens (.uncorrectableError (.mittLibrary c)) s fun t => t.cfg.dead.getLsbD 0 = true) ∧
    (Happens (.uncorrectableError (.patrol pa)) s fun t => t.cfg.dead.getLsbD 0 = true) ∧
    (Happens (.uncorrectableError .global) s fun t => t.viral = true ∧ CoresKept s t)) ∧
  (∀ (row n : Nat) (j : SpareJob) (pa : Word) (s : State), (s.ras.jobs.find? fun y => decide (y.row = row)) = some j →
    (MemWf s.mem → Happens (.rowSpareSwitch row) s fun t => (row, j.spare) ∈ t.ras.remapped ∧ (∀ y ∈ t.ras.jobs, y.row ≠ row) ∧ CoresKept s t ∧
      MemKeptOff [(logBaseAddr s + 64 * (s.cfg.logwr.toNat % 2 ^ logK s), 64)] s t) ∧
    (Happens (.spareAbort row) s fun t => (Config.bankOf row, j.spare) ∈ t.ras.retired ∧ CoresKept s t ∧ ⟨row, j.spare⟩ ∉ t.ras.jobs) ∧
    (inDevice pa.toNat 1 = true → (∀ y ∈ s.ras.jobs, y.row ≠ Config.rowOf pa.toNat) → chooseSpare s (Config.rowOf pa.toNat) = some n →
      Happens (.spare pa) s fun t => ⟨Config.rowOf pa.toNat, n⟩ ∈ t.ras.jobs ∧ CoresKept s t ∧ MemKept s t)) ∧
  ∀ (v : Word) (c : Fin 16) (s : State),
    (Happens (.glink v) s fun t => CoresKept s t ∧ MemKept s t ∧
      t.glinks[c] = (if v.getLsbD c then { s.glinks[c] with retraining := true } else s.glinks[c])) ∧
    (s.glinks[c].retraining = true →
      (Happens (.retrainDone c true) s fun t => CoresKept s t ∧ MemKept s t ∧ t.glinks[c] = {} ∧ t.caps.chips.getLsbD c = true) ∧
      (s.glinks[c].failed = true → Happens (.retrainDone c false) s fun t => CoresKept s t ∧
        t.glinks[c] = { s.glinks[c] with retraining := false }))

/-- Boot, reset, configuration space, attestation, power and the management port: what each write and each end leaves. Memory after a reset
and a gated scratchpad read 0 by the model's choice: log entries 5 and 49. When a firmware replacement is done and where its image is
measured, what a cold reset keeps, where a misaligned report goes, which chips fail their training at boot, and how a staged image lies in memory
are the model's: log entries 47, 48, 50, 79 and 80 (R132, R144, R160, R328, R333 to R341). -/
def Obligations.DeviceControl : Prop :=
  ∀ (v : Word) (k c itp id : Nat) (img : FwImage) (as bs : List FwImage) (down : Bool) (sense : Word) (s : State),
    let gives := fun (i : Instr) (post : State → Prop) => Happens i s fun t => CoresKept s t ∧ MemKept s t ∧ post t
    let extend := fun (m d : BitVec 256) => Config.sha3 (natBytes 32 m.toNat ++ natBytes 32 d.toNat)
    (k < 4 → gives (.dead k v) fun t => ∀ d, d < 256 →
      t.cfg.dead.getLsbD d = (s.cfg.dead.getLsbD d && !(decide (d / 64 = k) && v.getLsbD (d % 64)))) ∧
    (s.cfg.swap ≠ 1 → ∀ a, a = bits v.toNat 8 44 * 256 →
      (region s a = none → gives (.partitionSwap v) fun t => t.cfg.swap = 3) ∧
      (∀ r, region s a = some r → r.part = a → (∀ x ∈ allCores s, x.seq.eff.part ≠ a) →
        gives (.partitionSwap v) fun t => t.cfg.swap = 2 ∧ t.cfg.swapRcb = a)) ∧
    (s.cfg.fwcmd ≠ 1 → v.getLsbD 8 = true → gives (.fwcmd v) fun t => t.cfg.fwcmd = 1 ∧ t.cfg.fwItp = v.toNat % 64 ∧
      v.toNat % 64 ∈ t.fe.itpBusy) ∧
    (s.cfg.fwcmd = 1 → s.cfg.fwItp = itp → (∀ x ∈ s.fe.queues, x.st = .disabled ∨ x.interp ≠ itp) →
      gives (.firmwareReplacementDone itp img) fun t => itp ∉ t.fe.itpBusy ∧
        (staged s img = true → imageGood img = true → t.cfg.fwcmd = 2 ∧ t.meas[0] = extend s.meas[0] img.digest) ∧
        (staged s img = false ∨ imageGood img = false → t.cfg.fwcmd = 3 ∧ t.meas = s.meas)) ∧
    (gives (.attest 0 1) fun t => (s.att.req = none → t.att.status = 1 ∧ t.att.req = some (s.att.addr, s.att.nonce)) ∧
      (s.att.req ≠ none → t.att.status = 3 ∧ t.att.req = s.att.req)) ∧
    (gives (.attest 0x10 v) fun t => t.att.addr = v ∧ t.att.nonce = s.att.nonce) ∧
    (∀ a nonce, MemWf s.mem → s.att.req = some (a, nonce) → Happens .attestReportDone s fun t => CoresKept s t ∧ t.att.status = 2 ∧ t.att.req = none ∧
      ∀ rep, rep = reportBody nonce s ++ Config.mlDsaSign (Config.sha3 (reportBody nonce s)) ++ Config.certificate →
        inHbm (bits a.toNat 12 40 * 4096) rep.length = true → t.rdBytes (bits a.toNat 12 40 * 4096) rep.length = rep ∧
          MemKeptOutside (bits a.toNat 12 40 * 4096) rep.length s t) ∧
    (gives (.pwrcap v) fun t => t.cfg.pwrcap.toNat =
      if 1600 ≤ v.toNat % 4096 ∧ v.toNat % 4096 ≤ 3200 then v.toNat % 4096 else s.cfg.pwrcap.toNat) ∧
    (gives (.configWrite 0x10000 v) fun t => t.cfg.qdbase = v &&& 0x000FFFFFFFFFFFC0 ∧ cfgRead t 0x10000 = t.cfg.qdbase.toNat) ∧
    (gives (.configWrite 0x10018 v) fun t => t.cfg.logrel.toNat = v.toNat % 2 ^ 32 ∧ t.cfg.logwr = s.cfg.logwr) ∧
    (∀ j : Fin 64, gives (.configWrite (0x11000 + 16 * j) v) fun t =>
      cfgRead t (0x11000 + 16 * j) = (v &&& 0xC00FFFFFFFFFF000).toNat ∧ cfgRead t (0x11008 + 16 * j) = cfgRead s (0x11008 + 16 * j)) ∧
    (gives (.clockThrottle down) fun t => 8 ≤ s.clock → s.clock ≤ 16 → 8 ≤ t.clock ∧ t.clock ≤ 16 ∧
      (down = true → 8 < s.clock → t.clock = s.clock - 1) ∧ (down = false → s.clock < 16 → t.clock = s.clock + 1)) ∧
    (gives .criticalTemperature fun t => t.boot = .off) ∧
    (∀ h : k < 96, MemWf s.mem → clusterUp s k = true → clusterActive s k = false → s.cfg.clgate.getLsbD k = true →
      (∀ r ∈ liveRegions s, bitAt r.clusters k = false) → Happens (.clusterGate k) s fun t => t.power[k] = .gated ∧
        ∀ a, (padBase + 16 * k * 0x100000 ≤ a → a < padBase + 16 * (k + 1) * 0x100000 → byteAt t a = 0) ∧
          ((a < padBase + 16 * k * 0x100000 ∨ padBase + 16 * (k + 1) * 0x100000 ≤ a) → byteAt t a = byteAt s a)) ∧
    (∀ h : k < 96, (s.power[k] = .gated → s.cfg.clgate.getLsbD k = false → gives (.clusterWake k) fun t => t.power[k] = .waking) ∧
      (s.power[k] = .waking → gives (.clusterWakeDone k) fun t => t.power[k] = .idle)) ∧
    (∀ is : Fin 4 → FwImage, s.boot = .reset →
      (∀ j : Fin 4, imageGood (is j) = true ∧ (as[j.val]? = some (is j) ∨
        ((∀ i, as[j.val]? = some i → imageGood i = false) ∧ bs[j.val]? = some (is j)))) →
      Happens (.boot as bs) s fun t => t.boot = .up ∧ MemKept s t ∧ (∀ j : Fin 4, t.meas[j] = extend s.meas[j] (is j).digest) ∧
        (∀ j : Fin 8, 4 ≤ j.val → t.meas[j] = s.meas[j]) ∧ (∀ j, (getCore t j).seq.mode = .idle) ∧ (∀ j, (getQ t j).st = .disabled) ∧
        t.cfg.dead = 0 ∧ t.cfg.logwr = 0 ∧ t.cfg.logrel = 0 ∧ t.cfg.logdrop = 0 ∧ t.viral = false ∧
        ∀ j : Fin 16, t.caps.chips.getLsbD j = !(s.choices.getD j false)) ∧
    (s.boot = .reset → (∀ i, as[0]? = some i → imageGood i = false) → (∀ i, bs[0]? = some i → imageGood i = false) →
      gives (.boot as bs) fun t => t.boot = .fail 0 ∧ t.meas = s.meas) ∧
    (Happens .coldReset s fun t => t.mem = [] ∧ (∀ j, (getCore t j).seq.mode = .idle) ∧ (∀ j, (getQ t j).st = .disabled) ∧ t.boot = .reset ∧
      t.viral = false ∧ t.ras.retired = s.ras.retired) ∧
    (Happens (.bootFromB bs) s fun t => t.mem = [] ∧ ((∀ j, j < 4 → ∃ i, bs[j]? = some i ∧ imageGood i = true) → t.boot = .up)) ∧
    (gives (.managementRead .temperature sense) fun t => t.out = s.out ++ [.mgmt (natBytes 8 sense.toNat)]) ∧
    (∀ j : Fin 8, gives (.managementRead (.measurement j) sense) fun t => t.out = s.out ++ [.mgmt (natBytes 32 s.meas[j].toNat)]) ∧
    (s.boot = .fail k → gives (.managementRead .failingImage sense) fun t => t.out = s.out ++ [.mgmt (natBytes 1 k)]) ∧
    ((focus s c).core.seq.mode = .halted → Happens (.resumeCore c) s fun t => (focus t c).core.seq.mode = .running ∧
      (focus t c).core.seq.pc = (focus s c).core.seq.pc ∧ RegsKept [] (focus s c) (focus t c) ∧ MemKept s t) ∧
    (gives (.nodeIdAssignment id) fun t => t.caps.node = some (id % 4096))
end

