-- ==== Sys2Proof/Laws/Memory.lean ====
section
/-! SUPPORT. The laws of memory: every operation keeps the canonical form, a read after a write gives the value written, and a write leaves
every other byte alone. -/

namespace Sys2Proof.Machine

theorem memWf_nil : MemWf [] := by simp [MemWf]

theorem memWf_cons {k : Nat} {v : Byte} {r : List Host.Cell} :
    MemWf ((k, v) :: r) ↔ (∀ c ∈ r, k < c.1) ∧ v ≠ 0 ∧ MemWf r := by
  simp only [MemWf, List.map_cons, List.pairwise_cons, List.mem_map, List.mem_cons, forall_eq_or_imp]
  constructor
  · rintro ⟨⟨h1, h2⟩, h3, h4⟩
    exact ⟨fun c hc => h1 c.1 ⟨c, hc, rfl⟩, h3, h2, h4⟩
  · rintro ⟨h1, h2, h3, h4⟩
    refine ⟨⟨?_, h3⟩, h2, h4⟩
    rintro a ⟨c, hc, rfl⟩
    exact h1 c hc

/-- An address below every listed one reads zero. -/
theorem memGet_below {m : List Host.Cell} {a : Nat} (h : ∀ c ∈ m, a < c.1) : memGet m a = 0 := by
  cases m with
  | nil => rfl
  | cons c r =>
    have := h c (by simp)
    simp only [memGet]
    rw [if_neg (by omega), if_pos this]

/-! ## One byte -/

theorem memSet_above {k : Nat} {m : List Host.Cell} {a : Nat} {b : Byte} (hk : k < a) (h : ∀ c ∈ m, k < c.1) :
    ∀ c ∈ memSet m a b, k < c.1 := by
  induction m with
  | nil => by_cases hb : b = 0 <;> simp [memSet, hb, hk]
  | cons c r ih =>
    obtain ⟨x, v⟩ := c
    have hx : k < x := h (x, v) (by simp)
    have hr : ∀ c ∈ r, k < c.1 := fun c hc => h c (by simp [hc])
    intro c hc
    simp only [memSet] at hc
    split at hc
    · split at hc
      · exact h c hc
      · rcases List.mem_cons.mp hc with rfl | hc
        · exact hk
        · exact h c hc
    · split at hc
      · split at hc
        · exact hr c hc
        · rcases List.mem_cons.mp hc with rfl | hc
          · exact hk
          · exact hr c hc
      · rcases List.mem_cons.mp hc with rfl | hc
        · exact hx
        · exact ih hr c hc

theorem memWf_memSet {m : List Host.Cell} (a : Nat) (b : Byte) (h : MemWf m) : MemWf (memSet m a b) := by
  induction m with
  | nil =>
    simp only [memSet]
    split
    · exact h
    · next hb => exact memWf_cons.mpr ⟨by simp, hb, h⟩
  | cons c r ih =>
    obtain ⟨k, v⟩ := c
    obtain ⟨h1, h2, h3⟩ := memWf_cons.mp h
    simp only [memSet]
    split
    · split
      · exact h
      · next ha hb =>
        refine memWf_cons.mpr ⟨fun c hc => ?_, hb, h⟩
        rcases List.mem_cons.mp hc with rfl | hc
        · exact ha
        · exact Nat.lt_trans ha (h1 c hc)
    · split
      · next ha =>
        subst ha
        split
        · exact h3
        · next hb => exact memWf_cons.mpr ⟨h1, hb, h3⟩
      · next h4 h5 => exact memWf_cons.mpr ⟨memSet_above (by omega) h1, h2, ih h3⟩

/-- A byte after a write: the value written at its address, and what it was elsewhere. -/
theorem memGet_memSet {m : List Host.Cell} (h : MemWf m) (a x : Nat) (b : Byte) :
    memGet (memSet m a b) x = if x = a then b else memGet m x := by
  induction m with
  | nil =>
    simp only [memSet]
    split
    · next hb => rw [hb]; simp [memGet]
    · by_cases hx : x = a <;> simp [memGet, hx]
  | cons c r ih =>
    obtain ⟨k, v⟩ := c
    obtain ⟨h1, h2, h3⟩ := memWf_cons.mp h
    simp only [memSet]
    split
    · next ha =>
      split
      · next hb =>
        by_cases hx : x = a
        · subst hx; simp only [memGet, if_pos, hb]; rw [if_neg (by omega), if_pos ha]
        · simp [hx]
      · by_cases hx : x = a
        · simp [memGet, hx]
        · simp only [memGet, if_neg hx]
          by_cases hxa : x < a
          · rw [if_pos hxa, if_neg (by omega), if_pos (by omega)]
          · rw [if_neg hxa]
    · next ha =>
      split
      · next hk =>
        subst hk
        split
        · next hb =>
          by_cases hx : x = a
          · subst hx; rw [if_pos rfl, memGet_below h1, hb]
          · simp only [if_neg hx, memGet]
            by_cases hxa : x < a
            · rw [if_pos hxa]; exact memGet_below fun c hc => Nat.lt_trans hxa (h1 c hc)
            · rw [if_neg hxa]
        · by_cases hx : x = a
          · simp [memGet, hx]
          · simp only [memGet, if_neg hx]
      · next hk =>
        simp only [memGet]
        by_cases hxk : x = k
        · rw [if_pos hxk, if_neg (by omega)]; simp [hxk]
        · rw [if_neg hxk]
          by_cases hlt : x < k
          · rw [if_pos hlt, if_neg (by omega), if_neg hxk, if_pos hlt]
          · rw [if_neg hlt, ih h3]; simp [hxk, hlt]

/-! ## Wider reads and writes -/

theorem memWf_memWrite (n : Nat) : ∀ (m : List Host.Cell) (a x : Nat), MemWf m → MemWf (memWrite m a n x) := by
  induction n with
  | zero => intro m a x h; exact h
  | succ n ih => intro m a x h; exact ih _ _ _ (memWf_memSet a _ h)

/-- A byte after a wider write. -/
theorem memGet_memWrite (n : Nat) : ∀ (m : List Host.Cell) (a x y : Nat), MemWf m →
    memGet (memWrite m a n x) y = if a ≤ y ∧ y < a + n then BitVec.ofNat 8 (x / 256 ^ (y - a)) else memGet m y := by
  induction n with
  | zero => intro m a x y _; rw [if_neg (by omega)]; rfl
  | succ n ih =>
    intro m a x y h
    simp only [memWrite]
    rw [ih _ _ _ _ (memWf_memSet a _ h), memGet_memSet h]
    by_cases h1 : y = a
    · subst h1
      rw [if_neg (by omega), if_pos rfl, if_pos ⟨Nat.le_refl _, by omega⟩]
      simp
    · by_cases h2 : a + 1 ≤ y ∧ y < a + 1 + n
      · rw [if_pos h2, if_pos ⟨by omega, by omega⟩, Nat.div_div_eq_div_mul, ← Nat.pow_succ']
        congr 3
        omega
      · rw [if_neg h2, if_neg h1, if_neg (by omega)]

theorem memGet_memWrite_outside {m : List Host.Cell} (h : MemWf m) {a n y : Nat} (x : Nat) (hy : y < a ∨ a + n ≤ y) :
    memGet (memWrite m a n x) y = memGet m y := by
  rw [memGet_memWrite n m a x y h, if_neg (by omega)]

/-- A read depends on its bytes alone. -/
theorem memRead_congr {m l : List Host.Cell} (n : Nat) : ∀ a, (∀ k, k < n → memGet m (a + k) = memGet l (a + k)) → memRead m a n = memRead l a n := by
  induction n with
  | zero => intro a _; rfl
  | succ n ih =>
    intro a h
    simp only [memRead]
    rw [show memGet m a = memGet l a from h 0 (by omega), ih (a + 1) fun k hk => by
      have := h (k + 1) (by omega)
      rwa [show a + (k + 1) = a + 1 + k by omega] at this]

theorem memRead_lt (m : List Host.Cell) (n : Nat) : ∀ a, memRead m a n < 256 ^ n := by
  induction n with
  | zero => intro a; simp [memRead]
  | succ n ih =>
    intro a
    have h1 := (memGet m a).isLt
    have h2 := ih (a + 1)
    simp only [memRead]
    rw [Nat.pow_succ']
    omega

/-- Reading what was written gives its low `n` bytes. -/
theorem memRead_memWrite (n : Nat) : ∀ (m : List Host.Cell) (a x : Nat), MemWf m → memRead (memWrite m a n x) a n = x % 256 ^ n := by
  induction n with
  | zero => intro m a x _; simp [memRead, Nat.mod_one]
  | succ n ih =>
    intro m a x h
    have hs := memWf_memSet a (BitVec.ofNat 8 x) h
    simp only [memRead, memWrite]
    rw [memGet_memWrite_outside hs _ (by omega), memGet_memSet h, if_pos rfl, ih _ _ _ hs, Nat.pow_succ', Nat.mod_mul]
    simp

/-- A read outside the bytes written gives what it gave. -/
theorem memRead_memWrite_outside {m : List Host.Cell} (h : MemWf m) {a n b k : Nat} (x : Nat) (hd : b + k ≤ a ∨ a + n ≤ b) :
    memRead (memWrite m a n x) b k = memRead m b k :=
  memRead_congr k b fun j hj => memGet_memWrite_outside h x (by omega)

/-! ## The operations on the state -/

@[simp] theorem clearPoison_mem (s : State) (ws : List (Nat × Nat)) : (clearPoison s ws).mem = s.mem := rfl
@[simp] theorem markPoison_mem (s : State) (pa n : Nat) : (markPoison s pa n).mem = s.mem := rfl
@[simp] theorem wr_mem (s : State) (pa n x : Nat) : (s.wr pa n x).mem = memWrite s.mem pa n x := rfl
@[simp] theorem wrBytes_mem (s : State) (pa : Nat) (bs : List Byte) : (s.wrBytes pa bs).mem = memWrite s.mem pa bs.length (bytesNat bs) := rfl
@[simp] theorem wr_core (s : State) (pa n x : Nat) : (s.wr pa n x).core = s.core := rfl
@[simp] theorem wr_others (s : State) (pa n x : Nat) : (s.wr pa n x).others = s.others := rfl
@[simp] theorem wr_fe (s : State) (pa n x : Nat) : (s.wr pa n x).fe = s.fe := rfl
@[simp] theorem wr_cfg (s : State) (pa n x : Nat) : (s.wr pa n x).cfg = s.cfg := rfl
@[simp] theorem wr_copy (s : State) (pa n x : Nat) : (s.wr pa n x).copy = s.copy := rfl

theorem memWf_wr {s : State} (pa n x : Nat) (h : MemWf s.mem) : MemWf (s.wr pa n x).mem := memWf_memWrite n _ _ _ h

theorem memWf_wrBytes {s : State} (pa : Nat) (bs : List Byte) (h : MemWf s.mem) : MemWf (s.wrBytes pa bs).mem := memWf_wr _ _ _ h

theorem memWf_homeWrite {s : State} (pa n x : Nat) (h : MemWf s.mem) : MemWf (homeWrite pa n x s).mem := by
  unfold homeWrite
  split
  · exact h
  · exact memWf_wr _ _ _ h

theorem memWf_filter {m : List Host.Cell} (p : Host.Cell → Bool) (h : MemWf m) : MemWf (m.filter p) := by
  refine ⟨?_, fun c hc => h.2 c (List.mem_of_mem_filter hc)⟩
  exact h.1.sublist (List.filter_sublist.map _)

theorem memWf_zeroMem {s : State} (lo n : Nat) (h : MemWf s.mem) : MemWf (zeroMem lo n s).mem := memWf_filter _ h

theorem rd_wr {s : State} (h : MemWf s.mem) (pa n x : Nat) : (s.wr pa n x).rd pa n = x % 256 ^ n := memRead_memWrite n s.mem pa x h

theorem rd_wr_outside {s : State} (h : MemWf s.mem) {pa n b k : Nat} (x : Nat) (hd : b + k ≤ pa ∨ pa + n ≤ b) :
    (s.wr pa n x).rd b k = s.rd b k := memRead_memWrite_outside h x hd

end Sys2Proof.Machine
end

