-- ==== Sys2Proof/Laws/Queues.lean ====
section
/-! SUPPORT. Queues and signals: what reading a queue gives after a write of one, and what the write-back of a descriptor and a signal's
change can touch. -/

namespace Sys2Proof.Machine

@[simp] theorem setQ_mem (x : Queue) (s : State) : (setQ x s).mem = s.mem := rfl
@[simp] theorem setQ_core (x : Queue) (s : State) : (setQ x s).core = s.core := rfl
@[simp] theorem setQ_others (x : Queue) (s : State) : (setQ x s).others = s.others := rfl
@[simp] theorem setQ_cfg (x : Queue) (s : State) : (setQ x s).cfg = s.cfg := rfl
@[simp] theorem setQ_copy (x : Queue) (s : State) : (setQ x s).copy = s.copy := rfl
@[simp] theorem setQ_poison (x : Queue) (s : State) : (setQ x s).poison = s.poison := rfl
@[simp] theorem setQ_cur (x : Queue) (s : State) : (setQ x s).fe.cur = s.fe.cur := rfl

@[simp] theorem getQ_setQ (x : Queue) (s : State) : getQ (setQ x s) x.q = x := by simp [getQ, setQ]

theorem getQ_setQ_ne {x : Queue} {s : State} {q : Nat} (h : q ≠ x.q) : getQ (setQ x s) q = getQ s q := by
  simp only [getQ, setQ]
  rw [List.find?_cons_of_neg (by simpa using h.symm), List.find?_filter]
  congr 1
  have : (fun a : Queue => decide (a.q ≠ x.q) && decide (a.q = q)) = fun a => decide (a.q = q) := by
    funext a
    by_cases ha : a.q = q
    · simp [ha, h]
    · simp [ha]
  simpa using congrArg (fun f => s.fe.queues.find? f) this

/-- A queue as it is found has the number it was looked for by. -/
theorem getQ_q (s : State) (q : Nat) : (getQ s q).q = q := by
  unfold getQ
  cases h : s.fe.queues.find? fun x => decide (x.q = q) with
  | none => rfl
  | some x => simpa using List.find?_some h

theorem getQ_congr {s t : State} (h : t.fe.queues = s.fe.queues) (q : Nat) : getQ t q = getQ s q := by unfold getQ; rw [h]

@[simp] theorem getQ_wr (s : State) (pa n x q : Nat) : getQ (s.wr pa n x) q = getQ s q := rfl

/-! ## The write-back of a descriptor (R107) -/

/-- `t` differs from `s` at most in memory, in the marks of poison and in the ring slots known to hold hardware's frames. -/
def MemOnly (s t : State) : Prop := t = { s with mem := t.mem, poison := t.poison, frameSlots := t.frameSlots }

theorem MemOnly.refl (s : State) : MemOnly s s := rfl

theorem MemOnly.trans {s t u : State} (h1 : MemOnly s t) (h2 : MemOnly t u) : MemOnly s u := by
  unfold MemOnly at *
  rw [h2, h1]

theorem MemOnly.core {s t : State} (h : MemOnly s t) : t.core = s.core := by rw [h]
theorem MemOnly.others {s t : State} (h : MemOnly s t) : t.others = s.others := by rw [h]
theorem MemOnly.fe {s t : State} (h : MemOnly s t) : t.fe = s.fe := by rw [h]
theorem MemOnly.cfg {s t : State} (h : MemOnly s t) : t.cfg = s.cfg := by rw [h]
theorem MemOnly.copy {s t : State} (h : MemOnly s t) : t.copy = s.copy := by rw [h]
theorem MemOnly.getQ {s t : State} (h : MemOnly s t) (q : Nat) : Machine.getQ t q = Machine.getQ s q := getQ_congr (by rw [h.fe]) q

theorem memOnly_wr (s : State) (pa n x : Nat) : MemOnly s (s.wr pa n x) := rfl

theorem memOnly_writeBack (q : Nat) (full : Bool) (s : State) : MemOnly s (writeBack q full s) := by
  unfold writeBack
  extract_lets x a s1 s2 s3 s4
  have w : ∀ {u : State} (pa n y : Nat), MemOnly s u → MemOnly s (u.wr pa n y) := fun pa n y hu => hu.trans (memOnly_wr _ pa n y)
  have h1 : MemOnly s s1 := w _ _ _ (w _ _ _ (MemOnly.refl s))
  split
  · exact MemOnly.refl s
  · split
    · exact h1
    · exact w _ _ _ (w _ _ _ (w _ _ _ (w _ _ _ (w _ _ _ (w _ _ _ (w _ _ _ h1))))))

theorem memWf_writeBack {s : State} (q : Nat) (full : Bool) (h : MemWf s.mem) : MemWf (writeBack q full s).mem := by
  unfold writeBack
  extract_lets x a s1 s2 s3 s4
  have h1 : MemWf s1.mem := memWf_wr _ _ _ (memWf_wr _ _ _ h)
  split
  · exact h
  · split
    · exact h1
    · exact memWf_wr _ _ _ (memWf_wr _ _ _ (memWf_wr _ _ _ (memWf_wr _ _ _ (memWf_wr _ _ _ (memWf_wr _ _ _ (memWf_wr _ _ _ h1))))))

theorem memGet_wr_outside {s : State} (h : MemWf s.mem) {pa n a : Nat} (x : Nat) (ha : a < pa ∨ pa + n ≤ a) :
    memGet (s.wr pa n x).mem a = memGet s.mem a := memGet_memWrite_outside h x ha

/-- A write-back touches only the 64 bytes of the descriptor. -/
theorem memGet_writeBack {s : State} (q : Nat) (full : Bool) (h : MemWf s.mem) {a : Nat} (ha : a < descAddr s q ∨ descAddr s q + 64 ≤ a) :
    memGet (writeBack q full s).mem a = memGet s.mem a := by
  unfold writeBack
  extract_lets x d s1 s2 s3 s4
  have w0 : MemWf (s.wr (d + 44) 4 x.drops).mem := memWf_wr _ _ _ h
  have w1 : MemWf s1.mem := memWf_wr _ _ _ w0
  have g1 : memGet s1.mem a = memGet s.mem a := by
    rw [memGet_wr_outside w0 _ (by omega), memGet_wr_outside h _ (by omega)]
  split
  · rfl
  · split
    · exact g1
    · have w2a : MemWf (s1.wr (d + 8) 4 x.head.toNat).mem := memWf_wr _ _ _ w1
      have w2 : MemWf s2.mem := memWf_wr _ _ _ w2a
      have w3 : MemWf s3.mem := memWf_wr _ _ _ w2
      have w4a : MemWf (s3.wr (d + 32) 4 x.seq.toNat).mem := memWf_wr _ _ _ w3
      have w4 : MemWf s4.mem := memWf_wr _ _ _ w4a
      have w5 : MemWf (s4.wr (d + 42) 1 x.refetch).mem := memWf_wr _ _ _ w4
      rw [memGet_wr_outside w5 _ (by omega), memGet_wr_outside w4 _ (by omega), memGet_wr_outside w4a _ (by omega),
        memGet_wr_outside w3 _ (by omega), memGet_wr_outside w2 _ (by omega), memGet_wr_outside w2a _ (by omega),
        memGet_wr_outside w1 _ (by omega), g1]

/-! ## Signals (R74, R116) -/

theorem memOnly_sigChange (pa : Nat) (f : Int → Int) (c : Nat) (s : State) : MemOnly s (sigChange pa f c s) := by
  unfold sigChange
  extract_lets old new s1
  split <;> rfl

theorem memWf_sigChange {s : State} (pa : Nat) (f : Int → Int) (c : Nat) (h : MemWf s.mem) : MemWf (sigChange pa f c s).mem := by
  unfold sigChange
  extract_lets old new s1
  have h1 : MemWf s1.mem := memWf_wr _ _ _ h
  split
  · exact memWf_wr _ _ _ h1
  · exact h1

/-- A change of a signal touches its value and its abort code. -/
theorem memGet_sigChange {s : State} (pa : Nat) (f : Int → Int) (c : Nat) (h : MemWf s.mem) {a : Nat} (ha : a < pa ∨ pa + 12 ≤ a) :
    memGet (sigChange pa f c s).mem a = memGet s.mem a := by
  unfold sigChange
  extract_lets old new s1
  have h1 : MemWf s1.mem := memWf_wr _ _ _ h
  have g1 : memGet s1.mem a = memGet s.mem a := memGet_wr_outside h _ (by omega)
  split
  · rw [memGet_wr_outside h1 _ (by omega), g1]
  · exact g1

/-- A signal's value after a change: the new value, held within 64 bits. -/
theorem sigValue_sigChange {s : State} (pa : Nat) (f : Int → Int) (c : Nat) (h : MemWf s.mem) :
    sigValue (sigChange pa f c s) pa = max (-(2 ^ 63)) (min (2 ^ 63 - 1) (f (sigValue s pa))) := by
  have key : ∀ v : Int, (BitVec.ofNat 64 ((s.wr pa 8 (ofInt 64 (max (-(2 ^ 63)) (min (2 ^ 63 - 1) v)))).rd pa 8)).toInt =
      max (-(2 ^ 63)) (min (2 ^ 63 - 1) v) := by
    intro v
    have hv : -(2 ^ 63 : Int) ≤ max (-(2 ^ 63)) (min (2 ^ 63 - 1) v) ∧ max (-(2 ^ 63)) (min (2 ^ 63 - 1) v) ≤ 2 ^ 63 - 1 := by omega
    generalize max (-(2 ^ 63 : Int)) (min (2 ^ 63 - 1) v) = w at hv
    rw [rd_wr h]
    simp only [ofInt, BitVec.toInt_ofNat', Int.bmod]
    omega
  unfold sigChange
  extract_lets old new s1
  unfold sigValue
  split
  · have h1 : MemWf s1.mem := memWf_wr _ _ _ h
    rw [rd_wr_outside h1 _ (by omega)]
    exact key _
  · exact key _

end Sys2Proof.Machine
end

