-- ==== Sys2Proof/Laws/Beret.lean ====
section
/-! SUPPORT. Beret programs: registers after a write, where control goes, and the step of a program that may take one. -/

namespace Sys2Proof.Machine

open Sys2Proof.Safety

@[simp] theorem bGet_bSet (c : Beret) (r : BitVec 4) (v : Word) : bGet (bSet c r v) r = v := by simp [bGet, bSet]

theorem bGet_bSet_ne {c : Beret} {r d : BitVec 4} {v : Word} (h : r ≠ d) : bGet (bSet c d v) r = bGet c r := by
  have : d.toNat ≠ r.toNat := fun he => h (BitVec.eq_of_toNat_eq he.symm)
  simp [bGet, bSet, this]

@[simp] theorem bSet_steps (c : Beret) (r : BitVec 4) (v : Word) : (bSet c r v).steps = c.steps := rfl
@[simp] theorem bSet_loops (c : Beret) (r : BitVec 4) (v : Word) : (bSet c r v).loops = c.loops := rfl
@[simp] theorem bSet_at (c : Beret) (r : BitVec 4) (v : Word) : (bSet c r v).at_ = c.at_ := rfl
@[simp] theorem beretAt_b (c : Beret) (i : Nat) : (beretAt c i).b = c.b := rfl
@[simp] theorem beretAt_steps (c : Beret) (i : Nat) : (beretAt c i).steps = c.steps := rfl
@[simp] theorem bGet_beretAt (c : Beret) (i : Nat) (r : BitVec 4) : bGet (beretAt c i) r = bGet c r := rfl
@[simp] theorem bGet_beretNext (c : Beret) (r : BitVec 4) : bGet (beretNext c) r = bGet c r := rfl

/-- Outside a loop body control goes where it is sent. -/
theorem beretAt_of_noLoops {c : Beret} (i : Nat) (h : c.loops = []) : (beretAt c i).at_ = i ∧ (beretAt c i).loops = [] := by
  simp [beretAt, h, beretGoto]

/-- A program that may take a step takes it on its queue and context, with the step counted. -/
theorem beretStep_eq {f : Queue → Beret → State → Out} {s : State} {x : Queue} {c : Beret} (h : InBeret s x c) :
    beretStep f s = f x { c with steps := c.steps + 1 } s := by
  obtain ⟨hq, _, hst, hc, hb, hs⟩ := h
  unfold beretStep
  rw [hq]
  simp only [hst, hc, hb]
  rw [if_neg (by simp; omega)]

theorem getQ_putCtx {s : State} (c : Beret) : (getQ (putCtx c s) s.fe.cur).ctx = some c := by
  unfold putCtx
  have h : ({ getQ s s.fe.cur with ctx := some c } : Queue).q = s.fe.cur := getQ_q s s.fe.cur
  have := getQ_setQ { getQ s s.fe.cur with ctx := some c } s
  rw [h] at this
  rw [this]

end Sys2Proof.Machine
end

