-- ==== Sys2Proof/Laws/Step.lean ====
section
/-! SUPPORT. What one step is, by the head of the agenda. -/

namespace Sys2Proof.Machine

theorem stopped_false {s : State} (hv : s.viral = false) (hb : s.boot = .up) : stopped s = false := by simp [stopped, hv, hb]

theorem step_eq_runTurn {s : State} {m : Turn} {r : List Turn} (ha : s.agenda = m :: r) (hv : s.viral = false) (hb : s.boot = .up) :
    step s = runTurn m { s with agenda := r } := by
  unfold step move
  rw [stopped_false hv hb, ha]
  rfl

theorem step_eq_ownMove {s : State} (ha : s.agenda = []) (hv : s.viral = false) (hb : s.boot = .up) : step s = ownMove s := by
  unfold step move
  rw [stopped_false hv hb, ha]
  rfl

/-- A stopped device runs nothing but the events that still move it. -/
theorem step_stopped {s : State} {m : Turn} {r : List Turn} (ha : s.agenda = m :: r) (hs : stopped s = true)
    (hm : ∀ i, m = .event i → stillMoves s i = false) : step s = .next { s with agenda := r } := by
  unfold step move
  rw [hs, ha]
  cases m with
  | event i => simp [hm i rfl]
  | core c => rfl
  | beret q => rfl

theorem focus_self {s : State} {c : Nat} (h : s.core.id = c) : focus s c = s := by simp [focus, h]

theorem onCore_self {s : State} {c : Nat} (f : State → State) (h : s.core.id = c) (hf : (f s).core.id = c) : onCore c f s = f s := by
  unfold onCore
  rw [focus_self h]
  exact focus_self (by rw [hf, h])

theorem turn_eq_prepare {s : State} (hm : s.core.seq.mode = .running) (hp : s.core.seq.preempt = false) (hsh : s.shoot = [])
    (hf : s.core.vec.faults = []) : turn s = prepare s := by
  simp [turn, hm, hp, hsh, hf]

theorem prepare_eq_issueHead {s : State} {p : Word} {l : Nat} (hm : s.core.seq.mode = .running) (hl : s.core.seq.line = some (p, l)) :
    prepare s = issueHead l s := by
  unfold prepare
  rw [hm, hl]

end Sys2Proof.Machine
end

