-- ==== Sys2Proof/Laws/Cores.lean ====
section
/-! SUPPORT. Cores: what looking a core up gives after the current core has changed. -/

namespace Sys2Proof.Machine

theorem find_filter_of_imp {α : Type} (p r : α → Bool) (l : List α) (h : ∀ x ∈ l, r x = true → p x = true) :
    (l.filter p).find? r = l.find? r := by
  induction l with
  | nil => rfl
  | cons x l ih =>
    have hl := ih fun y hy => h y (by simp [hy])
    by_cases hr : r x = true
    · simp [h x (by simp) hr, hr]
    · by_cases hp : p x = true
      · simp [hp, hr, hl]
      · simp [hp, hr, hl]

theorem find_filter_none {α : Type} (p r : α → Bool) (l : List α) (h : ∀ x ∈ l, r x = true → p x = false) :
    (l.filter p).find? r = none := by
  simp only [List.find?_eq_none, List.mem_filter]
  rintro x ⟨hx, hp⟩ hr
  simp [h x hx hr] at hp

/-- A list of cores after a core is put into it. -/
theorem find_putCore (k : Core) (l : List Core) (d : Nat) :
    (putCore k l).find? (fun o => decide (o.id = d)) = if k.id = d then some k else l.find? fun o => decide (o.id = d) := by
  unfold putCore
  rw [List.find?_append, List.find?_cons]
  by_cases hd : k.id = d
  · rw [if_pos hd, find_filter_none _ _ _ fun x _ hx => by simp at hx ⊢; omega]
    simp [hd]
  · rw [if_neg hd]
    by_cases hlt : d < k.id
    · rw [find_filter_of_imp _ _ _ fun x _ hx => by simp at hx ⊢; omega, find_filter_none _ _ _ fun x _ hx => by simp at hx ⊢; omega]
      simp [hd]
    · rw [find_filter_none _ _ _ fun x _ hx => by simp at hx ⊢; omega, find_filter_of_imp _ _ _ fun x _ hx => by simp at hx ⊢; omega]
      simp [hd]

theorem getCore_id (s : State) (c : Nat) : (getCore s c).id = c := by
  unfold getCore
  split
  · assumption
  · cases h : s.others.find? fun k => decide (k.id = c) with
    | none => rfl
    | some k => simpa using List.find?_some h

theorem focus_id (s : State) (c : Nat) : (focus s c).core.id = c := by
  unfold focus
  split
  · assumption
  · exact getCore_id s c

/-- Which core is current changes no core. -/
theorem getCore_focus (s : State) (c d : Nat) : getCore (focus s c) d = getCore s d := by
  unfold focus
  split
  · rfl
  · next hc =>
    by_cases hd : c = d
    · subst hd
      exact (if_pos (getCore_id s c) : (if (getCore s c).id = c then getCore s c else _) = getCore s c)
    · have hne : (getCore s c).id ≠ d := by rw [getCore_id]; exact hd
      show (if (getCore s c).id = d then _ else _) = _
      rw [if_neg hne]
      simp only [find_putCore]
      by_cases hs : s.core.id = d
      · simp [getCore, hs]
      · rw [if_neg hs, find_filter_of_imp _ _ _ fun x _ hx => by simp at hx ⊢; omega]
        simp [getCore, hs]

theorem focus_core (s : State) (c : Nat) : (focus s c).core = getCore s c := by
  have h := getCore_focus s c c
  unfold getCore at h
  rwa [if_pos (focus_id s c)] at h

@[simp] theorem focus_mem (s : State) (c : Nat) : (focus s c).mem = s.mem := by unfold focus; split <;> rfl
@[simp] theorem focus_fe (s : State) (c : Nat) : (focus s c).fe = s.fe := by unfold focus; split <;> rfl
@[simp] theorem focus_cfg (s : State) (c : Nat) : (focus s c).cfg = s.cfg := by unfold focus; split <;> rfl
@[simp] theorem focus_copy (s : State) (c : Nat) : (focus s c).copy = s.copy := by unfold focus; split <;> rfl
@[simp] theorem focus_near (s : State) (c : Nat) : (focus s c).near = s.near := by unfold focus; split <;> rfl
@[simp] theorem focus_fab (s : State) (c : Nat) : (focus s c).fab = s.fab := by unfold focus; split <;> rfl
@[simp] theorem focus_tlb (s : State) (c : Nat) : (focus s c).tlb = s.tlb := by unfold focus; split <;> rfl
@[simp] theorem focus_shoot (s : State) (c : Nat) : (focus s c).shoot = s.shoot := by unfold focus; split <;> rfl
@[simp] theorem focus_slots (s : State) (c : Nat) : (focus s c).slots = s.slots := by unfold focus; split <;> rfl
@[simp] theorem focus_poison (s : State) (c : Nat) : (focus s c).poison = s.poison := by unfold focus; split <;> rfl
@[simp] theorem focus_out (s : State) (c : Nat) : (focus s c).out = s.out := by unfold focus; split <;> rfl

@[simp] theorem onCore_mem (c : Nat) (f : State → State) (s : State) : (onCore c f s).mem = (f (focus s c)).mem := by simp [onCore]
@[simp] theorem onCore_fe (c : Nat) (f : State → State) (s : State) : (onCore c f s).fe = (f (focus s c)).fe := by simp [onCore]
@[simp] theorem onCore_cfg (c : Nat) (f : State → State) (s : State) : (onCore c f s).cfg = (f (focus s c)).cfg := by simp [onCore]
@[simp] theorem onCore_shoot (c : Nat) (f : State → State) (s : State) : (onCore c f s).shoot = (f (focus s c)).shoot := by simp [onCore]
@[simp] theorem onCore_slots (c : Nat) (f : State → State) (s : State) : (onCore c f s).slots = (f (focus s c)).slots := by simp [onCore]

/-- A core after an operation on some core is that core in the state the operation gave. -/
theorem getCore_onCore (c d : Nat) (f : State → State) (s : State) : getCore (onCore c f s) d = getCore (f (focus s c)) d := by
  unfold onCore
  exact getCore_focus _ _ _

theorem focus_onCore_core {c : Nat} {f : State → State} {s : State} (h : (f (focus s c)).core.id = c) :
    (focus (onCore c f s) c).core = (f (focus s c)).core := by
  rw [focus_core, getCore_onCore, getCore, if_pos h]

end Sys2Proof.Machine
end

