-- ==== Sys2Proof/Laws/State.lean ====
section
/-! SUPPORT. One lemma per field per update of the state, and what registers read after a write. -/

namespace Sys2Proof.Machine

@[simp] theorem setSeq_seq (s : State) (q : Seq) : (setSeq s q).core.seq = q := rfl
@[simp] theorem setSeq_vec (s : State) (q : Seq) : (setSeq s q).core.vec = s.core.vec := rfl
@[simp] theorem setSeq_mat (s : State) (q : Seq) : (setSeq s q).core.mat = s.core.mat := rfl
@[simp] theorem setSeq_id (s : State) (q : Seq) : (setSeq s q).core.id = s.core.id := rfl
@[simp] theorem setSeq_mem (s : State) (q : Seq) : (setSeq s q).mem = s.mem := rfl
@[simp] theorem setSeq_poison (s : State) (q : Seq) : (setSeq s q).poison = s.poison := rfl
@[simp] theorem setSeq_others (s : State) (q : Seq) : (setSeq s q).others = s.others := rfl
@[simp] theorem setSeq_copy (s : State) (q : Seq) : (setSeq s q).copy = s.copy := rfl
@[simp] theorem setSeq_near (s : State) (q : Seq) : (setSeq s q).near = s.near := rfl
@[simp] theorem setSeq_fab (s : State) (q : Seq) : (setSeq s q).fab = s.fab := rfl
@[simp] theorem setSeq_tlb (s : State) (q : Seq) : (setSeq s q).tlb = s.tlb := rfl
@[simp] theorem setSeq_shoot (s : State) (q : Seq) : (setSeq s q).shoot = s.shoot := rfl
@[simp] theorem setSeq_fe (s : State) (q : Seq) : (setSeq s q).fe = s.fe := rfl
@[simp] theorem setSeq_cfg (s : State) (q : Seq) : (setSeq s q).cfg = s.cfg := rfl
@[simp] theorem setSeq_slots (s : State) (q : Seq) : (setSeq s q).slots = s.slots := rfl
@[simp] theorem setSeq_choices (s : State) (q : Seq) : (setSeq s q).choices = s.choices := rfl
@[simp] theorem setSeq_budgets (s : State) (q : Seq) : (setSeq s q).budgets = s.budgets := rfl
@[simp] theorem setSeq_frameSlots (s : State) (q : Seq) : (setSeq s q).frameSlots = s.frameSlots := rfl
@[simp] theorem setSeq_agenda (s : State) (q : Seq) : (setSeq s q).agenda = s.agenda := rfl
@[simp] theorem setSeq_nearId (s : State) (q : Seq) : (setSeq s q).nearId = s.nearId := rfl
@[simp] theorem setSeq_eth (s : State) (q : Seq) : (setSeq s q).eth = s.eth := rfl
@[simp] theorem setSeq_ports (s : State) (q : Seq) : (setSeq s q).ports = s.ports := rfl
@[simp] theorem setSeq_glinks (s : State) (q : Seq) : (setSeq s q).glinks = s.glinks := rfl
@[simp] theorem setSeq_caps (s : State) (q : Seq) : (setSeq s q).caps = s.caps := rfl
@[simp] theorem setSeq_att (s : State) (q : Seq) : (setSeq s q).att = s.att := rfl
@[simp] theorem setSeq_meas (s : State) (q : Seq) : (setSeq s q).meas = s.meas := rfl
@[simp] theorem setSeq_boot (s : State) (q : Seq) : (setSeq s q).boot = s.boot := rfl
@[simp] theorem setSeq_power (s : State) (q : Seq) : (setSeq s q).power = s.power := rfl
@[simp] theorem setSeq_clock (s : State) (q : Seq) : (setSeq s q).clock = s.clock := rfl
@[simp] theorem setSeq_ras (s : State) (q : Seq) : (setSeq s q).ras = s.ras := rfl
@[simp] theorem setSeq_viral (s : State) (q : Seq) : (setSeq s q).viral = s.viral := rfl
@[simp] theorem setSeq_freeCtr (s : State) (q : Seq) : (setSeq s q).freeCtr = s.freeCtr := rfl
@[simp] theorem setSeq_replies (s : State) (q : Seq) : (setSeq s q).replies = s.replies := rfl
@[simp] theorem setSeq_out (s : State) (q : Seq) : (setSeq s q).out = s.out := rfl

@[simp] theorem setVec_seq (s : State) (v : Vec) : (setVec s v).core.seq = s.core.seq := rfl
@[simp] theorem setVec_vec (s : State) (v : Vec) : (setVec s v).core.vec = v := rfl
@[simp] theorem setVec_mat (s : State) (v : Vec) : (setVec s v).core.mat = s.core.mat := rfl
@[simp] theorem setVec_id (s : State) (v : Vec) : (setVec s v).core.id = s.core.id := rfl
@[simp] theorem setVec_mem (s : State) (v : Vec) : (setVec s v).mem = s.mem := rfl
@[simp] theorem setVec_poison (s : State) (v : Vec) : (setVec s v).poison = s.poison := rfl
@[simp] theorem setVec_others (s : State) (v : Vec) : (setVec s v).others = s.others := rfl
@[simp] theorem setVec_copy (s : State) (v : Vec) : (setVec s v).copy = s.copy := rfl
@[simp] theorem setVec_near (s : State) (v : Vec) : (setVec s v).near = s.near := rfl
@[simp] theorem setVec_fab (s : State) (v : Vec) : (setVec s v).fab = s.fab := rfl
@[simp] theorem setVec_tlb (s : State) (v : Vec) : (setVec s v).tlb = s.tlb := rfl
@[simp] theorem setVec_fe (s : State) (v : Vec) : (setVec s v).fe = s.fe := rfl
@[simp] theorem setVec_cfg (s : State) (v : Vec) : (setVec s v).cfg = s.cfg := rfl
@[simp] theorem setVec_budgets (s : State) (v : Vec) : (setVec s v).budgets = s.budgets := rfl
@[simp] theorem setVec_frameSlots (s : State) (v : Vec) : (setVec s v).frameSlots = s.frameSlots := rfl
@[simp] theorem setVec_slots (s : State) (v : Vec) : (setVec s v).slots = s.slots := rfl
@[simp] theorem setVec_nearId (s : State) (v : Vec) : (setVec s v).nearId = s.nearId := rfl
@[simp] theorem setVec_shoot (s : State) (v : Vec) : (setVec s v).shoot = s.shoot := rfl
@[simp] theorem setVec_eth (s : State) (v : Vec) : (setVec s v).eth = s.eth := rfl
@[simp] theorem setVec_ports (s : State) (v : Vec) : (setVec s v).ports = s.ports := rfl
@[simp] theorem setVec_glinks (s : State) (v : Vec) : (setVec s v).glinks = s.glinks := rfl
@[simp] theorem setVec_caps (s : State) (v : Vec) : (setVec s v).caps = s.caps := rfl
@[simp] theorem setVec_att (s : State) (v : Vec) : (setVec s v).att = s.att := rfl
@[simp] theorem setVec_meas (s : State) (v : Vec) : (setVec s v).meas = s.meas := rfl
@[simp] theorem setVec_boot (s : State) (v : Vec) : (setVec s v).boot = s.boot := rfl
@[simp] theorem setVec_power (s : State) (v : Vec) : (setVec s v).power = s.power := rfl
@[simp] theorem setVec_clock (s : State) (v : Vec) : (setVec s v).clock = s.clock := rfl
@[simp] theorem setVec_ras (s : State) (v : Vec) : (setVec s v).ras = s.ras := rfl
@[simp] theorem setVec_viral (s : State) (v : Vec) : (setVec s v).viral = s.viral := rfl
@[simp] theorem setVec_agenda (s : State) (v : Vec) : (setVec s v).agenda = s.agenda := rfl
@[simp] theorem setVec_choices (s : State) (v : Vec) : (setVec s v).choices = s.choices := rfl
@[simp] theorem setVec_freeCtr (s : State) (v : Vec) : (setVec s v).freeCtr = s.freeCtr := rfl
@[simp] theorem setVec_replies (s : State) (v : Vec) : (setVec s v).replies = s.replies := rfl
@[simp] theorem setVec_out (s : State) (v : Vec) : (setVec s v).out = s.out := rfl

@[simp] theorem setMat_seq (s : State) (m : Mat) : (setMat s m).core.seq = s.core.seq := rfl
@[simp] theorem setMat_vec (s : State) (m : Mat) : (setMat s m).core.vec = s.core.vec := rfl
@[simp] theorem setMat_mat (s : State) (m : Mat) : (setMat s m).core.mat = m := rfl
@[simp] theorem setMat_mem (s : State) (m : Mat) : (setMat s m).mem = s.mem := rfl
@[simp] theorem setCopy_copy (s : State) (c : Copy) : (setCopy s c).copy = c := rfl
@[simp] theorem setCopy_core (s : State) (c : Copy) : (setCopy s c).core = s.core := rfl
@[simp] theorem setCopy_mem (s : State) (c : Copy) : (setCopy s c).mem = s.mem := rfl
@[simp] theorem setFe_fe (s : State) (f : FrontEnd) : (setFe s f).fe = f := rfl
@[simp] theorem setFe_core (s : State) (f : FrontEnd) : (setFe s f).core = s.core := rfl
@[simp] theorem setFe_mem (s : State) (f : FrontEnd) : (setFe s f).mem = s.mem := rfl
@[simp] theorem setFab_fab (s : State) (f : Fab) : (setFab s f).fab = f := rfl
@[simp] theorem setFab_core (s : State) (f : Fab) : (setFab s f).core = s.core := rfl
@[simp] theorem setFab_mem (s : State) (f : Fab) : (setFab s f).mem = s.mem := rfl

/-! ## Scalar registers -/

@[simp] theorem getS_zero (s : State) : getS s 0 = 0 := by simp [getS]

theorem getS_setS_self (s : State) (d : SReg) (v : Word) (h : d ≠ 0) : getS (setS s d v) d = v := by
  unfold getS setS
  rw [if_neg h, if_neg h]
  simp [setSeq]

theorem getS_setS_other (s : State) (d r : SReg) (v : Word) (h : r ≠ d) : getS (setS s d v) r = getS s r := by
  have h1 : d.toNat ≠ r.toNat := fun e => h (BitVec.eq_of_toNat_eq e.symm)
  unfold setS
  split
  · rfl
  · unfold getS
    split
    · rfl
    · simp [setSeq, Vector.getElem_set_ne _ _ h1]

@[simp] theorem setS_mem (s : State) (d : SReg) (v : Word) : (setS s d v).mem = s.mem := by unfold setS; split <;> rfl
@[simp] theorem setS_vec (s : State) (d : SReg) (v : Word) : (setS s d v).core.vec = s.core.vec := by unfold setS; split <;> rfl
@[simp] theorem setS_pc (s : State) (d : SReg) (v : Word) : (setS s d v).core.seq.pc = s.core.seq.pc := by unfold setS; split <;> rfl
@[simp] theorem setS_loops (s : State) (d : SReg) (v : Word) : (setS s d v).core.seq.loops = s.core.seq.loops := by
  unfold setS; split <;> rfl
@[simp] theorem setS_line (s : State) (d : SReg) (v : Word) : (setS s d v).core.seq.line = s.core.seq.line := by
  unfold setS; split <;> rfl

theorem setS_eq (s : State) (d : SReg) (v : Word) :
    setS s d v = { s with core := { s.core with seq := { s.core.seq with regs := (setS s d v).core.seq.regs } } } := by
  unfold setS; split <;> rfl

end Sys2Proof.Machine
end

