-- ==== Sys2Proof/Laws/Flow.lean ====
section
/-! SUPPORT. Sequential flow and traps: what each can change (R30, R136, R153). -/

namespace Sys2Proof.Machine

open Sys2Proof.Safety

/-- Sequential flow moves the PC, the line, the loop stack, the point mark and the slip, and nothing else. -/
theorem advance_eq (s : State) :
    advance s = { s with core := { s.core with
        seq := { s.core.seq with pc := (advance s).core.seq.pc, line := (advance s).core.seq.line, loops := (advance s).core.seq.loops,
                                 atPoint := (advance s).core.seq.atPoint }
        vec := { s.core.vec with slip := (advance s).core.vec.slip } } } := rfl

@[simp] theorem advance_mem (s : State) : (advance s).mem = s.mem := rfl
@[simp] theorem advance_regs (s : State) : (advance s).core.seq.regs = s.core.seq.regs := rfl
@[simp] theorem getS_advance (s : State) (r : SReg) : getS (advance s) r = getS s r := rfl

theorem advance_pc (s : State) (h : s.core.seq.loops = []) : (advance s).core.seq.pc = nextPc s ∧ (advance s).core.seq.loops = [] := by
  simp [advance, h, endIteration, goto, nextPc, curN]

theorem nextPc_setS (s : State) (d : SReg) (v : Word) : nextPc (setS s d v) = nextPc s := by
  have h : curN (setS s d v) = curN s := by unfold curN; rw [setS_line]
  unfold nextPc
  rw [h, setS_pc]

/-- A scalar result is a completed instruction. -/
theorem puts_of_putS {i : Instr} {s : State} {d : SReg} {v : Word} (h : exec i s = putS d v s) : Puts i s d v := by
  refine ⟨advance (setS s d v), h, fun hd => ?_, getS_zero _, fun r hr => ?_, fun hl => ?_, ?_⟩
  · rw [getS_advance, getS_setS_self _ _ _ hd]
  · rw [getS_advance, getS_setS_other _ _ _ _ (by simpa using hr)]
  · have := advance_pc (setS s d v) (by simpa using hl)
    rwa [nextPc_setS] at this
  · unfold ScalarOnly setS
    split <;> rfl

theorem enterTrap_eq {s : State} (cause : Nat) (epc tval : Word) (h : CanTrap s) :
    raise cause epc tval s =
      setSeq s { s.core.seq with epc := epc, cause := BitVec.ofNat 64 cause, tval := tval, pprv := s.core.seq.prv, prv := true, inh := true,
                                 pc := s.core.seq.eff.trap, line := none, stall := false, refetch := none, vectoring := true, starting := false,
                                 atPoint := s.core.seq.loops.isEmpty } := by
  obtain ⟨h1, h2, h3⟩ := h
  rw [raise, if_neg (by simp [h3]), enterTrap, if_neg (by simpa [h1] using h2)]

/-- An instruction that raises where a trap can be taken enters it. -/
theorem enters_of_raise {i : Instr} {s : State} {cause : Nat} {epc tval : Word} (hc : CanTrap s)
    (h : exec i s = .next (raise cause epc tval s)) : EntersTrap i s cause epc tval := by
  refine ⟨_, h, ?_⟩
  rw [enterTrap_eq cause epc tval hc]
  simp [setSeq, RegsKept, getS, VectorKept, TilesKept, MemKept, byteAt, DeviceKept, OthersKept]

end Sys2Proof.Machine
end

