-- ==== Sys2Proof/Laws/Home.lean ====
section
/-! SUPPORT. Requests at their home: what charging a budget can change, what a read or a write does at a home in the device and at one
elsewhere, and what a response can change. -/

namespace Sys2Proof.Machine

/-! ## Budgets (R123) -/

/-- A charge moves what is left of budgets, and nothing else. -/
theorem chargeBudget_eq (r : Region) (a : Activity) (arb n : Nat) (s : State) :
    chargeBudget r a arb n s = { s with budgets := (chargeBudget r a arb n s).budgets } := by
  unfold chargeBudget
  split <;> rfl

theorem chargeMem_eq (r : Region) (pa n : Nat) (s : State) : chargeMem r pa n s = { s with budgets := (chargeMem r pa n s).budgets } := by
  unfold chargeMem
  split
  · exact chargeBudget_eq _ _ _ _ _
  · rfl

theorem chargeAll_eq (r : Region) (bs : List (Nat × Nat)) (s : State) :
    chargeAll r bs s = { s with budgets := (chargeAll r bs s).budgets } := by
  unfold chargeAll
  induction bs generalizing s with
  | nil => rfl
  | cons b l ih =>
    rw [List.foldl_cons, ih, chargeMem_eq]

@[simp] theorem chargeMem_mem (r : Region) (pa n : Nat) (s : State) : (chargeMem r pa n s).mem = s.mem := by rw [chargeMem_eq]
@[simp] theorem chargeMem_core (r : Region) (pa n : Nat) (s : State) : (chargeMem r pa n s).core = s.core := by rw [chargeMem_eq]
@[simp] theorem chargeMem_poison (r : Region) (pa n : Nat) (s : State) : (chargeMem r pa n s).poison = s.poison := by rw [chargeMem_eq]
@[simp] theorem chargeMem_out (r : Region) (pa n : Nat) (s : State) : (chargeMem r pa n s).out = s.out := by rw [chargeMem_eq]
@[simp] theorem chargeAll_mem (r : Region) (bs : List (Nat × Nat)) (s : State) : (chargeAll r bs s).mem = s.mem := by rw [chargeAll_eq]
@[simp] theorem chargeAll_core (r : Region) (bs : List (Nat × Nat)) (s : State) : (chargeAll r bs s).core = s.core := by rw [chargeAll_eq]

/-! ## Homes in the device -/

theorem homeRead_local {pa : Nat} (h : isRemote pa = false) (n : Nat) (s : State) : homeRead pa n s = (⟨s.rd pa n, isPoisoned s pa n⟩, s) := by
  unfold isRemote at h
  unfold homeRead
  split at h <;> simp_all

theorem homeWrite_local {pa : Nat} (h : isRemote pa = false) (n x : Nat) (s : State) : homeWrite pa n x s = s.wr pa n x := by
  unfold isRemote at h
  unfold homeWrite
  split at h <;> simp_all

/-! ## Homes elsewhere -/

theorem homeWrite_remote {pa : Nat} (h : isRemote pa = true) (n x : Nat) (s : State) :
    homeWrite pa n x s = send s (OutMsg.write (remoteOf s pa).1 (remoteOf s pa).2 (natBytes n x)) := by
  unfold isRemote at h
  unfold homeWrite
  split at h <;> simp_all

/-- The answer of a home elsewhere takes a choice and a free value, and nothing else changes. -/
theorem answer_eq (n : Nat) (s : State) :
    (answer n s).2 = { s with choices := (answer n s).2.choices, freeCtr := (answer n s).2.freeCtr } := by
  unfold answer freeBytes popChoice
  simp only
  split <;> rfl

/-! ## Responses (R308) -/

theorem respond_open {s : State} (h : replyOpen s = true) (m : OutMsg) : respond m s = { s with out := s.out ++ [m] } := by
  rw [respond, if_pos h]
  rfl

theorem respond_shut {s : State} (h : replyOpen s = false) (m : OutMsg) : respond m s = { s with replies := s.replies ++ [m] } := by
  simp [respond, h]

/-- A response changes what leaves the module, or what waits to leave it, and nothing else. -/
theorem respond_eq (m : OutMsg) (s : State) :
    respond m s = { s with out := (respond m s).out, replies := (respond m s).replies } := by
  cases h : replyOpen s with
  | true => rw [respond_open h]
  | false => rw [respond_shut h]

@[simp] theorem respond_mem (m : OutMsg) (s : State) : (respond m s).mem = s.mem := by rw [respond_eq]
@[simp] theorem respond_core (m : OutMsg) (s : State) : (respond m s).core = s.core := by rw [respond_eq]
@[simp] theorem respond_others (m : OutMsg) (s : State) : (respond m s).others = s.others := by rw [respond_eq]
@[simp] theorem respond_fe (m : OutMsg) (s : State) : (respond m s).fe = s.fe := by rw [respond_eq]
@[simp] theorem respond_cfg (m : OutMsg) (s : State) : (respond m s).cfg = s.cfg := by rw [respond_eq]
@[simp] theorem respond_fab (m : OutMsg) (s : State) : (respond m s).fab = s.fab := by rw [respond_eq]

end Sys2Proof.Machine
end

