-- ==== Sys2Proof/Laws/Scalar.lean ====
section
/-! SUPPORT. What a scalar access can do: it stalls, traps, is sent over a chip's link, or is performed (R103, R123, R168, R331). -/

namespace Sys2Proof.Machine

theorem reach1_fresh {s : State} (h : s.core.seq.flight = none) : reach1 s = .fresh := by simp [reach1, h]

theorem reach1_sent {s : State} {fl : Flight} (h : s.core.seq.flight = some fl) (hl : fl.lost = false) :
    reach1 s = .sent { pa := fl.pa, hs := fl.hs, ni := fl.ni } := by simp [reach1, h, hl]

theorem reach1_lost {s : State} {fl : Flight} (h : s.core.seq.flight = some fl) (hl : fl.lost = true) : reach1 s = .lost fl.pa := by
  simp [reach1, h, hl]

/-- An access that need not wait, to no chip of the capacity tier, is performed with its bytes charged. -/
theorem crossTo_near {p : Phys} {n : Nat} {f : State → Out} {s : State} (hm : memOk s s.core.seq.eff p.pa = true)
    (hp : ∀ c, place p.pa ≠ .tier c) : crossTo p n none f s = f (chargeMem s.core.seq.eff p.pa n s) := by
  unfold crossTo
  simp only [hm, Bool.not_true]
  cases h : place p.pa with
  | tier c => exact absurd h (hp c)
  | _ => rfl

/-- One to a chip that the next choice performs at once. -/
theorem crossTo_tier_now {p : Phys} {n c : Nat} {f : State → Out} {s s2 : State} (hm : memOk s s.core.seq.eff p.pa = true)
    (hp : place p.pa = .tier c) (hc : popChoice (chargeMem s.core.seq.eff p.pa n s) = (false, s2)) : crossTo p n none f s = f s2 := by
  unfold crossTo
  simp only [hm, Bool.not_true, hp, hc]
  rfl

/-- One to a chip that the next choice leaves on its way. -/
theorem crossTo_tier_later {p : Phys} {n c : Nat} {f : State → Out} {s s2 : State} (hm : memOk s s.core.seq.eff p.pa = true)
    (hp : place p.pa = .tier c) (hc : popChoice (chargeMem s.core.seq.eff p.pa n s) = (true, s2)) :
    crossTo p n none f s = stall false (setFlight (some { pa := p.pa, hs := p.hs, ni := p.ni }) s2) := by
  unfold crossTo
  simp only [hm, Bool.not_true, hp, hc]
  rfl

/-- An access that has not been sent, waits for no order and translates crosses to its home. -/
theorem reachS_fresh {a : Acc} {va : Word} {n : Nat} {held : Nat → State → Option Bool} {f : Phys → State → Out} {s s1 : State} {p : Phys}
    (hf : s.core.seq.flight = none) (hw : scalarWaits s = false) (ht : transS a va s = (.ok p, s1)) :
    reachS a va n held f s = crossTo p n (held p.pa s1) (f p) s1 := by
  unfold reachS
  simp only [reach1_fresh hf, hw, ht]
  rfl

/-- One whose translation fails traps with its cause. -/
theorem reachS_trap {a : Acc} {va : Word} {n c : Nat} {held : Nat → State → Option Bool} {f : Phys → State → Out} {s s1 : State}
    (hf : s.core.seq.flight = none) (hw : scalarWaits s = false) (ht : transS a va s = (.error c, s1)) :
    reachS a va n held f s = trapHere c va s1 := by
  unfold reachS
  simp only [reach1_fresh hf, hw, ht]
  rfl

end Sys2Proof.Machine
end

