-- ==== Sys2Proof/Laws/Signals.lean ====
section
/-! SUPPORT. The evaluation of signals (R118, R119): what one can do that no choice interrupts, and what one does that is left after its
first read. -/

namespace Sys2Proof.Machine

/-- How an evaluation ends that reads all its signals at one moment, `zero` saying that those read before returned 0. -/
def passEnd (zero : Bool) (n : Nat) : Pass :=
  match n with
  | 2 => .abort
  | 1 => if zero then .sat else .wait
  | _ => .wait

theorem popChoice_false {s : State} (h : ∀ b ∈ s.choices, b = false) :
    ∃ l, popChoice s = (false, { s with choices := l }) ∧ ∀ b ∈ l, b = false := by
  unfold popChoice
  split
  · exact ⟨s.choices, rfl, h⟩
  · next b r hc => exact ⟨r, by rw [h b (by simp [hc])], fun x hx => h x (by simp [hc, hx])⟩

theorem evalSignals_choices (l : List Bool) (s : State) : ∀ sigs, evalSignals { s with choices := l } sigs = evalSignals s sigs
  | [] => rfl
  | a :: r => by simp only [evalSignals, evalSignals_choices l s r]; rfl

theorem evalSignals_le (s : State) : ∀ sigs, evalSignals s sigs = 0 ∨ evalSignals s sigs = 1 ∨ evalSignals s sigs = 2
  | [] => .inr (.inl rfl)
  | a :: r => by
    simp only [evalSignals]
    rcases evalSignals_le s r with h | h | h <;> simp only [h] <;> repeat' split
    all_goals simp

/-- An evaluation that no choice interrupts reads every signal at one moment, and changes nothing but the choices it has drawn. -/
theorem readSignals_whole : ∀ (sigs : List Nat) (zero : Bool) (s : State), (∀ b ∈ s.choices, b = false) →
    (∀ a ∈ sigs, isPoisoned s a 64 = false) →
    ∃ l, readSignals sigs zero s = (passEnd zero (evalSignals s sigs), { s with choices := l }) ∧ ∀ b ∈ l, b = false
  | [], zero, s, hc, _ => ⟨s.choices, rfl, hc⟩
  | a :: r, zero, s, hc, hp => by
    have ha : isPoisoned s a 64 = false := hp a (by simp)
    by_cases hv : sigValue s a < 0
    · exact ⟨s.choices, by simp [readSignals, evalSignals, ha, hv, passEnd], hc⟩
    · cases r with
      | nil =>
        refine ⟨s.choices, ?_, hc⟩
        by_cases hz : sigValue s a = 0 <;> simp [readSignals, evalSignals, ha, hz, passEnd, hv]
      | cons b r =>
        obtain ⟨l, hl, hf⟩ := popChoice_false hc
        obtain ⟨k, hk, hkf⟩ := readSignals_whole (b :: r) (zero && decide (sigValue s a = 0)) { s with choices := l } hf
          (fun x hx => hp x (by simp [List.mem_cons.mp hx]))
        refine ⟨k, ?_, hkf⟩
        have hs : readSignals (a :: b :: r) zero s = readSignals (b :: r) (zero && decide (sigValue s a = 0)) { s with choices := l } := by
          rw [readSignals]
          simp only [ha, hv, hl, List.isEmpty_cons]
          rfl
        rw [hs, hk, evalSignals_choices]
        have he : ∀ n, evalSignals s (b :: r) = n → n ≤ 2 →
            evalSignals s (a :: b :: r) = if n = 2 then 2 else if sigValue s a = 0 then n else 0 := by
          intro n h hn
          conv => lhs; rw [evalSignals]
          obtain rfl | rfl | rfl : n = 0 ∨ n = 1 ∨ n = 2 := by omega
          all_goals simp [hv, h]
        rcases evalSignals_le s (b :: r) with h | h | h <;> rw [he _ h (by omega), h] <;>
          by_cases hz : sigValue s a = 0 <;> simp [hz, passEnd]

/-- An evaluation left after its first read. -/
theorem readSignals_left {a : Nat} {r : List Nat} {l : List Bool} {zero : Bool} {s : State} (hr : r ≠ []) (hp : isPoisoned s a 64 = false)
    (hv : 0 ≤ sigValue s a) (hc : s.choices = true :: l) :
    readSignals (a :: r) zero s = (.more r (zero && decide (sigValue s a = 0)), { s with choices := l }) := by
  have hv' : ¬ sigValue s a < 0 := by omega
  have hr' : r.isEmpty = false := by cases r <;> simp_all
  rw [readSignals]
  simp [hp, hv', hr', popChoice, hc]

end Sys2Proof.Machine
end

