-- ==== Sys2Proof/Laws/Translate.lean ====
section
/-! SUPPORT. What a translation and a choice can change: the translation structures and the list of choices, and nothing else. -/

namespace Sys2Proof.Machine

/-- `t` differs from `s` at most in the translation structures and in the choices still to come. -/
def TlbOnly (s t : State) : Prop := t = { s with tlb := t.tlb, choices := t.choices }

theorem TlbOnly.refl (s : State) : TlbOnly s s := rfl

theorem TlbOnly.trans {s t u : State} (h1 : TlbOnly s t) (h2 : TlbOnly t u) : TlbOnly s u := by
  unfold TlbOnly at *
  rw [h2, h1]

theorem TlbOnly.core {s t : State} (h : TlbOnly s t) : t.core = s.core := by rw [h]
theorem TlbOnly.others {s t : State} (h : TlbOnly s t) : t.others = s.others := by rw [h]
theorem TlbOnly.mem {s t : State} (h : TlbOnly s t) : t.mem = s.mem := by rw [h]
theorem TlbOnly.poison {s t : State} (h : TlbOnly s t) : t.poison = s.poison := by rw [h]
theorem TlbOnly.fe {s t : State} (h : TlbOnly s t) : t.fe = s.fe := by rw [h]
theorem TlbOnly.cfg {s t : State} (h : TlbOnly s t) : t.cfg = s.cfg := by rw [h]
theorem TlbOnly.copy {s t : State} (h : TlbOnly s t) : t.copy = s.copy := by rw [h]
theorem TlbOnly.near {s t : State} (h : TlbOnly s t) : t.near = s.near := by rw [h]
theorem TlbOnly.fab {s t : State} (h : TlbOnly s t) : t.fab = s.fab := by rw [h]
theorem TlbOnly.slots {s t : State} (h : TlbOnly s t) : t.slots = s.slots := by rw [h]
theorem TlbOnly.shoot {s t : State} (h : TlbOnly s t) : t.shoot = s.shoot := by rw [h]
theorem TlbOnly.out {s t : State} (h : TlbOnly s t) : t.out = s.out := by rw [h]

theorem tlbOnly_popChoice (s : State) : TlbOnly s (popChoice s).2 := by
  unfold popChoice
  split <;> rfl

theorem tlbOnly_addWalk (s : State) (site : TlbSite) (asn level vp frame : Nat) : TlbOnly s (addWalk s site asn level vp frame) := rfl

theorem tlbOnly_addLeaves (s : State) (site : TlbSite) (asn vp : Nat) (ls : List Leaf) : TlbOnly s (addLeaves s site asn vp ls) := rfl

theorem tlbOnly_ite {α : Type} {s : State} {c : Prop} [Decidable c] {x y : α × State} (hx : TlbOnly s x.2) (hy : TlbOnly s y.2) :
    TlbOnly s (if c then x else y).2 := by
  by_cases h : c
  · rw [if_pos h]; exact hx
  · rw [if_neg h]; exact hy

theorem tlbOnly_walk (site : TlbSite) (asn vp level : Nat) : ∀ (tbl : Nat) (s : State), TlbOnly s (walk site asn vp level tbl s).2 := by
  induction level with
  | zero =>
    intro tbl s
    rw [walk]
    exact tlbOnly_ite (TlbOnly.refl s) (TlbOnly.refl s)
  | succ level ih =>
    intro tbl s
    rw [walk]
    refine tlbOnly_ite (TlbOnly.refl s) ?_
    extract_lets lv i e ptr hit stale
    have hp : TlbOnly s (if stale = true then popChoice s else (false, s)).2 := tlbOnly_ite (tlbOnly_popChoice s) (TlbOnly.refl s)
    generalize (if stale = true then popChoice s else (false, s)) = r at hp ⊢
    obtain ⟨use, s1⟩ := r
    clear_value hit stale ptr e i lv
    have hrest : ∀ (tb fr : Nat) (x : Except Nat (List Leaf) × State), TlbOnly s x.2 →
        TlbOnly s (if ptr = true then walk site asn vp level tb (addWalk s1 site asn lv vp fr) else x).2 :=
      fun tb fr x hx => tlbOnly_ite ((hp.trans (tlbOnly_addWalk _ _ _ _ _ _)).trans (ih _ _)) hx
    cases use <;> cases hit <;> dsimp only <;>
      first
        | exact hp.trans (ih _ _)
        | (apply hrest; repeat' apply tlbOnly_ite
           all_goals exact hp)

theorem tlbOnly_findLeaf (site : TlbSite) (root asn vp : Nat) (s : State) : TlbOnly s (findLeaf site root asn vp s).2 := by
  have hw := tlbOnly_walk site asn vp 4 (root * 4096) s
  unfold findLeaf
  generalize walk site asn vp 4 (root * 4096) s = r at hw ⊢
  obtain ⟨fresh, s1⟩ := r
  extract_lets hit
  clear_value hit
  dsimp -zeta only
  extract_lets first same
  have hp : TlbOnly s (if same = true then (false, s1) else popChoice s1).2 := tlbOnly_ite hw (hw.trans (tlbOnly_popChoice s1))
  generalize (if same = true then (false, s1) else popChoice s1) = r at hp ⊢
  obtain ⟨use, s2⟩ := r
  clear_value same first
  cases use <;> cases hit <;> cases first <;> first | exact hp | exact hp.trans (tlbOnly_addLeaves _ _ _ _ _)

/-- A translation changes nothing but the structures it looks in (R100, R103). -/
theorem tlbOnly_translateFor (site : TlbSite) (core : Option Nat) (eff : Region) (p : Path) (a : Acc) (reach : Reach) (va : Word) (s : State) :
    TlbOnly s (translateFor site core eff p a reach va s).2 := by
  have hf := tlbOnly_findLeaf site eff.root eff.asn (va.toNat / 4096) s
  unfold translateFor
  extract_lets v
  refine tlbOnly_ite (TlbOnly.refl s) (tlbOnly_ite ?_ ?_)
  · cases core with
    | none => exact TlbOnly.refl s
    | some c => exact tlbOnly_ite (TlbOnly.refl s) (TlbOnly.refl s)
  · generalize findLeaf site eff.root eff.asn (v / 4096) s = r at hf ⊢
    obtain ⟨l, s1⟩ := r
    cases l with
    | error c => exact hf
    | ok l =>
      dsimp only
      generalize leafChecks _ _ _ _ _ _ = c
      cases c <;> exact hf

theorem tlbOnly_translate (site : Nat → TlbSite) (p : Path) (a : Acc) (va : Word) (s : State) : TlbOnly s (translate site p a va s).2 :=
  tlbOnly_translateFor _ _ _ _ _ _ _ _

theorem tlbOnly_transS (a : Acc) (va : Word) (s : State) : TlbOnly s (transS a va s).2 := tlbOnly_translate _ _ _ _ _

/-- An address of the scratchpad window is no lookup: its address follows from the core and the share (R94). -/
theorem translateFor_window {site : TlbSite} {c : Nat} {eff : Region} {p : Path} {a : Acc} {reach : Reach} {va : Word} {s : State}
    (h57 : va.toNat < 2 ^ 57) (hw : inWindow va.toNat = true) (hs : va.toNat - windowBase < eff.spsize * 1024) :
    translateFor site (some c) eff p a reach va s = (.ok { pa := padAddr c eff (va.toNat - windowBase) }, s) := by
  simp only [translateFor]
  rw [if_neg (by omega), if_pos hw, if_neg (by omega)]

end Sys2Proof.Machine
end

