-- ==== Sys2Proof/Tests/Slice0.lean ====
section
/-! SUPPORT. Tests: ill-formed terms that are refused, words laid out from the manual's encoding tables, and concrete states that meet the
hypotheses of the statements. -/

namespace Sys2Proof.Tests

open Sys2Proof Sys2Proof.Machine Sys2Proof.Safety

set_option maxRecDepth 100000
set_option Elab.async false

theorem test_wf_refuses_scalar :
    [Instr.syswr 1 0x800, .syswr 1 0x801, .syswr 1 0x802, .bext 1 2 60 5, .bins 1 2 1 63, .ld .f32 1 2 0, .st .e4m3 1 2 0, .xfence .s .s, .sigdec
      1 .sys 0].all (fun i => !i.wf) = true := by decide +kernel

theorem test_wf_refuses_vectorInteger :
    [Instr.vadd (.v 1) ⟨.v, 1, .none⟩ ⟨.v, 1, .none⟩ 0 0 .f32, .vsub (.v 1) ⟨.v, 1, .none⟩ ⟨.v, 1, .none⟩ 0 0 .q4, .vmul (.v 1) ⟨.v, 1, .none⟩
      ⟨.v, 1, .none⟩ 0 0 .f16, .vmulh (.v 1) ⟨.v, 1, .none⟩ ⟨.v, 1, .none⟩ 0 0 .z8, .vmulhz (.v 1) ⟨.v, 1, .none⟩ ⟨.v, 1, .none⟩ 0 0 .s8, .vmin
      (.v 1) ⟨.v, 1, .none⟩ ⟨.v, 1, .none⟩ 0 0 .z8, .vmax (.v 1) ⟨.v, 1, .none⟩ ⟨.v, 1, .none⟩ 0 0 .z8, .vminz (.v 1) ⟨.v, 1, .none⟩ ⟨.v, 1,
      .none⟩ 0 0 .s8, .vmaxz (.v 1) ⟨.v, 1, .none⟩ ⟨.v, 1, .none⟩ 0 0 .s8, .vadds (.v 1) ⟨.v, 1, .none⟩ ⟨.v, 1, .none⟩ 0 0 .f32, .vsubs (.v 1)
      ⟨.v, 1, .none⟩ ⟨.v, 1, .none⟩ 0 0 .f32, .vadd (.v 1) ⟨.o, 8, .none⟩ ⟨.v, 1, .none⟩ 0 0 .s8, .vadd (.v 1) ⟨.v, 1, .none⟩ ⟨.l, 4, .none⟩ 0 0
      .s8, .vmadd .nil ⟨.v, 1, .none⟩ ⟨.v, 1, .none⟩ 0 0 .s8, .vmadd (.v 1) ⟨.v, 1, .none⟩ ⟨.v, 1, .none⟩ 0 0 .f32, .vabs (.v 1) ⟨.v, 1, .none⟩ 0
      0 .z8, .vpopc (.v 1) ⟨.v, 1, .none⟩ 0 0 .f32, .vclz (.v 1) ⟨.v, 1, .none⟩ 0 0 .bf16].all (fun i => !i.wf) = true := by decide +kernel

theorem test_wf_refuses_vectorFloat :
    [Instr.vfadd .rne (.v 1) ⟨.v, 1, .none⟩ ⟨.v, 1, .none⟩ 0 0 .s32, .vfsub .rne (.v 1) ⟨.v, 1, .none⟩ ⟨.v, 1, .none⟩ 0 0 .s32, .vfmul .rne (.v 1)
      ⟨.v, 1, .none⟩ ⟨.v, 1, .none⟩ 0 0 .s32, .vfdiv .rne (.v 1) ⟨.v, 1, .none⟩ ⟨.v, 1, .none⟩ 0 0 .s32, .vfma .rne .nil ⟨.v, 1, .none⟩ ⟨.v, 1,
      .none⟩ 0 0 .f32, .vfma .rne (.v 1) ⟨.v, 1, .none⟩ ⟨.v, 1, .none⟩ 0 0 .e4m3, .vfms .rne .nil ⟨.v, 1, .none⟩ ⟨.v, 1, .none⟩ 0 0 .f32, .vfms
      .rne (.v 1) ⟨.v, 1, .none⟩ ⟨.v, 1, .none⟩ 0 0 .e4m3, .vfnma .rne .nil ⟨.v, 1, .none⟩ ⟨.v, 1, .none⟩ 0 0 .f32, .vfnma .rne (.v 1) ⟨.v, 1,
      .none⟩ ⟨.v, 1, .none⟩ 0 0 .e4m3, .vfrcp .rne (.v 1) ⟨.v, 1, .none⟩ 0 0 .e5m2, .vfsqrt .rne (.v 1) ⟨.v, 1, .none⟩ 0 0 .e5m2, .vfrsq (.v 1)
      ⟨.v, 1, .none⟩ 0 0 .z32, .vfexp2 (.v 1) ⟨.v, 1, .none⟩ 0 0 .z32, .vflog2 (.v 1) ⟨.v, 1, .none⟩ 0 0 .z32, .vfsin (.v 1) ⟨.v, 1, .none⟩ 0 0
      .z32, .vfcos (.v 1) ⟨.v, 1, .none⟩ 0 0 .z32, .vftanh (.v 1) ⟨.v, 1, .none⟩ 0 0 .z32, .vfabs (.v 1) ⟨.v, 1, .none⟩ 0 0 .z32, .vfneg (.v 1)
      ⟨.v, 1, .none⟩ 0 0 .z32, .vfclass (.v 1) ⟨.v, 1, .none⟩ 0 0 .z32, .vfmin (.v 1) ⟨.v, 1, .none⟩ ⟨.v, 1, .none⟩ 0 0 .q8, .vfmax (.v 1) ⟨.v, 1,
      .none⟩ ⟨.v, 1, .none⟩ 0 0 .q8, .vscacc .nil ⟨.v, 1, .none⟩ ⟨.v, 1, .none⟩ 0 0 0].all (fun i => !i.wf) = true := by decide +kernel

theorem test_wf_refuses_vectorOther :
    [Instr.vcvt .rne (.v 1) ⟨.v, 1, .none⟩ .f32 0 0 .f32, .vcvt .rne (.v 1) ⟨.v, 1, .none⟩ .q4 0 0 .s8, .vnarrow .rne (.v 1) ⟨.v, 1, .none⟩ .f32 0
      0 .bf16, .vnarrow .rne (.v 1) ⟨.v, 1, .none⟩ .s32 0 0 .s32, .vwiden (.v 1) ⟨.v, 1, .none⟩ .s8 0 0 .s8, .vwiden (.v 1) ⟨.v, 1, .none⟩ .s64 0
      0 .f32, .vdeq (.v 1) ⟨.v, 1, .none⟩ ⟨.v, 1, .none⟩ 0 0 .s8, .vand (.v 1) ⟨.v, 1, .none⟩ ⟨.v, 1, .none⟩ 0 0 .q4, .vor (.v 1) ⟨.v, 1, .none⟩
      ⟨.v, 1, .none⟩ 0 0 .q4, .vxor (.v 1) ⟨.v, 1, .none⟩ ⟨.v, 1, .none⟩ 0 0 .q4, .vandn (.v 1) ⟨.v, 1, .none⟩ ⟨.v, 1, .none⟩ 0 0 .q4, .vshl (.v
      1) ⟨.v, 1, .none⟩ ⟨.v, 1, .none⟩ 0 0 .f32, .vshr (.v 1) ⟨.v, 1, .none⟩ ⟨.v, 1, .none⟩ 0 0 .f32, .vsra (.v 1) ⟨.v, 1, .none⟩ ⟨.v, 1, .none⟩ 0
      0 .f32, .vshlw (.v 1) ⟨.v, 1, .none⟩ 1 .q8, .vshrw (.v 1) ⟨.v, 1, .none⟩ 1 .q8, .vfunl (.v 1) ⟨.v, 1, .none⟩ ⟨.v, 1, .none⟩ 1 .q8, .vfunr
      (.v 1) ⟨.v, 1, .none⟩ ⟨.v, 1, .none⟩ 1 .q8, .vrndb (.v 1) 0 0 .f32, .vcmp .un 1 ⟨.v, 1, .none⟩ ⟨.v, 1, .none⟩ 0 0 .s8, .vcmp .eq 1 ⟨.v, 1,
      .none⟩ ⟨.v, 1, .none⟩ 0 0 .f32, .vfcmp .eq 1 ⟨.v, 1, .none⟩ ⟨.v, 1, .none⟩ 0 0 .s8, .vsel (.v 1) ⟨.o, 8, .none⟩ ⟨.v, 1, .none⟩ 0 0 .s8,
      .vpres 1 ⟨.o, 8, .none⟩ 0 0 .s8, .settle .nil .nil .nil, .vred .add (.v 1) ⟨.v, 1, .none⟩ (.init ⟨.v, 1, .none⟩) 0 0 .f32, .vfred .xor (.v
      1) ⟨.v, 1, .none⟩ (.init ⟨.v, 1, .none⟩) 0 0 .f32, .vfred .add (.v 1) ⟨.v, 1, .none⟩ (.init ⟨.v, 1, .none⟩) 0 0 .f16, .vscan .add (.v 1)
      ⟨.v, 1, .none⟩ (.init ⟨.o, 8, .none⟩) 0 0 .s8, .vfscan .and (.v 1) ⟨.v, 1, .none⟩ (.init ⟨.v, 1, .none⟩) 0 0 .f32, .vthr (.v 1) ⟨.v, 1,
      .none⟩ ⟨.v, 1, .none⟩ 0 0 .s16, .vmvs 1 ⟨.o, 8, .none⟩ .s8].all (fun i => !i.wf) = true := by decide +kernel

theorem test_wf_refuses_vectorMemory :
    [Instr.vld .nil 1 0 0 0 .f32, .vldW .nil 1 0 0 0 0 .f32, .vlds .nil 1 2 0 0 0 .f32, .vldff .nil 1 2 0 0 0 .f32, .vst ⟨.o, 8, .none⟩ 1 0 0 0
      .f32, .vsts ⟨.o, 8, .none⟩ 1 2 0 0 0 .f32, .vgath .nil 1 ⟨.v, 1, .none⟩ 0 0 0 .f32, .vgath (.v 1) 1 ⟨.v, 1, .none⟩ 0 0 0 .q4, .vscat ⟨.v, 1,
      .none⟩ ⟨.v, 1, .none⟩ 1 0 0 0 .q4, .vscadd ⟨.v, 1, .none⟩ ⟨.v, 1, .none⟩ 1 0 0 0 .s8, .vtst ⟨.v, 1,
      .none⟩ ⟨.v, 1, .none⟩ 0 0 .q4, .vsell (.v 1) (.v 1) 1 2 3 .f32, .vsell .nil (.v 1) 1 2 3 .f32, .vslideu (.v 1) ⟨.o, 8, .none⟩ 1 0 0 .s8,
      .vslided (.v 1) ⟨.o, 8, .none⟩ 1 0 0 .s8, .vperm (.v 1) ⟨.v, 1, .none⟩ ⟨.v, 1, .none⟩ 0 0 .q8, .vxchg (.v 1) ⟨.v, 1, .none⟩ 10 0 0 .s8,
      .vcomp (.v 1) ⟨.v, 1, .none⟩ 1 0 0 .q4, .vexp (.v 1) ⟨.v, 1, .none⟩ 0 0 .q4, .vfib 1 2 ⟨.v, 1, .none⟩ 3 4 .s32].all (fun i => !i.wf) = true
      := by decide +kernel

theorem test_wf_refuses_engines :
    [Instr.mzero 3 2, .mzero 3 24, .mma 24 1 2 .bf16 0 false false, .mma 1 1 2 .s8 0 false false, .mmaq 1 1 2 3 .z8 .q4 .g32, .mmaq 1 1 2 3 .s8
      .s8 .g32, .mmas 1 1 2 3 .q4, .mmac .rtz 1 2 3 .bf16, .mmac .rne 2 2 3 .bf16, .mmac .rne 1 2 3 .f16, .mscale 2 2 3 4, .mld 24 1 0, .mst 31 1
      0, .mdrain .sr 1 (.pad 2) .f32, .mdrain .rne 1 (.vec .nil 0) .f32, .mdrain .rne 1 (.vec (.v 1) 61) .f32, .pdrain 2 1 .none 1 0 3 .nil .f32,
      .pdrain 1 2 .none 1 5 3 .nil .f32, .pdrain 1 2 .box 1 31 3 .nil .f32, .pstat 1 2 .box 3 4, .pfix 1 2 .l2ball 3 4 .f32, .prld 31 0, .prst 31
      0, .cbind 12 1, .cgo 12 0 0, .cgoMx 12 0 0, .cvld .nil 1 2 3 0 .f32, .cvld (.v 1) 1 2 3 0 .q4, .nadd .add 1 ⟨.o, 8, .none⟩ 0, .naddr .add
      .nil 1 ⟨.v, 1, .none⟩ 0, .fsig 1 0, .collAllreduce 1 2 3 0 .f16, .collRedscat 1 2 3 0 .s32, .collAllgather 1 2 3 0 .q4, .collBcast 1 2 3 0
      .q8].all (fun i => !i.wf) = true := by decide +kernel

theorem test_wf_refuses_beret :
    [Instr.bfxb 1 2 60 5, .ldpb 1 4, .ldpb 1 4096, .ldqb 1 64, .srdb 1 16, .sdecb 1 16, .ssetb 1 16, .beqb 1 2 0, .bneb 1 2 0, .bltb 1 2 0, .loopb
      0 1, .loopb 1 0, .loopb 1 65].all (fun i => !i.wf) = true := by decide +kernel

/-- Words laid out from R47. -/
theorem test_words_control1 :
    [(0x0, 0x0),
      (0xC013, 0x8A4000FFFFE2),
      (0x8020, 0x345),
      (0x8040, 0xF8ABCDEF),
      (0x8060, 0x18000045),
      (0x4030, 0x540),
      (0x4050, 0x7C0),
      (0xC070, 0x2D1200001234),
      (0x80, 0x0),
      (0xA0, 0x0),
      (0xD0, 0x0),
      (0x4090, 0xABC)].map (fun w : Nat × Nat => decodeHT w.1 w.2) =
    [.ok (.nop),
      .ok (.brCc .ge 17 9 0xFFFFE2),
      .ok (.jmp 0x345),
      .ok (.call 31 0xABCDEF),
      .ok (.loop 3 0x45),
      .ok (.jmpr 21),
      .ok (.ret 31),
      .ok (.loopr 5 40 9 0x1234),
      .ok (.leave),
      .ok (.eret),
      .ok (.halt),
      .ok (.trap 0xABC)] := by rfl

/-- Words laid out from R47. -/
theorem test_words_control2 :
    [(0x40E0, 0x123),
      (0x80B0, 0x98000061),
      (0x80C0, 0x98000041),
      (0x80C0, 0x38000800),
      (0x80C0, 0x40000801),
      (0x80C0, 0x48000802)].map (fun w : Nat × Nat => decodeHT w.1 w.2) =
    [.ok (.brkpt 0x123),
      .ok (.sysrd 19 0x061),
      .ok (.syswr 19 0x041),
      .ok (.vrestore 7),
      .ok (.icinv 8),
      .ok (.tlbinv 9)] := by rfl

/-- Words laid out from R47. -/
theorem test_words_scalar1 :
    [(0x4400, 0xF84),
      (0x4410, 0x1752),
      (0x4420, 0x1F20),
      (0x4430, 0x26EE),
      (0x4440, 0x2EBC),
      (0x4450, 0x364A),
      (0x4460, 0x3E18),
      (0x4470, 0x45E6),
      (0x4480, 0x4DB4),
      (0x4490, 0x5542),
      (0x44A0, 0x5D10),
      (0x44B0, 0x64DE)].map (fun w : Nat × Nat => decodeHT w.1 w.2) =
    [.ok (.add 1 30 2),
      .ok (.sub 2 29 9),
      .ok (.and 3 28 16),
      .ok (.or 4 27 23),
      .ok (.xor 5 26 30),
      .ok (.andn 6 25 5),
      .ok (.shl 7 24 12),
      .ok (.shr 8 23 19),
      .ok (.sra 9 22 26),
      .ok (.mul 10 21 1),
      .ok (.mulh 11 20 8),
      .ok (.mulhz 12 19 15)] := by rfl

/-- Words laid out from R47. -/
theorem test_words_scalar2 :
    [(0x44C0, 0x6CAC),
      (0x44D0, 0x747A),
      (0x44E0, 0x7C08),
      (0x44F0, 0x83D6),
      (0x4500, 0x8BA4),
      (0x4510, 0x9372),
      (0x4520, 0x9B00),
      (0x4530, 0xA2CE),
      (0x4540, 0xAA9C),
      (0x4550, 0xB26A),
      (0x4560, 0xBA38),
      (0x8570, 0x8864000)].map (fun w : Nat × Nat => decodeHT w.1 w.2) =
    [.ok (.div 13 18 22),
      .ok (.divz 14 17 29),
      .ok (.rem 15 16 4),
      .ok (.remz 16 15 11),
      .ok (.min 17 14 18),
      .ok (.max 18 13 25),
      .ok (.minz 19 12 0),
      .ok (.maxz 20 11 7),
      .ok (.slt 21 10 14),
      .ok (.sltz 22 9 21),
      .ok (.seq 23 8 28),
      .ok (.sel 1 2 3 4)] := by rfl

/-- Words laid out from R47. -/
theorem test_words_scalar3 :
    [(0x4580, 0xA2C0),
      (0x4590, 0xA2C0),
      (0x85A0, 0x31E17800),
      (0x85B0, 0x31CD1400)].map (fun w : Nat × Nat => decodeHT w.1 w.2) =
    [.ok (.clz 20 11),
      .ok (.popc 20 11),
      .ok (.bext 6 7 33 30),
      .ok (.bins 6 7 13 5)] := by rfl

/-- Words laid out from R47. -/
theorem test_words_immediate1 :
    [(0x8800, 0x637FFFF0),
      (0x8810, 0x637FFFF1),
      (0x8820, 0x637FFFF2),
      (0x8830, 0x637FFFF3),
      (0x8870, 0x637FFFF7),
      (0x8840, 0x63400025),
      (0x8850, 0x63400026),
      (0x8860, 0x63400027),
      (0xC885, 0x800012345678),
      (0xC890, 0x4800DEADBEEF)].map (fun w : Nat × Nat => decodeHT w.1 w.2) =
    [.ok (.addi 12 13 4194288),
      .ok (.andi 12 13 4194289),
      .ok (.ori 12 13 4194290),
      .ok (.xori 12 13 4194291),
      .ok (.slti 12 13 4194295),
      .ok (.shli 12 13 37),
      .ok (.shri 12 13 38),
      .ok (.srai 12 13 39),
      .ok (.li 21 0x12345678),
      .ok (.lih 9 0xDEADBEEF)] := by rfl

/-- Words laid out from R47. -/
theorem test_words_memory1 :
    [(0x8C02, 0x193FFFF8),
      (0x8C17, 0x19000010),
      (0xCC28, 0x298EE0010000),
      (0xCC30, 0x298E89FFF000)].map (fun w : Nat × Nat => decodeHT w.1 w.2) =
    [.ok (.ld .s32 3 4 0x3FFFF8),
      .ok (.st .z64 3 4 16),
      .ok (.amo .swap 5 6 7 .pkg true 8),
      .ok (.cas 5 6 7 8 .sys true 0xFFF0)] := by rfl

/-- Words laid out from R47. -/
theorem test_words_sync1 :
    [(0x5000, 0x7200),
      (0x5020, 0x7400),
      (0x5010, 0x4B88),
      (0x5030, 0x4400),
      (0x5040, 0x6000),
      (0x5050, 0x1234),
      (0x5060, 0xB000),
      (0x5070, 0xB800),
      (0x1080, 0x0),
      (0x1090, 0x0),
      (0x10A0, 0x0),
      (0x50B0, 0xB100)].map (fun w : Nat × Nat => decodeHT w.1 w.2) =
    [.ok (.acq 14 .die),
      .ok (.rel 14 .sys),
      .ok (.tryacq 9 14 .clus),
      .ok (.xfence .m .v),
      .ok (.fence .pkg),
      .ok (.waitc 1 2 3 4),
      .ok (.spawn 22),
      .ok (.join 23),
      .ok (.commit),
      .ok (.endTask),
      .ok (.yield),
      .ok (.wmpub 5 17)] := by rfl

/-- Words laid out from R47. -/
theorem test_words_sync2 :
    [(0x90C0, 0x7C000001),
      (0x90C0, 0x7B000000)].map (fun w : Nat × Nat => decodeHT w.1 w.2) =
    [.ok (.sigdec 15 .sys 1),
      .ok (.sigwait 15 .pkg)] := by rfl

/-- Words laid out from R48. -/
theorem test_words_vInt1 :
    [(0xD400, 0x254354A67960),
      (0xD410, 0x254354A67961),
      (0xD420, 0x254354A67966),
      (0xD430, 0x254354A67963),
      (0xD440, 0x254354A67967),
      (0xD450, 0x254354A67962),
      (0xD460, 0x254354A67960),
      (0xD470, 0x254354A67961),
      (0xD480, 0x254354A67964),
      (0xD490, 0x254354A67965),
      (0xD4B0, 0x254354A67961),
      (0xD4C0, 0x254354A67966)].map (fun w : Nat × Nat => decodeHT w.1 w.2) =
    [.ok (.vadd (.v 37) ⟨.o, 3, .e 5⟩ ⟨.v, 41, .seg 7⟩ 9 3 .s8),
      .ok (.vsub (.v 37) ⟨.o, 3, .e 5⟩ ⟨.v, 41, .seg 7⟩ 9 3 .s16),
      .ok (.vmul (.v 37) ⟨.o, 3, .e 5⟩ ⟨.v, 41, .seg 7⟩ 9 3 .z32),
      .ok (.vmulh (.v 37) ⟨.o, 3, .e 5⟩ ⟨.v, 41, .seg 7⟩ 9 3 .s64),
      .ok (.vmulhz (.v 37) ⟨.o, 3, .e 5⟩ ⟨.v, 41, .seg 7⟩ 9 3 .z64),
      .ok (.vmadd (.v 37) ⟨.o, 3, .e 5⟩ ⟨.v, 41, .seg 7⟩ 9 3 .s32),
      .ok (.vmin (.v 37) ⟨.o, 3, .e 5⟩ ⟨.v, 41, .seg 7⟩ 9 3 .s8),
      .ok (.vmax (.v 37) ⟨.o, 3, .e 5⟩ ⟨.v, 41, .seg 7⟩ 9 3 .s16),
      .ok (.vminz (.v 37) ⟨.o, 3, .e 5⟩ ⟨.v, 41, .seg 7⟩ 9 3 .z8),
      .ok (.vmaxz (.v 37) ⟨.o, 3, .e 5⟩ ⟨.v, 41, .seg 7⟩ 9 3 .z16),
      .ok (.vadds (.v 37) ⟨.o, 3, .e 5⟩ ⟨.v, 41, .seg 7⟩ 9 3 .s16),
      .ok (.vsubs (.v 37) ⟨.o, 3, .e 5⟩ ⟨.v, 41, .seg 7⟩ 9 3 .z32)] := by rfl

/-- Words laid out from R48. -/
theorem test_words_vInt2 :
    [(0xD4A0, 0x4682000001E2),
      (0xD4D0, 0x4682000001E4),
      (0xD4E0, 0x4682000001E7)].map (fun w : Nat × Nat => decodeHT w.1 w.2) =
    [.ok (.vabs (.o 6) ⟨.l, 2, .none⟩ 1 7 .s32),
      .ok (.vpopc (.o 6) ⟨.l, 2, .none⟩ 1 7 .z8),
      .ok (.vclz (.o 6) ⟨.l, 2, .none⟩ 1 7 .z64)] := by rfl

/-- Words laid out from R48. -/
theorem test_words_vFloat1 :
    [(0xD800, 0x258200FFF229),
      (0xD811, 0x258200FFF229),
      (0xD822, 0x258200FFF229),
      (0xD833, 0x258200FFF229),
      (0xD844, 0x258200FFF229),
      (0xD855, 0x258200FFF229),
      (0xD860, 0x258200FFF229),
      (0xD873, 0x80299C00000A),
      (0xD883, 0x80299C00000A),
      (0xD890, 0x46299C000F48),
      (0xD8A0, 0x46299C000F48),
      (0xD8B0, 0x46299C000F48)].map (fun w : Nat × Nat => decodeHT w.1 w.2) =
    [.ok (.vfadd .rne (.v 37) ⟨.l, 2, .none⟩ ⟨.v, 63, .w 15⟩ 2 1 .f16),
      .ok (.vfsub .rtz (.v 37) ⟨.l, 2, .none⟩ ⟨.v, 63, .w 15⟩ 2 1 .f16),
      .ok (.vfmul .rdn (.v 37) ⟨.l, 2, .none⟩ ⟨.v, 63, .w 15⟩ 2 1 .f16),
      .ok (.vfma .rup (.v 37) ⟨.l, 2, .none⟩ ⟨.v, 63, .w 15⟩ 2 1 .f16),
      .ok (.vfms .rna (.v 37) ⟨.l, 2, .none⟩ ⟨.v, 63, .w 15⟩ 2 1 .f16),
      .ok (.vfnma .sr (.v 37) ⟨.l, 2, .none⟩ ⟨.v, 63, .w 15⟩ 2 1 .f16),
      .ok (.vfdiv .rne (.v 37) ⟨.l, 2, .none⟩ ⟨.v, 63, .w 15⟩ 2 1 .f16),
      .ok (.vfrcp .rup .nil ⟨.v, 41, .seg 7⟩ 0 0 .bf16),
      .ok (.vfsqrt .rup .nil ⟨.v, 41, .seg 7⟩ 0 0 .bf16),
      .ok (.vfrsq (.o 6) ⟨.v, 41, .seg 7⟩ 15 2 .f32),
      .ok (.vfexp2 (.o 6) ⟨.v, 41, .seg 7⟩ 15 2 .f32),
      .ok (.vflog2 (.o 6) ⟨.v, 41, .seg 7⟩ 15 2 .f32)] := by rfl

/-- Words laid out from R48. -/
theorem test_words_vFloat2 :
    [(0xD8C0, 0x46299C000F48),
      (0xD8D0, 0x46299C000F48),
      (0xD8E0, 0x46299C000F48),
      (0xD8F0, 0x254354A6748A),
      (0xD900, 0x254354A6748A),
      (0xD910, 0x253FFC000489),
      (0xD920, 0x253FFC000489),
      (0xD930, 0x253FFC000489),
      (0xD940, 0x464354A67325)].map (fun w : Nat × Nat => decodeHT w.1 w.2) =
    [.ok (.vfsin (.o 6) ⟨.v, 41, .seg 7⟩ 15 2 .f32),
      .ok (.vfcos (.o 6) ⟨.v, 41, .seg 7⟩ 15 2 .f32),
      .ok (.vftanh (.o 6) ⟨.v, 41, .seg 7⟩ 15 2 .f32),
      .ok (.vfmin (.v 37) ⟨.o, 3, .e 5⟩ ⟨.v, 41, .seg 7⟩ 4 4 .bf16),
      .ok (.vfmax (.v 37) ⟨.o, 3, .e 5⟩ ⟨.v, 41, .seg 7⟩ 4 4 .bf16),
      .ok (.vfabs (.v 37) ⟨.v, 63, .w 15⟩ 4 4 .f16),
      .ok (.vfneg (.v 37) ⟨.v, 63, .w 15⟩ 4 4 .f16),
      .ok (.vfclass (.v 37) ⟨.v, 63, .w 15⟩ 4 4 .f16),
      .ok (.vscacc (.o 6) ⟨.o, 3, .e 5⟩ ⟨.v, 41, .seg 7⟩ 3 1 5)] := by rfl

/-- Words laid out from R48. -/
theorem test_words_vConvert1 :
    [(0xDC01, 0x254354002328),
      (0xDC15, 0x25435400B328),
      (0xDC20, 0x254354007324),
      (0xDC30, 0x254354A6700D),
      (0xDC40, 0x46299CFFF8C8),
      (0xDC50, 0x46299CFFF8C0),
      (0xDC60, 0x46299CFFF8CC),
      (0xDC70, 0x46299CFFF8CA),
      (0xDC80, 0x46299CFFF8C1),
      (0xDC90, 0x46299CFFF8C6),
      (0xDCA0, 0x46299CFFF8C3),
      (0xDCB0, 0x258200000C86)].map (fun w : Nat × Nat => decodeHT w.1 w.2) =
    [.ok (.vcvt .rtz (.v 37) ⟨.o, 3, .e 5⟩ .s32 3 1 .f32),
      .ok (.vnarrow .sr (.v 37) ⟨.o, 3, .e 5⟩ .e4m3 3 1 .f32),
      .ok (.vwiden (.v 37) ⟨.o, 3, .e 5⟩ .z64 3 1 .z8),
      .ok (.vdeq (.v 37) ⟨.o, 3, .e 5⟩ ⟨.v, 41, .seg 7⟩ 0 0 .q4),
      .ok (.vand (.o 6) ⟨.v, 41, .seg 7⟩ ⟨.v, 63, .w 15⟩ 8 6 .f32),
      .ok (.vor (.o 6) ⟨.v, 41, .seg 7⟩ ⟨.v, 63, .w 15⟩ 8 6 .s8),
      .ok (.vxor (.o 6) ⟨.v, 41, .seg 7⟩ ⟨.v, 63, .w 15⟩ 8 6 .e5m2),
      .ok (.vandn (.o 6) ⟨.v, 41, .seg 7⟩ ⟨.v, 63, .w 15⟩ 8 6 .bf16),
      .ok (.vshl (.o 6) ⟨.v, 41, .seg 7⟩ ⟨.v, 63, .w 15⟩ 8 6 .s16),
      .ok (.vshr (.o 6) ⟨.v, 41, .seg 7⟩ ⟨.v, 63, .w 15⟩ 8 6 .z32),
      .ok (.vsra (.o 6) ⟨.v, 41, .seg 7⟩ ⟨.v, 63, .w 15⟩ 8 6 .s64),
      .ok (.vshlw (.v 37) ⟨.l, 2, .none⟩ 25 .z32)] := by rfl

/-- Words laid out from R48. -/
theorem test_words_vConvert2 :
    [(0xDCC0, 0x258200000C86),
      (0xDCD0, 0x2582010D5C85),
      (0xDCE0, 0x2582010D5C85),
      (0xDCF0, 0x8000000005A7)].map (fun w : Nat × Nat => decodeHT w.1 w.2) =
    [.ok (.vshrw (.v 37) ⟨.l, 2, .none⟩ 25 .z32),
      .ok (.vfunl (.v 37) ⟨.l, 2, .none⟩ ⟨.o, 3, .e 5⟩ 25 .z16),
      .ok (.vfunr (.v 37) ⟨.l, 2, .none⟩ ⟨.o, 3, .e 5⟩ 25 .z16),
      .ok (.vrndb .nil 5 5 .z64)] := by rfl

/-- Words laid out from R49. -/
theorem test_words_vMask1 :
    [(0xE003, 0xB4354A67265),
      (0xE017, 0xB4354A67269),
      (0xE020, 0x254354A6726E),
      (0x6030, 0x49C0),
      (0x6040, 0x59C0),
      (0x6050, 0x69C0),
      (0x6060, 0x7900),
      (0x6070, 0xDC80),
      (0x6080, 0xDC80),
      (0xE090, 0xD299C000262),
      (0xA0A0, 0x25804600),
      (0xA0A1, 0x0)].map (fun w : Nat × Nat => decodeHT w.1 w.2) =
    [.ok (.vcmp .le 11 ⟨.o, 3, .e 5⟩ ⟨.v, 41, .seg 7⟩ 2 3 .z16),
      .ok (.vfcmp .ord 11 ⟨.o, 3, .e 5⟩ ⟨.v, 41, .seg 7⟩ 2 3 .f16),
      .ok (.vsel (.v 37) ⟨.o, 3, .e 5⟩ ⟨.v, 41, .seg 7⟩ 2 3 .q8),
      .ok (.mand 4 9 12),
      .ok (.mor 5 9 12),
      .ok (.mxor 6 9 12),
      .ok (.mnot 7 9),
      .ok (.mcnt 27 9),
      .ok (.mfirst 27 9),
      .ok (.vpres 13 ⟨.v, 41, .seg 7⟩ 2 3 .s32),
      .ok (.settle (.v 37) .nil (.o 6)),
      .ok (.settleAll)] := by rfl

/-- Words laid out from R49. -/
theorem test_words_vMask2 :
    [(0x60B0, 0x2454),
      (0x60C0, 0x8800),
      (0xE0D5, 0x254354A67264),
      (0xE0EA, 0x254354006268),
      (0xE0F9, 0x25435400E261),
      (0xE100, 0x254354A67268),
      (0xE110, 0x464354FFF26A),
      (0xA120, 0xE94CE100),
      (0xA130, 0x46ACC480),
      (0x6140, 0x9400),
      (0x6150, 0xD000)].map (fun w : Nat × Nat => decodeHT w.1 w.2) =
    [.ok (.setvl 4 17 .bf16),
      .ok (.setvt 17),
      .ok (.vred .xor (.v 37) ⟨.o, 3, .e 5⟩ (.init ⟨.v, 41, .seg 7⟩) 2 3 .z8),
      .ok (.vfred .max (.v 37) ⟨.o, 3, .e 5⟩ (.seg 6) 2 3 .f32),
      .ok (.vscan .min (.v 37) ⟨.o, 3, .e 5⟩ (.seg 14) 2 3 .s16),
      .ok (.vfscan .add (.v 37) ⟨.o, 3, .e 5⟩ (.init ⟨.v, 41, .seg 7⟩) 2 3 .f32),
      .ok (.vthr (.o 6) ⟨.o, 3, .e 5⟩ ⟨.v, 63, .w 15⟩ 2 3 .bf16),
      .ok (.vmvs 29 ⟨.v, 41, .seg 7⟩ .s16),
      .ok (.vsplat (.o 6) 21 9 4 .f16),
      .ok (.vslip 37),
      .ok (.mclr 13)] := by rfl

/-- Words laid out from R50. -/
theorem test_words_vMem1 :
    [(0xE400, 0x25283FC00648),
      (0xE401, 0x252800406640),
      (0xE410, 0x462CC0400640),
      (0xE420, 0x462CC040064D),
      (0xE430, 0x8200C0FF034A),
      (0xE440, 0x4354DA7F0347),
      (0xE450, 0x25314CE02349),
      (0xE460, 0x4354A67D634B),
      (0xE470, 0x4354A67D6346),
      (0xE480, 0x254354000342),
      (0xE490, 0x4354A67343),
      (0x64A0, 0x0)].map (fun w : Nat × Nat => decodeHT w.1 w.2) =
    [.ok (.vld (.v 37) 5 0x3FC0 6 2 .f32),
      .ok (.vldW (.v 37) 5 0x40 6 6 2 .s8),
      .ok (.vlds (.o 6) 5 19 0x40 6 2 .s8),
      .ok (.vldff (.o 6) 5 19 0x40 6 2 .q4),
      .ok (.vst ⟨.l, 2, .none⟩ 6 0xFF0 3 2 .bf16),
      .ok (.vsts ⟨.o, 3, .e 5⟩ 6 26 0x7F0 3 2 .z64),
      .ok (.vgath (.v 37) 6 ⟨.v, 41, .seg 7⟩ 2 3 2 .f16),
      .ok (.vscat ⟨.o, 3, .e 5⟩ ⟨.v, 41, .seg 7⟩ 26 3 3 2 .e4m3),
      .ok (.vscadd ⟨.o, 3, .e 5⟩ ⟨.v, 41, .seg 7⟩ 26 3 3 2 .z32),
      .ok (.vtld (.v 37) ⟨.o, 3, .e 5⟩ 3 2 .s32),
      .ok (.vtst ⟨.o, 3, .e 5⟩ ⟨.v, 41, .seg 7⟩ 3 2 .s64),
      .ok (.vfence)] := by rfl

/-- Words laid out from R50. -/
theorem test_words_vMem2 :
    [(0x64A1, 0x9200),
      (0xE4B0, 0x25464D2C000A)].map (fun w : Nat × Nat => decodeHT w.1 w.2) =
    [.ok (.vfenceArr 18 .die),
      .ok (.vsell (.v 37) (.o 6) 9 10 11 .bf16)] := by rfl

/-- Words laid out from R50. -/
theorem test_words_vPermute1 :
    [(0xE800, 0x258201A00345),
      (0xE810, 0x258201C00345),
      (0xE820, 0x254354A67349),
      (0xE830, 0x254354009340),
      (0xE840, 0x258201A00347),
      (0xE850, 0x254354000348),
      (0xE860, 0x190A672B0006)].map (fun w : Nat × Nat => decodeHT w.1 w.2) =
    [.ok (.vslideu (.v 37) ⟨.l, 2, .none⟩ 13 3 2 .z16),
      .ok (.vslided (.v 37) ⟨.l, 2, .none⟩ 14 3 2 .z16),
      .ok (.vperm (.v 37) ⟨.o, 3, .e 5⟩ ⟨.v, 41, .seg 7⟩ 3 2 .f16),
      .ok (.vxchg (.v 37) ⟨.o, 3, .e 5⟩ 9 3 2 .s8),
      .ok (.vcomp (.v 37) ⟨.l, 2, .none⟩ 13 3 2 .z64),
      .ok (.vexp (.v 37) ⟨.o, 3, .e 5⟩ 3 2 .f32),
      .ok (.vfib 3 4 ⟨.v, 41, .seg 7⟩ 5 6 .z32)] := by rfl

/-- Words laid out from R51. -/
theorem test_words_matrix1 :
    [(0x6C00, 0x25C0),
      (0xEC10, 0x298EC4400000),
      (0xEC20, 0x298E87360000),
      (0xEC30, 0x298E84800000),
      (0xEC45, 0x886B0000000),
      (0xEC50, 0x214C70000000),
      (0xAC60, 0x117FC000),
      (0xAC70, 0x11404000),
      (0xEC80, 0x1C04A4200000),
      (0xEC80, 0x192000080000)].map (fun w : Nat × Nat => decodeHT w.1 w.2) =
    [.ok (.mzero 4 23),
      .ok (.mma 5 6 7 .e5m2 8 true false),
      .ok (.mmaq 5 6 7 8 .q8 .q4 .g128),
      .ok (.mmas 5 6 7 8 .f16),
      .ok (.mmac .sr 1 2 3 .e4m3),
      .ok (.mscale 4 5 6 7),
      .ok (.mld 2 5 0x3FC000),
      .ok (.mst 2 5 0x4000),
      .ok (.mdrain .rne 3 (.vec (.v 37) 8) .f32),
      .ok (.mdrain .rne 3 (.pad 9) .s32)] := by rfl

/-- Words laid out from R51. -/
theorem test_words_fennel1 :
    [(0xF000, 0x8E2DAC25400),
      (0xB010, 0x639F0400),
      (0xB020, 0x11521200),
      (0xB030, 0x114A1280),
      (0x7040, 0xA7E0),
      (0x7050, 0xA820)].map (fun w : Nat × Nat => decodeHT w.1 w.2) =
    [.ok (.pdrain 1 3 .box 11 13 12 (.v 37) .bf16),
      .ok (.padj 12 14 15 16 .bf16),
      .ok (.pstat 2 5 .l1ball 8 9),
      .ok (.pfix 2 5 .simplex 8 9 .bf16),
      .ok (.prld 20 63),
      .ok (.prst 21 1)] := by rfl

/-- Words laid out from R52. -/
theorem test_words_copy1 :
    [(0x7400, 0x3380),
      (0xB410, 0x2052A400),
      (0xB411, 0x2052A400),
      (0xB412, 0x32D2400),
      (0xB413, 0x32D2400),
      (0xF420, 0x25431E040008),
      (0xB430, 0x4A96C000),
      (0x7440, 0x4B40),
      (0x7450, 0x4800),
      (0x7460, 0x2000)].map (fun w : Nat × Nat => decodeHT w.1 w.2) =
    [.ok (.cbind 3 7),
      .ok (.cgo 2 0xA5 9),
      .ok (.cgoMx 2 0xA5 9),
      .ok (.cgoAuto 6 0x5A 9),
      .ok (.cgoAutoMx 6 0x5A 9),
      .ok (.cvld (.v 37) 4 6 7 0x81 .f32),
      .ok (.rinit 9 10 11 12),
      .ok (.await 9 13),
      .ok (.rels 9),
      .ok (.ccancel 2)] := by rfl

/-- Words laid out from R52. -/
theorem test_words_fabric1 :
    [(0xB800, 0x29A0C000),
      (0xF811, 0x394CF0600008),
      (0xF822, 0x25394CF06008),
      (0x7830, 0x6000),
      (0x7830, 0x60F0),
      (0xF840, 0x298F86000000),
      (0xF850, 0x298F86000000),
      (0xB860, 0x48800001),
      (0xB870, 0x52D92280),
      (0xB871, 0x52D922A0),
      (0xB872, 0x52D92240),
      (0xB873, 0x52D92230)].map (fun w : Nat × Nat => decodeHT w.1 w.2) =
    [.ok (.nlookup 5 6 0x83),
      .ok (.nadd .min 7 ⟨.v, 41, .seg 7⟩ 0x83),
      .ok (.naddr .max (.v 37) 7 ⟨.v, 41, .seg 7⟩ 0x83),
      .ok (.nfence .pkg),
      .ok (.nfenceTag .pkg 7),
      .ok (.fput 5 6 7 0xC3),
      .ok (.fget 5 6 7 0xC3),
      .ok (.fsig 9 0x800001),
      .ok (.collAllreduce 10 11 12 0x91 .f32),
      .ok (.collRedscat 10 11 12 0x91 .bf16),
      .ok (.collAllgather 10 11 12 0x91 .z8),
      .ok (.collBcast 10 11 12 0x91 .s64)] := by rfl

/-- Words laid out from R52. -/
theorem test_words_fabric2 :
    [(0x3880, 0x0),
      (0x7890, 0xA540)].map (fun w : Nat × Nat => decodeHT w.1 w.2) =
    [.ok (.ffence),
      .ok (.fstat 20 21)] := by rfl

/-- Beret words laid out from R128 and R129. -/
theorem test_words_beret :
    [0x2807FFF, 0xAB38000, 0x12B04000, 0x1AB38000, 0x22B38000, 0x2AB0003F, 0x32B00021, 0x3AB0020F, 0x42800FF8, 0x4A800038, 0x50300038, 0x5A80000F,
      0x6030000E, 0x6830000D, 0x72B00000, 0x78000001, 0x80000000, 0x88000000, 0x90338003, 0x98338004, 0xA0338005, 0xA8007F40, 0xB0300000,
      0xB8300000].map decodeBeret =
    [.ok (.movb 5 0x7FFF), .ok (.addb 5 6 7), .ok (.addib 5 6 0x4000), .ok (.andb 5 6 7), .ok (.orb 5 6 7), .ok (.shlib 5 6 63), .ok (.shrib 5 6
      33), .ok (.bfxb 5 6 8 15), .ok (.ldpb 5 4088), .ok (.ldqb 5 56), .ok (.stqb 6), .ok (.srdb 5 15), .ok (.sdecb 6 14), .ok (.ssetb 6 13), .ok
      (.waitb 5 6), .ok (.placeb true), .ok (.imgb), .ok (.copyb), .ok (.beqb 6 7 3), .ok (.bneb 6 7 4), .ok (.bltb 6 7 5), .ok (.loopb 127 64),
      .ok (.fwdb 6), .ok (.doneb 6)] := by rfl
/-! ## States for the witnesses -/

/-- The region of the task in the tests: a table tree at frame 1 and a scratchpad share of 864 KiB. -/
def effT : Region := { rcb := 0x100000, root := 1, trap := 0x01FFFFFFFFF00042, spsize := 864, tssize := 16, clusters := 1, prio := 3, readyq := 0x110000, rqsize := 4, weight := 1 }

/-- Memory for the tests: a tree that maps the first GiB to itself, for every path but `.m` and with every right, and in core 0's
scratchpad at 0x40 the line that the manual works out. -/
def memT : List Host.Cell :=
  memWrite (memWrite (memWrite (memWrite (memWrite (memWrite [] 0x1000 8 0x20001) 0x2000 8 0x30001) 0x3000 8 0xFC0F)
    (padBase + 0x40) 2 0xE0E4) (padBase + 0x78) 2 0xC885) (padBase + 0x7A) 6 0x800012345678

/-- A line of ten heads that are NOPs. -/
def lineT : Nat := 10 * 2 ^ 11

/-- A task of core 0 that runs at slot 2 of its line; `f` sets its scalar registers. -/
def seqT : Seq := { mode := .running, eff := effT, tid := 5, pc := 0x01FFFFFFFFF00004, line := some (0x01FFFFFFFFF00002, lineT) }

def onSeq (f : Seq → Seq) (s : State) : State := setSeq s (f s.core.seq)
def onVec (f : Vec → Vec) (s : State) : State := setVec s (f s.core.vec)

/-- The running machine of the tests. -/
def runT : State := onSeq (fun _ => seqT) { State.reset with boot := .up, mem := memT }

/-- With register `r` holding `v`. -/
def withReg (r : SReg) (v : Word) (s : State) : State := setS s r v

/-- With a number in memory. -/
def withMem (pa n x : Nat) (s : State) : State := { s with mem := memWrite s.mem pa n x }

theorem ok_state {α β : Type} {x : α × β} {a : α} (h : x.1 = a) : ∃ b, x = (a, b) := ⟨x.2, by subst h; rfl⟩

theorem pair_of {α β : Type} {x : α × β} {a : α} (h : x.1 = a) : x = (a, x.2) := by subst h; rfl

theorem ok_state_and {α β : Type} {x : α × β} {a : α} {P : β → Prop} (h : x.1 = a) (hp : P x.2) : ∃ b, x = (a, b) ∧ P b :=
  ⟨x.2, by subst h; rfl, hp⟩

theorem canTrap_runT : CanTrap runT := by unfold CanTrap; decide +kernel

/-! ## Witnesses: hypotheses of the statements met by concrete states -/

theorem witness_DecodeOfEncode : (Instr.vadd (.v 1) ⟨.o, 7, .w 15⟩ ⟨.l, 3, .none⟩ 15 7 .z64).wf = true ∧ (Instr.loopb 127 64).wf = true := by
  decide +kernel

theorem witness_EncodeOfDecode : (0xC885 : Nat) < 2 ^ 16 ∧ (0x800012345678 : Nat) < 2 ^ (16 * bits 0xC885 14 2) ∧
    decodeHT 0xC885 0x800012345678 = .ok (.li 21 0x12345678) := ⟨by decide, by decide, rfl⟩

/-- A core's turn, an event, a Beret step, and a head that is no instruction. -/
theorem witness_StepRunsOneTurn :
    (let s := { runT with agenda := [.core 0] }
     s.viral = false ∧ s.boot = .up ∧ s.core.id = 0 ∧ s.core.seq.mode = .running ∧ s.core.seq.preempt = false ∧ s.shoot = [] ∧
      s.core.vec.faults = [] ∧ s.core.seq.line = some (0x01FFFFFFFFF00002, lineT) ∧ decodeSlot lineT (slotOf s.core.seq.pc) = .ok .nop ∧
      Instr.nop.wf = true ∧ ∀ x ∈ headRegs lineT (slotOf s.core.seq.pc) .nop, x ∉ s.core.seq.busy) ∧
    encode (.ppsEdge 0) = .event ∧
    (let s := placeBeret 0xB8000000 runT
     s.agenda = [.beret 0] ∧ s.viral = false ∧ s.boot = .up ∧ (getQ s 0).st = .process ∧
      ∃ c, (getQ s 0).ctx = some c ∧ c.steps < 512 ∧ (getQ s 0).code[c.at_]? = some 0xB8000000 ∧ decodeBeret 0xB8000000 = .ok (.doneb 0)) ∧
    decodeSlot (10 * 2 ^ 11 + 0x3C00 * 2 ^ 32) 2 = .error .unassigned := by
  refine ⟨⟨by decide +kernel, by decide +kernel, by decide +kernel, by decide +kernel, by decide +kernel, by decide +kernel, by decide +kernel,
    by decide +kernel, rfl, by decide, by decide +kernel⟩, rfl, ⟨rfl, by decide +kernel, by decide +kernel, by decide +kernel, ?_⟩, rfl⟩
  exact ⟨_, rfl, by decide +kernel, by decide +kernel, rfl⟩

theorem witness_MemoryCanonical : MemWf State.reset.mem ∧ ∃ t, step { runT with agenda := [.event (.ppsEdge 0)] } = .next t :=
  ⟨by decide +kernel, _, rfl⟩

theorem witness_BitFieldAndImmediateForms : (60 : BitVec 6).toNat + ((3 : BitVec 6).toNat + 1) ≤ 64 ∧
    64 < (60 : BitVec 6).toNat + ((4 : BitVec 6).toNat + 1) ∧ CanTrap runT := ⟨by decide, by decide, canTrap_runT⟩

/-- A target field of slot 10, the last of the line; a condition that holds and one that does not. -/
theorem witness_BranchesAndJumps :
    (let s := withReg 1 0x01FFFFFFFFF00002 (withReg 2 7 runT)
     targetOfField s.core.seq.pc 10 = 0x01FFFFFFFFF00014 ∧ InLine s 0x01FFFFFFFFF00014 ∧ InLine s (getS s 1) ∧
      getS s 2 = getS s 2 ∧ getS s 1 ≠ getS s 2) := by
  unfold InLine; decide +kernel

/-- The line at 0x40 of core 0's scratchpad. -/
def lineB : Nat := memRead memT (padBase + 0x40) 64

theorem witness_TransfersAcrossLines :
    (let s := withReg 1 0x01FFFFFFFFF00078 runT
     lineBase (getS s 1) ≠ lineBase s.core.seq.pc ∧ ∃ u, enterLine (getS s 1) s = (.ok lineB, u) ∧ slotOk lineB (getS s 1) = true) ∧
    (let s := withReg 2 7 runT
     let p := targetOfField s.core.seq.pc (32 + 28)
     lineBase p ≠ lineBase s.core.seq.pc ∧ (∃ u, enterLine p s = (.ok lineB, u) ∧ slotOk lineB p = true) ∧
      (∃ u, enterLine p (setS s 3 (nextPc s)) = (.ok lineB, u) ∧ slotOk lineB p = true) ∧
      getS s 1 = getS s 0 ∧ getS s 1 ≠ getS s 2 ∧ (getS s 1).toInt < (getS s 2).toInt ∧ (getS s 1).toInt ≤ (getS s 2).toInt ∧
      (getS s 1).toNat < (getS s 2).toNat ∧ (getS s 1).toNat ≤ (getS s 2).toNat) ∧
    (let s := onSeq (fun q => { q with prv := true, epc := 0x01FFFFFFFFF00078 }) runT
     s.core.seq.prv = true ∧ lineBase s.core.seq.epc ≠ lineBase s.core.seq.pc ∧
      ∃ u, enterLine s.core.seq.epc (setSeq s { s.core.seq with prv := s.core.seq.pprv, inh := false }) = (.ok lineB, u) ∧
        slotOk lineB s.core.seq.epc = true) ∧
    CanTrap runT ∧ BadTarget runT 0x01FFFFFFFFF00000 ∧ BadTarget runT 0x01FFFFFFFFF0007C ∧ targetOfField runT.core.seq.pc 0x3E = 0x01FFFFFFFFF0007C := by
  refine ⟨⟨by decide +kernel, ok_state_and (by decide +kernel) (by decide +kernel)⟩,
    ⟨by decide +kernel, ok_state_and (by decide +kernel) (by decide +kernel), ok_state_and (by decide +kernel) (by decide +kernel),
      by decide +kernel⟩,
    ⟨by decide +kernel, by decide +kernel, ok_state_and (by decide +kernel) (by decide +kernel)⟩, canTrap_runT,
    .inl (by unfold InLine; decide +kernel), .inr ⟨by decide +kernel, ?_⟩, by decide +kernel⟩
  exact ⟨lineB, _, (ok_state (by decide +kernel)).choose_spec, by decide +kernel⟩

/-- An entry whose end is the head at the PC. -/
def loopT (n : Word) : LoopEntry := ⟨0x01FFFFFFFFF00002, 0x01FFFFFFFFF00004, n, 0, false, 64, 1, 0, 64⟩

theorem witness_Loops :
    (let s := withReg 3 1 runT
     let p := targetOfField s.core.seq.pc 9
     (s.core.seq.pc.toNat < p.toNat ∧ TargetSlot s p true) ∧ 0 < (getS s 3).toInt ∧ s.core.seq.loops.length < 6 ∧
      InLine s (p + 2) ∧ lineBase p = lineBase s.core.seq.pc ∧ slotOf p < curN s) ∧
    (getS runT 3).toInt ≤ 0 ∧
    (let s := onSeq (fun q => { q with loops := List.replicate 6 (loopT 1) }) (withReg 3 1 runT)
     6 ≤ s.core.seq.loops.length ∧ CanTrap s ∧ InLine s ((loopT 1).stop + 2) ∧ lineBase (loopT 1).stop = lineBase s.core.seq.pc ∧
      slotOf (loopT 1).stop < curN s ∧ (loopT 1).stop = s.core.seq.pc) ∧
    1 < (loopT 2).remaining.toInt ∧ (loopT 1).remaining.toInt = 1 ∧ { loopT 1 with stop := 0x01FFFFFFFFF00006 }.stop ≠ runT.core.seq.pc ∧
    (targetOfField runT.core.seq.pc 1).toNat ≤ runT.core.seq.pc.toNat ∧ badSlot (targetOfField runT.core.seq.pc 32) = true ∧
    TargetSlot runT (targetOfField runT.core.seq.pc 11) false ∧ TargetSlot runT (targetOfField runT.core.seq.pc (32 + 28)) true ∧
    TargetSlot runT (targetOfField runT.core.seq.pc (32 + 30)) false := by
  unfold InLine CanTrap
  refine ⟨⟨⟨by decide +kernel, by decide +kernel, .inl (by decide +kernel)⟩, by decide +kernel⟩, by decide +kernel, by decide +kernel,
    by decide +kernel, by decide +kernel, by decide +kernel, by decide +kernel, by decide +kernel, ⟨by decide +kernel, .inl (by decide +kernel)⟩,
    ⟨by decide +kernel, .inr ⟨by decide +kernel, ?_⟩⟩, ⟨by decide +kernel, .inr ⟨by decide +kernel, ?_⟩⟩⟩ <;>
  exact ⟨memRead memT (padBase + 0x40) 64, _, (ok_state (by decide +kernel)).choose_spec, by decide +kernel⟩

theorem witness_SoftwareTraps : CanTrap runT ∧
    (let s := onSeq (fun q => { q with inh := true }) runT
     trapWaits s = false ∧ s.core.seq.inh = true) ∧
    (let s := onSeq (fun q => { q with eff := { effT with trap := 0 } }) runT
     trapWaits s = false ∧ s.core.seq.eff.trap = 0) := by
  unfold CanTrap; decide +kernel

theorem witness_PrivilegedInstructions :
    (let s := onSeq (fun q => { q with prv := true, epc := 0x01FFFFFFFFF00014 }) runT
     s.core.seq.prv = true ∧ InLine s s.core.seq.epc) ∧ runT.core.seq.prv = false ∧ CanTrap runT := by
  unfold InLine CanTrap; decide +kernel

theorem witness_SystemRegisters : runT.core.vec.vxq = [] ∧ runT.core.vec.block = none ∧ (3 : Nat) < 6 ∧
    (onSeq (fun q => { q with prv := true }) runT).core.seq.prv = true ∧ (getS (withReg 1 1024 runT) 1).toNat ≤ 1024 ∧ CanTrap runT ∧
    1024 < (getS (withReg 1 1025 runT) 1).toNat ∧ (0x30 ≤ (0x35 : BitVec 12).toNat ∧ (0x35 : BitVec 12).toNat ≤ 0x35) ∧
    ¬((0x64 : BitVec 12).toNat ≤ 0x63) ∧ 0x44 < (0x45 : BitVec 12).toNat ∧ (0x45 : BitVec 12).toNat < 0x60 := by
  unfold CanTrap; decide +kernel
/-- The RCB of `effT`, and its ready queue with nothing in it. -/
def rcbT : Nat :=
  3 * 2 ^ (64 + 28) + 2 ^ (128 + 16) + 2 ^ (128 + 56) + 0x01FFFFFFFFF00042 * 2 ^ 192 + (0x110000 + 4) * 2 ^ 320 +
    (864 * 2 ^ 10 + 16 * 2 ^ 24) * 2 ^ 448 + 2 ^ 512 +
    (2 ^ 48 - 1) * 2 ^ 640 + 14 * 2 ^ 699 + (14 * 2 ^ 59 + 2 ^ 47) * (2 ^ 704 + 2 ^ 768 + 2 ^ 832 + 2 ^ 896 + 2 ^ 960 + 2 ^ 1024)

/-- The machine with that RCB in memory. -/
def regT : State := withMem 0x100000 256 rcbT runT

/-- The machine with a launch of two tasks placed on that RCB. -/
def launchT : State := (placeLaunch { code := 0x200002, arg := 0x77, frame := 0x300000, stride := 64, n := 2, rcb := 0x100000 } regT).2

theorem test_region_of_rcb : (region regT 0x100000).isSome = true ∧ (candidates launchT launchT.core).length = 1 := by decide +kernel

/-- A launch on the RCB of `rcbT` waits while a committed task of another RCB runs, which has an index or has none. -/
def yieldT (named : Bool) : State :=
  let s := onSeq (fun q => { q with eff := { effT with rcb := 0x200000 }, cmt := true }) launchT
  if named then { s with fe := { s.fe with rcbs := { idx := 9, rcb := 0x200000 } :: s.fe.rcbs } } else s

theorem witness_NopCommitYield : candidates runT runT.core = [] ∧
    (launchT.core.seq.eff.rcb = 0x100000 ∧ (handleOf launchT 0x100000).isSome = true ∧
      (candidates launchT launchT.core).all (fun x => decide (x.2.1.rcb = launchT.core.seq.eff.rcb)) = true) ∧
    (∃ x ∈ candidates (yieldT false) (yieldT false).core, x.2.1.rcb ≠ 0x200000 ∧ handleOf (yieldT false) 0x200000 = none ∧
      (yieldT false).core.seq.eff.prio ≤ effPrio 0 x.1 x.2.1) ∧
    (∃ x ∈ candidates (yieldT true) (yieldT true).core, x.2.1.rcb ≠ 0x200000 ∧ ∃ h, handleOf (yieldT true) 0x200000 = some h ∧
      effPrio 0 h (yieldT true).core.seq.eff ≤ effPrio 0 x.1 x.2.1) ∧
    ∀ b, (yieldT b).core.seq.eff.rcb = 0x200000 ∧ (yieldT b).core.seq.cmt = true ∧ clusterOf (yieldT b).core.id = 0 := by
  refine ⟨by decide +kernel, by decide +kernel, by decide +kernel, ?_, by decide +kernel⟩
  have h : ∃ x ∈ candidates (yieldT true) (yieldT true).core, x.2.1.rcb ≠ 0x200000 ∧
      ((handleOf (yieldT true) 0x200000).map fun h => decide (effPrio 0 h (yieldT true).core.seq.eff ≤ effPrio 0 x.1 x.2.1)) = some true := by
    decide +kernel
  obtain ⟨x, hx, hr, hh⟩ := h
  obtain ⟨g, hg, hd⟩ := Option.map_eq_some_iff.mp hh
  exact ⟨x, hx, hr, g, hg, of_decide_eq_true hd⟩

/-- A frame area of one slot at 0x400000, whose slot holds the header of a frame of the task; `mem` for a memory frame. -/
def frameT (mem : Bool) : State :=
  let s := withMem 0x400000 4 1 (withMem 0x400004 4 2048 (withMem 0x400040 1 1 runT))
  let s := withMem 0x410000 24 (0x5646524D + 2 ^ 32 + (if mem then 2 ^ 40 else 0) + 0x01FFFFFFFFF00004 * 2 ^ 64 + 5 * 2 ^ 128) s
  let s := withReg 1 0x410000 (onSeq (fun q => { q with prv := true, eff := { effT with frames := 0x400000 } }) s)
  if mem then { s with slots := [⟨0x410000, 5, s.core.seq, {}, []⟩] } else s

theorem witness_CacheAndFrameActions :
    (let s := withReg 1 0x5003 (onSeq (fun q => { q with prv := true }) runT)
     s.core.seq.prv = true ∧ tlbinvBad (getS s 1).toNat = false ∧ s.shoot = [] ∧ scalarWaits s = false ∧ s.core.seq.returns = [] ∧
      (onSeq (fun q => { q with returns := [{ d := 0, ty := .z64, num := 1, posted := true }] }) s).core.seq.returns ≠ [] ∧
      (let h : Shoot := ⟨0, 0, 5, 0, [], []⟩
       let t := { s with shoot := [h] }
       t.shoot = [h] ∧ sameShoot t.core.id t.core.seq.eff.asn (getS t 1).toNat h = true ∧ h.unacked = [])) ∧
    (∀ b : Bool, let s := frameT b
     s.core.seq.prv = true ∧ MemWf s.mem ∧ slotAt s s.core.seq.eff true (getS s 1).toNat = some 0 ∧ slotUsed s s.core.seq.eff 0 = true ∧
      bits (s.rd (slotAddr s s.core.seq.eff 0) 24) 0 40 = 0x5646524D + 2 ^ 32 ∧
      bits (s.rd (slotAddr s s.core.seq.eff 0) 24) 128 31 = s.core.seq.tid.toNat ∧
      bitAt (s.rd (slotAddr s s.core.seq.eff 0) 24) 40 = b) ∧
    ((frameT true).slots.find? fun x => decide (x.slot = slotAddr (frameT true) (frameT true).core.seq.eff 0)).isSome = true := by
  decide +kernel

theorem witness_TranslationChecks :
    2 ^ 57 ≤ (0x0200000000000000 : Word).toNat ∧
    (windowBase ≤ (0x01FFFFFFFFFD7FFF : Word).toNat ∧ (0x01FFFFFFFFFD7FFF : Word).toNat < windowBase + effT.spsize * 1024) ∧
    (windowBase + effT.spsize * 1024 ≤ (0x01FFFFFFFFFD8000 : Word).toNat ∧ (0x01FFFFFFFFFD8000 : Word).toNat < 2 ^ 57) ∧
    (∃ s1, findLeaf (.scalar 0) 1 0 (0x3FFFFFFF / 4096) runT = (.ok ⟨0, 2 ^ 18, 0, 0xFC0F⟩, s1)) ∧
    (∀ attr ∈ [0xFC09, 0xFC03, 0xF80F], let s := withMem 0x3000 8 attr runT
     ∃ s1, findLeaf (.scalar 0) 1 0 5 s = (.ok ⟨0, 2 ^ 18, 0, attr⟩, s1)) ∧
    (bitAt 0xFC09 1 = false ∧ bitAt 0xFC09 2 = false ∧ (bitAt 0xFC03 1 && bitAt 0xFC03 2) = false ∧ bitAt 0xFC03 3 = false) ∧
    (bitAt 0xF80F 1 = true ∧ bitAt 0xF80F 2 = true ∧ bitAt 0xF80F 3 = true ∧ bitAt 0xF80F (10 + Path.code .s) = false) ∧
    leafChecks runT ⟨0, 2 ^ 18, 0, 0xFC0F⟩ .s .r {} 0x3FFFFFFF = none := by
  refine ⟨by decide +kernel, by decide +kernel, by decide +kernel, ok_state (by decide +kernel), ?_, by decide, by decide, by decide +kernel⟩
  intro a ha
  have h : ∀ a ∈ [0xFC09, 0xFC03, 0xF80F], (findLeaf (.scalar 0) 1 0 5 (withMem 0x3000 8 a runT)).1 = .ok ⟨0, 2 ^ 18, 0, a⟩ := by decide +kernel
  exact ok_state (h a ha)

theorem atOnce_hbm {s : State} {pa : Nat} (h : pa < hbmEnd) : AtOnce s pa := by
  intro c hc; simp [place, h] at hc

/-- A plain byte range in HBM that the scalar path reaches. -/
theorem reached_of {s : State} {acc : Acc} {a : Word} {n : Nat} {p : Phys}
    (h : a.toNat % n = 0 ∧ (s.core.seq.flight = none ∧ scalarWaits s = false) ∧ (transS acc a s).1 = .ok p ∧ p.pa < hbmEnd ∧ s.poison = [] ∧
      memOk (transS acc a s).2 (transS acc a s).2.core.seq.eff p.pa = true) :
    ∃ s1, Reached s acc a n s1 p := by
  obtain ⟨ha, hw, ht, hp, he, hm⟩ := h
  refine ⟨(transS acc a s).2, ha, hw, by rw [← ht], ⟨.inl ?_, by simp [isPoisoned, he]⟩, hm, atOnce_hbm hp⟩
  simp only [place]; simp [hp]

theorem place_hbm {pa : Nat} (h : pa < hbmEnd) : PlainPlace pa := .inl (by simp only [place]; simp [h])

/-- With the next choices of the model as listed. -/
def withChoices (l : List Bool) (s : State) : State := { s with choices := l }

theorem witness_ScalarLoads :
    (let s := withReg 4 0x300000 runT
     (Instr.ld .s16 3 4 2).wf = true ∧ (∃ s1 p, Reached s .r (getS s 4 + (2 : BitVec 22).signExtend 64) 2 s1 p) ∧
      FreshLine s 0x300002 ∧ (getS s 4 + (1 : BitVec 22).signExtend 64).toNat % 2 ≠ 0 ∧ CanTrap s) := by
  refine ⟨by decide, ⟨_, ⟨0x300002, false, false, 0x40000000⟩, (reached_of (by decide +kernel)).choose_spec⟩, by unfold FreshLine; decide +kernel, by decide +kernel, by unfold CanTrap; decide +kernel⟩

/-- A load with no cached copy whose next choice is to be served now, one served later, and one of poisoned bytes. -/
theorem witness_ScalarLoads_served :
    (∀ b : Bool, let s := withChoices [b] (withReg 4 0x300000 runT)
     ∃ s1, Reached s .r (getS s 4 + (2 : BitVec 22).signExtend 64) 2 s1 ⟨0x300002, false, false, 0x40000000⟩ ∧
      (∀ e ∈ s.core.seq.dcache, e.1 ≠ 0x300002 / 64 * 64) ∧ (popChoice (afterLink s1 0x300002)).1 = b) ∧
    (let s := { withReg 4 0x300000 runT with poison := [0x300000] }
     let a := getS s 4 + (2 : BitVec 22).signExtend 64
     a.toNat % 2 = 0 ∧ MaySend s ∧ (∃ s1, transS .r a s = (.ok ⟨0x300002, false, false, 0x40000000⟩, s1) ∧
      memOk s1 s1.core.seq.eff 0x300002 = true ∧ AtOnce s1 0x300002) ∧ PlainPlace 0x300002 ∧ isPoisoned s 0x300002 2 = true ∧ CanTrap s) := by
  refine ⟨fun b => ⟨(transS .r 0x300002 (withChoices [b] (withReg 4 0x300000 runT))).2, ?_⟩, by decide +kernel, by unfold MaySend; decide +kernel,
    ok_state_and (by decide +kernel) ⟨by decide +kernel, atOnce_hbm (by decide)⟩, place_hbm (by decide), by decide +kernel,
    by unfold CanTrap; decide +kernel⟩
  · cases b <;> exact ⟨⟨by decide +kernel, by unfold MaySend; decide +kernel, Prod.ext (by decide +kernel) (by rfl),
        ⟨(place_hbm (by decide)), by decide +kernel⟩, by decide +kernel, atOnce_hbm (by decide)⟩,
      by decide +kernel, by decide +kernel⟩

/-- VA 1 GiB up lies on a chip of the capacity tier, and the next choice is `b`. -/
def tierT (b : Bool) : State := withChoices [b] (withReg 4 0x40000008 (withMem 0x3008 8 (0x100000000 * 2 ^ 16 + 0xFC0F + 2 ^ 8) runT))

/-- An access over a chip's link that is performed as it is sent. -/
theorem witness_ScalarLoads_tier : ∃ s1, Reached (tierT false) .r (getS (tierT false) 4) 8 s1 ⟨0x100000000008, false, false, 0x80000000⟩ ∧
    (popChoice (afterLink s1 0x100000000008)).1 = false := by
  refine ⟨(transS .r 0x40000008 (tierT false)).2, ⟨by decide +kernel, by unfold MaySend; decide +kernel, Prod.ext (by decide +kernel) (by rfl),
    ⟨.inr (.inl ⟨0, by decide +kernel⟩), by decide +kernel⟩, by decide +kernel, fun c _ => by decide +kernel⟩, by decide +kernel⟩

theorem witness_ScalarStores :
    (let s := withReg 4 0x300000 runT
     MemWf s.mem ∧ (getS s 4 + (4 : BitVec 22).signExtend 64).toNat % 4 = 0 ∧ MaySend s ∧
      (∃ s1, transStore 4 (getS s 4 + (4 : BitVec 22).signExtend 64) s = (.ok ⟨0x300004, false, false, 0x40000000⟩, s1) ∧
        AtOnce s1 0x300004 ∧ memOk s1 s1.core.seq.eff 0x300004 = true) ∧ PlainPlace 0x300004 ∧ (getS s 4 + (2 : BitVec 22).signExtend 64).toNat % 4 ≠ 0 ∧ CanTrap s) ∧
    (let s := withReg 4 0x40000008 (withMem 0x3008 8 (0x300000000 * 2 ^ 16 + 0xFC0F + 3 * 2 ^ 8) runT)
     (getS s 4 + (0 : BitVec 22).signExtend 64).toNat % 8 = 0 ∧ MaySend s ∧
      (∃ s1, transStore 8 (getS s 4 + (0 : BitVec 22).signExtend 64) s = (.ok ⟨0x300000000008, false, false, 0x80000000⟩, s1)) ∧
      place 0x300000000008 = .window 0 8) ∧
    (let s := withReg 4 0x40000008 (withMem 0x3008 8 (0x300000000 * 2 ^ 16 + 0xFC0F + 3 * 2 ^ 8) runT)
     MaySend s ∧ (Instr.st .z32 3 4 0).wf = true ∧ (getS s 4 + (0 : BitVec 22).signExtend 64).toNat % 4 = 0 ∧
      (getS s 4 + (0 : BitVec 22).signExtend 64).toNat < windowBase ∧
      (∃ s1, findLeaf (.scalar s.core.id) s.core.seq.eff.root s.core.seq.eff.asn ((getS s 4 + (0 : BitVec 22).signExtend 64).toNat / 4096) s =
        (.ok ⟨0x40000, 2 ^ 18, 0x300000000, 0xFC0F + 3 * 2 ^ 8⟩, s1)) ∧
      place ((0x300000000 + ((getS s 4 + (0 : BitVec 22).signExtend 64).toNat / 4096 - 0x40000)) * 4096 +
        (getS s 4 + (0 : BitVec 22).signExtend 64).toNat % 4096) = .window 0 8 ∧ bitAt (0xFC0F + 3 * 2 ^ 8) 2 = true ∧
      bitAt (0xFC0F + 3 * 2 ^ 8) (10 + Path.code .s) = true ∧ CanTrap s) := by
  refine ⟨⟨by decide +kernel, by decide +kernel, by unfold MaySend; decide +kernel,
      ok_state_and (by decide +kernel) ⟨atOnce_hbm (by decide), by decide +kernel⟩, place_hbm (by decide),
      by decide +kernel, by unfold CanTrap; decide +kernel⟩,
    ⟨by decide +kernel, by unfold MaySend; decide +kernel, ok_state (by decide +kernel), by decide +kernel⟩,
    by unfold MaySend; decide +kernel, by decide, by decide +kernel, by decide +kernel, ok_state (by decide +kernel), by decide +kernel, by decide +kernel, by decide +kernel,
    by unfold CanTrap; decide +kernel⟩
/-- With registers 4 and 5 pointing to 0x300000 and 0x300040. -/
def ptrT : State := withReg 5 0x300040 (withReg 4 0x300000 runT)

theorem reached_ptrT (s : State) (acc : Acc) (h : getS s 4 = 0x300000) (n : Nat)
    (h1 : (0x300000 % n = 0 ∧ (s.core.seq.flight = none ∧ scalarWaits s = false) ∧ (transS acc 0x300000 s).1 = .ok ⟨0x300000, false, false, 0x40000000⟩ ∧ s.poison = [] ∧
      memOk (transS acc 0x300000 s).2 (transS acc 0x300000 s).2.core.seq.eff 0x300000 = true)) :
    ∃ s1, Reached s acc (getS s 4) n s1 ⟨0x300000, false, false, 0x40000000⟩ := by
  rw [h]; exact reached_of ⟨h1.1, h1.2.1, h1.2.2.1, by decide, h1.2.2.2.1, h1.2.2.2.2⟩

theorem witness_Atomics : MemWf ptrT.mem ∧
    (∃ s1 p, Reached ptrT .rw (getS ptrT 4 + (0 : BitVec 16).signExtend 64) 8 s1 p) ∧
    ∃ s1 p, Reached ptrT .rw (getS ptrT 4 + (4 : BitVec 16).signExtend 64) 4 s1 p :=
  ⟨by decide +kernel, ⟨_, ⟨0x300000, false, false, 0x40000000⟩, (reached_of (by decide +kernel)).choose_spec⟩,
    _, ⟨0x300004, false, false, 0x40000000⟩, (reached_of (by decide +kernel)).choose_spec⟩

/-- An aperture that routes: VA 1 GiB up lies in tier 10. -/
def farT : State :=
  let s := withMem 0x3008 8 (0x8000000000 * 2 ^ 16 + 0xFC0F + 2 * 2 ^ 8) runT
  withReg 4 0x40000000 { s with
    cfg := { s.cfg with aperture := s.cfg.aperture.set 0 (BitVec.ofNat 128 (2 ^ 63 + 2 ^ 96)) }
    ports := s.ports.set 0 { st := 2 } }

/-- The same with the channel of requests paused. -/
def farShutT : State := { farT with ports := farT.ports.set 0 { st := 2, paused := 1 } }

theorem witness_RemoteLoadAndReturn :
    (∀ s ∈ [farT, farShutT], (getS s 4 + (8 : BitVec 22).signExtend 64).toNat % 8 = 0 ∧ MaySend s ∧
      (∃ s1, transS .r (getS s 4 + (8 : BitVec 22).signExtend 64) s = (.ok ⟨0x8000000000008, false, false, 0x80000000⟩, s1) ∧
        memOk s1 s1.core.seq.eff 0x8000000000008 = true ∧ (popChoice s1).1 = false) ∧
      (∃ s1, transStore 8 (getS s 4 + (8 : BitVec 22).signExtend 64) s = (.ok ⟨0x8000000000008, false, false, 0x80000000⟩, s1) ∧
        memOk s1 s1.core.seq.eff 0x8000000000008 = true) ∧ ∀ e ∈ s.core.seq.dcache, e.1 ≠ 0x8000000000008 / 64 * 64) ∧
    (Instr.ld .z64 3 4 8).wf = true ∧ (Instr.st .z64 3 4 8).wf = true ∧ place 0x8000000000008 = .remote 0 ∧
    wayOpen farT 0x8000000000008 0 = true ∧ wayOpen farShutT 0x8000000000008 0 = false ∧ CanTrap farT ∧
    (popChoice (transS .r (getS farT 4 + (8 : BitVec 22).signExtend 64) (withChoices [true] farT)).2).1 = true := by
  refine ⟨?_, by decide, by decide, by decide, by decide +kernel, by decide +kernel, by unfold CanTrap; decide +kernel, by decide +kernel⟩
  intro s hs
  rcases List.mem_pair.mp hs with rfl | rfl <;>
    exact ⟨by decide +kernel, by unfold MaySend; decide +kernel, ok_state_and (by decide +kernel) (by decide +kernel),
      ok_state_and (by decide +kernel) (by decide +kernel), by decide +kernel⟩

/-- An access to the capacity tier that is sent, and one that has been sent, or lost with the link. -/
theorem witness_RemoteLoadAndReturn_tier :
    (let s := tierT true
     (getS s 4 + (0 : BitVec 22).signExtend 64).toNat % 8 = 0 ∧ MaySend s ∧ place 0x100000000008 = .tier 0 ∧
      (∃ s1, transS .r (getS s 4 + (0 : BitVec 22).signExtend 64) s = (.ok ⟨0x100000000008, false, false, 0x80000000⟩, s1) ∧
        memOk s1 s1.core.seq.eff 0x100000000008 = true ∧ (popChoice s1).1 = true) ∧
      (∃ s1, transStore 8 (getS s 4 + (0 : BitVec 22).signExtend 64) s = (.ok ⟨0x100000000008, false, false, 0x80000000⟩, s1)) ∧
      ∀ e ∈ s.core.seq.dcache, e.1 ≠ 0x100000000008 / 64 * 64) ∧
    (∀ b : Bool, let s := onSeq (fun q => { q with flight := some { pa := 0x100000000008, lost := b }, launch := 0x320000 }) (tierT false)
     (getS s 4 + (0 : BitVec 22).signExtend 64).toNat % 8 = 0 ∧ MemWf s.mem ∧ isPoisoned s 0x100000000008 8 = false ∧
      (popChoice s).1 = false ∧ s.core.seq.launch ≠ 0 ∧ s.core.seq.inh = false ∧ s.core.seq.eff.trap ≠ 0 ∧ trapWaits s = false) := by
  refine ⟨⟨by decide +kernel, by unfold MaySend; decide +kernel, by decide +kernel, ok_state_and (by decide +kernel) (by decide +kernel),
    ok_state (by decide +kernel), by decide +kernel⟩, by decide +kernel⟩

/-- The oldest answer of core 0: of a load from afar, of one from memory near, and of a store. -/
theorem witness_RemoteLoadAndReturn_answers :
    ∀ r ∈ [{ d := 3, ty := .z64, num := 1 }, { d := 3, ty := .z64, num := 1, here := some 0x300000 },
        { d := 0, ty := .z64, num := 1, posted := true : ReturnSlot }],
      let s := onSeq (fun q => { q with returns := [r], busy := [3] }) runT
      (focus s 0).core.seq.returns = r :: [] ∧ r.out (focus s 0) = true ∧ isPoisoned s 0x300000 8 = false ∧
        engineLost s 0x300000 = false := by
  decide +kernel

/-- An answer from a word that is poisoned by now, and one from a chip that is out of reach by now. -/
theorem witness_RemoteLoadAndReturn_late :
    ∀ x ∈ [(0x300000, [0x300000], false), (0x100000000000, [], true)],
      let r : ReturnSlot := { d := 3, ty := .z64, num := 1, here := some x.1 }
      let s := onSeq (fun q => { q with returns := [r], busy := [3] })
        { runT with poison := x.2.1, glinks := runT.glinks.set 0 { failed := x.2.2 } }
      (focus s 0).core.seq.returns = r :: [] ∧ r.out (focus s 0) = true ∧ (isPoisoned s x.1 8 || engineLost s x.1) = true := by
  decide +kernel

/-- A watermark object at 0x300000 whose elements, 4 bytes each, begin at 0x300100. -/
def markT : State :=
  onSeq (fun q => { q with w := q.w.set 2 (some ⟨0x300000, 0x300100, 4⟩) })
    (withReg 6 9 (withMem 0x300008 8 0x300100 (withMem 0x300010 8 4 runT)))

theorem witness_FencesAndWatermarks : scalarWaits runT = false ∧ runT.core.seq.returns = [] ∧
    (onSeq (fun q => { q with returns := [{ d := 3, ty := .z64, num := 1 }] }) runT).core.seq.returns ≠ [] ∧ Path.s ≠ Path.v ∧ takeError runT = none ∧ CanTrap runT ∧
    (min (cntLd runT.core) 15 ≤ 0 ∧ min (cntSt runT.core) 15 ≤ 0 ∧ min (cntCp runT runT.core) 15 ≤ 0 ∧ min (cntMx runT.core) 15 ≤ 0) ∧
    (let s := onVec (fun v => { v with loads := [⟨{}, .nop, [], [], 0, false, [], false, none⟩] }) runT
     takeError s = none ∧ 0 < min (cntLd s.core) 15) ∧
    (MemWf markT.mem ∧ markT.core.seq.w[(2 : Fin 8)] = some ⟨0x300000, 0x300100, 4⟩ ∧ scalarWaits markT = false ∧
      isPoisoned markT 0x300000 64 = false ∧ markObjectBad markT 0x300000 = false ∧
      writesPending markT [(0x300100, (getS markT 6).toNat * 4)] = false ∧ memOk markT markT.core.seq.eff 0x300000 = true) := by
  unfold CanTrap; decide +kernel

/-- A latch at 0x300000 with no bound region; `x` its first eight bytes. -/
def latchT (x : Nat) : State := withMem 0x300000 8 x (withMem 0x300018 8 0x301000 ptrT)

/-- The task's own latch with one region, and a store into that region still to be accepted. -/
def pendingLatchT : State :=
  onSeq (fun q => { q with returns := [{ d := 0, ty := .z64, num := 1, posted := true, wr := [(0x40000, 8)] }] })
    (withMem 0x300009 1 1 (withMem 0x301000 8 0x40000 (withMem 0x301008 8 64 (latchT (2 ^ 63 + 5 * 2 ^ 32 + 7)))))

theorem latchAt_of {s : State} {va : Word} {p : Phys} {l : LatchView} (h : (∃ s1, Reached s .rw va 64 s1 p))
    (h1 : l = latchView (memRead s.mem p.pa 64)) (h2 : latchBad s l = false ∧ latchTablePoison s l = false ∧
      let u := (transS .rw va s).2
      tableOk (chargeMem u.core.seq.eff p.pa 64 u) l = true) : ∃ s1, LatchAt s s1 p va l :=
  h.elim fun s1 hs => ⟨s1, hs, h1, h2.1, h2.2.1, by
    have e : s1 = (transS .rw va s).2 := by rw [hs.2.2.1]
    rw [e]; exact h2.2.2⟩

theorem witness_Latches :
    (let s := latchT 7
     MemWf s.mem ∧ (∃ s1 p l, LatchAt s s1 p (getS s 4) l ∧ l.held = false) ∧ (∀ w ∈ s.fe.waits, w.pa ≠ 0x300000) ∧
      s.core.seq.latches.length < 16) ∧
    (let s := latchT (2 ^ 63 + 6 * 2 ^ 32 + 7)
     MemWf s.mem ∧ (∃ s1 p l, LatchAt s s1 p (getS s 4) l ∧ l.held = true ∧ l.holder ≠ s.core.seq.tid.toNat ∧ ownLatch s l = false) ∧
      s.core.seq.latches.length < 16 ∧ getWait s 0x300000 = none ∧ CanTrap s) ∧
    (let s := latchT (2 ^ 63 + 5 * 2 ^ 32 + 7)
     MemWf s.mem ∧ (∃ s1 p l, LatchAt s s1 p (getS s 4) l ∧ ownLatch s l = true ∧ writesPending s (latchRegions s l) = false) ∧
      getWait s 0x300000 = none ∧ CanTrap s) ∧
    (let s := pendingLatchT
     MemWf s.mem ∧ ∃ s1 p l, LatchAt s s1 p (getS s 4) l ∧ ownLatch s l = true ∧ writesPending s (latchRegions s l) = true) := by
  refine ⟨⟨by decide +kernel, ?_, by decide +kernel, by decide +kernel⟩,
    ⟨by decide +kernel, ?_, by decide +kernel, by decide +kernel, by unfold CanTrap; decide +kernel⟩,
    ⟨by decide +kernel, ?_, by decide +kernel, by unfold CanTrap; decide +kernel⟩, by decide +kernel, ?_⟩
  · exact ⟨_, _, _, (latchAt_of (reached_ptrT _ .rw (by decide +kernel) 64 (by decide +kernel)) rfl (by decide +kernel)).choose_spec, by decide +kernel⟩
  · exact ⟨_, _, _, (latchAt_of (reached_ptrT _ .rw (by decide +kernel) 64 (by decide +kernel)) rfl (by decide +kernel)).choose_spec,
      by decide +kernel, by decide +kernel, by decide +kernel⟩
  · exact ⟨_, _, _, (latchAt_of (reached_ptrT _ .rw (by decide +kernel) 64 (by decide +kernel)) rfl (by decide +kernel)).choose_spec,
      by decide +kernel, by decide +kernel⟩
  · exact ⟨_, _, _, (latchAt_of (reached_ptrT _ .rw (by decide +kernel) 64 (by decide +kernel)) rfl (by decide +kernel)).choose_spec,
      by decide +kernel, by decide +kernel⟩

/-- A task record at 0x300000 with join count `n`. -/
def recordT (n : Nat) : State :=
  withMem 0x300000 32 (0x200002 + 0x310000 * 2 ^ 64 + n * 2 ^ 128) (onSeq (fun q => { q with launch := 0x320000 }) ptrT)

theorem witness_SpawnAndJoin :
    (let s := recordT 1
     MemWf s.mem ∧ s.core.seq.returns = [] ∧ (∃ s1 p, Reached s .rw (getS s 4) 32 s1 p ∧ p.pa + 32 ≤ hbmEnd ∧ recordBad (memRead s.mem p.pa 32) = false ∧
      (s.core.seq.launch + 40 ≤ p.pa ∨ p.pa + 32 ≤ s.core.seq.launch)) ∧ (∀ x ∈ s.fe.spawned, x.rec_ = 0x300000 → x.launch ≠ s.core.seq.launch) ∧
      0 < recJoin (memRead s.mem 0x300000 32) ∧ recJoin (memRead s.mem 0x300000 32) = 1) ∧
    0 < recJoin (memRead (recordT 2).mem 0x300000 32) ∧ recJoin (memRead (recordT 2).mem 0x300000 32) ≠ 1 ∧
    (let s := recordT 0
     MemWf s.mem ∧ (∃ s1, Reached s .rw (getS s 4) 32 s1 ⟨0x300000, false, false, 0x40000000⟩) ∧
      recJoin (memRead s.mem 0x300000 32) ≤ 0 ∧ CanTrap s) ∧
    (let s := { recordT 1 with fe := { spawned := [⟨0x300000, 0x320000⟩] } }
     (∃ s1, Reached s .rw (getS s 4) 32 s1 ⟨0x300000, false, false, 0x40000000⟩) ∧ recJoin (memRead s.mem 0x300000 32) = 1 ∧
      ∃ x ∈ s.fe.spawned, x.rec_ = 0x300000) := by
  refine ⟨⟨by decide +kernel, by decide +kernel, ?_, by decide +kernel, by decide +kernel, by decide +kernel⟩, by decide +kernel, by decide +kernel,
    ⟨by decide +kernel, reached_ptrT _ .rw (by decide +kernel) 32 (by decide +kernel), by decide +kernel, by unfold CanTrap; decide +kernel⟩,
    reached_ptrT _ .rw (by decide +kernel) 32 (by decide +kernel), by decide +kernel, by decide +kernel⟩
  exact ⟨_, _, (reached_ptrT _ .rw (by decide +kernel) 32 (by decide +kernel)).choose_spec, by decide, by decide +kernel, by decide +kernel⟩

theorem witness_SignalsAndWakes :
    (let s := withMem 0x300000 8 3 ptrT
     MemWf s.mem ∧ (∃ s1 p, Reached s .rw (getS s 4) 64 s1 p) ∧ 0 < (BitVec.ofNat 64 (memRead s.mem 0x300000 8)).toInt) ∧
    (BitVec.ofNat 64 (memRead ptrT.mem 0x300000 8)).toInt ≤ 0 ∧ (focus runT 0).core.seq.mode = .running ∧
    (let s := { latchT 7 with fe := { waits := [⟨0x300000, 3, 9, 0x300000, false, []⟩] } }
     MemWf s.mem ∧ PlainPlace 0x300000 ∧ (∀ y ∈ s.fe.waits, y.pa = 0x300000 → y.granted = false) ∧
      (s.fe.waits.find? fun y => decide (y.pa = 0x300000)) = some ⟨0x300000, 3, 9, 0x300000, false, []⟩ ∧
      bitAt (memRead s.mem 0x300000 8) 63 = false) := by
  refine ⟨⟨by decide +kernel, ?_, by decide +kernel⟩, by decide +kernel, by decide +kernel, by decide +kernel, place_hbm (by decide), by decide +kernel⟩
  exact ⟨_, _, (reached_ptrT _ .rw (by decide +kernel) 64 (by decide +kernel)).choose_spec⟩

/-- A hole that became a fault hole. -/
def faultHoleT : Hole := { id := 0, env := { vl := 4, seqn := 1 }, instr := .vadd (.v 3) ⟨.v, 1, .none⟩ ⟨.v, 2, .none⟩ 0 0 .s32, elem := 2, ops := [], dest := some 3, w := 32, fault := some ⟨0, false, 0, 0⟩, live := true, lpos := [] }

theorem witness_EndOfTask :
    (takeError runT = none ∧ runT.core.seq.inh = false ∧ runT.core.vec.holes = [] ∧ settleWaits runT none = false ∧ settleWaitsOutside runT none = false ∧
      cntCp runT runT.core = 0 ∧ ¬∃ e ∈ runT.slots, e.tid = runT.core.seq.tid) ∧
    (let s := onSeq (fun q => { q with inh := true }) runT
     takeError s = none ∧ s.core.seq.inh = true) ∧
    (let s := onSeq (fun q => { q with mode := .ending false }) runT
     (focus s 0).core.seq.mode = .ending false ∧ (focus s 0).core.vec.faults = [] ∧ drained (focus s 0) = true) ∧
    (let s := onVec (fun v => { v with holes := [faultHoleT] }) (onSeq (fun q => { q with mode := .ending true }) runT)
     (focus s 0).core.seq.mode = .ending true ∧ (discardFaults (focus s 0)).core.vec.faults = [] ∧
      (focus s 0).core.vec.holes ≠ [] ∧ drained (discardFaults (focus s 0)) = true) := by
  decide +kernel
/-- A vector instruction as it stands in its queue, with four elements. -/
def entryT (i : Instr) : VEntry := { instr := i, env := { vl := 4, seqn := 1, num := 1, x := 0x300000, y := 4 } }

/-- The machine with one instruction in a vector queue. -/
def queueT (q : VQueue) (i : Instr) (s : State) : State :=
  onVec (fun v => match q with
    | .vlq => { v with vlq := [entryT i] }
    | .vxq => { v with vxq := [entryT i] }
    | .vsq => { v with vsq := [entryT i] }) s

abbrev vs (k : BitVec 6) : VSrc := ⟨.v, k, .none⟩

theorem witness_VectorDispatch :
    (let s := onVec (fun v => { v with vl := 256 }) runT
     let i := Instr.vadd (.v 3) (vs 1) (vs 2) 0 0 .s32
     ∃ f, vForm i = some f ∧ s.core.vec.block = none ∧ vChecks i f (vScalars s i).1 (vScalars s i).2 s = none ∧ (queueOf s.core.vec f.queue).length < 64) ∧
    (let s := ptrT
     s.core.vec.block = none ∧ (getS s 4).toNat % 64 = 0 ∧
      (∃ s1, transS .rw (getS s 4) s = (.ok ⟨0x300000, false, false, 0x40000000⟩, s1)) ∧ isPoisoned s 0x300000 64 = false ∧ s.core.vec.vsq.length < 64) ∧
    (let s := onVec (fun v => { v with vl := 257 }) runT
     ∃ f, vForm (.vadd (.v 3) (vs 1) (vs 2) 0 0 .s32) = some f ∧ s.core.vec.block = none ∧ CanTrap s ∧ (∃ t ∈ f.types, t.vlmax < s.core.vec.vl.toNat)) ∧
    (let s := onVec (fun v => { v with vl := 4 }) ptrT
     let i := Instr.vld (.v 3) 4 2 0 0 .s32
     ∃ f, vForm i = some f ∧ s.core.vec.block = none ∧ CanTrap s ∧ (∀ t ∈ f.types, s.core.vec.vl.toNat ≤ t.vlmax) ∧
      (vScalars s i).1.toNat % accSize (memTy i) ≠ 0) := by
  refine ⟨⟨_, rfl, by decide +kernel, by decide +kernel, by decide +kernel⟩,
    ⟨by decide +kernel, by decide +kernel, ok_state (by decide +kernel), by decide +kernel, by decide +kernel⟩,
    ⟨_, rfl, by decide +kernel, by unfold CanTrap; decide +kernel, by decide +kernel⟩,
    ⟨_, rfl, by decide +kernel, by unfold CanTrap; decide +kernel, by decide +kernel, by decide +kernel⟩⟩

/-- A hole of the addition of two elements. -/
def holeT : Hole := { id := 0, env := { vl := 4, seqn := 1 }, instr := .vadd (.v 3) (vs 1) (vs 2) 0 0 .s32, elem := 2, ops := [], dest := some 3, w := 32, live := true, lpos := [] }

theorem witness_VectorStateAndSettle : runT.core.vec.block = none ∧ (∀ e ∈ runT.core.seq.loops.head?, e.stop ≠ runT.core.seq.pc) ∧
    runT.core.vec.vxq.length < 64 ∧ (onVec (fun v => { v with block := some ⟨1, []⟩ }) runT).core.vec.block.isSome = true ∧
    64 ≤ (onVec (fun v => { v with vxq := List.replicate 64 (entryT (.setvt 4)) }) runT).core.vec.vxq.length ∧
    outsideUnissued runT runT.core = [] ∧ settleWaitsOutside runT none = false ∧
    settleWaitsOutside (setMat runT { runT.core.mat with queue := [⟨0, .mdrain .rne 3 (.vec (.v 1) 0) .f32, {}, [], .port, false, none, false⟩] }) none = true ∧
    runT.core.vec.holes = [] ∧ settleWaits runT none = false ∧ runT.core.vec.vlq = [] ∧ runT.core.vec.vxq = [] ∧
    runT.core.vec.vsq = [] ∧ runT.core.vec.defer = [] ∧
    (let s := onVec (fun v => { v with holes := [holeT] }) runT
     s.core.vec.holes = [holeT] ∧ holeT.fault = none ∧ holeT.ops = []) := by
  decide +kernel

theorem witness_VectorIssueWritesElements :
    (let i := Instr.vadd (.v 3) (vs 1) ⟨.v, 2, .e 1⟩ 0 0 .s32
     let s := queueT .vxq i runT
     let v := (focus s 0).core.vec
     let w := vWork (holeReader v) v (entryT i).env i
     CanIssue s 0 .vxq (entryT i) [] ∧ laned i = true ∧
      (∀ p ∈ w, (∀ o ∈ p.2, o.ready = true) ∧ (formOf i).wd * p.1 + (formOf i).wd ≤ 8192 ∧
        vHard i (entryT i).env (p.2.map HOp.val) (vCompute i (entryT i).env p.1 (p.2.map HOp.val)) = false) ∧
      (w.map Prod.fst).Nodup ∧ w.map Prod.fst = [0, 1, 2, 3]) := by
  unfold CanIssue; decide +kernel

theorem witness_VectorIntegerElements : (0xFF : Nat) < 2 ^ ETy.s8.width ∧ ETy.s8.isInt = true ∧ ETy.f32.isPlain = true ∧ ETy.s8.isS = true ∧
    ETy.z64.isZ = true := by decide

/-- NaNs, infinities, zeros and a negative number of FP32. -/
theorem witness_VectorFloatSpecialCases : ETy.f32.isLaneFloat = true ∧ decodeF .f32 0x7F800001 = .nan true ∧ decodeF .f32 0x7FC00000 = .nan false ∧
    decodeF .f32 0x7F800000 = .inf false ∧ decodeF .f32 0xFF800000 = .inf true ∧ (∃ g, decodeF .f32 0x80000000 = .fin true 0 g) ∧
    (∃ p g, decodeF .f32 0x3F800000 = .fin false p g ∧ p ≠ 0) ∧ (∃ p g, decodeF .f32 0xBF800000 = .fin true p g ∧ p ≠ 0) ∧
    (0xFFFFFFFF : Nat) < 2 ^ ETy.f32.width :=
  ⟨rfl, by decide +kernel, by decide +kernel, by decide +kernel, by decide +kernel, ⟨-149, by decide +kernel⟩,
    ⟨0x800000, -23, by decide +kernel⟩, ⟨0x800000, -23, by decide +kernel⟩, by decide⟩

theorem witness_VectorFloatExactResults : ETy.f32.isLaneFloat = true ∧ decodeF .f32 0x3F800000 = .fin false 0x800000 (-23) ∧
    decodeF .f32 0x40000000 = .fin false 0x800000 (-22) ∧ decodeF .f32 0x40400000 = .fin false 0xC00000 (-22) ∧
    decodeF .f32 0xBF800000 = .fin true 0x800000 (-23) ∧
    ((0x800000 : ℚ) * 2 ^ (-23 : Int) + 0x800000 * 2 ^ (-22 : Int) = 0xC00000 * 2 ^ (-22 : Int)) ∧
    ((0x800000 : ℚ) * 2 ^ (-23 : Int) - 0x800000 * 2 ^ (-22 : Int) = -0x800000 * 2 ^ (-23 : Int)) ∧
    ((0x800000 : ℚ) * 2 ^ (-23 : Int) * (0x800000 * 2 ^ (-22 : Int)) = 0x800000 * 2 ^ (-22 : Int)) := by
  refine ⟨rfl, by decide +kernel, by decide +kernel, by decide +kernel, by decide +kernel, ?_, ?_, ?_⟩ <;> norm_num

theorem canIssue_mask (i : Instr) (h : CanIssue (queueT .vxq i runT) 0 .vxq (entryT i) []) :
    ∃ s e, CanIssue s 0 .vxq e [] ∧ e.instr = i := ⟨_, _, h, rfl⟩

theorem witness_VectorMaskResults : ∀ i ∈ [Instr.mand 3 1 2, .mor 3 1 2, .mxor 3 1 2, .mnot 3 1, .mclr 3, .vcmp .lt 3 (vs 1) (vs 2) 0 0 .s16,
    .vfcmp .un 3 (vs 1) (vs 2) 0 0 .f16, .vpres 3 (vs 1) 0 0 .f32, .mand 0 1 2, .mor 0 1 2, .mxor 0 1 2, .mnot 0 1, .mclr 0],
    ∃ s e, CanIssue s 0 .vxq e [] ∧ e.instr = i := by
  have h : ∀ i ∈ [Instr.mand 3 1 2, .mor 3 1 2, .mxor 3 1 2, .mnot 3 1, .mclr 3, .vcmp .lt 3 (vs 1) (vs 2) 0 0 .s16,
      .vfcmp .un 3 (vs 1) (vs 2) 0 0 .f16, .vpres 3 (vs 1) 0 0 .f32, .mand 0 1 2, .mor 0 1 2, .mxor 0 1 2, .mnot 0 1, .mclr 0],
      CanIssue (queueT .vxq i runT) 0 .vxq (entryT i) [] := by
    unfold CanIssue; decide +kernel
  exact fun i hi => canIssue_mask i (h i hi)

theorem witness_ConditionsAndReductions : (0xFFFF : Nat) < 2 ^ ETy.f16.width ∧ ETy.s16.isS = true ∧ ETy.z16.isZ = true ∧
    decodeF .f16 0x7C01 = .nan true ∧ decodeF .f16 0x7E00 = .nan false ∧ (∃ g, decodeF .f16 0x8000 = .fin true 0 g) ∧
    (∃ g, decodeF .f16 0 = .fin false 0 g) ∧ [1, 2, 3].Perm [3, 1, 2] ∧ ∀ x ∈ [1, 2, 3], x < 2 ^ ETy.s16.width :=
  ⟨by decide, rfl, rfl, by decide +kernel, by decide +kernel, ⟨-24, by decide +kernel⟩, ⟨-24, by decide +kernel⟩, by decide, by decide⟩

/-- Four lengths 3, 2, 4 and 1 in v1; the cap `n`. -/
def fibT (n : Word) : State :=
  onVec (fun v => { v with v := v.v.set 1 (BitVec.ofNat 8192 (3 + 2 * 2 ^ 32 + 4 * 2 ^ 64 + 2 ^ 96)),
                           vxq := [{ entryT (.vfib 8 9 (vs 1) 1 5 .z32) with env := { vl := 4, seqn := 1, num := 1, x := n } }] }) runT

/-- The VFIB of `fibT` as it stands in its queue. -/
def fibE (n : Word) : VEntry := { entryT (.vfib 8 9 (vs 1) 1 5 .z32) with env := { vl := 4, seqn := 1, num := 1, x := n } }

theorem fib_lengths : (List.range 4).map (fun k => (readSrc (focus (fibT 6) 0).core.vec 0 (vs 1) 32 k).val) = [3, 2, 4, 1] ∧
    (List.range 4).map (fun k => (readSrc (focus (fibT 2) 0).core.vec 0 (vs 1) 32 k).val) = [3, 2, 4, 1] ∧
    (List.range 4).map (fun k => (readSrc (focus (fibT 100) 0).core.vec 0 (vs 1) 32 k).val) = [3, 2, 4, 1] :=
  ⟨by decide +kernel, by decide +kernel, by decide +kernel⟩

/-- The rows that VFIB takes of the lengths 3, 2, 4 and 1 under three caps: some, none because the first is longer than the cap, and all. -/
theorem witness_VectorScalarResults_rows : ∀ x ∈ [(2, 6), (0, 2), (4, 100)],
    let sum := fun (j : Nat) => (([3, 2, 4, 1].take j) : List Nat).sum
    let cap := min x.2 1024
    x.1 ≤ 4 ∧ (∀ j, j < x.1 → sum (j + 1) ≤ cap) ∧ (x.1 < 4 → cap < sum (x.1 + 1)) ∧
      ((x.1 = 0 ∧ cap < 3) ↔ x.2 = 2) := by
  decide

theorem witness_VectorScalarResults :
    (∀ i ∈ [Instr.mcnt 7 1, .mfirst 7 1, .vmvs 7 (vs 1) .s16, .vcomp (.v 2) (vs 1) 7 0 0 .s32, .vthr (.v 3) (vs 1) (vs 2) 0 0 .f32],
      CanIssue (queueT .vxq i runT) 0 .vxq (entryT i) [] ∧ (entryT i).env.ps = true ∧ (entryT i).env.vl * 32 ≤ 8192) ∧
    (let e : VEntry := { entryT (.vcomp (.v 2) (vs 1) 7 0 0 .s32) with env := { vl := 4, seqn := 1, num := 1, ps := false } }
     CanIssue (onVec (fun v => { v with vxq := [e] }) runT) 0 .vxq e [] ∧ e.env.ps = false) ∧
    CanIssue (fibT 6) 0 .vxq (fibE 6) [] ∧ CanIssue (fibT 2) 0 .vxq (fibE 2) [] ∧ CanIssue (fibT 100) 0 .vxq (fibE 100) [] :=
  ⟨by unfold CanIssue; decide +kernel, by unfold CanIssue; decide +kernel, by unfold CanIssue; decide +kernel, by unfold CanIssue; decide +kernel,
    by unfold CanIssue; decide +kernel⟩
theorem trans_all_of {x : List (Nat × Nat × Phys) × List BadAccess × State} (h : x.2.1 = []) : ∃ ok s1, x = (ok, [], s1) :=
  ⟨x.1, x.2.2, by rw [← h]⟩

theorem trans_bad_of {x : List (Nat × Nat × Phys) × List BadAccess × State} {b : BadAccess} {r : List BadAccess}
    (h : x.2.1 = b :: r) : ∃ ok s1, x = (ok, b :: r, s1) := ⟨x.1, x.2.2, by rw [← h]⟩

/-- The loads and stores of the tests, at 0x300000. -/
def loadsT : List Instr := [.vld (.v 3) 4 0 0 0 .s32, .vlds (.v 3) 4 5 0 0 0 .s16, .vldff (.v 3) 4 5 0 0 0 .f32, .vgath (.v 3) 4 (vs 1) 2 0 0 .f32]
def storesT : List Instr := [.vst (vs 1) 4 0 0 0 .s32, .vsts (vs 1) 4 5 0 0 0 .s16, .vscat (vs 1) (vs 2) 4 2 0 0 .f32, .vscadd (vs 1) (vs 2) 4 2 0 0 .s32]

/-- A `vld.w` whose watermark register is bound, and whose watermark has been read as 4. -/
def vldwE : VEntry :=
  { instr := .vldW (.v 3) 4 0 2 0 0 .s32, pub := 4, env := { vl := 4, seqn := 1, num := 1, x := 0x300100, y := 4 } }
def vldwT : State := onVec (fun v => { v with vlq := [vldwE] }) markT

/-- A load on its way. -/
def wayL : VLoad := { env := { vl := 2, seqn := 1, num := 1 }, instr := .vld (.v 3) 4 0 0 0 .s32, dests := [3], cells := [(0, 0x300000), (255, 0x300004)], limit := 2 }

theorem witness_VectorLoads :
    (∀ i ∈ loadsT, CanIssue (queueT .vlq i runT) 0 .vlq (entryT i) []) ∧
    (∀ i ∈ loadsT, (transAll i (memElems (focus (queueT .vlq i runT) 0).core.vec (entryT i).env i) [] (focus (queueT .vlq i runT) 0)).2.1 = []) ∧
    (CanIssue vldwT 0 .vlq vldwE [] ∧ markReached (focus vldwT 0) vldwE 2 = true ∧
      ∃ ok s1, transAll vldwE.instr (memElems (focus vldwT 0).core.vec vldwE.env vldwE.instr) [] (focus vldwT 0) = (ok, [], s1)) ∧
    (let s := onVec (fun v => { v with loads := [wayL] }) runT
     let v := (focus s 0).core.vec
     (v.loads.find? fun x => decide (x.env.seqn = 1)) = some wayL ∧ (∀ x ∈ v.loads, x.env.seqn = 1 → x = wayL) ∧ wayL.stale = false ∧
      loadReady (focus s 0) wayL = true ∧ wayL.md = none ∧ slotsOf wayL.env.rot (formOf wayL.instr).dest = [3] ∧
      (wayL.cells.map Prod.fst).Nodup ∧ ∀ p ∈ wayL.cells, p.1 < 1024 ∧ (memTy wayL.instr).width * p.1 + (memTy wayL.instr).width ≤ 8192) := by
  refine ⟨by unfold CanIssue; decide +kernel, by decide +kernel, ⟨by unfold CanIssue; decide +kernel, by decide +kernel, trans_all_of (by decide +kernel)⟩,
    by decide +kernel⟩

/-- A `vldff` whose third element lies past the mapped GiB. -/
def ffE : VEntry := { instr := .vldff (.v 3) 4 5 0 0 0 .f32, env := { vl := 4, seqn := 1, num := 1, x := 0x3FFFFFF8, y := 4 } }
def ffT : State := onVec (fun v => { v with vlq := [ffE] }) runT

/-- A `vsell` of column `y` of a slice with two columns. -/
def sellE (y : Word) : VEntry := { instr := .vsell (.v 3) (.v 4) 4 5 6 .f32, env := { vl := 64, seqn := 1, num := 1, x := 0x300000, y := y } }
def sellT (y : Word) : State := onVec (fun v => { v with vlq := [sellE y] }) (withMem 0x300000 2 2 runT)

theorem some_state {α β : Type} {x : Option α × β} {a : α} (h : x.1 = some a) : ∃ b, x = (some a, b) := ⟨x.2, by rw [← h]⟩

theorem witness_SpecialLoads :
    (CanIssue ffT 0 .vlq ffE [] ∧
      (∃ ok s1, transAll ffE.instr (memElems (focus ffT 0).core.vec ffE.env ffE.instr) [] (focus ffT 0) = (ok, [(2, 0x40000000, 0x21, 0x40000), (3, 0x40000004, 0x21, 0x40000)], s1)) ∧
      (activeElems (focus ffT 0).core.vec ffE.env (formOf ffE.instr)).head? ≠ some 2) ∧
    (CanIssue (sellT 2) 0 .vlq (sellE 2) [] ∧ (sellHeader (sellE 2) (focus (sellT 2) 0)).1 = some (.ok (0x300000, 2)) ∧
      isPoisoned (sellHeader (sellE 2) (focus (sellT 2) 0)).2 0x300000 4 = false ∧ 2 ≤ (sellE 2).env.y.toNat) ∧
    (CanIssue (sellT 1) 0 .vlq (sellE 1) [] ∧
      ∃ s1, sellHeader (sellE 1) (focus (sellT 1) 0) = (some (.ok (0x300000, 2)), s1) ∧ isPoisoned s1 0x300000 4 = false ∧ (sellE 1).env.y.toNat < 2 ∧
        ∃ ok s2, transAll (sellE 1).instr (sellElems (sellE 1).env .f32 2) [] s1 = (ok, [], s2)) := by
  refine ⟨⟨by unfold CanIssue; decide +kernel, trans_bad_of (by decide +kernel), by decide +kernel⟩,
    ⟨by unfold CanIssue; decide +kernel, by decide +kernel, by decide +kernel, by decide⟩,
    by unfold CanIssue; decide +kernel, (sellHeader (sellE 1) (focus (sellT 1) 0)).2, ?_, by decide +kernel, by decide, trans_all_of (by decide +kernel)⟩
  exact pair_of (by decide +kernel)

/-- A store on its way with one write of `k`. -/
def wayS (k : DeferKind) : VStore :=
  { env := { vl := 1, seqn := 1, num := 1 }, instr := .vst (vs 1) 4 0 0 0 .s32, writes := [⟨0x300000, 4, [⟨0xFFFFFFFF, []⟩], k, 0, false, false, [], 0, false⟩] }

theorem witness_VectorStores :
    (∀ i ∈ storesT, let s := queueT .vsq i runT
      CanIssue s 0 .vsq (entryT i) [] ∧ usesPoison (focus s 0) (entryT i) = false ∧
        (let x := transAll i (memElems (focus s 0).core.vec (entryT i).env i) [] (focus s 0)
         x.2.1 = [] ∧ ∀ w ∈ storeWrites (focus s 0).core.vec (focus s 0).core (entryT i) x.1, ∀ o ∈ w.vals, o.ready = true)) ∧
    (∀ k ∈ [DeferKind.put, .add .s32], let s := onVec (fun v => { v with stores := [wayS k] }) runT
      MemWf s.mem ∧ (focus s 0).core.vec.stores = [wayS k] ∧ (wayS k).stale = false ∧ (wayS k).arr = none ∧
        (wayS k).writes = [⟨0x300000, 4, [⟨0xFFFFFFFF, []⟩], k, 0, false, false, [], 0, false⟩] ∧ (focus s 0).core.vec.defer = [] ∧
        (focus s 0).core.vec.faults = [] ∧ storeReady (focus s 0) (wayS k) = true) := by
  refine ⟨by unfold CanIssue; decide +kernel, by decide +kernel⟩

/-- A table access of one element. -/
def tabE (i : Instr) : VEntry := { instr := i, env := { vl := 1, seqn := 1, num := 1 } }
def tabT (q : VQueue) (i : Instr) : State := onVec (fun v => if q = .vlq then { v with vlq := [tabE i] } else { v with vsq := [tabE i] }) runT

theorem witness_VectorFencesAndTables :
    (∀ i ∈ [Instr.vfence, .vfenceArr 4 .pkg], CanIssue (queueT .vsq i runT) 0 .vsq (entryT i) [] ∧
      usesPoison (focus (queueT .vsq i runT) 0) (entryT i) = false) ∧
    (let x : VStore := { env := { seqn := 1, num := 1 }, instr := .vfenceArr 4 .pkg, writes := [], arr := some 0x300000 }
     let s := onVec (fun v => { v with stores := [x] }) (withMem 0x300000 8 1 runT)
     MemWf s.mem ∧ (focus s 0).core.vec.stores = [x] ∧ (focus s 0).core.vec.defer = [] ∧ storeReady (focus s 0) x = true ∧
      0 < (BitVec.ofNat 64 (memRead s.mem 0x300000 8)).toInt ∧ isRemote 0x300000 = false) ∧
    (let x : VStore := { env := { seqn := 1, num := 1 }, instr := .vfenceArr 4 .pkg, writes := [], arr := some 0x8000000000000 }
     let s := onVec (fun v => { v with stores := [x] }) farT
     MemWf s.mem ∧ (focus s 0).core.vec.stores = [x] ∧ (focus s 0).core.vec.defer = [] ∧ storeReady (focus s 0) x = true ∧
      isRemote 0x8000000000000 = true) ∧
    (let i := Instr.vtld (.v 3) (vs 1) 0 0 .s32
     let s := tabT .vlq i
     let v := (focus s 0).core.vec
     CanIssue s 0 .vlq (tabE i) [] ∧ tableParity (focus s 0) (tabE i) = false ∧ slotsOf 0 (some (.v 3)) = [3] ∧ v.vsq = [] ∧ v.defer = [] ∧ activeElems v (tabE i).env (formOf i) = [0] ∧
      tableBit (focus s 0).core.seq.eff .s32 (readSrc v 0 (vs 1) 32 0).val = some 0) ∧
    (let i := Instr.vtst (vs 1) (vs 2) 0 0 .s64
     let s := tabT .vsq i
     let v := (focus s 0).core.vec
     CanIssue s 0 .vsq (tabE i) [] ∧ usesPoison (focus s 0) (tabE i) = false ∧ v.vlq = [] ∧ v.defer = [] ∧
      activeElems v (tabE i).env (formOf i) = [0] ∧ (readSrc v 0 (vs 2) 64 0).ready = true ∧
      tableBit (focus s 0).core.seq.eff .s64 (readSrc v 0 (vs 1) 64 0).val = some 0) := by
  unfold CanIssue; decide +kernel

theorem witness_MittsAndWatermarks :
    (let s := onVec (fun v => { v with holes := [holeT] }) runT
     let k := (focus s 0).core
     k.vec.holes = [holeT] ∧ holeT.fault = none ∧ (∀ o ∈ holeT.ops, o.parts = []) ∧ k.vec.defer = [] ∧ holeT.dest = some 3 ∧ holeT.live = true ∧
      holeT.lpos = [] ∧ holeT.w * holeT.elem + holeT.w ≤ 8192 ∧ budgetOk (focus s 0) k.seq.eff .mitt k.id = true ∧
      (traps holeT.instr = true → enabledOf holeT.env.vtype (vCompute holeT.instr holeT.env holeT.elem (holeT.ops.map HOp.val)).2 = 0)) ∧
    ((focus vldwT 0).core.vec.vlq = [vldwE] ∧ (focus vldwT 0).core.seq.w[(2 : Fin 8)] = some ⟨0x300000, 0x300100, 4⟩ ∧
      memOk (focus vldwT 0) (focus vldwT 0).core.seq.eff 0x300000 = true) := by
  decide +kernel
/-! ### Matrix engine, Fennel, copy engine -/

/-- Scratchpad addresses in registers 8 to 11. -/
def padT : State :=
  withReg 12 0x10040 (withReg 8 0x01FFFFFFFFF10000 (withReg 9 0x01FFFFFFFFF20000 (withReg 10 0x01FFFFFFFFF30000 (withReg 11 0x01FFFFFFFFF40000
    runT))))

/-- The commands of the tests. -/
def matrixT : List Instr :=
  [.mzero 0 3, .mma 3 8 9 .bf16 0 false false, .mmaq 5 8 9 10 .s8 .q8 .g64, .mmas 2 8 9 10 .bf16, .mmac .sr 1 0 8 .e4m3, .mscale 4 5 8 9,
    .mld 2 8 0, .mst 2 8 0x4000, .mdrain .rne 3 (.pad 9) .s32, .mdrain .rne 3 (.vec (.v 12) 8) .f32, .pdrain 0 1 .simplex 8 13 9 (.v 20) .f32,
    .padj 8 9 10 12 .f32, .pstat 2 5 .l1ball 13 9, .pfix 2 5 .simplex 8 9 .bf16, .prld 8 0, .prst 8 0]

def okP {ε α : Type} : Except ε α → Bool
  | .ok _ => true
  | .error _ => false

theorem ok_of_okP {ε α : Type} {x : Except ε α} (h : okP x = true) : ∃ a, x = .ok a := by
  cases x with
  | ok a => exact ⟨a, rfl⟩
  | error e => exact absurd h (by simp [okP])

/-- A command that its check lets pass, and one whose base is off its alignment. -/
theorem witness_MatrixDispatchAndIssue :
    (∀ i ∈ matrixT, ∃ e, mPrep i (curHead padT) padT = .ok e) ∧
    (padT.core.mat.queue.filter fun o => !o.issued && o.stream.isNone).length < 16 ∧
    (let s := withReg 8 0x01FFFFFFFFF10004 padT
     mPrep (.mma 3 8 9 .bf16 0 false false) (curHead s) s = .error (9, 0x01FFFFFFFFF10004) ∧ CanTrap s) ∧
    (let e : MEntry := { id := 0, instr := .mzero 0 3, env := {}, x := [], unit := .port }
     let s := pushMat e padT
     nextMat (focus s 0).core.mat = some e ∧ matReady (focus s 0) e = true) := by
  refine ⟨fun i hi => ok_of_okP ?_, by decide +kernel, ⟨by decide +kernel, by unfold CanTrap; decide +kernel⟩, by decide +kernel⟩
  have h : ∀ i ∈ matrixT, okP (mPrep i (curHead padT) padT) = true := by decide +kernel
  exact h i hi

/-- A command on its unit. -/
def unitE (un : MUnit) (i : Instr) : MEntry := { id := 0, instr := i, env := {}, x := mRegs padT i, unit := un, issued := true }

theorem witness_TileMovesAndFrames :
    MemWf padT.mem ∧
    (∀ i ∈ [Instr.mzero 0 3, .mld 2 8 0, .mst 2 8 0x4000, .mdrain .rne 3 (.pad 9) .s32], OnUnit (pushMat (unitE .port i) padT) 0 .port (unitE .port i)) ∧
    (∀ i ∈ matrixT, OnUnit (pushMat (unitE (mUse i (mRegs padT i)).unit i) padT) 0 (mUse i (mRegs padT i)).unit (unitE (mUse i (mRegs padT i)).unit i) ∧
      i.wf = true ∧ mCheck (mUse i (mRegs padT i)) effT.spsize = none) := by
  unfold OnUnit; decide +kernel

/-- The products, the operands of MMA each way round and with a leading dimension, the metadata of MMAS 0 and so illegal everywhere. -/
theorem witness_MatrixProducts :
    (∀ i ∈ [Instr.mma 3 8 9 .bf16 0 false false, .mma 3 8 9 .f32 0 true true, .mma 3 8 9 .e4m3 10 true false, .mma 3 8 9 .f16 10 false true,
        .mmaq 5 8 9 10 .s8 .q8 .g64, .mmaq 5 8 9 10 .q8 .q4 .g32, .mmas 2 8 9 10 .bf16, .mmac .sr 1 0 8 .e4m3, .mmac .rne 1 0 8 .bf16,
        .mscale 4 5 8 9],
      OnUnit (pushMat (unitE .array i) padT) 0 .array (unitE .array i)) ∧
    (∀ t ∈ [ETy.bf16, .f32, .e4m3, .f16], mmaType t = true) ∧
    (let s := pushMat (unitE .array (.mmas 2 8 9 10 .bf16)) padT
     let e := memRead s.mem (padOf s 0 (0x01FFFFFFFFF30000 + 0 / 2)) 1 / 16 ^ (0 % 2) % 16
     (unitE .array (.mmas 2 8 9 10 .bf16)).x.getD 2 0 = 0x01FFFFFFFFF30000 ∧ e % 4 = e / 4) := by
  unfold OnUnit; decide +kernel

/-- An MMAS whose index matrix names elements 0 and 1 of every group. -/
def mmasT : State := pushMat (unitE .array (.mmas 2 8 9 10 .f32)) (padT.wrBytes (padBase + 0x30000) (List.replicate 256 0x44))

theorem mmas_indices : ∀ b, b < 256 → memRead mmasT.mem (padOf mmasT 0 (0x01FFFFFFFFF30000 + b)) 1 = 0x44 := by
  intro b hb
  have h : ∀ k : Fin 256, memRead mmasT.mem (padOf mmasT 0 (0x01FFFFFFFFF30000 + k.val)) 1 = 0x44 := by decide +kernel
  exact h ⟨b, hb⟩

theorem witness_MatrixProducts_sparse :
    OnUnit mmasT 0 .array (unitE .array (.mmas 2 8 9 10 .f32)) ∧ ((unitE .array (.mmas 2 8 9 10 .f32)).x.getD 2 0).toNat = 0x01FFFFFFFFF30000 ∧
    ∀ r j, r < 32 → j < 64 →
      let i := memRead mmasT.mem (padOf mmasT 0 (0x01FFFFFFFFF30000 + (64 * (r / 4) + j) / 2)) 1 / 16 ^ ((64 * (r / 4) + j) % 2) % 16
      i % 4 ≠ i / 4 := by
  refine ⟨by unfold OnUnit; decide +kernel, by decide +kernel, fun r j hr hj => ?_⟩
  simp only [mmas_indices _ (show (64 * (r / 4) + j) / 2 < 256 by omega)]
  rcases Nat.mod_two_eq_zero_or_one (64 * (r / 4) + j) with h | h <;> rw [h] <;> decide

/-- 1, 2 and −1 as elements. -/
def oneF : FVal := .fin false 0x800000 (-23)
def twoF : FVal := .fin false 0x800000 (-22)
def negF : FVal := .fin true 0x800000 (-23)

theorem witness_FennelRows : PSet.simplex ≠ PSet.none ∧ [oneF, .nan false].any FVal.isNan = true ∧
    (∀ x ∈ [oneF, negF], ∃ n m e, x = FVal.fin n m e) ∧ ([oneF, negF].map fun x => ((fix149 x).natAbs : Int)).sum ≤ fix149 twoF ∧
    (∀ x ∈ [oneF, twoF], x.isNan = false) ∧ (∀ x ∈ [oneF, twoF], orderKey oneF ≤ orderKey x ∧ orderKey x ≤ orderKey twoF) ∧
    (∀ x ∈ [negF], orderKey x < orderKey oneF) ∧ orderKey oneF ≤ orderKey twoF ∧
    (let row := projRow .simplex .f32 (List.replicate 64 oneF) oneF oneF
     (1 : Nat) ≤ 24 ∧ row.tau < 2 ^ 32 ∧ row.count < 2 ^ 16 ∧ row.mapA < 2 ^ 64 ∧ row.mapB < 2 ^ 64) := by
  refine ⟨by decide, by decide, fun x hx => ?_, by decide +kernel, by decide, by decide +kernel, by decide +kernel, by decide +kernel, by decide +kernel⟩
  simp only [List.mem_cons, List.not_mem_nil, or_false] at hx
  rcases hx with rfl | rfl
  · exact ⟨_, _, _, rfl⟩
  · exact ⟨_, _, _, rfl⟩

/-- A descriptor at 0x350000: `n` elements of 4 bytes in range out of 2, from 0x330000 to 0x340000. -/
def descT (n : Nat) : State :=
  withMem 0x350008 8 0x340000 (withMem 0x350000 8 0x330000 (withMem 0x350010 1 1 (withMem 0x350011 1 2 (withMem 0x350020 4 2
    (withMem 0x350028 4 n (withMem 0x350030 8 4 (withMem 0x350038 8 4 (withReg 7 0x350000 padT))))))))

/-- A stream over it, as it is queued, and as it runs. -/
def streamT : Stream := { id := 0, core := 0, tid := 5, port := 3, desc := 0x350000, tag := 0, num := 1, ring := none, eff := effT }
def movingT : Stream := { streamT with running := true, image := natBytes 192 (memRead (descT 1).mem 0x350000 192) }

theorem ok_state_of {ε α β : Type} {x : Except ε α × β} (h : okP x.1 = true) : ∃ a b, x = (.ok a, b) := by
  obtain ⟨a, ha⟩ := ok_of_okP h
  exact ⟨a, x.2, by rw [← ha]⟩

/-- The same with its destination in host memory, on a fabric port. -/
def farDescT : State :=
  let s := withMem 0x3008 8 (0x8000000000 * 2 ^ 16 + 0xFC0F + 2 * 2 ^ 8) (withMem 0x350008 8 0x40000000 (descT 1))
  { s with cfg := farT.cfg, ports := farT.ports }
def farMovingT : Stream := { streamT with port := 8, running := true, image := natBytes 192 (memRead farDescT.mem 0x350000 192) }

/-- The state with one stream. -/
def withStream (t : Stream) (s : State) : State := { s with copy := { streams := [t] } }

/-- Two elements to host memory, of which the second finds no page. -/
def farEdgeT : State :=
  let s := withMem 0x3008 8 (0x8000000000 * 2 ^ 16 + 0xFC0F + 2 * 2 ^ 8) (withMem 0x350008 8 0x7FFFFFFC (descT 2))
  { s with cfg := farT.cfg, ports := farT.ports }
def edgeMovingT : Stream := { streamT with port := 8, running := true, image := natBytes 192 (memRead farEdgeT.mem 0x350000 192) }

theorem run_of {t : Stream} {s : State} {r : Option (Nat × Word)} {P : Stream → Prop} (h : (runStream t s).2.2 = r)
    (hp : P (runStream t s).2.1) : ∃ s1 t1, runStream t s = (s1, t1, r) ∧ P t1 := ⟨_, _, by rw [← h], hp⟩

theorem witness_Streams :
    (let s := withStream streamT (descT 0)
     getStream s 0 = some streamT ∧ mayStart s streamT = true ∧ streamT.deliver = none ∧ ∃ bs s1, openDesc streamT s = (.ok bs, s1)) ∧
    (let s := withStream movingT (descT 1)
     let ds := descDims movingT.image
     MemWf s.mem ∧ inRange ds (elemIdx ds 0) = true ∧ inRange ds (elemIdx ds 1) = false ∧
      ∃ p s1, transC movingT .r (streamAddrs s movingT 0).1 s = (.ok p, s1) ∧ PlainAccess s p.pa 4 ∧ streamOk movingT s1 p.pa = true ∧
        (∃ q s2, transC movingT .w (streamAddrs s movingT 0).2 s1 = (.ok q, s2) ∧ PlainPlace q.pa ∧ streamOk movingT s2 q.pa = true ∧
          endsFit movingT.port (endKind (streamAddrs s movingT 0).1.toNat p.pa) (endKind (streamAddrs s movingT 0).2.toNat q.pa) = true ∧
          endsFit 6 (endKind (streamAddrs s movingT 0).1.toNat p.pa) (endKind (streamAddrs s movingT 0).2.toNat q.pa) = false)) ∧
    (let s := withStream movingT (withMem 0x3000 8 0 (descT 1))
     ∃ s1, transC movingT .r (streamAddrs s movingT 0).1 s = (.error 0x21, s1)) ∧
    (let s := withStream movingT (descT 1)
     getStream s 0 = some movingT ∧ movingT.running = true ∧ movingT.launch = 0 ∧ movingT.sent = false ∧ movingT.ends = none ∧
      movingT = { movingT with ports := [] } ∧ (runStream movingT s).2.2 = none ∧ (runStream movingT s).2.1.ports = [] ∧
      statusOk (runStream movingT s).2.1 (runStream movingT s).1 = true) ∧
    (let s := withStream movingT (withMem 0x3000 8 0 (descT 1))
     getStream s 0 = some movingT ∧ (runStream movingT s).2.2 = some (0x21, 0x330000) ∧ (runStream movingT s).2.1.ports = [] ∧
      statusOk (runStream movingT s).2.1 (runStream movingT s).1 = true) ∧
    (let s := withStream edgeMovingT farEdgeT
     getStream s 0 = some edgeMovingT ∧ (runStream edgeMovingT s).2.2 = some (0x21, 0x80000000) ∧ (runStream edgeMovingT s).2.1.ports ≠ []) ∧
    ∀ x ∈ [(0, 1), (0x21, 0x330000)], let t := { movingT with ends := some x }
      let s := withStream t (descT 1)
      getStream s 0 = some t ∧ t.ports = [] ∧ statusOk t s = true := by
  refine ⟨⟨by decide +kernel, by decide +kernel, rfl, ok_state_of (by decide +kernel)⟩,
    ⟨by decide +kernel, by decide +kernel, by decide +kernel, ⟨0x330000, false, false, 0x40000000⟩, _, pair_of (by decide +kernel),
      ⟨place_hbm (by decide), by decide +kernel⟩, by decide +kernel, ⟨0x340000, false, false, 0x40000000⟩, _, pair_of (by decide +kernel),
      place_hbm (by decide), by decide +kernel, by decide +kernel, by decide +kernel⟩,
    ok_state (by decide +kernel), by decide +kernel, by decide +kernel, by decide +kernel, by decide +kernel⟩

/-- A destination in the tier whose link's budget is spent; a destination in host memory, whose bytes then wait for their acceptance; and the
port that carried them open and paused. -/
theorem witness_Streams_waits :
    (let s := { withStream { movingT with port := 6 } (withMem 0x3008 8 (0x100000000 * 2 ^ 16 + 0xFC0F + 2 ^ 8) (withMem 0x350008 8 0x40000000 (withMem 0x100058 12 (5 * 2 ^ 64 + 2 ^ 48 - 1) (descT 1)))) with
      budgets := [⟨0x100000, .tier, 0, 0⟩] }
     let t := { movingT with port := 6, eff := { effT with budgetRcb := 0x100000 }, image := natBytes 192 (memRead s.mem 0x350000 192) }
     ∃ p s1, transC t .r (streamAddrs s t 0).1 s = (.ok p, s1) ∧ PlainAccess s p.pa 4 ∧ streamOk t s1 p.pa = true ∧
        ∃ q s2, transC t .w (streamAddrs s t 0).2 s1 = (.ok q, s2) ∧ PlainPlace q.pa ∧ streamOk t s2 q.pa = false ∧
          endsFit t.port (endKind (streamAddrs s t 0).1.toNat p.pa) (endKind (streamAddrs s t 0).2.toNat q.pa) = true) ∧
    (let s := withStream farMovingT farDescT
     getStream s 0 = some farMovingT ∧ ∃ s1 t1, runStream farMovingT s = (s1, t1, none) ∧ t1.ports ≠ []) ∧
    (let t := { farMovingT with sent := true, ports := [0] }
     let s := withStream t farDescT
     let u := { s with ports := s.ports.set 0 { st := 2, paused := 1 } }
     getStream s 0 = some t ∧ (∀ p ∈ t.ports, chanOpen s p 0 = true) ∧ statusOk t s = true ∧ getStream u 0 = some t ∧
      ∃ p ∈ t.ports, chanOpen u p 0 = false) ∧
    (let t := { farMovingT with ports := [0], landed := 2 }
     let s := withStream t farDescT
     let u := { s with ports := s.ports.set 0 { st := 2, paused := 1 } }
     getStream u 0 = some t ∧ (∃ p ∈ t.ports, chanOpen u p 0 = false) ∧ (runStream t u).2.2 = none ∧ (runStream t u).2.1.ports ≠ []) := by
  refine ⟨⟨⟨0x330000, false, false, 0x40000000⟩, _, pair_of (by decide +kernel), ⟨place_hbm (by decide), by decide +kernel⟩, by decide +kernel,
    ⟨0x100000000000, false, false, 0x80000000⟩, _, pair_of (by decide +kernel), .inr (.inl ⟨0, by decide⟩), by decide +kernel, by decide +kernel⟩,
    ⟨by decide +kernel, run_of (by decide +kernel) (by decide +kernel)⟩, by decide +kernel, by decide +kernel⟩

/-- Slot 2 of the line is a CGO `.mx` and slot 3 its MMA. -/
def mxLine : Nat := 10 * 2 ^ 11 + 0xB411 * 2 ^ 32 + 0xEC10 * 2 ^ 48 + 0x1A12A0000000 * 2 ^ (8 * 50 + 32) + 0x30000000 * 2 ^ (8 * 50 + 80)

def bindT : PortBind := ⟨0, 5, 3, 0x350000, 0x340000⟩
def ringT : Ring := { core := 0, tid := 5, obj := 0x360000, base := 0x370000, ssize := 64, scount := 4, wptr := 2, rptr := 1, resv := 3, done := [] }

/-- A bound port and a registered ring, at the CGO `.mx`. -/
def copyT : State :=
  let s := onSeq (fun q => { q with line := some (0x01FFFFFFFFF00002, mxLine) }) (withReg 13 0x360000 (descT 0))
  { s with copy := { binds := [bindT], rings := [ringT] } }

theorem witness_CopyDispatch :
    ((getS copyT 7).toNat % 64 = 0 ∧ (∃ s1, Reached copyT .r (getS copyT 7 + 8) 8 s1 ⟨0x350008, false, false, 0x40000000⟩) ∧ FreshLine copyT 0x350008) ∧
    (takeError copyT = none ∧ getBind copyT (3 : BitVec 4).toNat = some bindT ∧ (queuedStreams copyT copyT.core).length < 32) ∧
    ((getS copyT 13).toNat % 64 = 0 ∧ getRing copyT copyT.core.id copyT.core.seq.tid (getS copyT 13) = some ringT) ∧
    (misplaced true copyT = none ∧ (∃ e, followOn copyT = .ok e) ∧ (copyT.core.mat.queue.filter fun o => o.follow && !o.issued).length < 4 ∧
      slotOf (nextPc copyT) < curN copyT ∧ lineBase (nextPc copyT) = lineBase copyT.core.seq.pc) ∧
    (∃ s1, Reached copyT .r (getS copyT 7) 16 s1 ⟨0x350000, false, false, 0x40000000⟩ ∧ FreshLine copyT 0x350000 ∧
      ∃ e, followOn (readCached ⟨0x350000, false, false, 0x40000000⟩ 16 (afterLink (chargeMem s1.core.seq.eff 0x350000 16 s1) 0x350000)).2 = .ok e) ∧
    (copyT.core.vec.vl.toNat ≤ ETy.f32.vlmax ∧ copyT.core.vec.block = none) ∧
    (onVec (fun v => { v with block := some ⟨1, []⟩ }) copyT).core.vec.block.isSome = true := by
  refine ⟨⟨by decide +kernel, reached_of (by decide +kernel), by unfold FreshLine; decide +kernel⟩, by decide +kernel, by decide +kernel,
    ⟨by decide +kernel, ok_of_okP (by decide +kernel), by decide +kernel, by decide +kernel, by decide +kernel⟩, ?_, by decide +kernel, by decide +kernel⟩
  refine ⟨(transS .r (getS copyT 7) copyT).2, ⟨by decide +kernel, by unfold MaySend; decide +kernel, pair_of (by decide +kernel), ⟨place_hbm (by decide), by decide +kernel⟩,
    by decide +kernel, atOnce_hbm (by decide)⟩, by unfold FreshLine; decide +kernel, ok_of_okP (by decide +kernel)⟩

theorem witness_Rings :
    (let s := withReg 14 0x380000 (withReg 15 0x390000 (withReg 16 128 (withReg 17 4 copyT)))
     takeError s = none ∧ (getS s 14).toNat % 64 = 0 ∧ MemWf s.mem ∧ ringBad s (getS s 14) (getS s 15) (getS s 16) (getS s 17) = false ∧
      MaySend s ∧ (∃ s1, transS .w (getS s 14) s = (.ok ⟨0x380000, false, false, 0x40000000⟩, s1) ∧ memOk s1 s1.core.seq.eff 0x380000 = true ∧
        AtOnce s1 0x380000) ∧
      PlainPlace 0x380000) ∧
    getRing copyT copyT.core.id copyT.core.seq.tid (getS copyT 13) = some ringT ∧
    (((1 : BitVec 32) - ringT.rptr).toNat < ringT.scount ∧ (ringT.wptr - 1).toNat = 1) ∧
    (((2 : BitVec 32) - ringT.rptr).toNat < ringT.scount ∧ (2 : BitVec 32) = ringT.wptr) ∧
    (ringT.scount ≤ ((5 : BitVec 32) - ringT.rptr).toNat ∧ CanTrap copyT) ∧ copyPointPending copyT = false ∧
    wordOk (taskStream copyT) (ringT.obj + 16) copyT = true ∧ ringT.rptr ≠ ringT.wptr := by
  refine ⟨⟨by decide +kernel, by decide +kernel, by decide +kernel, by decide +kernel, by unfold MaySend; decide +kernel,
      ok_state_and (by decide +kernel) ⟨by decide +kernel, atOnce_hbm (by decide)⟩, place_hbm (by decide)⟩,
    by decide +kernel, by decide, by decide, ⟨by decide, by unfold CanTrap; decide +kernel⟩, by decide +kernel, by decide +kernel, by decide⟩

/-- No stream on the port; one stream on it that has nothing out; and one that a CCANCEL waits for. -/
theorem witness_Rings_cancel :
    (¬∃ x ∈ copyT.copy.streams, x.core = copyT.core.id ∧ x.launch = 0 ∧ x.ends = some (0, 1)) ∧ queuedStreams copyT copyT.core = [] ∧
    (let s := withStream streamT (descT 0)
     takeError s = none ∧ MemWf s.mem ∧ (∀ x ∈ s.copy.streams, x.ends = none) ∧ queuedStreams s s.core = [streamT] ∧
      streamT.port = (3 : BitVec 4).toNat ∧ (s.copy.streams.map Stream.id).Nodup ∧ streamT.ring = none ∧ streamT.ports = [] ∧
      (∃ s1, transC streamT .w (streamT.desc + 24) s = (.ok ⟨0x350018, false, false, 0x40000000⟩, s1)) ∧ PlainPlace 0x350018 ∧
      memOk s streamT.eff 0x350018 = true) ∧
    (let t := { farMovingT with ports := [0], ends := some (0, 1) }
     let s := withStream t farDescT
     ∃ x ∈ s.copy.streams, x.core = s.core.id ∧ x.launch = 0 ∧ x.ends = some (0, 1)) := by
  refine ⟨by decide +kernel, by decide +kernel, ⟨by decide +kernel, by decide +kernel, by decide +kernel, by decide +kernel, by decide, by decide,
    by decide, by decide, ok_state (by decide +kernel), place_hbm (by decide), by decide +kernel⟩, by decide +kernel⟩
/-! ### Near memory and fabric -/

/-- A bag descriptor at 0x390000: one row of two words out of four, indices at 0x3B0000; the output at 0x3C0000. -/
def bagT : State :=
  withReg 18 0x390000 (withReg 19 0x3C0000 (withReg 5 0x3A0000 (withMem 0x390000 8 0x3A0000 (withMem 0x390008 4 4 (withMem 0x39000C 4 64
    (withMem 0x390010 2 2 (withMem 0x390014 4 1 (withMem 0x390018 8 0x3B0000 (withMem 0x3B0000 4 3 (onVec (fun v => { v with vl := 2 }) padT))))))))))

def bagX : Nat := memRead bagT.mem 0x390000 64

theorem readN_of {n sz : Nat} {va : Word} {s : State} {xs : List Nat} (h : (readN sz n va s).1 = .ok xs) : ∃ s1, readN sz n va s = (.ok xs, s1) := ok_state h

/-- A command of the core that may be performed. -/
def nearC (i : Instr) : NearCmd :=
  { id := 0, core := 0, tid := 5, instr := i, env := { vl := 2, num := 1 }, rows := [0x3A00C0], wts := [], w := 2, isMax := false,
    out := if i = .nlookup 18 19 0 then [0x3C0000, 0x3C0004] else [], launch := 0, eff := effT }

def nearS (i : Instr) : State := { bagT with near := [nearC i] }

/-- The same command once it has been sent. -/
def sentC (i : Instr) : NearCmd := { nearC i with data := some [(1, false), (2, true)] }
def sentS (i : Instr) : State := { bagT with near := [sentC i] }

theorem witness_NearMemory :
    ((getS bagT 18).toNat % 64 = 0 ∧ (getS bagT 19).toNat % 4 = 0 ∧ heldByPoint bagT bagT.core .n (nextNum bagT) = false ∧ (nearOf bagT).length < 32 ∧
      bagBad bagX = false ∧ bagMisaligned (bagOf bagX) = none ∧
      ∃ s1, readN 64 1 (getS bagT 18) bagT = (.ok [bagX], s1) ∧ portHeld bagT (listBytes 64 1 (getS bagT 18) bagT) = false ∧
        bytesOk bagT bagT.core.seq.eff (listBytes 64 1 (getS bagT 18) bagT) = true ∧
        portHeld s1 (bagLists (bagOf bagX) s1) = false ∧ bytesOk s1 bagT.core.seq.eff (bagLists (bagOf bagX) s1) = true ∧ ∃ l s2, portLookup (getS bagT 19) (bagOf bagX) s1 = (.ok l, s2)) ∧
    (let s := { bagT with near := [{ nearC (.nadd .add 5 (vs 1) 0) with rows := [0x390000] }] }
     (getS s 18).toNat % 64 = 0 ∧ (getS s 19).toNat % 4 = 0 ∧ portHeld s (listBytes 64 1 (getS s 18) s) = true) ∧
    (let s := onSeq (fun q => { q with eff := { effT with budgetRcb := 0x100000 } }) bagT
     bytesOk s s.core.seq.eff (listBytes 64 1 (getS s 18) s) = false) ∧
    ((getS (withReg 18 0x390020 bagT) 18).toNat % 64 ≠ 0 ∧ CanTrap (withReg 18 0x390020 bagT)) ∧
    (bagT.core.vec.block = none ∧ bagT.core.vec.vl = 2 ∧ (∃ s1, transRow .rw (getS bagT 5) (4 * 2) bagT = (.ok 0x3A0000, s1)) ∧ (VDst.v 9) ≠ .nil) ∧
    (runT.core.vec.block = none ∧ runT.core.vec.vl.toNat = 0 ∧ nearOf runT = []) ∧ nearOf (nearS (.nadd .add 5 (vs 1) 7)) ≠ [] ∧
    (∀ i ∈ [Instr.nadd .add 5 (vs 1) 0, .naddr .max (.v 9) 5 (vs 1) 0, .nlookup 18 19 0],
      ((nearS i).near.find? fun y => decide (y.id = 0)) = some (nearC i) ∧ (nearC i).data = none ∧ (nearC i).stale = false ∧
        nearReady (nearS i) (nearC i) = true ∧ bytesOk (nearS i) (nearC i).eff (nearCost (nearC i)) = true ∧
        (let c := { nearC i with eff := { effT with budgetRcb := 0x100000 } }
         let s := { bagT with near := [c] }
         (s.near.find? fun y => decide (y.id = 0)) = some c ∧ nearReady s c = true ∧ bytesOk s c.eff (nearCost c) = false)) ∧
    (∀ i ∈ [Instr.nadd .add 5 (vs 1) 0, .naddr .max (.v 9) 5 (vs 1) 0, .nlookup 18 19 0],
      MemWf (sentS i).mem ∧ ((sentS i).near.find? fun y => decide (y.id = 0)) = some (sentC i) ∧ (sentC i).data.isSome = true ∧
        (∀ pa ∈ (sentC i).rows, engineLost (sentS i) pa = false) ∧ (sentS i).slots = [] ∧ onTask (focus (sentS i) 0).core (sentC i).tid = true ∧
        onTask (focus (onSeq (fun q => { q with tid := 6 }) (sentS i)) 0).core (sentC i).tid = false) ∧
    dstSlot 0 (.v 9) = some 9 ∧
    (let c := sentC (.nlookup 18 19 0)
     c.out.length = c.w ∧ ∀ i < c.w, ∀ j < i, c.out.getD i 0 + 4 ≤ c.out.getD j 0 ∨ c.out.getD j 0 + 4 ≤ c.out.getD i 0) := by
  refine ⟨⟨by decide +kernel, by decide +kernel, by decide +kernel, by decide +kernel, by decide +kernel, by decide +kernel,
      (readN 64 1 (getS bagT 18) bagT).2, pair_of (by decide +kernel), by decide +kernel, by decide +kernel, by decide +kernel,
      by decide +kernel, ok_state_of (by decide +kernel)⟩,
    by decide +kernel, by decide +kernel,
    ⟨by decide +kernel, by unfold CanTrap; decide +kernel⟩, ⟨by decide +kernel, by decide +kernel, ok_state (by decide +kernel), by decide⟩,
    by decide +kernel, by decide +kernel, by decide +kernel, by decide +kernel, by decide, by decide +kernel⟩

/-- A group of two members at 0x390000, of which this one has rank 0; 32 elements in chunks of 16; the bitmap at 0x3D0000. -/
def groupT : State :=
  let s := withReg 18 0x390000 (withReg 19 0x3C0000 (withReg 5 0x3A0000 (withReg 6 64 farT)))
  withMem 0x390000 2 2 (withMem 0x390004 4 32 (withMem 0x390008 4 16 (withMem 0x390020 8 0x3D0000 s)))

def groupG : List Byte := natBytes 192 (memRead groupT.mem 0x390000 192)

/-- A core with 32 fabric operations outstanding. -/
def fullFabT (r : Word) : State :=
  { withReg 7 r runT with fab := { ops := List.replicate 32 { id := 0, core := 0, tid := 5, instr := .ffence, num := 1, tag := 0, n := 4 } } }

theorem fullFab_length (r : Word) : ¬(fabOf (fullFabT r)).length < 32 := by
  have h : ∀ o ∈ (fullFabT r).fab.ops, decide (o.core = (fullFabT r).core.id) = true := fun o ho => by
    rw [List.eq_of_mem_replicate ho]; rfl
  rw [fabOf, List.filter_eq_self.mpr h]
  exact Nat.lt_irrefl 32

theorem witness_FabricDispatch :
    ((getS groupT 4).toNat % 4 = 0 ∧ (getS groupT 5).toNat % 4 = 0 ∧ (getS groupT 6).toNat % 4 = 0 ∧ (getS groupT 6).toNat ≤ 2 ^ 24 ∧
      getS groupT 6 ≠ 0 ∧ getS groupT 0 = 0 ∧ (fabOf groupT).length < 32) ∧
    (∀ put : Bool, ∃ s1, transRange true (if put then .w else .r) (getS groupT 4) 64 groupT = (.ok [(0x8000000000000, 64)], s1) ∧
      ∃ s2, transRange false (if put then .r else .w) (getS groupT 5) 64 s1 = (.ok [(0x3A0000, 64)], s2)) ∧
    ((getS (withReg 6 66 groupT) 6).toNat % 4 ≠ 0 ∧ CanTrap (withReg 6 66 groupT)) ∧
    ((getS groupT 4).toNat % 64 = 0 ∧ ∃ s1, transRange true .rw (getS groupT 4) 64 groupT = (.ok [(0x8000000000000, 64)], s1)) ∧
    (∀ i ∈ [Instr.collAllreduce 18 5 19 0 .f32, .collRedscat 18 5 19 0 .bf16, .collAllgather 18 5 19 0 .z8, .collBcast 18 5 19 0 .s64],
      let kind := (collForm i).1
      let e := (collForm i).2.width / 8
      let r1 := transRange false .rw (getS groupT 18) 192 groupT
      let r2 := transRange false .r (getS groupT 5) (e * collSrcCount kind groupG) r1.2
      let r3 := transRange false .w (getS groupT 19) (e * collDstCount kind groupG) r2.2
      let r4 := transRange false .w (gPmap groupG) (((if kind = 2 then collChunks 2 groupG else blockChunks groupG) + 7) / 8) r3.2
      (getS groupT 18).toNat % 64 = 0 ∧ (getS groupT 5).toNat % e = 0 ∧ (getS groupT 19).toNat % e = 0 ∧
        ((fabOf groupT).filter FabOp.isColl).length < 4 ∧ heldByPoint groupT groupT.core .f (nextNum groupT) = false ∧
        r1.1 = .ok [(0x390000, 192)] ∧ readP r1.2 [(0x390000, 192)] = groupG ∧ ((fabOf r1.2).any fun o => overlaps (o.reads ++ o.writes) [(0x390000, 192)]) = false ∧
        bytesOk r1.2 r1.2.core.seq.eff [(0x390000, 192)] = true ∧ poisonedP r1.2 [(0x390000, 192)] = false ∧ groupBad groupG = false ∧ okP r2.1 = true ∧ okP r3.1 = true ∧ okP r4.1 = true) ∧
    fabOf groupT = [] ∧ fabOf { groupT with fab := { ops := [{ id := 0, core := 0, tid := 5, instr := .ffence, num := 1, tag := 0, n := 4 }] } } ≠ [] ∧
    getS (withReg 7 23 groupT) 7 = BitVec.ofNat 64 (23 : Fin 24).val ∧ getS (withReg 7 255 groupT) 7 = 255 ∧
    ((getS (fullFabT 7) 7).toNat < 24 ∧ ¬(fabOf (fullFabT 7)).length < 32) ∧ (getS (fullFabT 255) 7 = 255 ∧ ¬(fabOf (fullFabT 255)).length < 32) ∧
    (24 ≤ (getS (withReg 7 24 groupT) 7).toNat ∧ getS (withReg 7 24 groupT) 7 ≠ 255 ∧ CanTrap (withReg 7 24 groupT)) := by
  refine ⟨by decide +kernel, fun put => ?_, ⟨by decide +kernel, by unfold CanTrap; decide +kernel⟩, ⟨by decide +kernel, ok_state (by decide +kernel)⟩,
    by decide +kernel, by decide +kernel, by decide +kernel, by decide +kernel, by decide +kernel, ⟨by decide +kernel, fullFab_length _⟩,
    ⟨by decide +kernel, fullFab_length _⟩, by decide +kernel, by decide +kernel, by unfold CanTrap; decide +kernel⟩
  cases put
  · exact ⟨_, pair_of (by decide +kernel), ok_state (by decide +kernel)⟩
  · exact ⟨_, pair_of (by decide +kernel), ok_state (by decide +kernel)⟩

/-- An operation outstanding, and a collective whose checks `cs` have come. -/
def fabO (i : Instr) : FabOp :=
  { id := 0, core := 0, tid := 5, instr := i, num := 1, tag := 0, n := 4, remote := [(0x8000000000000, 4)], locals := [(0x3A0000, 4)],
    eff := effT }
def collO (cs : List Nat) : FabOp :=
  { id := 0, core := 0, tid := 5, instr := .collAllreduce 18 5 19 0 .f32, num := 1, tag := 0, n := 128, locals := [(0x3C0000, 128)], group := groupG,
    gpa := 0x390000, src := [(0x3A0000, 128)], pm := [(0x3D0000, 1)], checks := cs, eff := effT }
def fabS (o : FabOp) : State := { groupT with fab := { ops := [o] } }

theorem popped (s : State) : ∃ b s1, popChoice s = (b, s1) := ⟨_, _, rfl⟩

theorem witness_FabricEvents :
    (∀ i ∈ [Instr.fput 4 5 6 0, .fget 4 5 6 0, .fsig 4 1],
      ((fabS (fabO i)).fab.ops.find? fun x => decide (x.id = 0)) = some (fabO i) ∧ fabReady (fabS (fabO i)) (fabO i) = true ∧ (fabO i).lost = false ∧ (fabO i).stale = false ∧
        (fabO i).remote = [(0x8000000000000, (fabO i).n)] ∧ 0 < (fabO i).n ∧ (fabO i).locals = [(0x3A0000, (fabO i).n)]) ∧
    (∀ cs ∈ [[], [0], [0, 1]], ((fabS (collO cs)).fab.ops.find? fun x => decide (x.id = 0)) = some (collO cs) ∧ fabReady (fabS (collO cs)) (collO cs) = true ∧
      (collO cs).isColl = true ∧ (collO cs).todo = []) ∧
    (∀ l ∈ [[CollMsg.check 1], [.pass 1 0 [] false 0, .check 1]], let o := { collO [] with todo := l }
      ((fabS o).fab.ops.find? fun x => decide (x.id = 0)) = some o ∧ o.isColl = true ∧ o.lost = false ∧ collPort (fabS o) o = some 0 ∧
        collPort { fabS o with ports := runT.ports } o = none) ∧
    groupAgrees groupG [] = false ∧ groupAgrees groupG groupG = true ∧
    (let o := collO [0, 1]
     2 ≤ o.checks.length ∧ 0 < collChunks 0 o.group ∧ 0 ∉ o.joined ∧ (natBytes 64 7).length = 4 * chunkLen o.group 0 ∧
      gRank o.group ≠ chunkLast 0 o.group 0 ∧ bytesOk (fabS o) o.eff (srcSlice o 0) = true) ∧
    (∀ k ∈ [0, 1, 2], ∃ x ∈ [({ st := k } : FPort), { st := k, consec := 15 }], x.st = k ∧ { runT with ports := runT.ports.set 3 x }.ports[(3 : Fin 24)] = x) ∧
    runT.boot = .up ∧ chipDown runT (3 : Fin 16).val = false ∧ popChoice runT = (false, runT) := by
  refine ⟨by decide +kernel, by decide +kernel, by decide +kernel, by decide +kernel, by decide +kernel, by decide +kernel, by decide +kernel,
    by decide, by decide +kernel, ?_⟩
  rfl
/-! ### Front end, tasks, the device from outside -/

/-- The packet of the tests, 64 bytes with a type, a flag byte and fields. -/
def packetT (type flags fields : Nat) : List Byte := natBytes 64 (type + flags * 2 ^ 8 + 2 ^ 16 + fields * 2 ^ 64)

/-- A context with the operands of a placing instruction, and `b1`. -/
def ctxT (v : Word) : Beret :=
  bSet (bSet (bSet (bSet (bSet (bSet { b := Vector.replicate 16 0 } 1 v) 8 0x10000) 11 64) 12 2) 14 16) 2 1

def berQ (v : Word) : Queue :=
  { q := 0, st := .process, rcb := 0x100000, pkt := packetT 6 0 0, prog := 64, manifest := [0x380000, 2 ^ 63 + 5], ctx := some (ctxT v) }

/-- Queue 0 runs a program, and queue 5 has room. -/
def berT (v : Word) (s : State) : State := setQ (berQ v) (setQ { q := 5, st := .idle, ringbase := 0x3E0000, lsize := 2 } s)

/-- A saved context image with its magic and version at 0x10000. -/
def imgT : State := withMem 0x10000 6 0x010143545831 regT

theorem inBeret_berT (v : Word) : InBeret (berT v regT) (berQ v) (ctxT v) := by
  refine ⟨rfl, rfl, rfl, rfl, rfl, ?_⟩
  show (0 : Nat) < 512
  decide

theorem placed_of {x : PlaceRes × State} (h : (match x.1 with | .placed _ => true | _ => false) = true) : ∃ b s1, x = (.placed b, s1) := by
  obtain ⟨r, s1⟩ := x
  cases r with
  | placed b => exact ⟨b, s1, rfl⟩
  | fail st => exact absurd h (by simp)
  | wait => exact absurd h (by simp)
  | fault pa => exact absurd h (by simp)

/-- The machine with the RCB handles `l`. -/
def withRcbs (l : List RcbHandle) (s : State) : State := { s with fe := { s.fe with rcbs := l } }

/-- One handle for each of the indices 1 to `n`. -/
def handles : Nat → List RcbHandle
  | 0 => []
  | n + 1 => { idx := n + 1, rcb := 0 } :: handles n

theorem mem_handles {x : RcbHandle} : ∀ {n : Nat}, x ∈ handles n → x.rcb = 0
  | 0, h => absurd h List.not_mem_nil
  | n + 1, h => by
    rcases List.mem_cons.mp h with h | h
    · rw [h]
    · exact mem_handles h

theorem handles_mem {j : Nat} : ∀ {n : Nat}, 1 ≤ j → j ≤ n → ∃ x ∈ handles n, x.idx = j
  | 0, h1, h2 => absurd (Nat.le_trans h1 h2) (by decide)
  | n + 1, h1, h2 => by
    rcases Nat.lt_or_eq_of_le h2 with h | h
    · obtain ⟨x, hx, he⟩ := handles_mem h1 (Nat.le_of_lt_succ h)
      exact ⟨x, List.mem_cons_of_mem _ hx, he⟩
    · exact ⟨_, List.mem_cons_self, h.symm⟩

theorem freeIndex_none (used : List Nat) : ∀ n k, (∀ j, k ≤ j → j < k + n → j ∈ used) → freeIndex used n k = none := by
  intro n
  induction n with
  | zero => intros; rfl
  | succ n ih =>
    intro k h
    rw [freeIndex, if_pos (by simpa using h k (Nat.le_refl k) (by omega))]
    exact ih _ fun j h1 h2 => h j (by omega) (by omega)

theorem giveHandle_none (n rcb : Nat) (hn : n = 65535) (l : List RcbHandle) (hl : l = handles n) (s : State) (hs : s.fe.rcbs = l) (hr : rcb ≠ 0) :
    giveHandle s rcb = none := by
  have hh : handleOf s rcb = none := by
    rw [handleOf, hs, hl]
    refine List.find?_eq_none.mpr fun x hx => ?_
    simp [mem_handles hx, hr.symm]
  have hf : freeIndex (s.fe.rcbs.map RcbHandle.idx) 65535 1 = none := by
    rw [hs, hl, ← hn]
    refine freeIndex_none _ _ _ fun j h1 h2 => ?_
    obtain ⟨x, hx, he⟩ := handles_mem h1 (show j ≤ n by omega)
    exact List.mem_map.mpr ⟨x, hx, he⟩
  simp only [giveHandle, hh, hf]

/-- With every RCB index in use no packet gets one. -/
theorem startCopy_full {desc tag sig rcb : Nat} {s : State}
    (h : ((region s rcb).map fun r => s.cfg.dead.getLsbD r.domain) = some false) (hr : rcb ≠ 0) :
    ∃ l, startCopy desc tag sig rcb (withRcbs l s) = (.wait, withRcbs l s) := by
  obtain ⟨r, h1, h2⟩ := Option.map_eq_some_iff.mp h
  obtain ⟨n, hn⟩ : ∃ n, n = 65535 := ⟨_, rfl⟩
  obtain ⟨l, hl⟩ : ∃ l, l = handles n := ⟨_, rfl⟩
  refine ⟨l, ?_⟩
  have hd : (withRcbs l s).cfg.dead.getLsbD r.domain = false := h2
  have hg : giveHandle (withRcbs l s) rcb = none := giveHandle_none n rcb hn l hl _ rfl hr
  have h3 : region (withRcbs l s) rcb = some r := h1
  unfold startCopy
  rw [h3]
  simp only [hd, hg, Bool.false_eq_true, if_false]

theorem some_of {α : Type} {x : Option α} (h : x.isSome = true) : ∃ a, x = some a := Option.isSome_iff_exists.mp h

theorem ok_pair_of {ε α β : Type} {x : Except ε (α × β)} (h : okP x = true) : ∃ a b, x = .ok (a, b) := by
  obtain ⟨⟨a, b⟩, h⟩ := ok_of_okP h
  exact ⟨a, b, h⟩

theorem witness_BeretPlacing :
    (let s := berT 0 regT
     16 ≤ (bGet (ctxT 0) 14).toNat ∧ bGet (ctxT 0) 13 = 0 ∧ isPoisoned s (berQ 0).rcb 256 = false ∧ 1 ≤ (bGet (ctxT 0) 12).toNat ∧
      (bGet (ctxT 0) 12).toNat ≤ 2 ^ 24 ∧ (bGet (ctxT 0) 11).toNat < 2 ^ 32 ∧ (bGet (ctxT 0) 11).toNat % 64 = 0 ∧
      ∃ b s1, placeLaunch ⟨(bGet (ctxT 0) 8).toNat, (bGet (ctxT 0) 9).toNat, (bGet (ctxT 0) 10).toNat, (bGet (ctxT 0) 11).toNat,
        (bGet (ctxT 0) 12).toNat, 0, (berQ 0).rcb, true, false, 0⟩ s = (.placed b, s1)) ∧
    (let s := berT 0 imgT
     (bGet (ctxT 0) 8).toNat ≠ 0 ∧ (bGet (ctxT 0) 8).toNat % 65536 = 0 ∧ inHbm (bGet (ctxT 0) 8).toNat 0x78000 = true ∧
      (bGet (ctxT 0) 10).toNat < 2 ^ 56 ∧ isPoisoned s (bGet (ctxT 0) 8).toNat 0x2000 = false ∧
      ∃ b s1, placeLaunch { code := (bGet (ctxT 0) 8).toNat, rcb := (berQ 0).rcb, image := true, extra := (bGet (ctxT 0) 9).toNat + (bGet (ctxT 0) 10).toNat * 2 ^ 64 } s = (.placed b, s1)) := by
  refine ⟨⟨by decide +kernel, by decide +kernel, by decide +kernel, by decide +kernel, by decide +kernel, by decide +kernel, by decide +kernel,
    placed_of (by decide +kernel)⟩, ⟨by decide +kernel, by decide +kernel, by decide +kernel, by decide +kernel, by decide +kernel,
    placed_of (by decide +kernel)⟩⟩

theorem witness_BeretImageAndCopy :
    (∃ g, region (berT 0 imgT) (berQ 0).rcb = some g ∧ imageOk (berT 0 imgT) (bGet (ctxT 0) 8).toNat g = true) ∧
    (∃ job s1, startCopy (bGet (ctxT 0) 8).toNat ((bGet (ctxT 0) 9).toNat % 256) 0 (berQ 0).rcb (berT 0 regT) = (.placed job, s1)) ∧
    ∃ l, startCopy (bGet (ctxT 0) 8).toNat ((bGet (ctxT 0) 9).toNat % 256) 0 (berQ 0).rcb (withRcbs l (berT 0 regT)) =
      (.wait, withRcbs l (berT 0 regT)) := by
  have h : ((region (berT 0 imgT) (berQ 0).rcb).map fun g => imageOk (berT 0 imgT) (bGet (ctxT 0) 8).toNat g) = some true := by decide +kernel
  obtain ⟨g, hg, hi⟩ := Option.map_eq_some_iff.mp h
  exact ⟨⟨g, hg, hi⟩, placed_of (by decide +kernel), startCopy_full (by decide +kernel) (by decide)⟩

theorem witness_BeretInstructions : InBeret (berT 1 regT) (berQ 1) (ctxT 1) ∧
    ((56 : BitVec 15).toNat + 8 ≤ 64 * pLen (berQ 1).pkt ∧ 64 * pLen (berQ 1).pkt < (57 : BitVec 15).toNat + 8) ∧
    (manifestSignal (berQ 1) (0 : BitVec 15).toNat = some 0x380000 ∧ sigOk 0x380000 = true ∧ isPoisoned (berT 1 regT) 0x380000 64 = false) ∧
    (let sigs := maskSignals (fun j => (manifestSignal (berQ 1) j).getD 0) 1
     (∀ b ∈ (berT 1 regT).choices, b = false) ∧ evalSignals (berT 1 regT) sigs = 1 ∧ evalSignals (berT 1 (withMem 0x380000 8 (2 ^ 64 - 1) regT)) sigs = 2 ∧
      evalSignals (berT 1 (withMem 0x380000 8 3 regT)) sigs = 0) ∧
    (bGet (ctxT 1) 1 = bGet (ctxT 1) 2 ∧ bGet (ctxT 1) 1 ≠ bGet (ctxT 1) 8 ∧ (bGet (ctxT 1) 1).toInt < (bGet (ctxT 1) 8).toInt ∧
      (ctxT 1).loops = []) ∧
    (let y := getQ (berT 1 regT) 5
     (berQ 1).manifest[(bGet (ctxT 1) 1).toNat]? = some (2 ^ 63 + 5) ∧ manifestKind (2 ^ 63 + 5) = 2 ∧ y.st ≠ .disabled ∧
      ringRoom y (pLen (berQ 1).pkt) = true) ∧
    ((bGet (ctxT 1) 0).toNat % 256 = 0 ∧ (bGet (ctxT 1) 1).toNat % 256 ≠ 0) ∧
    (let s := setQ { berQ 1 with ctx := some { ctxT 1 with steps := 512 } } regT
     (getQ s 0).st = .process ∧ (getQ s 0).ctx = some { ctxT 1 with steps := 512 } ∧ 512 ≤ ({ ctxT 1 with steps := 512 } : Beret).steps) := by
  refine ⟨inBeret_berT 1, by decide +kernel, by decide +kernel, by decide +kernel, by decide +kernel, by decide +kernel, by decide +kernel, ?_⟩
  exact ⟨by decide +kernel, rfl, by decide⟩

/-- Two manifest signals, and a choice that leaves the evaluation after the first. -/
def twoQ : Queue := { berQ 3 with manifest := [0x380000, 0x390000] }
def twoT : State := { setQ twoQ (berT 3 regT) with choices := [true] }

theorem witness_BeretWaitPause : InBeret twoT twoQ (ctxT 3) ∧
    (∀ j, j < 16 → bitAt 3 j = true →
      ∃ p, manifestSignal twoQ j = some p ∧ p ≠ 0 ∧ sigOk p = true ∧ isPoisoned twoT p 64 = false) ∧
    (bGet (ctxT 3) 1).toNat % 65536 = 3 ∧ maskSignals (fun j => (manifestSignal twoQ j).getD 0) 3 = [0x380000, 0x390000] ∧
    0 ≤ sigValue twoT 0x380000 ∧ twoT.choices = [true] := by
  refine ⟨⟨rfl, rfl, rfl, rfl, rfl, by show (0 : Nat) < 512; decide⟩, fun j hj hb => ?_, by decide +kernel, by decide +kernel, by decide +kernel, rfl⟩
  have h : ∀ i : Fin 16, bitAt 3 i = true → manifestSignal twoQ i = some (if i.val = 0 then 0x380000 else 0x390000) := by decide +kernel
  refine ⟨_, h ⟨j, hj⟩ hb, ?_⟩
  split <;> decide +kernel
/-- A queue with a ring of four slots at 0x3E0000. -/
def ringQ (q : Nat) (st : QState) : Queue := { q := q, st := st, ringbase := 0x3E0000, lsize := 2, rcb := 0x100000 }
def withQ (x : Queue) (s : State) : State := setQ x s

/-- A sound descriptor of queue 6, with `tail` packets written; a program of one DONEB at 0x3F0000. -/
def windowT (tail : Nat) : State :=
  withMem 0x180 8 (0x3E0000 + 2) (withMem 0x188 8 (tail * 2 ^ 32) (withMem 0x190 8 (0x100000 + 4) (withMem 0x198 8 3 (withMem 0x1B8 8 77
    (withMem 0x3F0000 8 (0x42524554 + 2 ^ 32 + 2 ^ 56) (withMem 0x3F0040 4 0xB8000000 runT))))))

theorem witness_LaunchWindowPackets :
    (let s := withQ (ringQ 5 .idle) runT
     (packetT 6 0 0).length = 64 ∧ pLen (packetT 6 0 0) = 1 ∧ (getQ s 5).st ≠ .disabled ∧ ringRoom (getQ s 5) 1 = true ∧ (getQ s 5).lsize ≤ 20 ∧
      descAddr s 5 + 64 ≤ slotPa (getQ s 5) (getQ s 5).tail) ∧
    ([] : List Byte).length ≠ 64 ∧ (getQ runT 5).st = .disabled ∧ ((natBytes 64 (2 ^ 17)).length = 64 ∧ pLen (natBytes 64 (2 ^ 17)) ≠ 1) ∧
    ringRoom { ringQ 5 .idle with tail := 4 } 1 = false ∧
    (let x := ringQ 5 .idle
     let at32 := fun arg : Word => (arg.extractLsb' 0 32 : BitVec 32)
     (at32 4 - x.head).toNat ≤ 2 ^ x.lsize ∧ (at32 4 - x.tail).toNat ≤ 2 ^ x.lsize ∧ 2 ^ x.lsize < (at32 5 - x.head).toNat) := by
  decide +kernel

theorem witness_LaunchWindow :
    (∀ tail ∈ [0, 3], let s := windowT tail
     let w := fun k => memRead s.mem (descAddr s 6 + 8 * k) 8
     (getQ s 6).st = .disabled ∧ inHbm (descAddr s 6) 64 = true ∧ isPoisoned s (descAddr s 6) 64 = false ∧ 0x3E0000 % 64 = 0 ∧ inHbm 0x3E0000 (64 * 2 ^ 2) = true ∧ w 0 = 0x3E0000 + 2 ∧
      w 1 = 0 + tail * 2 ^ 32 ∧ 0x100000 % 256 = 0 ∧ inHbm 0x100000 256 = true ∧ w 2 = 0x100000 + 4 ∧ w 3 = 3 ∧ w 4 = 0 ∧ w 5 = 0 ∧ w 6 = 0 ∧
      w 7 = 77) ∧
    20 < memRead (withMem 0x180 8 21 runT).mem (descAddr runT 6) 8 % 32 ∧
    ((ringQ 5 .process).st = .process ∧ (ringQ 5 .held).st = .held ∧ (∀ d m, (ringQ 5 .held).hold ≠ some (.waitb d m)) ∧
      (ringQ 5 .integrity).st = .integrity ∧
      (getQ (withQ { ringQ 5 .held with hold := some (.waitb 3 1) } runT) 5).hold = some (.waitb 3 1)) ∧
    (loadProg (windowT 0) (bits (0x40000000003FFFC0 : Word).toNat 6 46 * 64) = none ∧
      progPoison (windowT 0) (bits (0x40000000003F0000 : Word).toNat 6 46 * 64) = none ∧
      loadProg (windowT 0) (bits (0x40000000003F0000 : Word).toNat 6 46 * 64) = some (0x3F0000, [0xB8000000], [])) := by
  refine ⟨by decide +kernel, by decide +kernel, ⟨rfl, rfl, fun d m h => (by cases h), rfl, rfl⟩, by decide +kernel⟩

/-- Queue 0 with a packet in PROCESS. -/
def inHand (p : List Byte) : Queue := { ringQ 0 .process with pkt := p, tail := 1 }

def launchP (rcb : Nat) : List Byte := packetT 1 0 (rcb * 2 ^ 128 + 0x200002 * 2 ^ 192 + 2 * 2 ^ 416)
def launchQ (rcb : Nat) : LaunchReq := { code := 0x200002, n := 2, rcb := rcb }

theorem witness_PacketsPlaced :
    (let s := withQ (inHand (launchP 0)) regT
     stockHas s 0 1 = true ∧ (getQ s 0).blocked = false ∧ isPoisoned s (packetRcb (getQ s 0)) 256 = false ∧
      ∃ b s1, placeLaunch (launchReq (launchP 0) (packetRcb (getQ s 0))) s = (.placed b, s1)) ∧
    ((placeLaunch (launchQ 0x100100) regT).1 = .fail 1) := by
  refine ⟨⟨by decide +kernel, by decide +kernel, by decide +kernel, placed_of (by decide +kernel)⟩, by decide +kernel⟩

/-- A ready queue of one entry whose block is in use; one that lies outside HBM. -/
theorem witness_PacketsNotPlaced :
    (placeLaunch (launchQ 0x100000) (withMem 0x110090 1 4 (withMem 0x100000 256 (rcbT - 4 * 2 ^ 320) runT))).1 = .wait ∧
    (placeLaunch (launchQ 0x100000) (withMem 0x100000 256 (rcbT + 2 ^ 51 * 2 ^ 320) runT)).1 = .fault (2 ^ 51 + 0x110000) := by
  decide +kernel

theorem witness_PacketsImage :
    (let p := packetT 2 0 (0x10000 * 2 ^ 192)
     let s := withQ (inHand p) imgT
     stockHas s 0 2 = true ∧ (getQ s 0).blocked = false ∧ isPoisoned s (packetRcb (getQ s 0)) 256 = false ∧
      isPoisoned s (field p 32 8) 0x2000 = false ∧ ∃ b s1, placeLaunch (imageReq p (packetRcb (getQ s 0))) s = (.placed b, s1)) ∧
    ∃ g, region (withQ (inHand (packetT 2 0 (0x10000 * 2 ^ 192))) imgT) 0x100000 = some g ∧
      imageOk (withQ (inHand (packetT 2 0 (0x10000 * 2 ^ 192))) imgT) (field (packetT 2 0 (0x10000 * 2 ^ 192)) 32 8) g = true := by
  have h : ((region (withQ (inHand (packetT 2 0 (0x10000 * 2 ^ 192))) imgT) 0x100000).map fun g =>
    imageOk (withQ (inHand (packetT 2 0 (0x10000 * 2 ^ 192))) imgT) (field (packetT 2 0 (0x10000 * 2 ^ 192)) 32 8) g) = some true := by decide +kernel
  obtain ⟨g, hg, hi⟩ := Option.map_eq_some_iff.mp h
  exact ⟨⟨by decide +kernel, by decide +kernel, by decide +kernel, by decide +kernel, placed_of (by decide +kernel)⟩, g, hg, hi⟩

theorem witness_PacketsFrame :
    (let s := withQ { inHand (packetT 7 0 0) with ing := true, pword := 5 } runT
     stockHas s 0 7 = true ∧ (getQ s 0).blocked = false ∧ (getQ s 0).ing = true ∧ (getQ s 0).pword.toNat % 2 ^ 16 ≠ 0) ∧
    (let s := withQ { inHand (packetT 7 0 0) with pword := 0x340000 } (withMem 0x340000 64 (bytesNat (launchP 0)) regT)
     let a := bits (getQ s 0).pword.toNat 6 46 * 64
     let y := s.rdBytes a 64
     stockHas s 0 7 = true ∧ (getQ s 0).ing = false ∧ inHbm a 64 = true ∧ pType y = 1 ∧ pLen y = 1 ∧ packetBad y false = false ∧
      isPoisoned s a 64 = false ∧ field y 24 8 = 0 ∧ isPoisoned s (getQ s 0).rcb 256 = false ∧
      ∃ b s1, placeLaunch { launchReq y (getQ s 0).rcb with n := 1, arg := field (getQ s 0).pkt 32 8 } s = (.placed b, s1)) := by
  refine ⟨by decide +kernel, ⟨by decide +kernel, by decide +kernel, by decide +kernel, by decide +kernel, by decide +kernel, by decide +kernel,
    by decide +kernel, by decide +kernel, by decide +kernel, placed_of (by decide +kernel)⟩⟩

theorem witness_PacketsCopyAndResume :
    (let p := packetT 5 0 (0x350000 * 2 ^ 192)
     let s := withQ (inHand p) regT
     stockHas s 0 5 = true ∧ isPoisoned s (packetRcb (getQ s 0)) 256 = false ∧
      (∃ job s1, startCopy (field p 32 8) (field p 40 1) (field p 16 8) (packetRcb (getQ s 0)) s = (.placed job, s1)) ∧
      (∃ s1, startCopy (field p 32 8) (field p 40 1) (field p 16 8) 0x100100 s = (.fail 1, s1)) ∧
      ∃ l, startCopy (field p 32 8) (field p 40 1) (field p 16 8) (packetRcb (getQ s 0)) (withRcbs l s) = (.wait, withRcbs l s)) ∧
    (let x := { inHand (launchP 0) with blocked := true }
     let s := withQ x regT
     (getQ s 0).st = .process ∧ (getQ s 0).blocked = true ∧ (getQ s 0).ctx = none ∧ pType (getQ s 0).pkt = 1 ∧
      isPoisoned s (packetRcb x) 256 = false ∧
      ∃ b s1, placeLaunch (launchReq x.pkt (packetRcb x)) (setQ { getQ s 0 with blocked := false } s) = (.placed b, s1)) ∧
    (let s := withQ { inHand (packetT 6 0 0) with blocked := true, ctx := some { b := Vector.replicate 16 0 } } runT
     (getQ s 0).st = .process ∧ (getQ s 0).blocked = true ∧ (getQ s 0).ctx.isSome = true) := by
  refine ⟨⟨by decide +kernel, by decide +kernel, placed_of (by decide +kernel), ok_state (by decide +kernel), startCopy_full (by decide +kernel) (by decide)⟩, ⟨by decide +kernel, by decide +kernel,
    by decide +kernel, by decide +kernel, by decide +kernel, placed_of (by decide +kernel)⟩, by decide +kernel⟩

/-- A BARRIER on the signal at 0x380000, which holds `n`, in state `st`. -/
def barrierT (st : QState) (n : Nat) : State :=
  withQ { ringQ 0 st with pkt := packetT 3 0 (0x380000 * 2 ^ 64), hold := if st = .held then some .barrier else none } (withMem 0x380000 8 n runT)

theorem witness_PacketsStock :
    stockHas (withQ (inHand (packetT 6 0 0)) runT) 0 6 = true ∧
    (let p := packetT 4 0 (0x380000 * 2 ^ 64 + 7 * 2 ^ 128)
     let s := withQ (inHand p) runT
     stockHas s 0 4 = true ∧ isPoisoned s (field p 16 8) 64 = false ∧ descAddr s 0 + 64 ≤ field p 16 8) ∧
    (∀ n ∈ [0, 3, 2 ^ 64 - 1], let s := barrierT .process n
     stockHas s 0 3 = true ∧ (∀ a ∈ packetSignal (getQ s 0).pkt :: barrierSignals (getQ s 0).pkt, a ≠ 0 → isPoisoned s a 64 = false)) ∧
    evalSignals (barrierT .process 0) [0x380000] = 1 ∧ evalSignals (barrierT .process (2 ^ 64 - 1)) [0x380000] = 2 ∧
    evalSignals (barrierT .process 3) [0x380000] = 0 ∧
    (let s := barrierT .held 0
     s.fe.queues = [getQ s 0] ∧ (getQ s 0).st = .held ∧ (getQ s 0).hold = some .barrier ∧ 0x380000 ∈ barrierSignals (getQ s 0).pkt ∧
      barrierSignals (getQ s 0).pkt = [0x380000]) ∧
    (let s := onSeq (fun q => { q with polls := true, stall := true }) runT
     s.others = [] ∧ s.core.seq.polls = true) ∧
    ((1 : Nat) < 64 ∧ 1 / 16 = (ringQ 0 .idle).interp / 16 ∧ runT.fe.itpBusy.contains 1 = false ∧ 16 / 16 ≠ (ringQ 0 .idle).interp / 16) := by
  decide +kernel

/-- A BARRIER on two signals, the first holding `n`, in state `st`, its evaluation as far as `pass` says; `c` is the next choices. -/
def barrier2T (st : QState) (n : Nat) (pass : Option (List Nat × Bool)) (c : List Bool) : State :=
  { withQ { ringQ 0 st with pkt := packetT 3 0 (0x380000 * 2 ^ 64 + 0x390000 * 2 ^ 128), pass := pass,
                            hold := if st = .held then some .barrier else none } (withMem 0x380000 8 n runT) with choices := c }

theorem witness_PacketsBarrier :
    (∀ n ∈ [0, 3], let s := barrier2T .process n none [true]
     stockHas s 0 3 = true ∧ (∀ a ∈ packetSignal (getQ s 0).pkt :: barrierSignals (getQ s 0).pkt, a ≠ 0 → isPoisoned s a 64 = false) ∧
      barrierSignals (getQ s 0).pkt = [0x380000, 0x390000] ∧ 0 ≤ sigValue s 0x380000 ∧ s.choices = [true] ∧ (getQ s 0).disabling = false) ∧
    (∀ pass ∈ [none, some ([0x380000, 0x390000], false)], ∀ c ∈ [[], [true]], let s := barrier2T .held 0 pass c
     let x := getQ s 0
     x.st = .held ∧ x.hold = some .barrier ∧ x.pass.getD (barrierSignals x.pkt, true) = ([0x380000, 0x390000], decide (pass = none)) ∧
      (∀ a ∈ packetSignal x.pkt :: [0x380000, 0x390000], a ≠ 0 → isPoisoned s a 64 = false) ∧ (c = [] → ∀ b ∈ s.choices, b = false) ∧
      0 ≤ sigValue s 0x380000 ∧ (c = [true] → s.choices = [true]) ∧ evalSignals s [0x380000, 0x390000] = 1) ∧
    (let s := barrierT .held 0
     (getQ s 0).pass = none ∧ (∀ b ∈ s.choices, b = false) ∧ ∀ a ∈ packetSignal (getQ s 0).pkt :: barrierSignals (getQ s 0).pkt, a ≠ 0 → isPoisoned s a 64 = false) := by
  decide +kernel

/-- A packet of a type with its check, at the head of queue 0's ring. -/
def checkedP (type : Nat) : List Byte := natBytes 64 (type + 2 ^ 16 + packetCheck (packetT type 0 0) * 2 ^ 64)
def fetchT (type tries : Nat) : State :=
  withQ { ringQ 0 .fetch with tail := 1, tries := tries } (withMem 0x3E0000 64 (bytesNat (checkedP type)) runT)

theorem witness_PacketsFetched :
    (∀ type ∈ [0, 6], ∀ tries ∈ [0, 1], let s := fetchT type tries
     let x := getQ s 0
     canFetch s 0 = true ∧ x.st = .fetch ∧ x.disabling = false ∧ x.pkt = [] ∧ x.skipping = false ∧
      (tries = 0 → arbiterPick s (x.interp / 16) = some 0) ∧ readPacket x s = some (checkedP type) ∧
      packetBad (checkedP type) (s.frameSlots.contains (slotPa x x.head)) = (decide (type = 0)) ∧
      ∀ k < pLen (checkedP type), isPoisoned s (slotPa x (x.head + BitVec.ofNat 32 k)) 64 = false) ∧
    (∀ tries ∈ [0, 1, 4], let s := withQ { ringQ 0 .fetch with tail := 1, tries := tries } runT
     canFetch s 0 = true ∧ (getQ s 0).st = .fetch ∧ (getQ s 0).disabling = false ∧ readPacket (getQ s 0) s = none ∧
      (tries = 0 → arbiterPick s ((getQ s 0).interp / 16) = some 0)) ∧
    (let s := withQ { getQ (fetchT 6 0) 0 with skipping := true } (fetchT 6 0)
     canFetch s 0 = true ∧ (getQ s 0).skipping = true ∧ pResume (checkedP 6) = false ∧ readPacket (getQ s 0) s = some (checkedP 6)) ∧
    (let s := withQ { ringQ 1 .fetch with tail := 1, qprio := 3 } (fetchT 6 0)
     canFetch s 0 = true ∧ (getQ s 0).st = .fetch ∧ (getQ s 0).disabling = false ∧ (getQ s 0).tries = 0 ∧
      arbiterPick s ((getQ s 0).interp / 16) ≠ some 0) := by
  decide +kernel

/-- Core 0 is idle and the launch waits. -/
def idleT : State := onSeq (fun _ => {}) launchT

def arbOk (s : State) (p : RcbHandle × Region × ItemLoc × Nat) : Bool :=
  !s.cfg.dead.getLsbD p.2.1.domain && decide (amountOf s p.2.1.budgetRcb .core = 2 ^ 48 - 1) && !recSaved p.2.2.2 && recGang p.2.2.2 &&
    decide (recJoin p.2.2.2 < 0) && !blkResident s (recLink p.2.2.2) && !recImg p.2.2.2 &&
    decide (blkNext s (recLink p.2.2.2) + 1 < blkN s (recLink p.2.2.2)) && (itemPoison s p.2.1 p.2.2.1 p.2.2.2).isNone

theorem witness_TaskArbitration : idleT.core.id = 0 ∧ idleT.core.seq.mode = .idle ∧ clusterUp idleT 0 = true ∧
    ∃ p, pickCandidate 0 (candidates idleT idleT.core) = some p ∧ arbOk idleT p = true := by
  have h : ((pickCandidate 0 (candidates idleT idleT.core)).map (arbOk idleT)) = some true := by decide +kernel
  obtain ⟨p, hp, ho⟩ := Option.map_eq_some_iff.mp h
  exact ⟨by decide +kernel, by decide +kernel, by decide +kernel, p, hp, ho⟩

/-- Sixteen tasks run in cluster 0; that of core 3 has priority 1 and has committed. -/
def fullT : State :=
  { launchT with others := (List.range 15).map fun i => { id := i + 1, seq := { seqT with eff := { effT with prio := if i = 2 then 1 else 3 }, cmt := decide (i = 2) } } }

theorem witness_TaskPreemption : preemptTarget fullT 0 = some 3 ∧ (getCore fullT 3).seq.mode = .running ∧ (getCore fullT 3).seq.cmt = true := by
  decide +kernel

/-- A context in the shadow slot whose frame area has one free slot. -/
def shadowT : Shadow := ⟨{ seqT with eff := { effT with frames := 0x400000 } }, {}, {}, [], [], []⟩
def spillT : State := { onSeq (fun _ => {}) (frameT false) with core := { id := 0, shadow := some shadowT }, mem := memWrite (frameT false).mem 0x400040 1 0 }

theorem witness_TaskSaving :
    (let s := onSeq (fun q => { q with preempt := true, cmt := true, atPoint := true }) runT
     saveReady s = true ∧ s.core.shadow = none) ∧
    spillT.core.seq.mode = .idle ∧ spillT.core.shadow = some shadowT ∧ freeSlot spillT shadowT.seq.eff = some 0 := by
  decide +kernel

theorem witness_TaskEvents :
    (let h : Shoot := ⟨0, 0, 5, 0, [.core 1], [.core 1, .dispatcher 0]⟩
     .core 1 ∈ h.unacked ∧ .core 1 ∈ h.pending ∧ .dispatcher 0 ∈ h.unacked ∧ ShootTarget.dispatcher 0 ∉ h.pending) ∧
    (let h : Shoot := ⟨0, 0, 5, 0, [], [.core 0]⟩
     let r : ReturnSlot := { d := 3, ty := .z64, num := 1, pinned := true }
     .core 0 ∈ h.unacked ∧ ShootTarget.core 0 ∉ h.pending ∧ ackWaits (.core 0) runT = false ∧ ackWaits (.dispatcher 0) runT = false ∧
      ackWaits (.core 0) (onSeq (fun q => { q with returns := [r] }) runT) = true ∧
      ackWaits (.core 0) (onSeq (fun q => { q with flight := some { pa := 0 } }) runT) = true) ∧
    (idleT.fe.nextTid % 2 ^ 31 ≠ 0 ∧ idleT.fe.nextTid % 2 ^ 31 ∉ usedTids idleT ∧ (usedTids idleT).length + 2 ≤ 2 ^ 31) ∧
    (let s := onSeq (fun q => { q with refetch := some 0x01FFFFFFFFF00042, stall := true }) runT
     s.core.seq.refetch = some 0x01FFFFFFFFF00042 ∧
      (∃ s1, fetchLine (lineBase 0x01FFFFFFFFF00042) true s = (.line (memRead memT (padBase + 0x40) 64), s1)) ∧
      lineIntact (memRead memT (padBase + 0x40) 64) = true ∧
      (let u := withMem (padBase + 0x40) 1 1 s
       (∃ s1, fetchLine (lineBase 0x01FFFFFFFFF00042) true u = (.line (memRead u.mem (padBase + 0x40) 64), s1)) ∧
        lineIntact (memRead u.mem (padBase + 0x40) 64) = false ∧ u.core.seq.eff.domain < 256)) := by
  refine ⟨by decide +kernel, by decide +kernel, by decide +kernel, by decide +kernel, ok_state (by decide +kernel), by decide +kernel, ok_state (by decide +kernel), by decide +kernel, by decide +kernel⟩

/-- Node 9 is a host with every right over the first 4 KiB of HBM, the first 128 KiB of configuration space and the first launch windows. -/
def hostT : State :=
  let e := fun (base : Nat) (size : Nat) => BitVec.ofNat 128 (9 + 7 * 2 ^ 32 + size * 2 ^ 40 + base / 4096 * 2 ^ 76)
  { runT with cfg := { runT.cfg with
      infilt := (((Vector.replicate 32 0).set 0 (e 0 0)).set 1 (e cfgBase 5)).set 2 (e winBase 0)
      aperture := (Vector.replicate 64 0).set 0 (BitVec.ofNat 128 (3 * 2 ^ 62 + 9 * 2 ^ 64)) } }

theorem witness_OutsideAccesses :
    (granted hostT 8 0 0x40 8 = false ∧ granted hostT 9 0 0x40 8 = true ∧ targetOf hostT 9 0x40 8 = .memory) ∧
    (granted hostT 9 0 (cfgBase + 0x10000) 8 = true ∧ targetOf hostT 9 (cfgBase + 0x10000) 8 = .configAt 0x10000) ∧
    (granted hostT 8 1 0x40 64 = false ∧ granted hostT 9 1 0xFC0 64 = true ∧ targetOf hostT 9 0xFC0 64 = .memory) ∧
    (granted hostT 9 1 (winBase + 64) 64 = true ∧ targetOf hostT 9 (winBase + 64) 64 = .windowAt 1 0 ∧
      ∃ u, exec (.inlinePacket 1 (packetT 6 0 0)) hostT = .next u) ∧
    (granted hostT 9 1 (cfgBase + 0x10000) 8 = true ∧ ∃ u, exec (.configWrite 0x10000 5) hostT = .next u) ∧
    (granted hostT 9 2 0x40 8 = true ∧ granted hostT 9 2 0xFC0 64 = true ∧ targetOf hostT 9 0xFC0 64 = .memory) ∧
    (granted hostT 8 2 0x40 8 = false ∧ granted hostT 8 2 0x40 64 = false) ∧
    (replyOpen hostT = false ∧ replyOpen { hostT with ports := hostT.ports.set 0 { st := 2 } } = true) :=
  ⟨by decide +kernel, by decide +kernel, by decide +kernel, ⟨by decide +kernel, by decide +kernel, _, rfl⟩, ⟨by decide +kernel, _, rfl⟩,
    by decide +kernel, by decide +kernel, by decide +kernel⟩

/-- A port with one buffer of 2 KiB at 0x420000 and queue 5 behind it. -/
def portT : State := withQ (ringQ 5 .idle) { runT with eth := runT.eth.set 0 { pool := 0x420000, queue := 5 } }

theorem witness_FrameIngress :
    (let bs := natBytes 60 1
     let x := getEth portT 0
     let y := getQ portT x.queue.toNat
     bs.length ≤ x.mtu.toNat ∧ bs.length ≤ 9216 ∧ (x.frames - x.released).toNat < x.bufCount ∧ bs.length ≤ x.bufSize ∧ y.st ≠ .disabled ∧
      ringRoom y 1 = true ∧ inHbm x.buffer x.bufSize = true ∧ slotPa y y.tail + 64 ≤ x.buffer ∧ descAddr portT 5 + 64 ≤ x.buffer) ∧
    ¬((natBytes 1519 1).length ≤ (getEth portT 0).mtu.toNat) ∧ (getQ (withQ (ringQ 5 .disabled) portT) 5).st = .disabled := by
  decide +kernel

/-- Two errors short of the third, then its spare, whatever row and bank the address has. -/
def rowsT (rows : List (Nat × Nat)) : State := { runT with ras := { runT.ras with rows := rows } }

theorem chooseSpare_fresh (rows : List (Nat × Nat)) (row : Nat) : chooseSpare (rowsT rows) row = some 0 := by
  unfold chooseSpare spareCount
  split <;> rfl

/-- A log ring of 64 records, and a count that its next error completes. -/
def logT (un : ErrUnit) : State :=
  { runT with cfg := { runT.cfg with logbase := 0x430006 }, ras := { runT.ras with corrected := [(un.code, 1, 4095)] } }

theorem witness_Reliability :
    (bumpCount ErrUnit.dram.code 1 runT.ras.corrected = ([(ErrUnit.dram.code, 1, 1)], 1) ∧ 1 % 2 ^ 12 ≠ 0) ∧
    (((((rowsT [(Config.rowOf 0x40, 3)]).ras.rows.find? fun p => decide (p.1 = Config.rowOf 0x40)).map Prod.snd).getD 0) + 1 = 4 ∧
      chooseSpare (rowsT [(Config.rowOf 0x40, 3)]) (Config.rowOf 0x40) = some 0 ∧
      ∀ y ∈ (rowsT [(Config.rowOf 0x40, 3)]).ras.jobs, y.row ≠ Config.rowOf 0x40) ∧
    (let un := ErrUnit.copy
     let s := logT un
     un ≠ .dram ∧ bumpCount un.code 1 s.ras.corrected = ([(un.code, 1, 4096)], 4096) ∧ 4096 % 2 ^ 12 = 0 ∧ s.choices = [] ∧ logOn s = true ∧
      (s.cfg.logwr - s.cfg.logrel).toNat < 2 ^ logK s) ∧
    (inDevice 0x40 1 = true ∧ (getCore runT 0).seq.mode = .running ∧ (getCore runT 0).seq.eff.domain < 256 ∧ (getCore runT 1).seq.mode = .idle) ∧
    (let s := { runT with ras := { runT.ras with jobs := [⟨7, 2⟩] } }
     (s.ras.jobs.find? fun y => decide (y.row = 7)) = some ⟨7, 2⟩) ∧
    (inDevice (0x40 : Word).toNat 1 = true ∧ (∀ y ∈ (rowsT []).ras.jobs, y.row ≠ Config.rowOf (0x40 : Word).toNat) ∧
      chooseSpare (rowsT []) (Config.rowOf (0x40 : Word).toNat) = some 0) ∧
    (let s := { runT with glinks := runT.glinks.set 3 { retraining := true, failed := true } }
     s.glinks[(3 : Fin 16)].retraining = true ∧ s.glinks[(3 : Fin 16)].failed = true) := by
  refine ⟨by decide +kernel, ⟨?_, chooseSpare_fresh _ _, fun y hy => absurd hy (List.not_mem_nil)⟩, by decide +kernel, by decide +kernel, rfl,
    ⟨by decide +kernel, fun y hy => absurd hy (List.not_mem_nil), chooseSpare_fresh _ _⟩, by decide +kernel⟩
  simp [rowsT]

/-- A partition: the RCB of the tests with its partition bit. -/
def partT : State := withMem 0x100000 256 (rcbT + 16) (onSeq (fun _ => {}) runT)

theorem witness_PartitionSwap : partT.cfg.swap ≠ 1 ∧ bits (0x100000 : Word).toNat 8 44 * 256 = 0x100000 ∧
    (∃ r, region partT 0x100000 = some r ∧ r.part = 0x100000) ∧ (∀ x ∈ allCores partT, x.seq.eff.part ≠ 0x100000) ∧
    region partT 0x200000 = none := by
  have h : ((region partT 0x100000).map fun r => decide (r.part = 0x100000)) = some true := by decide +kernel
  obtain ⟨r, hr, hp⟩ := Option.map_eq_some_iff.mp h
  exact ⟨by decide, by decide +kernel, ⟨r, hr, of_decide_eq_true hp⟩, by decide +kernel, by decide +kernel⟩

theorem witness_DeviceControl :
    (runT.cfg.fwcmd ≠ 1 ∧ (0x105 : Word).getLsbD 8 = true) ∧
    (let s := withQ (ringQ 5 .idle) { runT with cfg := { runT.cfg with fwcmd := 1, fwItp := 5 } }
     s.cfg.fwcmd = 1 ∧ s.cfg.fwItp = 5 ∧ ∀ x ∈ s.fe.queues, x.st = .disabled ∨ x.interp ≠ 5) ∧
    runT.att.req = none ∧ { runT.att with req := some (0x440000, 5) }.req = some (0x440000, 5) ∧
    (let s := { onSeq (fun _ => {}) runT with cfg := { runT.cfg with clgate := 1 } }
     clusterUp s 0 = true ∧ clusterActive s 0 = false ∧ s.cfg.clgate.getLsbD 0 = true ∧ liveRegions s = []) ∧
    (let s := { runT with power := (runT.power.set 0 .gated).set 1 .waking }
     s.power[0] = .gated ∧ s.cfg.clgate.getLsbD 0 = false ∧ s.power[1] = .waking) ∧
    ((8 : Nat) < runT.clock ∧ runT.clock ≤ 16) ∧ State.reset.boot = .reset ∧
    ({ runT with boot := .fail 3 }.boot = .fail 3 ∧ (focus (onSeq (fun q => { q with mode := .halted }) runT) 0).core.seq.mode = .halted) := by
  decide +kernel

/-- The memories of the states of this part have the canonical form, which the statements about what is written assume. -/
theorem witness_canonical_memories : MemWf runT.mem ∧ MemWf bagT.mem ∧ MemWf groupT.mem ∧ MemWf regT.mem ∧ MemWf imgT.mem ∧ MemWf idleT.mem ∧
    (∀ i, (nearS i).mem = bagT.mem) ∧ (∀ o, (fabS o).mem = groupT.mem) ∧ (∀ v, (berT v regT).mem = regT.mem) ∧
    (∀ x, (withQ x runT).mem = runT.mem) ∧ hostT.mem = runT.mem ∧ portT.mem = runT.mem := by
  refine ⟨by decide +kernel, by decide +kernel, by decide +kernel, by decide +kernel, by decide +kernel, by decide +kernel, fun _ => rfl, fun _ => rfl,
    fun _ => rfl, fun _ => rfl, rfl, rfl⟩
/-! ## The encodings that the manual works out -/

/-- The words that 03 and 10 work out. -/
theorem test_worked_control :
    [(0x5020, 0x7400), (0x90C0, 0x7C000001), (0x1090, 0), (0xD800, 0x0240C5011008), (0xC885, 0x800012345678), (0xC012, 0x3A4000FFFFE2),
      (0xCC20, 0x298EE0010000), (0x8C02, 0x193FFFF8), (0x5030, 0x4400), (0x5050, 0xFFF0), (0x90C0, 0x7B000000), (0x1080, 0)].map
        (fun w : Nat × Nat => decodeHT w.1 w.2) =
    [.ok (.rel 14 .sys), .ok (.sigdec 15 .sys 1), .ok .endTask, .ok (.vfadd .rne (.v 2) ⟨.o, 0, .w 1⟩ ⟨.o, 0, .e 1⟩ 0 0 .f32),
      .ok (.li 21 0x12345678), .ok (.brCc .lt 7 9 0xFFFFE2), .ok (.amo .add 5 6 7 .pkg true 8), .ok (.ld .s32 3 4 (-8)), .ok (.xfence .m .v),
      .ok (.waitc 15 15 15 0), .ok (.sigwait 15 .pkg), .ok .commit] := by rfl

/-- The words that 13 and 14 work out. -/
theorem test_worked_vector :
    [(0xD830, 0x028001010008), (0xDC10, 0x03020000A008), (0xD4B0, 0x0506001C0301), (0xD940, 0x0A0B00313002), (0xDCB0, 0x040500000486),
      (0xE010, 0x030100040008), (0xE430, 0x0300C000034A), (0x60B0, 0x0350), (0xE400, 0x012800000008), (0xE0E8, 0x060700005008),
      (0xE830, 0x040400003002), (0xA0A0, 0x02058000)].map (fun w : Nat × Nat => decodeHT w.1 w.2) =
    [.ok (.vfma .rne (.v 2) ⟨.l, 0, .none⟩ ⟨.o, 0, .e 0⟩ 0 0 .f32), .ok (.vnarrow .rne (.v 3) ⟨.v, 2, .none⟩ .bf16 0 0 .f32),
      .ok (.vadds (.v 5) ⟨.v, 6, .none⟩ ⟨.v, 7, .none⟩ 3 0 .s16), .ok (.vscacc (.v 10) ⟨.v, 11, .none⟩ ⟨.v, 12, .e 3⟩ 0 0 2),
      .ok (.vshlw (.v 4) ⟨.v, 5, .none⟩ 9 .z32), .ok (.vfcmp .eq 3 ⟨.v, 1, .none⟩ ⟨.v, 1, .none⟩ 0 0 .f32),
      .ok (.vst ⟨.v, 3, .none⟩ 6 0 3 2 .bf16), .ok (.setvl 0 13 .f32), .ok (.vld (.v 1) 5 0 0 0 .f32),
      .ok (.vfred .add (.v 6) ⟨.v, 7, .none⟩ (.seg 5) 0 0 .f32), .ok (.vxchg (.v 4) ⟨.v, 4, .none⟩ 3 0 0 .s32), .ok (.settle (.v 2) (.v 5) .nil)] := by
  rfl

/-- The words that 17, 18 and 19 work out; the base of MDRAIN stands at bits 41 to 37 as R51 and R281 lay it out (log entry 55). -/
theorem test_worked_engines :
    [(0x7400, 0x3380), (0xB410, 0x2002A400), (0xB413, 0x03002400), (0xF420, 0x05431C000008), (0xB430, 0x4A96C000), (0x7440, 0x4B40), (0x7450, 0x4800),
      (0x7460, 0x2000), (0x6C00, 0x00C0), (0xAC60, 0x11404000), (0xEC10, 0x194CA0000000), (0xEC10, 0x0212B5200000), (0xEC30, 0x114C75000000),
      (0xEC45, 0x080AB0000000), (0xEC20, 0x294C70350000), (0xEC50, 0x214C70000000), (0xEC80, 0x192000280000), (0xEC80, 0x1C0184200000),
      (0xF000, 0x000ADAC14000), (0xB010, 0x639F0000), (0xB020, 0x11521200), (0xB030, 0x1149D280), (0x7050, 0xA7E0)].map
        (fun w : Nat × Nat => decodeHT w.1 w.2) =
    [.ok (.cbind 3 7), .ok (.cgo 2 5 9), .ok (.cgoAutoMx 6 0 9), .ok (.cvld (.v 5) 4 6 7 0 .f32), .ok (.rinit 9 10 11 12), .ok (.await 9 13),
      .ok (.rels 9), .ok (.ccancel 2), .ok (.mzero 0 3), .ok (.mld 2 5 0x4000), .ok (.mma 3 5 6 .bf16 0 false false),
      .ok (.mma 0 8 9 .e4m3 10 false true), .ok (.mmas 2 5 6 7 .bf16), .ok (.mmac .sr 1 0 5 .e4m3), .ok (.mmaq 5 5 6 7 .s8 .q4 .g64),
      .ok (.mscale 4 5 6 7), .ok (.mdrain .rne 3 (.pad 9) .bf16), .ok (.mdrain .rne 3 (.vec (.v 12) 8) .f32),
      .ok (.pdrain 0 0 .simplex 11 13 12 (.v 20) .f32), .ok (.padj 12 14 15 16 .f32), .ok (.pstat 2 5 .l1ball 8 9), .ok (.pfix 2 5 .simplex 7 9 .bf16),
      .ok (.prst 20 63)] := by rfl

/-- The words that 21 and 23 work out. -/
theorem test_worked_far :
    [(0xB800, 0x2980C000), (0xF810, 0x382000000008), (0xF822, 0x09382000A008), (0x7830, 0x6000), (0x7830, 0x60F0), (0xF840, 0x298E06000000),
      (0xB860, 0x48000001), (0xB870, 0x62D40080), (0x3880, 0), (0x7890, 0xA540)].map (fun w : Nat × Nat => decodeHT w.1 w.2) =
    [.ok (.nlookup 5 6 3), .ok (.nadd .add 7 ⟨.v, 4, .none⟩ 0), .ok (.naddr .max (.v 9) 7 ⟨.v, 4, .none⟩ 5), .ok (.nfence .pkg),
      .ok (.nfenceTag .pkg 7), .ok (.fput 5 6 7 3), .ok (.fsig 9 1), .ok (.collAllreduce 12 11 10 0 .f32), .ok .ffence, .ok (.fstat 20 21)] := by rfl

/-- Words that are no instruction: class 0xF and an operation the map does not list, a tail of the wrong length, a variant without a
meaning and a nonzero reserved bit, and a type that VFADD does not admit (R34, R43). -/
theorem test_rejects :
    decodeHT 0x3C00 0 = .error .unassigned ∧ decodeHT 0x03F0 0 = .error .unassigned ∧ decodeHT 0x4000 0 = .error .tailLength ∧
    decodeHT 0x0001 0 = .error .field ∧ decodeHT 0x5020 0x7401 = .error .field ∧ decodeHT 0xD800 0x0240C5011000 = .error .notAdmitted := by
  refine ⟨rfl, rfl, rfl, rfl, rfl, rfl⟩

/-- The full line that 03 works out: 27 NOPs and an LI (R26 to R29). With its count raised to 29 it breaks the line checks. -/
theorem test_worked_line :
    lineIntact (memRead memT (padBase + 0x40) 64) = true ∧ lineFormOk (memRead memT (padBase + 0x40) 64) = true ∧
    decodeSlot (memRead memT (padBase + 0x40) 64) 28 = .ok (.li 21 0x12345678) ∧ decodeSlot (memRead memT (padBase + 0x40) 64) 1 = .ok .nop ∧
    lineFormOk (memRead memT (padBase + 0x40) 64 + 2 ^ 11) = false := by
  decide +kernel

/-- The branch that 10 works out: from 0x0100_0046 to slot 2 of the line before (R31). -/
theorem test_worked_target : targetOfField 0x01000046 0xFFFFE2 = 0x01000004 := by decide +kernel

/-- The conversions to E4M3 that 04 works out: 300, 464, 500, −0.001 and NaN. -/
theorem test_worked_conversions :
    [0x43960000, 0x43E80000, 0x43FA0000, 0xBA83126F, 0x7FC00000].map (fun x => cvtFF .e4m3 .rne 0 false (decodeF .f32 x)) =
    [(0x79, fNX), (0x7E, fNX), (0x7E, fSAT ||| fNX), (0x81, fUF ||| fNX), (0x7F, 0)] := by decide +kernel

/-- The window sums that 04 works out, and its stochastic rounding of 1 + 2^−24. -/
theorem test_worked_sums :
    windowSum ([0x4B800000, 0x3F800000, 0xCB800000].map (decodeF .f32)) = (0x3F800000, 0) ∧
    windowSum ([0x3F800000, 0x28200000].map (decodeF .f32)) = (0x3F800000, fNX) ∧
    roundMag .f32 .sr 0x80000000 false false ⟨2 ^ 24 + 1, -24, false⟩ = (0x3F800001, fNX) ∧
    roundMag .f32 .sr 0x7FFFFFFF false false ⟨2 ^ 24 + 1, -24, false⟩ = (0x3F800000, fNX) := by decide +kernel

/-- The divisions that 10 works out. -/
theorem test_worked_divisions : divS (-7) 2 = -3 ∧ remS (-7) 2 = -1 ∧ divU 0xFFFFFFFFFFFFFFF9 2 = 0x7FFFFFFFFFFFFFFC ∧ remU 0xFFFFFFFFFFFFFFF9 2 = 1 := by
  decide +kernel

end Sys2Proof.Tests
end

section
/-! The scope of the model: the cores beside the current one. -/

namespace Sys2Proof.Proofs

open Sys2Proof.Machine

/-- Settles O24: a core is looked up by its number, so it is the same core whether it stands as the current one or in the list of
the others (`getCore_focus`); the parts of the machine outside the cores are not written. -/
theorem focusKeepsEveryCore : Obligations.FocusKeepsEveryCore := by
  unfold Obligations.FocusKeepsEveryCore
  intro s c
  exact ⟨focus_id s c, getCore_focus s c, focus_mem s c, focus_fe s c, focus_copy s c, focus_near s c, focus_fab s c⟩

end Sys2Proof.Proofs
end

section
/-! What an instruction that completes, waits or writes memory leaves as it was: the shared part of the statements about dispatch. -/

namespace Sys2Proof.Proofs

open Sys2Proof.Machine Sys2Proof.Safety

/-! ### Completing and waiting -/

/-- Control stands at the same head, under the same loops. -/
def SameHead (s u : State) : Prop :=
  u.core.seq.pc = s.core.seq.pc ∧ u.core.seq.line = s.core.seq.line ∧ u.core.seq.loops = s.core.seq.loops

theorem SameHead.nextPc {s u : State} (h : SameHead s u) : Machine.nextPc u = Machine.nextPc s := by
  obtain ⟨hp, hn, _⟩ := h
  unfold Machine.nextPc curN
  rw [hp, hn]

theorem flowsOn_advance {s u : State} (h : SameHead s u) : FlowsOn s (advance u) := by
  intro hl
  rw [← h.nextPc]
  exact advance_pc u (h.2.2.trans hl)

/-- An instruction whose work takes `s` to `u`, at the same head, completes: sequential flow touches nothing that `CoreFrame` names. -/
theorem finishes_of_done {i : Instr} {s u : State} {ws : List SReg} {rs : List (Nat × Nat)} {post : State → Prop}
    (he : exec i s = done u) (hh : SameHead s u) (hr : RegsKept ws s u) (hm : MemKeptOff rs s u) (hf : CoreFrame s u)
    (hp : post (advance u)) : Finishes i s ws rs post :=
  ⟨advance u, he, hp, getS_zero _, hr, flowsOn_advance hh, hm, hf⟩

theorem continues_of_done {i : Instr} {s : State} (he : exec i s = done s) : Continues i s :=
  ⟨advance s, he, fun _ _ => rfl, flowsOn_advance ⟨rfl, rfl, rfl⟩, rfl⟩

theorem waits_of_stall {i : Instr} {s : State} {point : Bool} (he : exec i s = stall point s) : Waits i s := by
  refine ⟨_, he, rfl, rfl, fun _ _ => rfl, fun _ => rfl, ?_, rfl, ?_, ?_⟩
  · simp [VectorKept]
  · simp [StatusKept]
  · simp [DeviceKept]

/-! ### What an update of the state leaves as it was -/

@[simp] theorem advance_fe (s : State) : (advance s).fe = s.fe := rfl
@[simp] theorem advance_out (s : State) : (advance s).out = s.out := rfl
@[simp] theorem advance_cmt (s : State) : (advance s).core.seq.cmt = s.core.seq.cmt := rfl
@[simp] theorem advance_busy (s : State) : (advance s).core.seq.busy = s.core.seq.busy := rfl
@[simp] theorem advance_dcache (s : State) : (advance s).core.seq.dcache = s.core.seq.dcache := rfl
@[simp] theorem advance_points (s : State) : (advance s).core.vec.points = s.core.vec.points := rfl
@[simp] theorem advance_seqn (s : State) : (advance s).core.vec.seqn = s.core.vec.seqn := rfl

theorem coreFrame_refl (s : State) : CoreFrame s s := by simp [CoreFrame, VectorKept, TilesKept, StatusKept, DeviceKept]

/-- Sequential flow changes nothing that a frame names. -/
theorem coreFrame_advance {s u : State} (h : CoreFrame s u) : CoreFrame s (advance u) := h
theorem statusKept_advance {s u : State} (h : StatusKept s u) : StatusKept s (advance u) := h
theorem deviceKept_advance {s u : State} (h : DeviceKept s u) : DeviceKept s (advance u) := h
theorem othersKept_advance {s u : State} (h : OthersKept s u) : OthersKept s (advance u) := h
theorem memKept_advance {s u : State} (h : MemKept s u) : MemKept s (advance u) := h

theorem coreFrame_bumpNum (s : State) : CoreFrame s (bumpNum s) := by
  simp [CoreFrame, VectorKept, TilesKept, StatusKept, DeviceKept, bumpNum]

theorem coreFrame_dcDrop (s : State) : CoreFrame s (dcDrop s) := by
  simp [CoreFrame, VectorKept, TilesKept, StatusKept, DeviceKept, dcDrop]

theorem coreFrame_dcUpdate (pa : Nat) (s : State) : CoreFrame s (dcUpdate pa s) := by
  simp [CoreFrame, VectorKept, TilesKept, StatusKept, DeviceKept, dcUpdate]

theorem coreFrame_commitTask (s : State) : CoreFrame s (commitTask s) := by
  simp [CoreFrame, VectorKept, TilesKept, StatusKept, DeviceKept, commitTask]

theorem coreFrame_wr (s : State) (pa n x : Nat) : CoreFrame s (s.wr pa n x) := coreFrame_refl s

theorem coreFrame_chargeMem (r : Region) (pa n : Nat) (s : State) : CoreFrame s (chargeMem r pa n s) := by
  rw [chargeMem_eq]
  exact coreFrame_refl s

theorem coreFrame_trans {s t u : State} (h1 : CoreFrame s t) (h2 : CoreFrame t u) : CoreFrame s u := by
  unfold CoreFrame VectorKept TilesKept StatusKept DeviceKept at *
  simp_all

theorem memKept_of_mem {s u : State} (h : u.mem = s.mem) : MemKept s u := fun a => by
  unfold byteAt
  rw [h]

theorem memKeptOff_of_mem {s u : State} (rs : List (Nat × Nat)) (h : u.mem = s.mem) : MemKeptOff rs s u := fun a _ => by
  unfold byteAt
  rw [h]

theorem regsKept_of_regs {s u : State} (ws : List SReg) (h : u.core.seq.regs = s.core.seq.regs) : RegsKept ws s u := fun r _ => by
  unfold getS
  simp only [h]

/-- A write keeps the bytes outside it. -/
theorem memKeptOff_wr {s : State} (h : MemWf s.mem) (pa n x : Nat) : MemKeptOff [(pa, n)] s (s.wr pa n x) := fun _ ha =>
  memGet_wr_outside h _ (ha (pa, n) (by simp))

/-- An instruction before which no copy error stands does what it does. -/
theorem withCopyError_of_none {f : State → Out} {s : State} (h : takeError s = none) : withCopyError f s = f s := by
  unfold withCopyError
  rw [h, ite_self]

end Sys2Proof.Proofs
end

section
/-! FENCE, XFENCE, WAITC and WMPUB (R12, R85, R86, R170, R172). -/

namespace Sys2Proof.Proofs

open Sys2Proof.Machine Sys2Proof.Safety

theorem fence_waits {sc : Scope} {s : State} (h : s.core.seq.returns ≠ []) : Waits (.fence sc) s := by
  refine waits_of_stall (point := false) ?_
  show execFence sc s = _
  rw [execFence, if_pos (by simp [h])]

theorem fence_finishes {sc : Scope} {s : State} (hw : scalarWaits s = false) (hr : s.core.seq.returns = []) :
    Finishes (.fence sc) s [] [] fun t => (sc ≠ .core → t.core.seq.dcache = []) ∧ t.fe = s.fe ∧ t.out = s.out := by
  have he : exec (.fence sc) s = done (bumpNum (if sc = .core then s else dcDrop s)) := by
    show execFence sc s = _
    rw [execFence, if_neg (by simp [hw, hr])]
  by_cases hc : sc = .core
  · rw [if_pos hc] at he
    exact finishes_of_done he (⟨rfl, rfl, rfl⟩) (regsKept_of_regs [] rfl) (memKeptOff_of_mem [] rfl) (coreFrame_bumpNum s)
      ⟨fun h => absurd hc h, by simp [bumpNum], by simp [bumpNum]⟩
  · rw [if_neg hc] at he
    exact finishes_of_done he (⟨rfl, rfl, rfl⟩) (regsKept_of_regs [] rfl) (memKeptOff_of_mem [] (by simp [bumpNum, dcDrop]))
      (coreFrame_trans (coreFrame_dcDrop s) (coreFrame_bumpNum _)) ⟨fun _ => by simp [bumpNum, dcDrop], by simp [bumpNum, dcDrop], by simp [bumpNum, dcDrop]⟩

/-- The order points that still hold something back, after which XFENCE records its own. -/
def livePoints (s : State) : List OrderPoint :=
  s.core.vec.points.filter fun o => beforePoint s o.a o.num || beforePoint s o.b o.num

/-- The state in which XFENCE has recorded its order point. -/
def withPoint (p q : Path) (s : State) : State :=
  let u := prunePoints s
  bumpNum (setVec u { u.core.vec with points := ⟨p, q, nextNum u⟩ :: u.core.vec.points })

theorem withPoint_points (p q : Path) (s : State) :
    (withPoint p q s).core.vec.points = ⟨p, q, s.core.vec.num + 1⟩ :: livePoints s := rfl

theorem coreFrame_withPoint (p q : Path) (s : State) : CoreFrame s (withPoint p q s) := by
  simp [CoreFrame, VectorKept, TilesKept, StatusKept, DeviceKept, withPoint, prunePoints, bumpNum]

theorem execXfence_of_ne {p q : Path} {s : State} (hpq : p ≠ q) (ht : takeError s = none) : execXfence p q s = done (withPoint p q s) := by
  unfold execXfence
  rw [if_neg hpq]
  extract_lets go
  have hg : go s = done (withPoint p q s) := rfl
  split
  · exact (withCopyError_of_none ht).trans hg
  · exact hg

@[simp] theorem withPoint_seq (p q : Path) (s : State) : (withPoint p q s).core.seq = s.core.seq := by
  simp [withPoint, prunePoints, bumpNum]

@[simp] theorem withPoint_mem (p q : Path) (s : State) : (withPoint p q s).mem = s.mem := by simp [withPoint, prunePoints, bumpNum]

@[simp] theorem withPoint_fe (p q : Path) (s : State) : (withPoint p q s).fe = s.fe := by simp [withPoint, prunePoints, bumpNum]

theorem xfence_finishes {p q : Path} {s : State} (hpq : p ≠ q) (ht : takeError s = none) : Finishes (.xfence p q) s [] [] fun t =>
    ∃ o r, t.core.vec.points = o :: r ∧ o.a = p ∧ o.b = q ∧ o.num = s.core.vec.num + 1 ∧ (∀ y ∈ r, y ∈ s.core.vec.points) ∧ t.fe = s.fe := by
  refine finishes_of_done (execXfence_of_ne hpq ht) (by simp [SameHead]) (regsKept_of_regs [] (by simp)) (memKeptOff_of_mem [] (by simp))
    (coreFrame_withPoint p q s) ⟨⟨p, q, s.core.vec.num + 1⟩, livePoints s, ?_, rfl, rfl, rfl, fun _ hy => List.mem_of_mem_filter hy, by simp⟩
  rw [advance_points, withPoint_points]

theorem xfence_same_traps {p q : Path} {s : State} (hpq : p = q) (hc : CanTrap s) :
    EntersTrap (.xfence p q) s 1 s.core.seq.pc (BitVec.ofNat 64 (curHead s)) :=
  enters_of_raise hc (if_pos hpq)

/-- WAITC looks at its counters once no copy error stands before it. -/
theorem execWaitc_of_noError {l st c x : BitVec 4} {s : State} (ht : takeError s = none) : execWaitc l st c x s =
    if min (cntLd s.core) 15 ≤ l.toNat ∧ min (cntSt s.core) 15 ≤ st.toNat ∧ min (cntCp s s.core) 15 ≤ c.toNat ∧ min (cntMx s.core) 15 ≤ x.toNat
    then done s else stall true s := by
  unfold execWaitc
  simp only [withCopyError_of_none ht, ite_self, Bool.and_eq_true, decide_eq_true_eq, and_assoc]

theorem memRead_max_wr {s : State} (h : MemWf s.mem) (pa : Nat) (x : Word) :
    memRead (s.wr pa 8 (max (s.rd pa 8) x.toNat)).mem pa 8 = max (memRead s.mem pa 8) x.toNat := by
  have hr : memRead s.mem pa 8 < 256 ^ 8 := memRead_lt _ _ _
  have hx : x.toNat < 256 ^ 8 := x.isLt
  exact (rd_wr h pa 8 _).trans (Nat.mod_eq_of_lt (max_lt hr hx))

/-- The state in which WMPUB has raised the watermark. -/
def published (obj n : Nat) (s : State) : State :=
  let t := chargeMem s.core.seq.eff obj 8 s
  bumpNum (dcUpdate obj (t.wr obj 8 (max (t.rd obj 8) n)))

theorem execWmpub_of_written {k : Fin 8} {a : SReg} {r : WReg} {s : State} (hk : s.core.seq.w[k] = some r) (hw : scalarWaits s = false)
    (hp : isPoisoned s r.obj 64 = false) (hb : markObjectBad s r.obj = false)
    (hn : writesPending s [(r.base, (getS s a).toNat * r.esize)] = false) (hm : memOk s s.core.seq.eff r.obj = true) :
    execWmpub (BitVec.ofNat 3 k) a s = done (published r.obj (getS s a).toNat s) := by
  have hreg : (s.core.seq.w[(BitVec.ofNat 3 k).toNat]?).getD none = some r := by
    have hlt : (BitVec.ofNat 3 k).toNat = k.val := by simp
    rw [hlt, Vector.getElem?_eq_getElem k.isLt]
    exact hk
  unfold execWmpub
  simp only [hreg, hw, hp, hb, hn, hm]
  rfl

theorem wmpub_finishes {k : Fin 8} {a : SReg} {r : WReg} {s : State} (hwf : MemWf s.mem) (hk : s.core.seq.w[k] = some r)
    (hw : scalarWaits s = false) (hp : isPoisoned s r.obj 64 = false) (hb : markObjectBad s r.obj = false)
    (hn : writesPending s [(r.base, (getS s a).toNat * r.esize)] = false) (hm : memOk s s.core.seq.eff r.obj = true) :
    Finishes (.wmpub (BitVec.ofNat 3 k) a) s [] [(r.obj, 8)] fun t =>
      memRead t.mem r.obj 8 = max (memRead s.mem r.obj 8) (getS s a).toNat := by
  have he := execWmpub_of_written (a := a) hk hw hp hb hn hm
  have hf : CoreFrame s (published r.obj (getS s a).toNat s) :=
    coreFrame_trans (coreFrame_chargeMem _ _ _ s) (coreFrame_trans (coreFrame_wr _ _ _ _)
      (coreFrame_trans (coreFrame_dcUpdate _ _) (coreFrame_bumpNum _)))
  rw [published, chargeMem_eq] at he hf
  exact finishes_of_done he ⟨rfl, rfl, rfl⟩ (regsKept_of_regs [] rfl) (memKeptOff_wr hwf _ _ _) hf (memRead_max_wr hwf _ _)

/-- Settles O25: each clause is what its instruction does in the states named, FENCE on the answers still to come, XFENCE on its two
paths, WAITC on the four counters, and WMPUB on a well-formed object whose elements have been written. -/
theorem fencesAndWatermarks : Obligations.FencesAndWatermarks := by
  unfold Obligations.FencesAndWatermarks
  refine ⟨fun sc p q l st c x s => ⟨fence_waits, fence_finishes, xfence_finishes, xfence_same_traps, fun ht => ⟨fun hc => ?_, fun hl => ?_⟩⟩,
    fun k a r s => wmpub_finishes⟩
  · exact continues_of_done ((execWaitc_of_noError ht).trans (if_pos hc))
  · exact waits_of_stall ((execWaitc_of_noError ht).trans (if_neg fun hc => absurd hc.1 (by omega)))

end Sys2Proof.Proofs
end

section
/-! Dispatch of vector instructions (R8, R34, R177, R204, R205, R219, R233). -/

namespace Sys2Proof.Proofs

open Sys2Proof.Machine Sys2Proof.Safety

/-- Every instruction with a vector form but `vfence.arr` is dispatched by `vDispatch`. -/
theorem exec_eq_vDispatch {i : Instr} {f : VForm} (hf : vForm i = some f) (hn : ∀ b sc, i ≠ .vfenceArr b sc) (s : State) :
    exec i s = vDispatch i s := by
  cases i
  case vfenceArr b sc => exact absurd rfl (hn b sc)
  all_goals cases hf
  all_goals rfl

theorem formOf_eq {i : Instr} {f : VForm} (hf : vForm i = some f) : formOf i = f := by simp [formOf, hf]

@[simp] theorem queueOf_advance (s : State) (q : VQueue) : queueOf (advance s).core.vec q = queueOf s.core.vec q := by cases q <;> rfl

/-- The entry with which an instruction joins its queue, `tag` being the task's where it stores (R89). -/
def dispatchEntry (i : Instr) (f : VForm) (x y : Word) (pa tag : Nat) (s : State) : VEntry :=
  { instr := i, pa := pa,
    env := { captureEnv s (curHead s) (stagePred s.core.seq.loops f.ps.toNat) x y tag with seqn := s.core.vec.seqn + 1 } }

/-- What an entry takes of the state at its place (R204). -/
theorem dispatchEntry_captures {i : Instr} {f : VForm} {x y : Word} {pa tag : Nat} {s : State} {e : VEntry}
    (h : dispatchEntry i f x y pa tag s = e) : e.instr = i ∧ e.env.seqn = s.core.vec.seqn + 1 ∧ e.env.vl = s.core.vec.vl.toNat ∧
      e.env.vtype = s.core.vec.vtype.toNat ∧ e.env.vfill = s.core.vec.vfill ∧ e.env.vbase = s.core.vec.vbase ∧
      e.env.vseed = s.core.vec.vseed ∧ e.env.pc = s.core.seq.pc ∧ e.env.x = x ∧ e.env.y = y ∧ e.pa = pa := by
  subst h
  simp [dispatchEntry, captureEnv]

/-- The state after an entry has joined the queue of its form: of the vector state the queue, the numbers and the block of a VLDFF or VFIB
have changed, of the scalar state the registers awaited. -/
def enqueued (i : Instr) (f : VForm) (e : VEntry) (s : State) : State :=
  setSeq (setVec s { setQueue s.core.vec f.queue (queueOf s.core.vec f.queue ++ [e]) with
      seqn := s.core.vec.seqn + 1, num := s.core.vec.num + 1
      block := if blocksDispatch i then some ⟨s.core.vec.seqn + 1, f.sd⟩ else s.core.vec.block })
    { s.core.seq with busy := (f.sd.filter fun r => decide (r ≠ 0)) ++ s.core.seq.busy }

theorem enqueue_eq (i : Instr) (f : VForm) (x y : Word) (pa : Nat) (s : State) :
    ∃ tag, enqueue i f x y pa s = enqueued i f (dispatchEntry i f x y pa tag s) s := by
  unfold enqueue
  extract_lets v tag env0 env e v1 v2 q
  refine ⟨tag, ?_⟩
  have hv : v2 = { setQueue v f.queue (queueOf v f.queue ++ [e]) with
      seqn := v.seqn + 1, num := v.num + 1, block := if blocksDispatch i then some ⟨v.seqn + 1, f.sd⟩ else v.block } := by
    show (if blocksDispatch i = true then _ else _) = _
    cases blocksDispatch i <;> cases hq : f.queue <;> simp only [v1, hq] <;> rfl
  rw [hv]
  rfl

theorem enqueued_queue (i : Instr) (f : VForm) (e : VEntry) (s : State) :
    queueOf (enqueued i f e s).core.vec f.queue = queueOf s.core.vec f.queue ++ [e] := by
  show queueOf { setQueue s.core.vec f.queue _ with .. } f.queue = _
  cases f.queue <;> rfl

theorem enqueued_queue_ne {i : Instr} {f : VForm} {q : VQueue} (h : q ≠ f.queue) (e : VEntry) (s : State) :
    queueOf (enqueued i f e s).core.vec q = queueOf s.core.vec q := by
  unfold enqueued
  cases hq : f.queue <;> cases q <;> simp_all [queueOf, setQueue]

theorem enqueued_vsq {i : Instr} {f : VForm} (h : f.queue = .vsq) (e : VEntry) (s : State) :
    (advance (enqueued i f e s)).core.vec.vsq = s.core.vec.vsq ++ [e] := by
  have hq := enqueued_queue i f e s
  rw [← queueOf_advance, h] at hq
  exact hq

@[simp] theorem enqueued_seqn (i : Instr) (f : VForm) (e : VEntry) (s : State) :
    (enqueued i f e s).core.vec.seqn = s.core.vec.seqn + 1 := by simp [enqueued]

@[simp] theorem enqueued_busy (i : Instr) (f : VForm) (e : VEntry) (s : State) :
    (enqueued i f e s).core.seq.busy = (f.sd.filter fun r => decide (r ≠ 0)) ++ s.core.seq.busy := rfl

@[simp] theorem enqueued_cmt (i : Instr) (f : VForm) (e : VEntry) (s : State) : (enqueued i f e s).core.seq.cmt = s.core.seq.cmt := rfl

@[simp] theorem enqueued_fe (i : Instr) (f : VForm) (e : VEntry) (s : State) : (enqueued i f e s).fe = s.fe := rfl

theorem coreFrame_enqueued (i : Instr) (f : VForm) (e : VEntry) (s : State) : CoreFrame s (enqueued i f e s) := by
  refine ⟨?_, (coreFrame_refl s).2⟩
  unfold VectorKept enqueued
  cases f.queue <;> simp [setQueue]

/-- What dispatch leaves as it was, from a state `u` that differs from `s` in nothing that is named here. -/
theorem dispatch_frame {s u : State} (hh : SameHead s u) (hr : u.core.seq.regs = s.core.seq.regs) (hm : u.mem = s.mem) (hf : CoreFrame s u)
    (i : Instr) (f : VForm) (e : VEntry) : RegsKept [] s (advance (enqueued i f e u)) ∧ FlowsOn s (advance (enqueued i f e u)) ∧
      MemKept s (advance (enqueued i f e u)) ∧ CoreFrame s (advance (enqueued i f e u)) :=
  ⟨regsKept_of_regs [] hr, flowsOn_advance hh, memKept_of_mem hm, coreFrame_advance (coreFrame_trans hf (coreFrame_enqueued i f e u))⟩

/-- An instruction whose checks pass joins a queue that has room. -/
theorem vDispatch_of_checked {i : Instr} {f : VForm} {s : State} (hf : vForm i = some f) (hb : s.core.vec.block = none)
    (hc : vChecks i f (vScalars s i).1 (vScalars s i).2 s = none) (hq : (queueOf s.core.vec f.queue).length < 64) :
    vDispatch i s = done (enqueue i f (vScalars s i).1 (vScalars s i).2 0 s) := by
  unfold vDispatch
  simp only [formOf_eq hf, hb, hc]
  exact if_neg (Nat.not_le.mpr hq)

theorem vDispatch_of_failed {i : Instr} {f : VForm} {s : State} {c : Nat} {v : Word} (hf : vForm i = some f) (hb : s.core.vec.block = none)
    (hc : vChecks i f (vScalars s i).1 (vScalars s i).2 s = some (c, v)) : vDispatch i s = trapHere c v s := by
  unfold vDispatch
  simp only [formOf_eq hf, hb, hc]
  rfl

/-- A VL above the VLMAX of a type fails the checks with the vector-length cause (R34, R205). -/
theorem vChecks_of_long {i : Instr} {f : VForm} {s : State} (hi : ∀ d a b m ps ty, i ≠ .vdeq d a b m ps ty)
    (ht : ∃ t ∈ f.types, t.vlmax < s.core.vec.vl.toNat) (x y : Word) : vChecks i f x y s = some (0x04, s.core.vec.vl) := by
  unfold vChecks
  extract_lets v head grp mark
  have hg : grp = false := by
    unfold grp
    split
    · exact absurd rfl (hi _ _ _ _ _ _)
    · rfl
  have hl : (f.types.any fun t => decide (t.vlmax < v.vl.toNat)) = true := by simpa using ht
  rw [hg, hl]
  rfl

theorem types_any_long {ts : List ETy} {n : Nat} (h : ∀ t ∈ ts, n ≤ t.vlmax) : (ts.any fun t => decide (t.vlmax < n)) = false := by
  simpa using h

/-- A VLD or VST whose base is off its alignment fails the checks with the misaligned cause (R233). -/
theorem vChecks_of_misaligned {i : Instr} {f : VForm} {s : State} {x : Word}
    (hi : ∃ d b disp m ps ty, i = .vld d b disp m ps ty ∨ ∃ a disp, i = .vst a b disp m ps ty)
    (ht : ∀ t ∈ f.types, s.core.vec.vl.toNat ≤ t.vlmax) (hx : x.toNat % accSize (memTy i) ≠ 0) (y : Word) :
    vChecks i f x y s = some (0x09, x) := by
  obtain ⟨d, b, disp, m, ps, ty, rfl | ⟨a, disp, rfl⟩⟩ := hi <;>
    simp [vChecks, types_any_long ht, vMisaligned, hx]

/-- `vfence.arr` joins the VSQ with the physical address of its signal, and commits the task (R88, R239). -/
theorem exec_vfenceArr {b : SReg} {sc : Scope} {s s1 : State} {p : Phys} (hb : s.core.vec.block = none) (ha : (getS s b).toNat % 64 = 0)
    (ht : transS .rw (getS s b) s = (.ok p, s1)) (hp : isPoisoned s p.pa 64 = false) (hq : s.core.vec.vsq.length < 64) :
    exec (.vfenceArr b sc) s = done (enqueue (.vfenceArr b sc) { queue := .vsq } (getS s b) 0 p.pa (commitTask s1)) := by
  have hs : TlbOnly s s1 := by simpa [ht] using tlbOnly_transS .rw (getS s b) s
  have hp1 : isPoisoned s1 p.pa 64 = false := by unfold isPoisoned at hp ⊢; rw [hs.poison]; exact hp
  have hq1 : ¬ 64 ≤ s1.core.vec.vsq.length := by rw [hs.core]; omega
  have hm : vMisaligned (.vfenceArr b sc) (getS s b) 0 = none := by simp [vMisaligned, ha]
  show vDispatchArr b sc s = _
  unfold vDispatchArr
  simp only [vScalars, hb, hm, ht, hp1]
  exact if_neg hq1

/-- What dispatch into a queue with an entry `e` gives. -/
theorem dispatched_entry {i : Instr} {f : VForm} (hf : vForm i = some f) (hn : ∀ b sc, i ≠ .vfenceArr b sc) {s : State}
    (hb : s.core.vec.block = none) (hc : vChecks i f (vScalars s i).1 (vScalars s i).2 s = none)
    (hq : (queueOf s.core.vec f.queue).length < 64) :
    ∃ tag, exec i s = done (enqueued i f (dispatchEntry i f (vScalars s i).1 (vScalars s i).2 0 tag s) s) := by
  obtain ⟨tag, he⟩ := enqueue_eq i f (vScalars s i).1 (vScalars s i).2 0 s
  exact ⟨tag, by rw [exec_eq_vDispatch hf hn s, vDispatch_of_checked hf hb hc hq, he]⟩

/-- Settles O30: an instruction with a vector form runs `vDispatch`, whose entry is `dispatchEntry` and whose failed checks are the traps named. -/
theorem vectorDispatch : Obligations.VectorDispatch := by
  unfold Obligations.VectorDispatch
  refine ⟨⟨fun i f s hf hn hb hc hq => ?_, fun b sc s s1 p hb ha ht hp hq => ?_⟩, fun i f s hf hn hb hc => ⟨fun hi hl => ?_, fun hi hl hx => ?_⟩⟩
  · obtain ⟨tag, he⟩ := dispatched_entry hf hn hb hc hq
    generalize hx : dispatchEntry i f (vScalars s i).1 (vScalars s i).2 0 tag s = e at he
    obtain ⟨hi, hseq, hvl, hty, hfill, hbase, hseed, hpc, hex, hey, _⟩ := dispatchEntry_captures hx
    obtain ⟨hr, hfl, hm, hcf⟩ := dispatch_frame (u := s) ⟨rfl, rfl, rfl⟩ rfl rfl (coreFrame_refl s) i f e
    refine ⟨advance (enqueued i f e s), e, he, ?_, fun q h => ?_, hi, hseq, ?_, hvl, hty, hfill, hbase, hseed, hpc, hex, hey, fun r hr h0 => ?_,
      fun r hr => ?_, hr, hfl, hm, hcf, ?_⟩
    · rw [queueOf_advance, enqueued_queue]
    · rw [queueOf_advance, enqueued_queue_ne h]
    · rw [advance_seqn, enqueued_seqn]
    · rw [advance_busy, enqueued_busy]
      exact List.mem_append_left _ (List.mem_filter.mpr ⟨hr, decide_eq_true h0⟩)
    · rw [advance_busy, enqueued_busy]
      simp [hr]
    · rw [advance_fe, enqueued_fe]
  · have hs : TlbOnly s s1 := by simpa [ht] using tlbOnly_transS .rw (getS s b) s
    obtain ⟨T, C, rfl⟩ : ∃ T C, s1 = { s with tlb := T, choices := C } := ⟨_, _, hs⟩
    have he := exec_vfenceArr (sc := sc) hb ha ht hp hq
    have hu := coreFrame_trans (t := { s with tlb := T, choices := C }) (coreFrame_refl s) (coreFrame_commitTask _)
    obtain ⟨tag, hq⟩ := enqueue_eq (.vfenceArr b sc) { queue := .vsq } (getS s b) 0 p.pa (commitTask { s with tlb := T, choices := C })
    rw [hq] at he
    generalize hx : dispatchEntry (.vfenceArr b sc) { queue := .vsq } (getS s b) 0 p.pa tag _ = e at he
    obtain ⟨hi, _, _, _, _, _, _, _, _, _, hpa⟩ := dispatchEntry_captures hx
    have hk := dispatch_frame ⟨rfl, rfl, rfl⟩ rfl rfl hu (.vfenceArr b sc) { queue := .vsq } e
    refine ⟨_, e, he, enqueued_vsq rfl e _, hi, hpa, ?_, hk⟩
    rw [advance_cmt, enqueued_cmt]
    rfl
  · exact enters_of_raise hc ((exec_eq_vDispatch hf hn s).trans (vDispatch_of_failed hf hb (vChecks_of_long hi hl _ _)))
  · exact enters_of_raise hc ((exec_eq_vDispatch hf hn s).trans (vDispatch_of_failed hf hb (vChecks_of_misaligned hi hl hx _)))

end Sys2Proof.Proofs
end

section
/-! SETVL, SETVT, VSLIP and SETTLE (R8, R193, R219, R225 to R228, R235). -/

namespace Sys2Proof.Proofs

open Sys2Proof.Machine Sys2Proof.Safety

/-! ### Markers -/

theorem marked_of_room {f : State → Out} {s : State} (hb : s.core.vec.block = none) (hq : s.core.vec.vxq.length < 64) :
    marked f s = f s := by
  unfold marked
  rw [if_neg (by simp [hb, hq])]

theorem marked_of_held {f : State → Out} {s : State} (h : s.core.vec.block.isSome = true ∨ 64 ≤ s.core.vec.vxq.length) :
    marked f s = stall false s := by
  unfold marked
  rw [if_pos (by simpa using h)]

/-- What SETVL, SETVT and VSLIP share: a marker in the VXQ with the next sequence number, and of the rest the registers in `ws` alone. -/
def MarkerKept (i : Instr) (s t : State) (ws : List SReg) : Prop :=
  let v := s.core.vec
  t.core.vec.seqn = v.seqn + 1 ∧ (∃ e, t.core.vec.vxq = v.vxq ++ [e] ∧ e.instr = i ∧ e.env.seqn = v.seqn + 1) ∧ t.core.vec.vlq = v.vlq ∧
    t.core.vec.vsq = v.vsq ∧ t.core.vec.v = v.v ∧ t.core.vec.o = v.o ∧ t.core.vec.m = v.m ∧ t.core.vec.vstat = v.vstat ∧ getS t 0 = 0 ∧
    RegsKept ws s t ∧ FlowsOn s t ∧ MemKept s t ∧ TilesKept s t ∧ StatusKept s t ∧ DeviceKept s t ∧ OthersKept s t

/-- The entry that stands in the VXQ for an instruction the control core performs itself (R219). -/
def markerEntry (i : Instr) (s : State) : VEntry :=
  { instr := i, env := { seqn := s.core.vec.seqn + 1, num := s.core.vec.num, pc := s.core.seq.pc, head := curHead s, slip := s.core.vec.slip } }

/-- A marker has joined the VXQ; VL, type control, slip and scalar registers are as given. -/
def afterMarker (i : Instr) (vl : Word) (vtype : BitVec 8) (slip : Nat) (regs : Vector Word 32) (s : State) : State :=
  setSeq (setVec s { s.core.vec with seqn := s.core.vec.seqn + 1, vxq := s.core.vec.vxq ++ [markerEntry i s], vl := vl, vtype := vtype, slip := slip })
    { s.core.seq with regs := regs }

theorem markerKept_afterMarker {i : Instr} {vl : Word} {vtype : BitVec 8} {slip : Nat} {regs : Vector Word 32} {s : State} {ws : List SReg}
    (hr : RegsKept ws s (afterMarker i vl vtype slip regs s)) : MarkerKept i s (advance (afterMarker i vl vtype slip regs s)) ws := by
  have hm : (afterMarker i vl vtype slip regs s).mem = s.mem := by simp [afterMarker]
  have hh : SameHead s (afterMarker i vl vtype slip regs s) := by simp [SameHead, afterMarker]
  have hs : StatusKept s (afterMarker i vl vtype slip regs s) := by simp [StatusKept, afterMarker]
  have hd : DeviceKept s (afterMarker i vl vtype slip regs s) := by simp [DeviceKept, afterMarker]
  have ho : OthersKept s (afterMarker i vl vtype slip regs s) := by simp [OthersKept, afterMarker]
  exact ⟨rfl, ⟨markerEntry i s, rfl, rfl, rfl⟩, rfl, rfl, rfl, rfl, rfl, rfl, getS_zero _, hr, flowsOn_advance hh,
    memKept_advance (memKept_of_mem hm), rfl, statusKept_advance hs, deviceKept_advance hd, othersKept_advance ho⟩

theorem regsKept_setS (s : State) (d : SReg) (v : Word) : RegsKept [d] s (setS s d v) := fun r hr =>
  getS_setS_other s d r v (by simpa using hr)

/-- Outside the last head of a loop body sequential flow keeps the slip. -/
theorem advance_slip {s : State} (h : ∀ e ∈ s.core.seq.loops.head?, e.stop ≠ s.core.seq.pc) : (advance s).core.vec.slip = s.core.vec.slip := by
  show (endIteration s.core.seq.pc s.core.seq.loops s.core.vec.slip).2.2.2 = _
  cases hl : s.core.seq.loops with
  | nil => rfl
  | cons e r =>
    have he : e.stop ≠ s.core.seq.pc := h e (by simp [hl])
    rw [endIteration, if_neg he]

theorem setvl_writes {d a : SReg} {ty : ETy} {s : State} (hb : s.core.vec.block = none) (hq : s.core.vec.vxq.length < 64) :
    let vl := BitVec.ofNat 64 (min (getS s a).toNat ty.vlmax)
    ∃ t, exec (.setvl d a ty) s = .next t ∧ t.core.vec.vl = vl ∧ (d ≠ 0 → getS t d = vl) ∧ t.core.vec.vtype = s.core.vec.vtype ∧
      MarkerKept (.setvl d a ty) s t [d] := by
  intro vl
  let u := afterMarker (.setvl d a ty) vl s.core.vec.vtype s.core.vec.slip (setS s d vl).core.seq.regs s
  have hu : ∀ r, getS u r = getS (setS s d vl) r := fun _ => rfl
  have he : exec (.setvl d a ty) s = done u := by
    show execSetvl d a ty s = _
    unfold execSetvl
    rw [marked_of_room hb hq]
    simp only [u]
    unfold afterMarker setS
    split <;> rfl
  exact ⟨advance u, he, rfl, fun hd => getS_setS_self s d vl hd, rfl, markerKept_afterMarker (regsKept_setS s d vl)⟩

theorem setvt_writes {a : SReg} {s : State} (hb : s.core.vec.block = none) (hq : s.core.vec.vxq.length < 64) :
    ∃ t, exec (.setvt a) s = .next t ∧ t.core.vec.vtype = (getS s a).truncate 8 ∧ t.core.vec.vl = s.core.vec.vl ∧ MarkerKept (.setvt a) s t [] := by
  let u := afterMarker (.setvt a) s.core.vec.vl ((getS s a).truncate 8) s.core.vec.slip s.core.seq.regs s
  have he : exec (.setvt a) s = done u := by
    show execSetvt a s = _
    unfold execSetvt
    rw [marked_of_room hb hq]
    rfl
  exact ⟨advance u, he, rfl, rfl, markerKept_afterMarker fun _ _ => rfl⟩

theorem vslip_writes {n : BitVec 6} {s : State} (hb : s.core.vec.block = none) (hq : s.core.vec.vxq.length < 64)
    (hl : ∀ e ∈ s.core.seq.loops.head?, e.stop ≠ s.core.seq.pc) :
    ∃ t, exec (.vslip n) s = .next t ∧ t.core.vec.slip = n.toNat + 1 ∧ t.core.vec.vl = s.core.vec.vl ∧ MarkerKept (.vslip n) s t [] := by
  let u := afterMarker (.vslip n) s.core.vec.vl s.core.vec.vtype (n.toNat + 1) s.core.seq.regs s
  have he : exec (.vslip n) s = done u := by
    show execVslip n s = _
    unfold execVslip
    rw [marked_of_room hb hq]
    rfl
  exact ⟨advance u, he, advance_slip (s := u) hl, rfl, markerKept_afterMarker fun _ _ => rfl⟩

/-! ### SETTLE -/

/-- No hole is a fault hole (R194). -/
def NoFaults (v : Vec) : Prop := ∀ h ∈ v.holes, h.fault = none

theorem getHole_fault_none {v : Vec} (h : NoFaults v) (id : Nat) : (getHole v id).bind Hole.fault = none := by
  cases hg : getHole v id with
  | none => rfl
  | some x => exact h x (List.mem_of_find?_eq_some hg)

theorem faultParent_none {v : Vec} (h : NoFaults v) (x : Hole) : faultParent v x = none := by
  unfold faultParent
  simp [getHole_fault_none h]

/-- Without a fault hole nothing depends on one. -/
theorem spreadFaults_of_noFaults {v : Vec} (h : NoFaults v) (n : Nat) : spreadFaults n v = v := by
  cases n with
  | zero => rfl
  | succ n =>
    have hn : (v.holes.find? fun x => x.fault.isNone && (faultParent v x).isSome) = none := by simp [faultParent_none h]
    rw [spreadFaults, hn]

theorem faultStuck_of_noFaults {s : State} (h : NoFaults s.core.vec) : faultStuck s = false := by
  unfold faultStuck
  rw [spreadFaults_of_noFaults h]
  have hn : (s.core.vec.holes.any fun x => x.fault.isSome) = false := by
    simp only [List.any_eq_false]
    intro x hx
    simp [h x hx]
  simp [hn]

theorem noFaults_of_nil {v : Vec} (h : v.holes = []) : NoFaults v := fun x hx => by simp [h] at hx

theorem delivered_nil {v : Vec} (h : v.holes = []) (c : Cover) : delivered v c = [] := by simp [delivered, h, withAncestors]

/-- A SETTLE that has nothing left to wait for, and no fault hole to deliver, goes on. -/
theorem settleOver_goes {c : Cover} {point : Bool} {f : State → Out} {s : State} (hh : s.core.vec.holes = []) (hw : settleWaits s c = false)
    (ho : settleWaitsOutside s c = false) : settleOver c point f s = f s := by
  unfold settleOver
  extract_lets v t waits ids
  have hv : v = s.core.vec := spreadFaults_of_noFaults (noFaults_of_nil hh) _
  have ht : t = s := by unfold t; rw [hv]; rfl
  have hi : ids = [] := by unfold ids; rw [hv]; exact delivered_nil hh c
  have hw : waits = false := by unfold waits; rw [ht, hw, ho]; rfl
  rw [hw, hi, ht]
  rfl

/-- One that still waits, with no fault hole about, runs again. -/
theorem settleOver_waits {c : Cover} {point : Bool} {f : State → Out} {s : State} (hf : NoFaults s.core.vec)
    (hw : (settleWaits s c || settleWaitsOutside s c) = true) : settleOver c point f s = stall point s := by
  unfold settleOver
  extract_lets v t waits ids
  have ht : t = s := by unfold t v; rw [spreadFaults_of_noFaults hf]; rfl
  have hw : waits = true := by unfold waits; rw [ht]; exact hw
  rw [hw, ht, faultStuck_of_noFaults hf]
  rfl

theorem finishes_of_marker {i : Instr} {s : State} (he : exec i s = done (takeSeqn i s)) :
    Finishes i s [] [] fun t => t.core.vec.seqn = s.core.vec.seqn + 1 :=
  finishes_of_done he ⟨rfl, rfl, rfl⟩ (fun _ _ => rfl) (fun _ _ => rfl) (coreFrame_refl s) rfl

/-- Where a SETTLE of every register need not wait, the VXQ is empty. -/
theorem vxq_nil_of_settled {s : State} (h : settleWaits s none = false) : s.core.vec.vxq = [] := by
  unfold settleWaits settleWaitsQueue at h
  simp_all

theorem settleAll_waits_of {s : State} (hf : NoFaults s.core.vec) (hw : (settleWaits s none || settleWaitsOutside s none) = true) :
    Waits .settleAll s := by
  by_cases hm : s.core.vec.block.isSome = true ∨ 64 ≤ s.core.vec.vxq.length
  · exact waits_of_stall (marked_of_held hm)
  · obtain ⟨hb, hq⟩ := not_or.mp hm
    refine waits_of_stall (point := true) ((marked_of_room (by simpa using hb) (by omega)).trans ?_)
    exact settleOver_waits hf hw

/-- With the queues and the holes empty a SETTLE of named registers waits for nothing of the vector engine. -/
theorem settleWaits_named {s : State} (l : List Nat) (hh : s.core.vec.holes = []) (hl : s.core.vec.vlq = []) (hx : s.core.vec.vxq = [])
    (hs : s.core.vec.vsq = []) (hd : s.core.vec.defer = []) : settleWaits s (some l) = false := by
  simp [settleWaits, settleWaitsQueue, settleWaitsStore, delivered_nil hh, deliveryWaits, hh, hl, hx, hs, hd]

theorem settleWaitsOutside_named {s : State} (l : List Nat) (h : outsideUnissued s s.core = []) : settleWaitsOutside s (some l) = false := by
  simp [settleWaitsOutside, h, meet]

/-- Settles O31: the three writers of vector state share `MarkerKept`; SETTLE goes on or waits as `settleOver_goes` and `settleOver_waits` say. -/
theorem vectorStateAndSettle : Obligations.VectorStateAndSettle := by
  unfold Obligations.VectorStateAndSettle
  refine ⟨fun d a ty n s hb hq => ⟨setvl_writes hb hq, setvt_writes hb hq, vslip_writes hb hq⟩, fun d a ty n x y w i s hi hm => ?_,
    fun x y w s hb => ⟨fun hh hw ho => ?_, fun hh hl hx hs hd ho => ?_, fun hh ho => ?_, fun h hh hf hp => ?_⟩⟩
  · refine waits_of_stall (point := false) ?_
    obtain rfl | rfl | rfl | rfl | rfl := hi
    · exact (execSetvl.eq_def d a ty s).trans (marked_of_held hm)
    · exact (execSetvt.eq_def a s).trans (marked_of_held hm)
    · exact (execVslip.eq_def n s).trans (marked_of_held hm)
    · exact marked_of_held hm
    · exact marked_of_held hm
  · refine finishes_of_marker ((marked_of_room hb (by simp [vxq_nil_of_settled hw])).trans ?_)
    exact settleOver_goes hh hw ho
  · refine finishes_of_marker ((marked_of_room hb (by simp [hx])).trans ?_)
    exact settleOver_goes hh (settleWaits_named _ hh hl hx hs hd) (settleWaitsOutside_named _ ho)
  · exact settleAll_waits_of (noFaults_of_nil hh) (by simp [ho])
  · refine settleAll_waits_of (fun g hg => ?_) ?_
    · rw [hh] at hg
      rw [List.mem_singleton.mp hg, hf]
    · simp [settleWaits, hh, coveredHole, covers, hf]

end Sys2Proof.Proofs
end

section
/-! FPUT, FGET, FSIG, COLL, FFENCE and FSTAT at dispatch (R8, R123, R311 to R315, R317 to R319). -/

namespace Sys2Proof.Proofs

open Sys2Proof.Machine Sys2Proof.Safety

/-! ### Translation of a range -/

theorem tlbOnly_transPiece (c : Nat) (r : Region) (remote : Bool) (a : Acc) (va n : Nat) (s : State) :
    TlbOnly s (transPiece c r remote a va n s).2 := by
  have h := tlbOnly_translateFor (.banked c) (some c) r .f a {} (BitVec.ofNat 64 va) s
  unfold transPiece
  extract_lets v limit
  generalize translateFor (.banked c) (some c) r .f a {} v s = x at h ⊢
  obtain ⟨_ | p, s1⟩ := x
  · exact h
  · cases remote
    · dsimp only
      rw [if_neg (by simp)]
      split
      · exact h
      · exact tlbOnly_ite h h
      · exact h
    · dsimp only
      rw [if_pos rfl]
      split <;> exact h

theorem tlbOnly_transPieces (c : Nat) (g : Region) (remote : Bool) (a : Acc) (ps : List (Nat × Nat)) :
    ∀ s, TlbOnly s (transPieces c g remote a ps s).2 := by
  induction ps with
  | nil => exact TlbOnly.refl
  | cons p ps ih =>
    intro s
    have h := tlbOnly_transPiece c g remote a p.1 p.2 s
    rw [transPieces]
    generalize transPiece c g remote a p.1 p.2 s = x at h ⊢
    obtain ⟨_ | q, s1⟩ := x
    · exact h
    · have hr := h.trans (ih s1)
      dsimp only
      generalize transPieces c g remote a ps s1 = y at hr ⊢
      obtain ⟨_ | qs, s2⟩ := y <;> exact hr

theorem tlbOnly_transRange {remote : Bool} {a : Acc} {va : Word} {n : Nat} {s s1 : State} {x : Except (Nat × Word) (List (Nat × Nat))}
    (h : transRange remote a va n s = (x, s1)) : TlbOnly s s1 := by
  have ht := tlbOnly_transPieces s.core.id s.core.seq.eff remote a (piecesOf va.toNat n) s
  unfold transRange at h
  rwa [h] at ht

/-! ### Joining the queue -/

/-- `s` with other translation structures, choices and budgets, in which the task has committed where `commits` says so. -/
def withCommit (commits : Bool) (T : Tlb) (C : List Bool) (B : List BudgetLeft) (s : State) : State :=
  { setSeq s { s.core.seq with cmt := s.core.seq.cmt || commits } with tlb := T, choices := C, budgets := B }

/-- `t` differs from `s` at most in what translations, charges and a commit change. -/
def Committed (commits : Bool) (s t : State) : Prop := ∃ T C B, t = withCommit commits T C B s

theorem committed_false {s t : State} (h : TlbOnly s t) : Committed false s t := by
  obtain ⟨T, C, rfl⟩ : ∃ T C, t = { s with tlb := T, choices := C } := ⟨_, _, h⟩
  exact ⟨T, C, s.budgets, by simp [withCommit, setSeq]⟩

theorem committed_true {s t : State} (h : TlbOnly s t) : Committed true s (commitTask t) := by
  obtain ⟨T, C, rfl⟩ : ∃ T C, t = { s with tlb := T, choices := C } := ⟨_, _, h⟩
  exact ⟨T, C, s.budgets, by simp [withCommit, commitTask, setSeq]⟩

theorem Committed.mem {commits : Bool} {s t : State} (h : Committed commits s t) : t.mem = s.mem := by
  obtain ⟨T, C, B, rfl⟩ := h
  rfl

theorem Committed.out {commits : Bool} {s t : State} (h : Committed commits s t) : t.out = s.out := by
  obtain ⟨T, C, B, rfl⟩ := h
  rfl

/-- An operation made after a translation is the running task's. -/
theorem task_of_translated {s t : State} {i : Instr} {o : FabOp} (h : TlbOnly s t)
    (ho : o.core = t.core.id ∧ o.tid = t.core.seq.tid ∧ o.instr = i ∧ o.launch = t.core.seq.launch) :
    o.core = s.core.id ∧ o.tid = s.core.seq.tid ∧ o.instr = i ∧ o.launch = s.core.seq.launch := by
  rwa [h.core] at ho

@[simp] theorem pushFab_mem (o : FabOp) (s : State) : (pushFab o s).mem = s.mem := by simp [pushFab, bumpNum]
@[simp] theorem pushFab_out (o : FabOp) (s : State) : (pushFab o s).out = s.out := by simp [pushFab, bumpNum, setFab]

/-- An operation of the running task that has entered the queue, from a state where the task has committed as `commits` says; `u` may have
memory written after that. -/
theorem queuesFab_of_push {i : Instr} {s t u : State} {commits : Bool} {rs : List (Nat × Nat)} {x : FabOp → Prop} {post : State → Prop}
    {o : FabOp} (he : exec i s = done u) (ht : Committed commits s t) (hu : MemOnly (pushFab o t) u) (hm : MemKeptOff rs s u)
    (ho : o.core = s.core.id ∧ o.tid = s.core.seq.tid ∧ o.instr = i ∧ o.launch = s.core.seq.launch)
    (hx : x { o with id := s.fab.nextId }) (hp : post (advance u)) : QueuesFab i s commits rs x post := by
  obtain ⟨hc, hi, hn, hl⟩ := ho
  obtain ⟨T, C, B, rfl⟩ := ht
  obtain ⟨M, P, F, rfl⟩ : ∃ M P F, u = { pushFab o _ with mem := M, poison := P, frameSlots := F } := ⟨_, _, _, hu⟩
  refine ⟨_, { o with id := s.fab.nextId }, he, rfl, rfl, rfl, hc, hi, hn, hl, hx, hp, rfl, fun _ _ => rfl, ?_, hm, ?_, rfl, ?_⟩
  · exact flowsOn_advance ⟨rfl, rfl, rfl⟩
  · exact ⟨rfl, rfl, rfl, rfl, rfl, rfl, rfl, rfl, rfl, rfl, rfl, rfl, rfl, rfl, rfl, rfl, rfl⟩
  · exact ⟨rfl, rfl, rfl, rfl, rfl, rfl, rfl, rfl, rfl⟩

/-! ### FPUT, FGET and FSIG -/

theorem exec_fabCopy (put : Bool) (r l n : SReg) (tag : BitVec 8) (s : State) :
    exec (if put then .fput r l n tag else .fget r l n tag) s =
      fabCopy put (if put then .fput r l n tag else .fget r l n tag) r l n tag s := by cases put <;> rfl

section
variable {put : Bool} {i : Instr} {r l n : SReg} {tag : BitVec 8} {s : State}

/-- With a length of 0 nothing joins the queue. -/
theorem fabCopy_zero (hr : (getS s r).toNat % 4 = 0) (hl : (getS s l).toNat % 4 = 0) (hn : getS s n = 0) :
    fabCopy put i r l n tag s = done (if put then commitTask s else s) := by
  unfold fabCopy
  simp [hr, hl, hn]

/-- The operation that FPUT or FGET enters the queue with, its ranges translated. -/
def copyOp (put : Bool) (i : Instr) (rv lv nv : Word) (tag : BitVec 8) (rem loc : List (Nat × Nat)) (t : State) : FabOp :=
  { newOp i tag.toNat nv.toNat t with remote := rem, locals := loc, ports := portsOf t rem, vr := rv.toNat, vl := lv.toNat,
                                      wr := [((if put then rv else lv).toNat, nv.toNat)] }

theorem fabCopy_queues (hr : (getS s r).toNat % 4 = 0) (hl : (getS s l).toNat % 4 = 0) (hn : (getS s n).toNat % 4 = 0)
    (hm : (getS s n).toNat ≤ 2 ^ 24) (h0 : getS s n ≠ 0) (hq : (fabOf s).length < 32) {rem loc : List (Nat × Nat)} {s1 s2 : State}
    (h1 : transRange true (if put then .w else .r) (getS s r) (getS s n).toNat s = (.ok rem, s1))
    (h2 : transRange false (if put then .r else .w) (getS s l) (getS s n).toNat s1 = (.ok loc, s2)) :
    fabCopy put i r l n tag s =
      done (pushFab (copyOp put i (getS s r) (getS s l) (getS s n) tag rem loc s2) (if put then commitTask s2 else s2)) := by
  unfold fabCopy
  simp only [hr, hl, hn, h1, h2, if_neg h0]
  rw [if_neg (by simp), if_neg (by simp), if_neg (by omega), if_neg (by simp), if_neg (by omega)]
  rfl

theorem fabCopy_misaligned (hr : (getS s r).toNat % 4 = 0) (hl : (getS s l).toNat % 4 = 0) (hn : (getS s n).toNat % 4 ≠ 0)
    (hm : (getS s n).toNat ≤ 2 ^ 24) : fabCopy put i r l n tag s = trapHere 0x09 (getS s n) s := by
  unfold fabCopy
  extract_lets rv lv nv commit
  rw [if_neg (by simpa using hr), if_neg (by simpa using hl), if_neg (Nat.not_lt.mpr hm), if_pos hn]

/-- A copy of length 0 completes, and commits the task where it is a FPUT. -/
theorem fabCopy_zero_moves (he : exec i s = fabCopy put i r l n tag s) (hr : (getS s r).toNat % 4 = 0) (hl : (getS s l).toNat % 4 = 0)
    (hn : getS s n = 0) : ∃ t, exec i s = .next t ∧ t.fab = s.fab ∧ t.core.seq.cmt = (s.core.seq.cmt || put) ∧ RegsKept [] s t ∧ FlowsOn s t ∧
      MemKept s t := by
  rw [he, fabCopy_zero hr hl hn]
  cases put with
  | true => exact ⟨advance (commitTask s), rfl, rfl, (Bool.or_true _).symm, fun _ _ => rfl, flowsOn_advance ⟨rfl, rfl, rfl⟩, memKept_of_mem rfl⟩
  | false => exact ⟨advance s, rfl, rfl, (Bool.or_false _).symm, fun _ _ => rfl, flowsOn_advance ⟨rfl, rfl, rfl⟩, memKept_of_mem rfl⟩

theorem fabCopy_joins (he : exec i s = fabCopy put i r l n tag s) (hr : (getS s r).toNat % 4 = 0) (hl : (getS s l).toNat % 4 = 0)
    (hn : (getS s n).toNat % 4 = 0) (hm : (getS s n).toNat ≤ 2 ^ 24) (h0 : getS s n ≠ 0) (hq : (fabOf s).length < 32)
    {rem loc : List (Nat × Nat)} {s1 s2 : State}
    (h1 : transRange true (if put then .w else .r) (getS s r) (getS s n).toNat s = (.ok rem, s1))
    (h2 : transRange false (if put then .r else .w) (getS s l) (getS s n).toNat s1 = (.ok loc, s2)) :
    QueuesFab i s put [] (fun o => o.remote = rem ∧ o.locals = loc ∧ o.n = (getS s n).toNat ∧ o.tag = tag.toNat) fun _ => True := by
  have ht := (tlbOnly_transRange h1).trans (tlbOnly_transRange h2)
  have hc : Committed put s (if put then commitTask s2 else s2) := by
    cases put
    · exact committed_false ht
    · exact committed_true ht
  refine queuesFab_of_push (he.trans (fabCopy_queues hr hl hn hm h0 hq h1 h2)) hc (MemOnly.refl _) (memKeptOff_of_mem [] ?_) ?_ ⟨rfl, rfl, rfl, rfl⟩ trivial
  · exact hc.mem
  · exact task_of_translated ht ⟨rfl, rfl, rfl, rfl⟩

end

/-- The operation that FSIG enters the queue with. -/
def sigOp (r : SReg) (count : BitVec 24) (rv : Word) (rem : List (Nat × Nat)) (t : State) : FabOp :=
  { newOp (.fsig r count) 0 64 t with remote := rem, ports := portsOf t rem, vr := rv.toNat, wr := [(rv.toNat, 64)] }

theorem execFsig_queues {r : SReg} {count : BitVec 24} {s s1 : State} {rem : List (Nat × Nat)} (hc : count ≠ 0)
    (hr : (getS s r).toNat % 64 = 0) (hq : (fabOf s).length < 32) (h1 : transRange true .rw (getS s r) 64 s = (.ok rem, s1)) :
    execFsig r count s = done (pushFab (sigOp r count (getS s r) rem s1) (commitTask s1)) := by
  unfold execFsig
  simp only [h1]
  rw [if_neg hc, if_neg (by simp [hr]), if_neg (by omega)]
  rfl

/-! ### COLL -/

theorem committed_charged {s t : State} (h : TlbOnly s t) (r : Region) (bs : List (Nat × Nat)) :
    Committed true s (commitTask (chargeAll r bs t)) := by
  obtain ⟨T, C, rfl⟩ : ∃ T C, t = { s with tlb := T, choices := C } := ⟨_, _, h⟩
  rw [chargeAll_eq]
  exact ⟨T, C, _, by simp [withCommit, commitTask, setSeq]; rfl⟩

/-- Chunks whose poison a COLL's bitmap shows (R318). -/
def bitmapChunks (kind : Nat) (gs : List Byte) : Nat := if kind = 2 then collChunks 2 gs else blockChunks gs

/-- The operation that a COLL enters the queue with: its group as read, its ranges translated, its check to send to both neighbours. -/
def collOp (i : Instr) (gv dv : Word) (tag : BitVec 8) (gp src dst pm : List (Nat × Nat)) (gs : List Byte) (t : State) : FabOp :=
  let kind := (collForm i).1
  let e := (collForm i).2.width / 8
  { newOp i tag.toNat (e * collDstCount kind gs) t with
    locals := dst, src := src, pm := pm, gpa := (gp.headD (0, 0)).1, group := gs,
    todo := [.check (nextRank gs), .check (prevRank gs)],
    wr := [(dv.toNat, e * collDstCount kind gs), (gv.toNat + 24, 8), ((gPmap gs).toNat, (bitmapChunks kind gs + 7) / 8)] }

/-- The state in which a COLL has joined the queue, its status not yet written. -/
def collSent (i : Instr) (gv dv : Word) (tag : BitVec 8) (gp src dst pm : List (Nat × Nat)) (gs : List Byte) (t : State) : State :=
  pushFab (collOp i gv dv tag gp src dst pm gs t)
    (commitTask (chargeAll t.core.seq.eff (gp ++ [((gp.headD (0, 0)).1 + 24, 8)]) t))

theorem sendColl_queues {i : Instr} {g sr d : SReg} {tag : BitVec 8} {s s1 s2 s3 s4 : State} {gp src dst pm : List (Nat × Nat)}
    (hg : (getS s g).toNat % 64 = 0) (hs : (getS s sr).toNat % ((collForm i).2.width / 8) = 0)
    (hd : (getS s d).toNat % ((collForm i).2.width / 8) = 0) (hq : (fabOf s).length < 32) (hn : ((fabOf s).filter FabOp.isColl).length < 4)
    (hp : heldByPoint s s.core .f (nextNum s) = false) (h1 : transRange false .rw (getS s g) 192 s = (.ok gp, s1))
    (ho : ((fabOf s1).any fun o => overlaps (o.reads ++ o.writes) gp) = false) (hb : bytesOk s1 s1.core.seq.eff gp = true)
    (hx : poisonedP s1 gp = false) (hm : groupBad (readP s1 gp) = false)
    (h2 : transRange false .r (getS s sr) ((collForm i).2.width / 8 * collSrcCount (collForm i).1 (readP s1 gp)) s1 = (.ok src, s2))
    (h3 : transRange false .w (getS s d) ((collForm i).2.width / 8 * collDstCount (collForm i).1 (readP s1 gp)) s2 = (.ok dst, s3))
    (h4 : transRange false .w (gPmap (readP s1 gp)) ((bitmapChunks (collForm i).1 (readP s1 gp) + 7) / 8) s3 = (.ok pm, s4)) :
    sendColl i g sr d tag s =
      done ((collSent i (getS s g) (getS s d) tag gp src dst pm (readP s1 gp) s4).wr ((gp.headD (0, 0)).1 + 24) 8 0xFF) := by
  have hw : ¬(32 ≤ (fabOf s).length ∨ 4 ≤ ((fabOf s).filter FabOp.isColl).length ∨ heldByPoint s s.core .f (nextNum s) = true) := by
    simp [hp]; omega
  unfold bitmapChunks at h4
  unfold sendColl
  simp only [hg, hs, hd, if_neg hw, h1, ho, hb, hx, hm, h2, h3, h4]
  rfl

theorem exec_coll {i : Instr} {g sr d : SReg} {tag : BitVec 8} {ty : ETy}
    (hi : i ∈ [Instr.collAllreduce g sr d tag ty, .collRedscat g sr d tag ty, .collAllgather g sr d tag ty, .collBcast g sr d tag ty])
    (s : State) : exec i s = sendColl i g sr d tag s := by
  simp only [List.mem_cons, List.not_mem_nil, or_false] at hi
  obtain rfl | rfl | rfl | rfl := hi <;> rfl

/-- A COLL whose descriptor and ranges are as `sendColl_queues` asks joins the queue and marks its status as not complete. -/
theorem coll_joins {i : Instr} {s t : State} {gv dv : Word} {tag : BitVec 8} {gp src dst pm : List (Nat × Nat)} {gs : List Byte}
    (ht : TlbOnly s t) (hw : MemWf s.mem)
    (he : exec i s = done ((collSent i gv dv tag gp src dst pm gs t).wr ((gp.headD (0, 0)).1 + 24) 8 0xFF)) :
    QueuesFab i s true [((gp.headD (0, 0)).1 + 24, 8)]
      (fun o => o.src = src ∧ o.locals = dst ∧ o.pm = pm ∧ o.gpa = (gp.headD (0, 0)).1 ∧ o.group = gs ∧ o.tag = tag.toNat ∧ o.checks = [] ∧
        o.todo = [.check (nextRank gs), .check (prevRank gs)])
      fun u => memRead u.mem ((gp.headD (0, 0)).1 + 24) 8 = 0xFF ∧ u.out = s.out := by
  have hc : Committed true s (commitTask (chargeAll t.core.seq.eff (gp ++ [((gp.headD (0, 0)).1 + 24, 8)]) t)) := committed_charged ht _ _
  have hm : (collSent i gv dv tag gp src dst pm gs t).mem = s.mem := by rw [collSent, pushFab_mem, hc.mem]
  have ho : (collSent i gv dv tag gp src dst pm gs t).out = s.out := by rw [collSent, pushFab_out, hc.out]
  have hw' : MemWf (collSent i gv dv tag gp src dst pm gs t).mem := by rw [hm]; exact hw
  refine queuesFab_of_push he hc (memOnly_wr _ _ _ _) (fun a ha => ?_) (task_of_translated ht ⟨rfl, rfl, rfl, rfl⟩)
    ⟨rfl, rfl, rfl, rfl, rfl, rfl, rfl, rfl⟩ ⟨?_, ho⟩
  · rw [memKeptOff_wr hw' _ _ _ a ha]
    unfold byteAt
    rw [hm]
  · exact rd_wr hw' _ 8 0xFF

/-! ### FSTAT -/

/-- The numbers that FSTAT gives a word for: a port's or the core's (R315). -/
theorem fstat_named {x : Word} (h : x.toNat < 24 ∨ x = 255) : (decide (24 ≤ x.toNat) && decide (x ≠ 255)) = false := by
  rw [Bool.and_eq_false_iff, decide_eq_false_iff_not, decide_eq_false_iff_not, not_not, Nat.not_le]
  exact h

theorem execFstat_of_room {d r : SReg} {s : State} (hq : (fabOf s).length < 32) (hr : (getS s r).toNat < 24 ∨ getS s r = 255) :
    execFstat d r s = putS d (match s.ports[(getS s r).toNat]? with
      | some p => portWord p
      | none => summaryWord s) s := by
  unfold execFstat
  extract_lets x
  rw [fstat_named hr, if_neg (by simp), if_neg (by omega)]
  rfl

theorem execFstat_waits {d r : SReg} {s : State} (hq : ¬(fabOf s).length < 32) (hr : (getS s r).toNat < 24 ∨ getS s r = 255) :
    execFstat d r s = stall false s := by
  unfold execFstat
  extract_lets x
  rw [fstat_named hr, if_neg (by simp), if_pos (by omega)]

theorem execFstat_unnamed {d r : SReg} {s : State} (h : 24 ≤ (getS s r).toNat) (h2 : getS s r ≠ 255) :
    execFstat d r s = illegalVal (getS s r) s :=
  if_pos (Bool.and_eq_true_iff.mpr ⟨decide_eq_true h, decide_eq_true h2⟩)

theorem fstat_port {d r : SReg} {s : State} {p : Fin 24} (hr : getS s r = BitVec.ofNat 64 p.val) (hq : (fabOf s).length < 32) :
    Puts (.fstat d r) s d (portWord s.ports[p]) := by
  have hp : (getS s r).toNat = p.val := by rw [hr, BitVec.toNat_ofNat]; omega
  refine puts_of_putS ((execFstat_of_room hq (.inl (by omega))).trans ?_)
  rw [hp, Vector.getElem?_eq_getElem p.isLt]
  rfl

theorem fstat_core {d r : SReg} {s : State} (hr : getS s r = 255) (hq : (fabOf s).length < 32) :
    Puts (.fstat d r) s d (summaryWord s) := by
  refine puts_of_putS ((execFstat_of_room hq (.inr hr)).trans ?_)
  rw [hr, Vector.getElem?_eq_none (by decide)]

/-- Settles O52: a copy, a signal and a collective join the queue with the operation that `copyOp`, `sigOp` and `collOp` give; FFENCE looks at
the queue, FSTAT at its register and the queue's room. -/
theorem fabricDispatch : Obligations.FabricDispatch := by
  unfold Obligations.FabricDispatch
  intro r l n d g sr tag count ty s rv lv nv room
  refine ⟨fun put i hi hr hl hn hm => ?_, fun hn hr hl hm hc => ⟨?_, ?_⟩, fun rem s1 hc hr hq h1 => ?_,
    fun i gp src dst pm s1 s2 s3 s4 => ?_, fun hf => ?_, fun hf => ?_, fun p hp hq => ?_, fun hp hq => ?_, fun hp hq => ?_, fun h h2 hc => ?_⟩
  · have he : exec i s = fabCopy put i r l n tag s := by rw [hi]; exact exec_fabCopy put r l n tag s
    refine ⟨fun h0 => ?_, fun rem loc s1 s2 h0 hq h1 h2 => ?_⟩
    · exact fabCopy_zero_moves he hr hl h0
    · exact fabCopy_joins he hr hl hn hm h0 hq h1 h2
  · exact enters_of_raise hc (fabCopy_misaligned hr hl hn hm)
  · exact enters_of_raise hc (fabCopy_misaligned hr hl hn hm)
  · have ht := tlbOnly_transRange h1
    exact queuesFab_of_push (execFsig_queues hc hr hq h1) (committed_true ht) (MemOnly.refl _)
      (memKeptOff_of_mem [] (committed_true ht).mem) (task_of_translated ht ⟨rfl, rfl, rfl, rfl⟩) rfl trivial
  · intro kind e gs nbit gpa hi hw hg hs hd hq hn hp h1 ho hb hx hm h2 h3 h4
    have ht := (tlbOnly_transRange h1).trans ((tlbOnly_transRange h2).trans ((tlbOnly_transRange h3).trans (tlbOnly_transRange h4)))
    exact coll_joins ht hw ((exec_coll hi s).trans (sendColl_queues hg hs hd hq hn hp h1 ho hb hx hm h2 h3 h4))
  · exact continues_of_done (if_pos (by simp [hf]))
  · exact waits_of_stall (point := false) (if_neg (by simp [hf]))
  · exact fstat_port hp hq
  · exact fstat_core hp hq
  · exact waits_of_stall (execFstat_waits hq hp)
  · exact enters_of_raise hc (execFstat_unnamed h h2)

end Sys2Proof.Proofs
end

section
/-! Elements of registers as numbers: what a bit range holds after another has been written, and what a register holds after an element has
been put into it (R185). -/

namespace Sys2Proof.Proofs

open Sys2Proof.Machine Sys2Proof.Safety

theorem testBit_bits (n lo w i : Nat) : (bits n lo w).testBit i = (decide (i < w) && n.testBit (lo + i)) := by
  rw [bits, Nat.testBit_mod_two_pow, Nat.testBit_div_two_pow, Nat.add_comm]

/-- A number after a write of a bit range: the parts below and above, with the new one between them. -/
theorem putBits_eq (x lo w y : Nat) : putBits x lo w y = 2 ^ lo * (2 ^ w * (x / 2 ^ lo / 2 ^ w) + y % 2 ^ w) + x % 2 ^ lo := by
  have h1 := Nat.div_add_mod x (2 ^ lo)
  have h2 := Nat.div_add_mod (x / 2 ^ lo) (2 ^ w)
  have h3 : 2 ^ lo * (2 ^ w * (x / 2 ^ lo / 2 ^ w)) + 2 ^ lo * (x / 2 ^ lo % 2 ^ w) = 2 ^ lo * (x / 2 ^ lo) := by rw [← Nat.mul_add, h2]
  unfold putBits
  rw [Nat.mul_add, Nat.mul_comm (x / 2 ^ lo % 2 ^ w), Nat.mul_comm (y % 2 ^ w)]
  omega

theorem testBit_putBits (x lo w y i : Nat) :
    (putBits x lo w y).testBit i = if i < lo then x.testBit i else if i < lo + w then y.testBit (i - lo) else x.testBit i := by
  rw [putBits_eq, Nat.testBit_two_pow_mul_add _ (Nat.mod_lt _ (Nat.two_pow_pos lo))]
  split
  · next h => rw [Nat.testBit_mod_two_pow]; simp [h]
  · next h =>
    rw [Nat.testBit_two_pow_mul_add _ (Nat.mod_lt _ (Nat.two_pow_pos w))]
    by_cases hw : i < lo + w
    · rw [if_pos hw, if_pos (by omega), Nat.testBit_mod_two_pow]
      simp; omega
    · rw [if_neg hw, if_neg (by omega), Nat.testBit_div_two_pow, Nat.testBit_div_two_pow]
      congr 1
      omega

theorem bits_putBits_self (x lo w y : Nat) : bits (putBits x lo w y) lo w = y % 2 ^ w := by
  refine Nat.eq_of_testBit_eq fun i => ?_
  rw [testBit_bits, testBit_putBits, Nat.testBit_mod_two_pow]
  by_cases h : i < w
  · rw [if_neg (by omega), if_pos (by omega), Nat.add_sub_cancel_left]
  · simp [h]

/-- A bit range beside the one written holds what it held. -/
theorem bits_putBits_disjoint {x lo w y l k : Nat} (h : l + k ≤ lo ∨ lo + w ≤ l) : bits (putBits x lo w y) l k = bits x l k := by
  refine Nat.eq_of_testBit_eq fun i => ?_
  rw [testBit_bits, testBit_bits, testBit_putBits]
  by_cases hi : i < k
  · obtain h | h := h
    · rw [if_pos (by omega)]
    · rw [if_neg (by omega), if_neg (by omega)]
  · simp [hi]

theorem putBits_lt {x lo w y n : Nat} (hx : x < 2 ^ n) (h : lo + w ≤ n) : putBits x lo w y < 2 ^ n := by
  refine Nat.lt_pow_two_of_testBit _ fun i hi => ?_
  rw [testBit_putBits, if_neg (by omega), if_neg (by omega)]
  exact Nat.testBit_lt_two_pow (lt_of_lt_of_le hx (Nat.pow_le_pow_right (by omega) hi))

theorem lt_of_eq_toNat {n m : Nat} {b : BitVec n} (h : m = b.toNat) : m < 2 ^ n := h ▸ b.isLt

theorem toNat_ofNat_of_lt {n x : Nat} (h : x < 2 ^ n) : (BitVec.ofNat n x).toNat = x := by
  rw [BitVec.toNat_ofNat, Nat.mod_eq_of_lt h]

theorem regImg_lt (v : Vec) (slot : Nat) : regImg v slot < 2 ^ 8192 := by
  by_cases h1 : slot < 64
  · exact lt_of_eq_toNat (if_pos h1)
  · by_cases h2 : slot < 72
    · exact lt_of_eq_toNat ((if_neg h1).trans (if_pos h2))
    · exact lt_of_eq_toNat ((if_neg h1).trans (if_neg h2))

theorem regImg_setReg_self {v : Vec} {slot x : Nat} (h : slot < 72) (hx : x < 2 ^ 8192) (p : Nat) : regImg (setReg v slot x p) slot = x := by
  have hb : (BitVec.ofNat 8192 x).toNat = x := toNat_ofNat_of_lt hx
  unfold regImg setReg
  by_cases h1 : slot < 64
  · simp [h1, -BitVec.toNat_ofNat, hb]
  · have h2 : slot - 64 < 8 := by omega
    simp [h1, h, h2, -BitVec.toNat_ofNat, hb]

theorem regImg_setReg_ne {v : Vec} {slot q : Nat} (h : slot < 72) (hq : q < 72) (hne : q ≠ slot) (x p : Nat) :
    regImg (setReg v slot x p) q = regImg v q := by
  unfold regImg setReg
  by_cases h1 : slot < 64 <;> by_cases h2 : q < 64
  · simp [h1, h2, Vector.getElem_setIfInBounds_ne, hne.symm]
  · simp [h1, h2, hq]
  · simp [h1, h2, h]
  · have h3 : slot - 64 ≠ q - 64 := by omega
    simp [h1, h2, h, hq, Vector.getElem?_setIfInBounds_ne h3]

/-- An element written is a bit range written. -/
theorem regImg_putElem {v : Vec} {slot w e : Nat} (h : slot < 72) (hw : w * e + w ≤ 8192) (x : Nat) :
    regImg (putElem v slot w e x) slot = putBits (regImg v slot) (w * e) w x :=
  regImg_setReg_self h (putBits_lt (regImg_lt v slot) hw) _

theorem regImg_putElem_ne {v : Vec} {slot q : Nat} (h : slot < 72) (hq : q < 72) (hne : q ≠ slot) (w e x : Nat) :
    regImg (putElem v slot w e x) q = regImg v q := regImg_setReg_ne h hq hne _ _

theorem setReg_loads (v : Vec) (slot x p : Nat) : (setReg v slot x p).loads = v.loads := by
  unfold setReg
  split
  · rfl
  · split <;> rfl

@[simp] theorem putElem_loads (v : Vec) (slot w e x : Nat) : (putElem v slot w e x).loads = v.loads := setReg_loads v slot _ _

/-- Two elements of one width lie beside each other. -/
theorem elem_disjoint {w e k : Nat} (h : k ≠ e) : w * k + w ≤ w * e ∨ w * e + w ≤ w * k := by
  rcases Nat.lt_or_gt_of_ne h with h | h
  · exact .inl (by rw [← Nat.mul_succ]; exact Nat.mul_le_mul_left w h)
  · exact .inr (by rw [← Nat.mul_succ]; exact Nat.mul_le_mul_left w h)

/-- An element after a write: the value written, cut to the width, or what it was. -/
theorem elem_putElem {v : Vec} {slot w e : Nat} (h : slot < 72) (hw : w * e + w ≤ 8192) (x k : Nat) :
    bits (regImg (putElem v slot w e x) slot) (w * k) w = if k = e then x % 2 ^ w else bits (regImg v slot) (w * k) w := by
  rw [regImg_putElem h hw]
  split
  · next hk => rw [hk, bits_putBits_self]
  · next hk => exact bits_putBits_disjoint (elem_disjoint hk)

end Sys2Proof.Proofs
end

section
/-! Vector loads at issue and at completion (R11, R233 to R236). -/

namespace Sys2Proof.Proofs

open Sys2Proof.Machine Sys2Proof.Safety

/-! ### Translating the elements of an instruction -/

theorem tlbOnly_transPage (i : Instr) (memo : PageMemo) (va : Nat) (s : State) : TlbOnly s (transPage i memo va s).2.2 := by
  unfold transPage
  extract_lets go p put
  have hgo : ∀ a, TlbOnly s (go a s).2 := fun a => by
    have h := tlbOnly_translateFor (memSite s.core.id i) (some s.core.id) s.core.seq.eff .v (memAcc i) {} (BitVec.ofNat 64 a) s
    unfold go
    generalize translateFor _ _ _ _ _ _ _ _ = x at h ⊢
    obtain ⟨_ | _, u⟩ := x <;> exact h
  split
  · exact hgo va
  · split
    · exact TlbOnly.refl s
    · exact hgo (p * 4096)

/-- Translating every access changes nothing but the structures it looks in. -/
theorem tlbOnly_transAll (i : Instr) (l : List (Nat × Nat)) : ∀ memo s, TlbOnly s (transAll i l memo s).2.2 := by
  induction l with
  | nil => exact fun _ => TlbOnly.refl
  | cons c l ih =>
    intro memo s
    have h := tlbOnly_transPage i memo c.2 s
    rw [transAll]
    generalize transPage i memo c.2 s = x at h ⊢
    obtain ⟨x, memo1, s1⟩ := x
    have hr := h.trans (ih memo1 s1)
    dsimp only
    generalize transAll i l memo1 s1 = y at hr ⊢
    cases x <;> exact hr

theorem transAll_tlbOnly {i : Instr} {l : List (Nat × Nat)} {memo : PageMemo} {s s1 : State} {ok : List (Nat × Nat × Phys)}
    {bad : List BadAccess} (h : transAll i l memo s = (ok, bad, s1)) : TlbOnly s s1 := by
  simpa [h] using tlbOnly_transAll i l memo s

/-! ### Issue -/

theorem any_not_ready {l : List HOp} (h : ∀ o ∈ l, o.ready = true) : (l.any fun o => !o.ready) = false := by
  simpa using h

/-- A load that translates whole and has nothing else to do at issue is on its way. -/
theorem issueLoad_plain {c : Nat} {e : VEntry} {r : List VEntry} {ok : List (Nat × Nat × Phys)} {s s1 : State} (h : CanIssue s c .vlq e r)
    (ht : transAll e.instr (memElems (focus s c).core.vec e.env e.instr) [] (focus s c) = (ok, [], s1))
    (hi : (∃ d b disp m ps ty, e.instr = .vld d b disp m ps ty) ∨ (∃ d b x disp m ps ty, e.instr = .vlds d b x disp m ps ty) ∨
      (∃ d b w disp m ps ty, e.instr = .vldW d b disp w m ps ty ∧ markReached (focus s c) e w = true) ∨
      (∃ d b idx k m ps ty, e.instr = .vgath d b idx k m ps ty)) :
    issueLoad (focus s c) = startLoad e r ok e.env.vl none s1 := by
  obtain ⟨hq, _, hmay, hw, hp, hpar, _⟩ := h
  have hq : (focus s c).core.vec.vlq = e :: r := hq
  have hw := any_not_ready hw
  unfold issueLoad
  obtain ⟨i, env, replay, pub, pa, rest, stale⟩ := e
  obtain ⟨d, b, disp, m, ps, ty, rfl⟩ | ⟨d, b, x, disp, m, ps, ty, rfl⟩ | ⟨d, b, w, disp, m, ps, ty, rfl, hm⟩ | ⟨d, b, idx, k, m, ps, ty, rfl⟩ := hi
  · simp only [hq, hmay, hw, hp, hpar, tableParity, ht]
    rfl
  · simp only [hq, hmay, hw, hp, hpar, tableParity, ht]
    rfl
  · simp only [hq, hmay, hw, hp, hpar, tableParity, ht, hm]
    rfl
  · simp only [hq, hmay, hw, hp, hpar, tableParity, ht]
    rfl

theorem issueLoad_firstFault {c : Nat} {e : VEntry} {r : List VEntry} {ok : List (Nat × Nat × Phys)} {s s1 : State} {d : VDst} {b x : SReg}
    {disp : BitVec 14} {m : MReg} {ps : PReg} {ty : ETy} (h : CanIssue s c .vlq e r) (hi : e.instr = .vldff d b x disp m ps ty)
    (ht : transAll e.instr (memElems (focus s c).core.vec e.env e.instr) [] (focus s c) = (ok, [], s1)) :
    issueLoad (focus s c) = endFirstFault e x e.env.vl false (startLoad e r ok e.env.vl none s1) := by
  obtain ⟨hq, _, hmay, hw, hp, hpar, _⟩ := h
  have hq : (focus s c).core.vec.vlq = e :: r := hq
  have hw := any_not_ready hw
  unfold issueLoad
  obtain ⟨i, env, replay, pub, pa, rest, stale⟩ := e
  obtain rfl : i = _ := hi
  simp only [hq, hmay, hw, hp, hpar, tableParity, ht]
  rfl

/-- The load that an entry becomes. -/
def loadOf (e : VEntry) (ok : List (Nat × Nat × Phys)) (lim : Nat) (md : Option (MReg × Nat)) : VLoad :=
  let f := formOf e.instr
  { env := e.env, instr := e.instr, dests := slotsOf e.env.rot f.dest ++ slotsOf e.env.rot f.dest2 ++ f.mw.flatMap maskId,
    cells := ok.map (fun p => (p.1, p.2.2.pa)), vas := ok.map (fun p => p.2.1), limit := lim, hs := ok.any fun p => p.2.2.hs, md := md }

theorem startLoad_eq (e : VEntry) (r : List VEntry) (ok : List (Nat × Nat × Phys)) (lim : Nat) (md : Option (MReg × Nat)) (s : State) :
    startLoad e r ok lim md s = setVec s { s.core.vec with vlq := r, loads := s.core.vec.loads ++ [loadOf e ok lim md] } := rfl

/-- The end of a VLDFF leaves the queues, the loads and the registers of the vector state. -/
theorem unblock_frame (n : Nat) (v : Vec) : unblock n v = { v with block := (unblock n v).block } := by
  unfold unblock
  split
  · split <;> rfl
  · rfl

theorem landS_vec (r : SReg) (x : Word) (s : State) : (landS r x s).core.vec = s.core.vec := by simp [landS]
theorem landS_mem (r : SReg) (x : Word) (s : State) : (landS r x s).mem = s.mem := by simp [landS]
theorem getS_landS {r : SReg} (h : r ≠ 0) (x : Word) (s : State) : getS (landS r x s) r = x := getS_setS_self s r x h

/-- What a load that has started has changed of a state `s`, translations aside. -/
theorem startLoad_frame {s s1 : State} (h : TlbOnly s s1) (e : VEntry) (r : List VEntry) (ok : List (Nat × Nat × Phys)) (lim : Nat)
    (md : Option (MReg × Nat)) : (startLoad e r ok lim md s1).core.vec =
      { s.core.vec with vlq := r, loads := s.core.vec.loads ++ [loadOf e ok lim md] } ∧ (startLoad e r ok lim md s1).mem = s.mem := by
  rw [startLoad_eq, setVec_vec, setVec_mem, h.core, h.mem]
  exact ⟨rfl, rfl⟩

/-- The same once a VLDFF has given its VL to `x` (R235). -/
theorem endFirstFault_frame {s s1 : State} (h : TlbOnly s s1) (e : VEntry) (r : List VEntry) (ok : List (Nat × Nat × Phys)) (x : SReg) :
    ∃ B, (endFirstFault e x e.env.vl false (startLoad e r ok e.env.vl none s1)).core.vec =
        { s.core.vec with vlq := r, loads := s.core.vec.loads ++ [loadOf e ok e.env.vl none], block := B } ∧
      (endFirstFault e x e.env.vl false (startLoad e r ok e.env.vl none s1)).mem = s.mem := by
  obtain ⟨hv, hm⟩ := startLoad_frame h e r ok e.env.vl none
  refine ⟨(unblock e.env.seqn (startLoad e r ok e.env.vl none s1).core.vec).block, ?_, ?_⟩
  · rw [endFirstFault, landS_vec, if_neg (by simp), setVec_vec, unblock_frame, hv]
  · rw [endFirstFault, landS_mem, setVec_mem, hm]

/-- What `VectorLoads` says of a load at issue, `reg` being what it says of the register of a VLDFF. -/
theorem load_started {u : State} {v : Vec} {s : State} {c : Nat} {e : VEntry} {r : List VEntry} {ok : List (Nat × Nat × Phys)} {b : Option Block}
    {reg : Prop} (hv : u.core.vec = { v with vlq := r, loads := v.loads ++ [loadOf e ok e.env.vl none], block := b })
    (hm : u.mem = (focus s c).mem) (hr : reg) :
    u.core.vec.vlq = r ∧ u.core.vec.loads = v.loads ++ [loadOf e ok e.env.vl none] ∧ (loadOf e ok e.env.vl none).instr = e.instr ∧
      (loadOf e ok e.env.vl none).env = e.env ∧ (loadOf e ok e.env.vl none).cells = (ok.map fun p => (p.1, p.2.2.pa)) ∧
      (loadOf e ok e.env.vl none).vas = (ok.map fun p => p.2.1) ∧ u.core.vec.v = v.v ∧ u.core.vec.o = v.o ∧ MemKept s u ∧ reg := by
  rw [hv]
  exact ⟨rfl, rfl, rfl, rfl, rfl, rfl, rfl, rfl, memKept_of_mem (by rw [hm, focus_mem]), hr⟩

/-! ### Completion -/

theorem plain_ne_q4 {t : ETy} (h : t.isPlain = true) : t ≠ .q4 := by
  rintro rfl
  cases h

theorem accSize_plain {t : ETy} (h : t.isPlain = true) : accSize t = t.width / 8 := by
  rw [accSize, if_neg (plain_ne_q4 h)]

theorem pow_bytes_plain {t : ETy} (h : t.isPlain = true) : 256 ^ (t.width / 8) = 2 ^ t.width := by
  revert h
  cases t <;> decide

theorem landLoad_vec {t : ETy} (ht : t.isPlain = true) (d el pa : Nat) (s : State) :
    (landLoad d t el pa s).core.vec = putElem s.core.vec d t.width el (s.rd pa (t.width / 8)) := by
  unfold landLoad
  simp only [if_neg (plain_ne_q4 ht), accSize_plain ht]
  unfold takePoison addPsn dropPsn
  split <;> rfl

@[simp] theorem landLoad_mem (d : Nat) (t : ETy) (el pa : Nat) (s : State) : (landLoad d t el pa s).mem = s.mem := rfl

@[simp] theorem landLoad_seq (d : Nat) (t : ETy) (el pa : Nat) (s : State) : (landLoad d t el pa s).core.seq = s.core.seq := by
  unfold landLoad takePoison addPsn dropPsn
  simp only
  split <;> rfl

/-- The elements of a load land one after the other. -/
def landCells (d : Nat) (t : ETy) (cells : List (Nat × Nat)) (s : State) : State := cells.foldl (fun u c => landLoad d t c.1 c.2 u) s

theorem landCells_cons (d : Nat) (t : ETy) (c : Nat × Nat) (cs : List (Nat × Nat)) (s : State) :
    landCells d t (c :: cs) s = landCells d t cs (landLoad d t c.1 c.2 s) := rfl

@[simp] theorem landCells_mem (d : Nat) (t : ETy) (cells : List (Nat × Nat)) : ∀ s, (landCells d t cells s).mem = s.mem := by
  induction cells with
  | nil => exact fun _ => rfl
  | cons c cs ih => exact fun s => by rw [landCells_cons, ih, landLoad_mem]

@[simp] theorem landCells_seq (d : Nat) (t : ETy) (cells : List (Nat × Nat)) : ∀ s, (landCells d t cells s).core.seq = s.core.seq := by
  induction cells with
  | nil => exact fun _ => rfl
  | cons c cs ih => exact fun s => by rw [landCells_cons, ih, landLoad_seq]

section
variable {d : Nat} {t : ETy} (hd : d < 72) (ht : t.isPlain = true)
include hd ht

/-- Elements that no cell names keep their bits. -/
theorem landCells_other (cells : List (Nat × Nat)) : ∀ s, (∀ p ∈ cells, t.width * p.1 + t.width ≤ 8192) → ∀ k, k ∉ cells.map Prod.fst →
    bits (regImg (landCells d t cells s).core.vec d) (t.width * k) t.width = bits (regImg s.core.vec d) (t.width * k) t.width := by
  induction cells with
  | nil => exact fun _ _ _ _ => rfl
  | cons c cs ih =>
    intro s hf k hk
    obtain ⟨hne, hk⟩ := not_or.mp (fun h => hk (List.mem_cons.mpr h))
    rw [landCells_cons, ih _ (fun p hp => hf p (List.mem_cons_of_mem _ hp)) k hk, landLoad_vec ht,
      elem_putElem hd (hf c List.mem_cons_self), if_neg hne]

/-- An element that a cell names holds the bytes at the cell's address. -/
theorem landCells_elem (cells : List (Nat × Nat)) : ∀ s, (∀ p ∈ cells, t.width * p.1 + t.width ≤ 8192) → (cells.map Prod.fst).Nodup →
    ∀ p ∈ cells, bits (regImg (landCells d t cells s).core.vec d) (t.width * p.1) t.width = memRead s.mem p.2 (t.width / 8) := by
  induction cells with
  | nil => exact fun _ _ _ p hp => absurd hp List.not_mem_nil
  | cons c cs ih =>
    intro s hf hn p hp
    obtain ⟨hc, hn⟩ := List.nodup_cons.mp hn
    have hf' : ∀ p ∈ cs, t.width * p.1 + t.width ≤ 8192 := fun p hp => hf p (List.mem_cons_of_mem _ hp)
    rw [landCells_cons]
    obtain rfl | hp := List.mem_cons.mp hp
    · rw [landCells_other hd ht cs _ hf' _ hc, landLoad_vec ht, elem_putElem hd (hf p List.mem_cons_self), if_pos rfl, ← pow_bytes_plain ht]
      exact Nat.mod_eq_of_lt (memRead_lt _ _ _)
    · rw [ih _ hf' hn p hp, landLoad_mem]

/-- Every other register keeps what it held. -/
theorem landCells_reg (cells : List (Nat × Nat)) : ∀ s q, q < 72 → q ≠ d → regImg (landCells d t cells s).core.vec q = regImg s.core.vec q := by
  induction cells with
  | nil => exact fun _ _ _ _ => rfl
  | cons c cs ih =>
    intro s q hq hne
    rw [landCells_cons, ih _ q hq hne, landLoad_vec ht, regImg_putElem_ne hd hq hne]

end

theorem landCells_loads {t : ETy} (ht : t.isPlain = true) (d : Nat) (cells : List (Nat × Nat)) :
    ∀ s, (landCells d t cells s).core.vec.loads = s.core.vec.loads := by
  induction cells with
  | nil => exact fun _ => rfl
  | cons c cs ih => exact fun s => by rw [landCells_cons, ih, landLoad_vec ht, putElem_loads]

/-- A load of one destination lands its cells in it, once the marks of what it writes whole are gone (R325). -/
theorem landAll_single {l : VLoad} {d : Nat} (hm : l.md = none) (hd : slotsOf l.env.rot (formOf l.instr).dest = [d])
    (hc : ∀ p ∈ l.cells, p.1 < 1024) (s : State) :
    ∃ P Q, landAll l s = landCells d (memTy l.instr) l.cells { s with core := { s.core with psnV := P, psnT := Q } } := by
  have hval : (l.cells.filter fun c => decide (c.1 < 1024)) = l.cells := List.filter_eq_self.mpr fun p hp => decide_eq_true (hc p hp)
  have hidx : (l.cells.filter fun c => decide (1024 ≤ c.1)) = [] := List.filter_eq_nil_iff.mpr fun p hp => by
    have := hc p hp
    simpa using this
  unfold landAll
  simp only [hm, hd, hval, hidx]
  exact ⟨_, _, rfl⟩

/-- A load whose translations stand and that may be performed lands, its bytes charged. -/
theorem completeLoad_ready {n : Nat} {l : VLoad} {s : State} (hl : (s.core.vec.loads.find? fun x => decide (x.env.seqn = n)) = some l)
    (hu : ∀ x ∈ s.core.vec.loads, x.env.seqn = n → x = l) (hs : l.stale = false) (hr : loadReady s l = true) :
    completeLoad n s = landAll l (chargeAll s.core.seq.eff (loadBytes l)
      (setVec s { s.core.vec with loads := s.core.vec.loads.filter fun x => decide (x.env.seqn ≠ n) })) := by
  have hre : reload l s = (some l, s) := by simp [reload, hs]
  have hmap : (s.core.vec.loads.map fun x => if x.env.seqn = n then l else x) = s.core.vec.loads := by
    refine (List.map_congr_left fun x hx => ?_).trans (List.map_id _)
    split
    · next h => exact (hu x hx h).symm
    · rfl
  have hsame : setVec s { s.core.vec with loads := s.core.vec.loads.map fun x => if x.env.seqn = n then l else x } = s := by rw [hmap]; rfl
  unfold completeLoad
  simp only [hl, hre, hsame, hr]
  rfl

/-- The state in which the load `l` of number `n` has landed in register `d`. -/
theorem completeLoad_lands {n d : Nat} {l : VLoad} {s : State} (hl : (s.core.vec.loads.find? fun x => decide (x.env.seqn = n)) = some l)
    (hu : ∀ x ∈ s.core.vec.loads, x.env.seqn = n → x = l) (hs : l.stale = false) (hr : loadReady s l = true) (hm : l.md = none)
    (hd : slotsOf l.env.rot (formOf l.instr).dest = [d]) (hc : ∀ p ∈ l.cells, p.1 < 1024) :
    ∃ t, completeLoad n s = landCells d (memTy l.instr) l.cells t ∧
      t.core.vec = { s.core.vec with loads := s.core.vec.loads.filter fun x => decide (x.env.seqn ≠ n) } ∧ t.mem = s.mem ∧
      t.core.seq = s.core.seq := by
  rw [completeLoad_ready hl hu hs hr]
  obtain ⟨P, Q, h⟩ := landAll_single hm hd hc (chargeAll s.core.seq.eff (loadBytes l)
    (setVec s { s.core.vec with loads := s.core.vec.loads.filter fun x => decide (x.env.seqn ≠ n) }))
  exact ⟨_, h, by simp, by simp, by simp⟩

/-- Settles O39: at issue the entry becomes the load `loadOf`; at completion its cells land one after the other (`landCells`). -/
theorem vectorLoads : Obligations.VectorLoads := by
  unfold Obligations.VectorLoads
  refine ⟨?_, ?_⟩
  · intro c e r ok s s1 v h ht hi
    have hb := transAll_tlbOnly ht
    by_cases hf : ∃ d b x disp m ps ty, e.instr = .vldff d b x disp m ps ty
    · obtain ⟨d, b, x, disp, m, ps, ty, hf⟩ := hf
      have hp := issueLoad_firstFault h hf ht
      obtain ⟨B, hv, hm⟩ := endFirstFault_frame hb e r ok x
      rw [← hp] at hv hm
      refine ⟨issueLoad (focus s c), loadOf e ok e.env.vl none, rfl, load_started hv hm fun d' b' x' disp' m' ps' ty' hi' hx => ?_⟩
      rw [hf] at hi'
      cases hi'
      rw [hp]
      exact getS_landS hx _ _
    · have hp : issueLoad (focus s c) = startLoad e r ok e.env.vl none s1 := by
        refine issueLoad_plain h ht ?_
        obtain hi | hi | hi | hi | hi := hi
        · exact .inl hi
        · exact .inr (.inl hi)
        · exact absurd hi hf
        · exact .inr (.inr (.inl hi))
        · exact .inr (.inr (.inr hi))
      obtain ⟨hv, hm⟩ := startLoad_frame hb e r ok e.env.vl none
      rw [← hp] at hv hm
      exact ⟨issueLoad (focus s c), loadOf e ok e.env.vl none, rfl, load_started (b := v.block) hv hm
        fun d b x disp m ps ty hi => absurd ⟨d, b, x, disp, m, ps, ty, hi⟩ hf⟩
  · intro c n d l s v t hl hu hs hr hm hd hd72 ht hn hc
    obtain ⟨u, he, hv, hmem, hseq⟩ := completeLoad_lands hl hu hs hr hm hd fun p hp => (hc p hp).1
    have hfit : ∀ p ∈ l.cells, t.width * p.1 + t.width ≤ 8192 := fun p hp => (hc p hp).2
    refine ⟨landCells d t l.cells u, congrArg (fun x => Host.Outcome.next (focus x s.core.id)) he, ?_, fun p hp => ?_, fun k hk hkc => ?_, fun q hq hne => ?_, ?_, ?_⟩
    · rw [landCells_loads ht, hv]
    · rw [landCells_elem hd72 ht l.cells u hfit hn p hp, hmem, focus_mem]
    · rw [landCells_other hd72 ht l.cells u hfit k hkc, hv]
      rfl
    · rw [landCells_reg hd72 ht l.cells u q hq hne, hv]
      rfl
    · exact regsKept_of_regs [] (by rw [landCells_seq, hseq])
    · exact memKept_of_mem (by rw [landCells_mem, hmem, focus_mem])

end Sys2Proof.Proofs
end

section
/-! Vector stores at issue and at completion (R11, R72, R237). -/

namespace Sys2Proof.Proofs

open Sys2Proof.Machine Sys2Proof.Safety

/-! ### Issue -/

/-- No write of a store waits whose data is there (R190). -/
theorem splitWrites_ready (e : VEntry) {ws : List VWrite} (h : ∀ w ∈ ws, ∀ o ∈ w.vals, o.ready = true) : splitWrites e ws false = (ws, []) := by
  induction ws with
  | nil => rfl
  | cons w ws ih =>
    have hw : w.vals.all HOp.ready = true := List.all_eq_true.mpr (h w List.mem_cons_self)
    have hr := ih fun x hx => h x (List.mem_cons_of_mem _ hx)
    simp [splitWrites, hw, hr]

/-- The store that an entry becomes. -/
def storeOf (e : VEntry) (ws : List VWrite) : VStore := { env := e.env, instr := e.instr, writes := ws }

/-- A store whose elements translate and whose data is there is on its way. -/
theorem issueStore_plain {c : Nat} {e : VEntry} {r : List VEntry} {ok : List (Nat × Nat × Phys)} {s s1 : State} (h : CanIssue s c .vsq e r)
    (hu : usesPoison (focus s c) e = false)
    (ht : transAll e.instr (memElems (focus s c).core.vec e.env e.instr) [] (focus s c) = (ok, [], s1))
    (hr : ∀ w ∈ storeWrites (focus s c).core.vec (focus s c).core e ok, ∀ o ∈ w.vals, o.ready = true)
    (hi : (∃ a b disp m ps ty, e.instr = .vst a b disp m ps ty) ∨ (∃ a b x disp m ps ty, e.instr = .vsts a b x disp m ps ty) ∨
      (∃ a idx b k m ps ty, e.instr = .vscat a idx b k m ps ty) ∨ (∃ a idx b k m ps ty, e.instr = .vscadd a idx b k m ps ty)) :
    issueStore (focus s c) = setVec s1 { s1.core.vec with
      vsq := r, stores := s1.core.vec.stores ++ [storeOf e (storeWrites (focus s c).core.vec (focus s c).core e ok)],
      defer := s1.core.vec.defer ++ [] } := by
  obtain ⟨hq, _, hmay, hw, _, hpar, _⟩ := h
  have hq : (focus s c).core.vec.vsq = e :: r := hq
  have hw := any_not_ready hw
  have hsp := splitWrites_ready e hr
  unfold issueStore
  obtain ⟨i, env, replay, pub, pa, rest, stale⟩ := e
  obtain ⟨a, b, disp, m, ps, ty, rfl⟩ | ⟨a, b, x, disp, m, ps, ty, rfl⟩ | ⟨a, idx, b, k, m, ps, ty, rfl⟩ | ⟨a, idx, b, k, m, ps, ty, rfl⟩ := hi
  · simp only [hq, hmay, hw, hu, hpar, ht, hsp]
    rfl
  · simp only [hq, hmay, hw, hu, hpar, ht, hsp]
    rfl
  · simp only [hq, hmay, hw, hu, hpar, ht, hsp]
    rfl
  · simp only [hq, hmay, hw, hu, hpar, ht, hsp]
    rfl

/-! ### Poison and flags -/

@[simp] theorem clearPoison_mem (s : State) (ws : List (Nat × Nat)) : (clearPoison s ws).mem = s.mem := rfl
@[simp] theorem clearPoison_core (s : State) (ws : List (Nat × Nat)) : (clearPoison s ws).core = s.core := rfl
@[simp] theorem markPoison_mem (s : State) (pa n : Nat) : (markPoison s pa n).mem = s.mem := rfl
@[simp] theorem markPoison_core (s : State) (pa n : Nat) : (markPoison s pa n).core = s.core := rfl

/-- The marks of poison are neither memory nor a core's state (R325). -/
theorem markAll_frame (ws : List (Nat × Nat × Bool)) : ∀ s : State,
    (ws.foldl (fun t w => markPoison t w.1 w.2.1) s).mem = s.mem ∧ (ws.foldl (fun t w => markPoison t w.1 w.2.1) s).core = s.core := by
  induction ws with
  | nil => exact fun _ => ⟨rfl, rfl⟩
  | cons w ws ih => exact fun s => ih (markPoison s w.1 w.2.1)

@[simp] theorem coverPoison_mem (ws : List (Nat × Nat × Bool)) (s : State) : (coverPoison ws s).mem = s.mem := (markAll_frame _ _).1
@[simp] theorem coverPoison_core (ws : List (Nat × Nat × Bool)) (s : State) : (coverPoison ws s).core = s.core := (markAll_frame _ _).2

@[simp] theorem mergeFlags_defer (f : Flags) (i : Option Word) (v : Vec) : (mergeFlags f i v).defer = v.defer := rfl

/-! ### Performing one write -/

theorem perform_put_mem (env : VEnv) (a n : Nat) (xs : List Nat) (el : Nat) (psn : Bool) (s : State) :
    (perform env .put a n xs el psn s).mem = memWrite s.mem a n (xs.headD 0) := by
  unfold perform
  cases psn <;> rfl

theorem perform_put_core (env : VEnv) (a n : Nat) (xs : List Nat) (el : Nat) (psn : Bool) (s : State) :
    (perform env .put a n xs el psn s).core = s.core := by
  unfold perform
  cases psn <;> rfl

/-- VSCADD of one 32-bit integer adds it to what stands at its address (R237). -/
theorem perform_add_mem (env : VEnv) (a y el : Nat) (psn : Bool) (s : State) :
    (perform env (.add .s32) a 4 [y] el psn s).mem = memWrite s.mem a 4 ((memRead s.mem a 4 + y) % 2 ^ 32) := by
  unfold perform
  dsimp only
  split <;> rfl

theorem perform_add_seq (env : VEnv) (a y el : Nat) (psn : Bool) (s : State) :
    (perform env (.add .s32) a 4 [y] el psn s).core.seq = s.core.seq := by
  unfold perform
  dsimp only
  split <;> simp

theorem perform_add_defer (env : VEnv) (a y el : Nat) (psn : Bool) (s : State) :
    (perform env (.add .s32) a 4 [y] el psn s).core.vec.defer = s.core.vec.defer := by
  unfold perform
  dsimp only
  split <;> simp

/-! ### Completion -/

/-- A store none of whose translations was dropped is as it was. -/
theorem restoreStore_fresh {n : Nat} {x : VStore} {s : State} (hv : s.core.vec.stores = [x]) (hs : x.stale = false) (hd : s.core.vec.defer = []) :
    restoreStore n s = (true, s) := by
  unfold restoreStore
  simp [hv, hs, hd]

/-- The state in which the one write of a store is about to be performed, its bytes charged. -/
def storeTaken (x : VStore) (s : State) : State := chargeAll s.core.seq.eff (storeBytes x) (setVec s { s.core.vec with stores := [] })

@[simp] theorem storeTaken_mem (x : VStore) (s : State) : (storeTaken x s).mem = s.mem := by simp [storeTaken]
@[simp] theorem storeTaken_seq (x : VStore) (s : State) : (storeTaken x s).core.seq = s.core.seq := by simp [storeTaken]
@[simp] theorem storeTaken_vec (x : VStore) (s : State) : (storeTaken x s).core.vec = { s.core.vec with stores := [] } := by simp [storeTaken]

section
variable {n : Nat} {x : VStore} {w : VWrite} {s : State} (hv : s.core.vec.stores = [x]) (hn : x.env.seqn = n) (hs : x.stale = false)
  (ha : x.arr = none) (hw : x.writes = [w]) (hd : s.core.vec.defer = []) (hr : storeReady s x = true)
include hv hn hs ha hw hd hr

/-- A store with one write performs it; deferred writes it has none. -/
theorem completeStore_single (hk : (perform x.env w.kind w.addr w.n (w.vals.map HOp.val) w.elem w.psn (storeTaken x s)).core.vec.defer = []) :
    completeStore n s =
      coverPoison (coverWrites x) (perform x.env w.kind w.addr w.n (w.vals.map HOp.val) w.elem w.psn (storeTaken x s)) := by
  have hf : (s.core.vec.stores.find? fun t => decide (t.env.seqn = n)) = some x := by simp [hv, hn]
  have he : (s.core.vec.stores.filter fun t => decide (t.env.seqn ≠ n)) = [] := by simp [hv, hn]
  unfold completeStore
  simp only [restoreStore_fresh hv hs hd, hf, hr, he, ha, hw, List.foldl_cons, List.foldl_nil, if_true]
  change performDefers n (coverPoison _ (perform _ _ _ _ _ _ _ (storeTaken x s))).core.vec.defer _ = _
  rw [coverPoison_core, hk]
  rfl

theorem completeStore_put (hk : w.kind = .put) : (completeStore n s).mem = memWrite s.mem w.addr w.n ((w.vals.map HOp.val).headD 0) ∧
    (completeStore n s).core.seq = s.core.seq ∧ (completeStore n s).core.vec = { s.core.vec with stores := [] } := by
  have hp := completeStore_single hv hn hs ha hw hd hr (by rw [hk, perform_put_core, storeTaken_vec]; exact hd)
  rw [hk] at hp
  rw [hp, coverPoison_mem, coverPoison_core, perform_put_mem, perform_put_core, storeTaken_mem, storeTaken_seq, storeTaken_vec]
  exact ⟨rfl, rfl, rfl⟩

theorem completeStore_add {y : Nat} (hk : w.kind = .add .s32) (h4 : w.n = 4) (hy : w.vals.map HOp.val = [y]) :
    (completeStore n s).mem = memWrite s.mem w.addr 4 ((memRead s.mem w.addr 4 + y) % 2 ^ 32) ∧
      (completeStore n s).core.seq = s.core.seq := by
  have hp := completeStore_single hv hn hs ha hw hd hr (by rw [hk, h4, hy, perform_add_defer, storeTaken_vec]; exact hd)
  rw [hk, h4, hy] at hp
  rw [hp, coverPoison_mem, coverPoison_core, perform_add_mem, perform_add_seq, storeTaken_mem, storeTaken_seq]
  exact ⟨rfl, rfl⟩

end

/-- A write of memory changes the bytes it names alone. -/
theorem memKeptOutside_of_mem {s u : State} {a n x : Nat} (h : MemWf s.mem) (hm : u.mem = memWrite s.mem a n x) : MemKeptOutside a n s u :=
  fun b hb => by
    unfold byteAt
    rw [hm]
    exact memGet_wr_outside (s := s) h x hb

theorem vectorKept_of_vec {s u : State} {l : List VStore} (h : u.core.vec = { s.core.vec with stores := l }) : VectorKept s u := by
  unfold VectorKept
  rw [h]
  exact ⟨rfl, rfl, rfl, rfl, rfl, rfl, rfl, rfl, rfl, rfl, rfl, rfl, rfl, rfl, rfl, rfl, rfl⟩

/-- Settles O41: at issue every write is on its way, none deferred; at completion the one write is performed and poison marks alone follow. -/
theorem vectorStores : Obligations.VectorStores := by
  unfold Obligations.VectorStores
  refine ⟨?_, ?_⟩
  · intro c e r ok s s1 v h hu ht hr hi
    have hb := transAll_tlbOnly ht
    have hp := issueStore_plain h hu ht hr hi
    have hv : (issueStore (focus s c)).core.vec =
        { v with vsq := r, stores := v.stores ++ [storeOf e (storeWrites v (focus s c).core e ok)], defer := v.defer ++ [] } := by
      rw [hp, setVec_vec, hb.core]
    have hm : (issueStore (focus s c)).mem = s.mem := by rw [hp, setVec_mem, hb.mem, focus_mem]
    refine ⟨issueStore (focus s c), storeOf e (storeWrites v (focus s c).core e ok), rfl, ?_⟩
    rw [hv]
    exact ⟨rfl, rfl, rfl, rfl, rfl, List.append_nil _, memKept_of_mem hm, rfl⟩
  · intro c n x w s v hwf hv hn hs ha hw hd _ hr
    refine ⟨fun hk => ?_, fun y hk h4 hy => ?_⟩
    · obtain ⟨hm, hq, hc⟩ := completeStore_put hv hn hs ha hw hd hr hk
      rw [focus_mem] at hm
      refine ⟨completeStore n (focus s c), rfl, by rw [hc], ?_, memKeptOutside_of_mem hwf hm, regsKept_of_regs [] (by rw [hq]), vectorKept_of_vec hc⟩
      rw [hm, memRead_memWrite _ _ _ _ hwf, Nat.pow_mul]
    · obtain ⟨hm, hq⟩ := completeStore_add hv hn hs ha hw hd hr hk h4 hy
      rw [focus_mem] at hm
      refine ⟨completeStore n (focus s c), rfl, ?_, memKeptOutside_of_mem hwf hm, regsKept_of_regs [] (by rw [hq])⟩
      rw [hm, memRead_memWrite _ _ _ _ hwf]
      exact Nat.mod_mod _ _

end Sys2Proof.Proofs
end


section
/-! Fields of heads, tails and Beret words, and the codes of the operands in them (R27, R37 to R43, R128). -/

namespace Sys2Proof.Proofs

/-! ## Fields -/

theorem bits_lt (n lo w : Nat) : bits n lo w < 2 ^ w := Nat.mod_lt _ (Nat.two_pow_pos w)

/-- The number `v` fits a field of `w` bits. -/
def FitsIn (v w : Nat) : Prop := v < 2 ^ w

/-- Fields that lie below bit `hi`, the highest first, each below the one before it. -/
def Below : Nat → List (Nat × Nat) → Prop
  | _, [] => True
  | hi, (lo, v) :: r => lo ≤ hi ∧ FitsIn v (hi - lo) ∧ Below lo r

@[simp] theorem below_nil (hi : Nat) : Below hi [] := trivial

@[simp] theorem below_cons (hi lo v : Nat) (r : List (Nat × Nat)) :
    Below hi ((lo, v) :: r) ↔ lo ≤ hi ∧ FitsIn v (hi - lo) ∧ Below lo r := Iff.rfl

theorem pack_lt {hi : Nat} {l : List (Nat × Nat)} (h : Below hi l) : pack l < 2 ^ hi := by
  induction l generalizing hi with
  | nil => exact Nat.two_pow_pos hi
  | cons f r ih =>
    obtain ⟨hle, hv, hr⟩ := h
    obtain ⟨k, hk⟩ := Nat.exists_eq_add_of_le hle
    have hv : f.2 < 2 ^ k := by rwa [FitsIn, hk, Nat.add_sub_cancel_left] at hv
    calc f.2 * 2 ^ f.1 + pack r < f.2 * 2 ^ f.1 + 2 ^ f.1 := Nat.add_lt_add_left (ih hr) _
      _ = (f.2 + 1) * 2 ^ f.1 := (Nat.succ_mul _ _).symm
      _ ≤ 2 ^ k * 2 ^ f.1 := Nat.mul_le_mul_right _ hv
      _ = 2 ^ hi := by rw [hk, pow_add, Nat.mul_comm]

@[simp] theorem bits_pack_above {lo w : Nat} {r : List (Nat × Nat)} (h : Below lo r) : bits (pack r) lo w = 0 := by
  rw [bits, Nat.div_eq_of_lt (pack_lt h), Nat.zero_mod]

@[simp] theorem bits_pack_at {lo w v : Nat} {r : List (Nat × Nat)} (hv : FitsIn v w) (hr : Below lo r) :
    bits (pack ((lo, v) :: r)) lo w = v := by
  rw [pack, bits, Nat.add_comm, Nat.add_mul_div_right _ _ (Nat.two_pow_pos lo), Nat.div_eq_of_lt (pack_lt hr), Nat.zero_add,
    Nat.mod_eq_of_lt hv]

@[simp] theorem bits_pack_below {lo lo' w v : Nat} {r : List (Nat × Nat)} (h : lo' + w ≤ lo) :
    bits (pack ((lo, v) :: r)) lo' w = bits (pack r) lo' w := by
  obtain ⟨k, rfl⟩ := Nat.exists_eq_add_of_le h
  rw [pack, bits, bits, show v * 2 ^ (lo' + w + k) + pack r = pack r + v * 2 ^ k * 2 ^ w * 2 ^ lo' by ring,
    Nat.add_mul_div_right _ _ (Nat.two_pow_pos lo'), Nat.add_mul_mod_self_right]

theorem bits_eq_zero {n lo w : Nat} (h : FitsIn n lo) : bits n lo w = 0 := by rw [bits, Nat.div_eq_of_lt h, Nat.zero_mod]

theorem bits_zero_eq {n w : Nat} (h : FitsIn n w) : bits n 0 w = n := by rw [bits, pow_zero, Nat.div_one, Nat.mod_eq_of_lt h]

theorem bitAt_eq (n k : Nat) : bitAt n k = (bits n k 1 == 1) := by
  rw [bitAt, bits, pow_one]; rfl

@[simp] theorem bits_pack_lone (v lo w : Nat) : bits (pack [(0, v)]) lo w = bits v lo w := by simp [pack]

/-! ## Operands and their codes -/

theorem fitsIn_of_le {v w k : Nat} (hv : v < 2 ^ w) (h : w ≤ k) : FitsIn v k := hv.trans_le (Nat.pow_le_pow_right (by decide) h)

@[simp] theorem fitsIn_ofNat (n k : Nat) : FitsIn (no_index (OfNat.ofNat n)) k ↔ n < 2 ^ k := Iff.rfl

@[simp] theorem fitsIn_zero (k : Nat) : FitsIn 0 k := Nat.two_pow_pos k

@[simp] theorem fitsIn_one (k : Nat) : FitsIn 1 k ↔ 0 < k := by simp [FitsIn, Nat.pos_iff_ne_zero]

@[simp] theorem fitsIn_toNat {w k : Nat} (x : BitVec w) (h : w ≤ k) : FitsIn x.toNat k := fitsIn_of_le x.isLt h

@[simp] theorem fitsIn_boolToNat {k : Nat} (b : Bool) (h : 1 ≤ k) : FitsIn b.toNat k := fitsIn_of_le (w := 1) b.toNat_lt h

/-- A code table of `w` bits: what it writes it reads back, and what it reads it writes again. -/
structure Coded {α : Type} (code : α → Nat) (ofCode : Nat → Option α) (w : Nat) : Prop where
  read : ∀ t, ofCode (code t) = some t
  written : ∀ n t, ofCode n = some t → code t = n
  lt : ∀ t, code t < 2 ^ w

theorem ETy.coded : Coded ETy.code ETy.ofCode 4 where
  read t := by cases t <;> rfl
  written n t h := by unfold ETy.ofCode at h; split at h <;> cases h <;> rfl
  lt t := by cases t <;> decide

theorem Scope.coded : Coded Scope.code Scope.ofCode 3 where
  read t := by cases t <;> rfl
  written n t h := by unfold Scope.ofCode at h; split at h <;> cases h <;> rfl
  lt t := by cases t <;> decide

theorem Path.coded : Coded Path.code Path.ofCode 3 where
  read t := by cases t <;> rfl
  written n t h := by unfold Path.ofCode at h; split at h <;> cases h <;> rfl
  lt t := by cases t <;> decide

theorem Rm.coded : Coded Rm.code Rm.ofCode 3 where
  read t := by cases t <;> rfl
  written n t h := by unfold Rm.ofCode at h; split at h <;> cases h <;> rfl
  lt t := by cases t <;> decide

theorem Cc.coded : Coded Cc.code Cc.ofCode 3 where
  read t := by cases t <;> rfl
  written n t h := by unfold Cc.ofCode at h; split at h <;> cases h <;> rfl
  lt t := by cases t <;> decide

theorem CmpCc.coded : Coded CmpCc.code CmpCc.ofCode 3 where
  read t := by cases t <;> rfl
  written n t h := by unfold CmpCc.ofCode at h; split at h <;> cases h <;> rfl
  lt t := by cases t <;> decide

theorem AmoOp.coded : Coded AmoOp.code AmoOp.ofCode 4 where
  read t := by cases t <;> rfl
  written n t h := by unfold AmoOp.ofCode at h; split at h <;> cases h <;> rfl
  lt t := by cases t <;> decide

theorem NOp.coded : Coded NOp.code NOp.ofCode 2 where
  read t := by cases t <;> rfl
  written n t h := by unfold NOp.ofCode at h; split at h <;> cases h <;> rfl
  lt t := by cases t <;> decide

theorem Grp.coded : Coded Grp.code Grp.ofCode 2 where
  read t := by cases t <;> rfl
  written n t h := by unfold Grp.ofCode at h; split at h <;> cases h <;> rfl
  lt t := by cases t <;> decide

theorem PSet.coded : Coded PSet.code PSet.ofCode 3 where
  read t := by cases t <;> rfl
  written n t h := by unfold PSet.ofCode at h; split at h <;> cases h <;> rfl
  lt t := by cases t <;> decide

theorem OutTy.coded : Coded OutTy.code OutTy.ofCode 1 where
  read t := by cases t <;> rfl
  written n t h := by unfold OutTy.ofCode at h; split at h <;> cases h <;> rfl
  lt t := by cases t <;> decide

theorem RedOp.coded : Coded RedOp.code RedOp.ofCode 3 where
  read t := by cases t <;> rfl
  written n t h := by unfold RedOp.ofCode at h; split at h <;> cases h <;> rfl
  lt t := by cases t <;> decide

theorem VFile.coded : Coded VFile.code VFile.ofCode 2 where
  read t := by cases t <;> rfl
  written n t h := by unfold VFile.ofCode at h; split at h <;> cases h <;> rfl
  lt t := by cases t <;> decide

@[simp] theorem ofCode_code :
    (∀ t, ETy.ofCode (ETy.code t) = some t) ∧
    (∀ t, Scope.ofCode (Scope.code t) = some t) ∧
    (∀ t, Path.ofCode (Path.code t) = some t) ∧
    (∀ t, Rm.ofCode (Rm.code t) = some t) ∧
    (∀ t, Cc.ofCode (Cc.code t) = some t) ∧
    (∀ t, CmpCc.ofCode (CmpCc.code t) = some t) ∧
    (∀ t, AmoOp.ofCode (AmoOp.code t) = some t) ∧
    (∀ t, NOp.ofCode (NOp.code t) = some t) ∧
    (∀ t, Grp.ofCode (Grp.code t) = some t) ∧
    (∀ t, PSet.ofCode (PSet.code t) = some t) ∧
    (∀ t, OutTy.ofCode (OutTy.code t) = some t) ∧
    (∀ t, RedOp.ofCode (RedOp.code t) = some t) ∧
    (∀ t, VFile.ofCode (VFile.code t) = some t) :=
  ⟨ETy.coded.read, Scope.coded.read, Path.coded.read, Rm.coded.read, Cc.coded.read, CmpCc.coded.read, AmoOp.coded.read, NOp.coded.read,
    Grp.coded.read, PSet.coded.read, OutTy.coded.read, RedOp.coded.read, VFile.coded.read⟩

@[simp] theorem fitsIn_code {k : Nat} :
    (∀ t, 4 ≤ k → FitsIn (ETy.code t) k) ∧
    (∀ t, 3 ≤ k → FitsIn (Scope.code t) k) ∧
    (∀ t, 3 ≤ k → FitsIn (Path.code t) k) ∧
    (∀ t, 3 ≤ k → FitsIn (Rm.code t) k) ∧
    (∀ t, 3 ≤ k → FitsIn (Cc.code t) k) ∧
    (∀ t, 3 ≤ k → FitsIn (CmpCc.code t) k) ∧
    (∀ t, 4 ≤ k → FitsIn (AmoOp.code t) k) ∧
    (∀ t, 2 ≤ k → FitsIn (NOp.code t) k) ∧
    (∀ t, 2 ≤ k → FitsIn (Grp.code t) k) ∧
    (∀ t, 3 ≤ k → FitsIn (PSet.code t) k) ∧
    (∀ t, 1 ≤ k → FitsIn (OutTy.code t) k) ∧
    (∀ t, 3 ≤ k → FitsIn (RedOp.code t) k) ∧
    (∀ t, 2 ≤ k → FitsIn (VFile.code t) k) :=
  ⟨fun t => fitsIn_of_le (ETy.coded.lt t), fun t => fitsIn_of_le (Scope.coded.lt t), fun t => fitsIn_of_le (Path.coded.lt t),
    fun t => fitsIn_of_le (Rm.coded.lt t), fun t => fitsIn_of_le (Cc.coded.lt t), fun t => fitsIn_of_le (CmpCc.coded.lt t),
    fun t => fitsIn_of_le (AmoOp.coded.lt t), fun t => fitsIn_of_le (NOp.coded.lt t), fun t => fitsIn_of_le (Grp.coded.lt t),
    fun t => fitsIn_of_le (PSet.coded.lt t), fun t => fitsIn_of_le (OutTy.coded.lt t), fun t => fitsIn_of_le (RedOp.coded.lt t),
    fun t => fitsIn_of_le (VFile.coded.lt t)⟩

@[simp] theorem redOp_varBit_mod (t : RedOp) (b : RedSrc) : (t.code + b.varBit) % 8 = t.code := by
  cases b <;> cases t <;> simp [RedOp.code, RedSrc.varBit]

@[simp] theorem bitAt_redOp_varBit (t : RedOp) (b : RedSrc) : bitAt (t.code + b.varBit) 3 = (b.varBit == 8) := by
  cases b <;> cases t <;> simp [RedOp.code, RedSrc.varBit, bitAt]

@[simp] theorem fitsIn_redOp {k : Nat} (t : RedOp) (b : RedSrc) (h : 4 ≤ k) : FitsIn (t.code + b.varBit) k := by
  refine fitsIn_of_le (w := 4) ?_ h
  cases b <;> cases t <;> simp [RedOp.code, RedSrc.varBit]

@[simp] theorem boolToNat_beq_one (b : Bool) : (b.toNat == 1) = b := by cases b <;> rfl

theorem bits_rep (n : Nat) (k : BitVec 4) : bits (16 * n + k.toNat) 4 2 = n % 4 ∧ bits (16 * n + k.toNat) 0 4 = k.toNat := by
  have := k.isLt
  simp only [bits]
  omega

@[simp] theorem rep_ofBits_toBits (r : Rep) : Rep.ofBits (bits r.toBits 4 2) (bits r.toBits 0 4) = some r := by
  cases r with
  | none => rfl
  | e k => simp [Rep.toBits, Rep.ofBits, bits_rep 1 k]
  | seg k => simp [Rep.toBits, Rep.ofBits, bits_rep 2 k]
  | w k => simp [Rep.toBits, Rep.ofBits, bits_rep 3 k]

theorem rep_toBits_lt (r : Rep) : r.toBits < 2 ^ 6 := by
  cases r <;> simp only [Rep.toBits] <;> omega

/-! ## Vector operand fields -/

theorem vsrc_toBits_eq_pack (s : VSrc) : s.toBits = pack [(12, s.file.code), (6, s.reg.toNat), (0, s.rep.toBits)] := by
  simp [VSrc.toBits, pack, Nat.add_assoc]

@[simp] theorem fitsIn_rep {k : Nat} (r : Rep) (h : 6 ≤ k) : FitsIn r.toBits k := fitsIn_of_le (rep_toBits_lt r) h

@[simp] theorem fitsIn_vsrc {k : Nat} (s : VSrc) (h : 14 ≤ k) : FitsIn s.toBits k := by
  rw [vsrc_toBits_eq_pack]
  exact fitsIn_of_le (pack_lt (by simp)) h

@[simp] theorem vsrc_ofBits_toBits (s : VSrc) (h : s.wf = true) : VSrc.ofBits s.toBits = some s := by
  simp [VSrc.ofBits, vsrc_toBits_eq_pack, h]

/-- A destination field as its parts: the file in bits 7:6 and the register below (R39). -/
def dstParts : VDst → List (Nat × Nat)
  | .v r => [(6, 0), (0, r.toNat)]
  | .o r => [(6, 1), (0, r.toNat)]
  | .nil => [(6, 2)]

theorem vdst_toBits_eq_pack (d : VDst) : d.toBits = pack (dstParts d) := by
  cases d <;> simp [VDst.toBits, dstParts, pack]

@[simp] theorem fitsIn_vdst {k : Nat} (d : VDst) (h : 8 ≤ k) : FitsIn d.toBits k := by
  rw [vdst_toBits_eq_pack]
  exact fitsIn_of_le (pack_lt (by cases d <;> simp [dstParts])) h

@[simp] theorem vdst_ofBits_toBits (d : VDst) : VDst.ofBits d.toBits = some d := by
  cases d <;> simp [VDst.ofBits, vdst_toBits_eq_pack, dstParts]

@[simp] theorem fitsIn_redSrc {k : Nat} (b : RedSrc) (h : 14 ≤ k) : FitsIn b.toBits k := by
  cases b with
  | init b => exact fitsIn_vsrc b h
  | seg m => exact fitsIn_toNat m (by omega)

/-- A reduction's source b, read from the variant bit 3 and bits 25:12 of the tail (R49). -/
theorem redSrc_of_bits {var t : Nat} (b : RedSrc) (hwf : b.wf = true) (hv : bitAt var 3 = (b.varBit == 8))
    (ht : bits t 12 14 = b.toBits) : redSrc var t = some b := by
  cases b with
  | init b =>
    have hb : VSrc.ofBits (bits t 12 14) = some b := by rw [ht, RedSrc.toBits, vsrc_ofBits_toBits b hwf]
    simp [redSrc, hv, RedSrc.varBit, hb]
  | seg m =>
    have hm := m.isLt
    have hhigh : bits t 16 10 = 0 := by simp only [bits, RedSrc.toBits] at *; omega
    have hlow : bits t 12 4 = m.toNat := by simp only [bits, RedSrc.toBits] at *; omega
    simp [redSrc, hv, RedSrc.varBit, hhigh, hlow]

theorem redSrc_pack {x y : Nat} {r : List (Nat × Nat)} (op : RedOp) (b : RedSrc) (hwf : b.wf = true) (hr : Below 12 r) :
    redSrc (op.code + b.varBit) (pack ((40, x) :: (26, y) :: (12, b.toBits) :: r)) = some b :=
  redSrc_of_bits b hwf (bitAt_redOp_varBit op b) (by simp [hr])

/-- The target of MDRAIN as the fields of its tail, from bit 23 up (R281). -/
def drainParts : DrainTo → List (Nat × Nat)
  | .pad b => [(14, b.toNat)]
  | .vec d r => [(19, 1), (6, d.toBits), (0, r.toNat)]

theorem drainTo_toBits_eq_pack (g : DrainTo) : g.toBits = pack (drainParts g) := by
  cases g <;> simp [DrainTo.toBits, drainParts, pack, Nat.add_assoc]

@[simp] theorem fitsIn_drainTo {k : Nat} (g : DrainTo) (h : 20 ≤ k) : FitsIn g.toBits k := by
  rw [drainTo_toBits_eq_pack]
  exact fitsIn_of_le (pack_lt (by cases g <;> simp [drainParts])) h

theorem bits_bits {t lo n k w : Nat} (h : k + w ≤ n) : bits (bits t lo n) k w = bits t (lo + k) w := by
  obtain ⟨m, rfl⟩ := Nat.exists_eq_add_of_le h
  rw [bits, bits, bits, Nat.add_assoc, pow_add 2 k, Nat.mod_mul_right_div_self, pow_add 2 lo, ← Nat.div_div_eq_div_mul,
    Nat.mod_mod_of_dvd _ (Nat.pow_dvd_pow 2 (Nat.le_add_right w m))]

theorem drainTo_of_bits {t : Nat} (g : DrainTo) (ht : bits t 23 20 = g.toBits) : drainTo t = some g := by
  have hb : ∀ k w, k + w ≤ 20 → bits t (23 + k) w = bits (pack (drainParts g)) k w := by
    intro k w h
    rw [← drainTo_toBits_eq_pack, ← ht, bits_bits h]
  have h42 := hb 19 1 (by decide)
  have h37 := hb 14 5 (by decide)
  have h29 := hb 6 8 (by decide)
  have h23 := hb 0 6 (by decide)
  have hlow := hb 0 14 (by decide)
  clear ht hb
  cases g with
  | pad b => simp_all [drainTo, drainParts, bitAt_eq, rg]
  | vec d row0 => simp_all [drainTo, drainParts, bitAt_eq]

theorem drainTo_pack {x : Nat} {r : List (Nat × Nat)} (g : DrainTo) (hr : Below 23 r) :
    drainTo (pack ((43, x) :: (23, g.toBits) :: r)) = some g :=
  drainTo_of_bits g (by simp [hr])

@[simp] theorem ok_eq_some (c : Bool) (i j : Instr) : ok c i = some j ↔ c = true ∧ i = j := by cases c <;> simp [ok]

@[simp] theorem ok_true_orElse (i : Instr) (o : Option Instr) : (ok true i <|> o) = some i := rfl

@[simp] theorem ok_false_orElse (i : Instr) (o : Option Instr) : (ok false i <|> o) = o := rfl

theorem headOf_eq_pack (tl cls op var : Nat) : headOf tl cls op var = pack [(14, tl), (10, cls), (4, op), (0, var)] := by
  simp [headOf, pack, Nat.add_assoc]

theorem decodeHT_headOf {tl cls op var t : Nat} {i : Instr} (hm : mapTlen cls op = some tl) (hl : tl < 4)
   (hc : cls < 2 ^ 4) (ho : op < 2 ^ 6) (hv : FitsIn var 4)
   (hd : decodeClass cls op var t = some i) (hw : i.wf = true) : decodeHT (headOf tl cls op var) t = .ok i := by
  have hc : FitsIn cls 4 := hc
  have ho : FitsIn op 6 := ho
  have hl : FitsIn tl 2 := hl
  simp [decodeHT, headOf_eq_pack, hc, ho, hv, hl, hm, hd, hw]

/-- What is left to check of one Wirath instruction: its encoding, its row of the map and its operands. -/
theorem decodeHT_of_fields {tl cls op var h t t' : Nat} {i : Instr} (hw : i.wf = true) (he : encode i = .wirath h t)
    (he' : encode i = .wirath (headOf tl cls op var) t') (hm : mapTlen cls op = some tl) (hl : tl < 4) (hc : cls < 2 ^ 4)
    (ho : op < 2 ^ 6) (hv : FitsIn var 4) (hd : decodeClass cls op var t' = some i) : decodeHT h t = .ok i := by
  rw [he'] at he
  cases he
  exact decodeHT_headOf hm hl hc ho hv hd hw

theorem decodeBeret_of_fields {op w w' : Nat} {i : Instr} (hw : i.wf = true) (he : encode i = .beret w)
    (he' : encode i = .beret w') (ho : bits w' 27 5 = op) (hd : decodeBeretOp op w' = some i) : decodeBeret w = .ok i := by
  rw [he'] at he
  cases he
  simp [decodeBeret, ho, hd, hw]

/-! ## The most frequent layouts, read back -/

theorem vectorFields2 (d : VDst) (a b : VSrc) (m : MReg) (ps : PReg) (ty : ETy) (ha : a.wf = true) (hb : b.wf = true) :
    let t := pack [(40, d.toBits), (26, a.toBits), (12, b.toBits), (8, m.toNat), (5, ps.toNat), (0, ty.code)]
    VDst.ofBits (bits t 40 8) = some d ∧ VSrc.ofBits (bits t 26 14) = some a ∧ VSrc.ofBits (bits t 12 14) = some b ∧
      mr t 8 = m ∧ pr t 5 = ps ∧ ETy.ofCode (bits t 0 5) = some ty := by
  simp [mr, pr, ha, hb]

theorem vectorFields1 (d : VDst) (a : VSrc) (m : MReg) (ps : PReg) (ty : ETy) (ha : a.wf = true) :
    let t := pack [(40, d.toBits), (26, a.toBits), (8, m.toNat), (5, ps.toNat), (0, ty.code)]
    VDst.ofBits (bits t 40 8) = some d ∧ VSrc.ofBits (bits t 26 14) = some a ∧ zr t 12 14 = true ∧
      mr t 8 = m ∧ pr t 5 = ps ∧ ETy.ofCode (bits t 0 5) = some ty := by
  simp [mr, pr, zr, ha]

theorem registerFields3 (d a b : SReg) :
    let t := pack [(11, d.toNat), (6, a.toNat), (1, b.toNat)]
    rg t 11 = d ∧ rg t 6 = a ∧ rg t 1 = b ∧ zr t 0 1 = true := by
  simp [rg, zr]

end Sys2Proof.Proofs
end

section
/-! Every encoding reads back (R27, R47 to R53, R128). -/

namespace Sys2Proof.Proofs

/-! ## Reading an encoded instruction back -/

/-- The layouts that most operations share: three scalar registers, or one or two vector sources under a mask. -/
def commonForm : Instr → Bool
  | .add .. | .sub .. | .and .. | .or .. | .xor .. | .andn .. | .shl .. | .shr .. | .sra .. | .mul .. | .mulh .. | .mulhz .. | .div ..
      | .divz .. | .rem .. | .remz .. | .min .. | .max .. | .minz .. | .maxz .. | .slt .. | .sltz .. | .seq .. | .vadd .. | .vsub .. |
      .vmul .. | .vmulh .. | .vmulhz .. | .vmadd .. | .vmin .. | .vmax .. | .vminz .. | .vmaxz .. | .vadds .. | .vsubs .. | .vfadd .. |
      .vfsub .. | .vfmul .. | .vfma .. | .vfms .. | .vfnma .. | .vfdiv .. | .vfmin .. | .vfmax .. | .vdeq .. | .vand .. | .vor .. |
      .vxor .. | .vandn .. | .vshl .. | .vshr .. | .vsra .. | .vsel .. | .vthr .. | .vperm .. | .vabs .. | .vpopc .. | .vclz .. |
      .vfrcp .. | .vfsqrt .. | .vfrsq .. | .vfexp2 .. | .vflog2 .. | .vfsin .. | .vfcos .. | .vftanh .. | .vfabs .. | .vfneg .. |
      .vfclass .. | .vtld .. | .vexp .. | .vred .. | .vfred .. | .vscan .. | .vfscan .. => true
  | _ => false

/-- The other operations of the memory, permute, matrix, Fennel, copy, near-memory and fabric classes, 0x9 to 0xE. -/
def engineForm : Instr → Bool
  | .vld .. | .vldW .. | .vlds .. | .vldff .. | .vst .. | .vsts .. | .vgath .. | .vscat .. | .vscadd .. | .vtst .. | .vfence .. |
      .vfenceArr .. | .vsell .. | .vslideu .. | .vslided .. | .vxchg .. | .vcomp .. | .vfib .. | .mzero .. | .mma .. | .mmaq .. |
      .mmas .. | .mmac .. | .mscale .. | .mld .. | .mst .. | .mdrain .. | .pdrain .. | .padj .. | .pstat .. | .pfix .. | .prld .. |
      .prst .. | .cbind .. | .cgo .. | .cgoMx .. | .cgoAuto .. | .cgoAutoMx .. | .cvld .. | .rinit .. | .await .. | .rels .. |
      .ccancel .. | .nlookup .. | .nadd .. | .naddr .. | .nfence .. | .nfenceTag .. | .fput .. | .fget .. | .fsig .. |
      .collAllreduce .. | .collRedscat .. | .collAllgather .. | .collBcast .. | .ffence .. | .fstat .. => true
  | _ => false

theorem decodeHT_encode_common {i : Instr} {h t : Nat} (hw : i.wf = true) (he : encode i = .wirath h t)
    (hf : commonForm i = true) : decodeHT h t = .ok i := by
  cases i
  case add | sub | and | or | xor | andn | shl | shr | sra | mul | mulh | mulhz | div | divz | rem | remz | min | max | minz | maxz |
      slt | sltz | seq =>
    refine decodeHT_of_fields hw he rfl rfl (by decide) (by decide) (by decide) (by simp) ?_
    clear he
    simp_all only [decodeClass, decode1, registerFields3, ok_eq_some,
       beq_self_eq_true, Bool.and_self, and_self]
  case vadd | vsub | vmul | vmulh | vmulhz | vmadd | vmin | vmax | vminz | vmaxz | vadds | vsubs | vfadd | vfsub | vfmul | vfma | vfms
      | vfnma | vfdiv | vfmin | vfmax | vdeq | vand | vor | vxor | vandn | vshl | vshr | vsra | vsel | vthr | vperm =>
    refine decodeHT_of_fields hw he rfl rfl (by decide) (by decide) (by decide) (by simp) ?_
    clear he
    simp_all only [Instr.wf, Bool.and_eq_true, decodeClass, decode5, decode6, decode7, decode8, decodeA, vectorFields2, ofCode_code,
      Option.bind_eq_bind, Option.bind_some, ok_eq_some,
       beq_self_eq_true, and_self]
  case vabs | vpopc | vclz | vfrcp | vfsqrt | vfrsq | vfexp2 | vflog2 | vfsin | vfcos | vftanh | vfabs | vfneg | vfclass | vtld | vexp
      =>
    refine decodeHT_of_fields hw he rfl rfl (by decide) (by decide) (by decide) (by simp) ?_
    clear he
    simp_all only [Instr.wf, Bool.and_eq_true, decodeClass, decode5, decode6, decode9, decodeA, vectorFields1, ofCode_code,
      Option.bind_eq_bind, Option.bind_some, ok_eq_some,
       beq_self_eq_true, Bool.and_self, and_self]
  case vred | vfred | vscan | vfscan =>
    refine decodeHT_of_fields hw he rfl rfl (by decide) (by decide) (by decide) (fitsIn_redOp _ _ le_rfl) ?_
    simp only [Instr.wf, Bool.and_eq_true] at hw
    simp [decodeClass, decode8, redSrc_pack, hw, mr, pr]
  all_goals nomatch hf

theorem decodeHT_encode_engine {i : Instr} {h t : Nat} (hw : i.wf = true) (he : encode i = .wirath h t)
    (hf : engineForm i = true) : decodeHT h t = .ok i := by
  cases i
  case mdrain =>
    refine decodeHT_of_fields hw he rfl rfl (by decide) (by decide) (by decide) (by simp) ?_
    simp [decodeClass, decodeB, drainTo_pack, rg, zr]
  case nfence =>
    refine decodeHT_of_fields hw he rfl rfl (by decide) (by decide) (by decide) (fitsIn_zero 4) ?_
    simp [decodeClass, decodeE, zr]
  case nfenceTag sc tag =>
    have hb : bits (pack [(5, tag.toNat), (4, 1)]) 0 13 ≠ 0 := by have := tag.isLt; simp only [bits, pack]; omega
    refine decodeHT_of_fields hw he rfl rfl (by decide) (by decide) (by decide) (fitsIn_zero 4) ?_
    simp [decodeClass, decodeE, zr, beq_eq_false_iff_ne.2 hb]
  case vld | vldW | vlds | vldff | vst | vsts | vgath | vscat | vscadd | vtst | vfence | vfenceArr | vsell | vslideu | vslided | vxchg
      | vcomp | vfib | mzero | mma | mmaq | mmas | mmac | mscale | mld | mst | pdrain | padj | pstat | pfix | prld | prst | cbind | cgo
      | cgoMx | cgoAuto | cgoAutoMx | cvld | rinit | await | rels | ccancel | nlookup | nadd | naddr | fput | fget | fsig |
      collAllreduce | collRedscat | collAllgather | collBcast | ffence | fstat =>
    refine decodeHT_of_fields hw he rfl rfl (by decide) (by decide) (by decide) (by simp) ?_
    clear he
    simp only [decodeClass, decode9, decodeA, decodeB, decodeC, decodeD, decodeE, rg, mr, pr, zr, bitAt_eq]
    simp_all only [Instr.wf, Bool.and_eq_true, bits_pack_at, bits_pack_below, bits_pack_above, below_cons, below_nil, fitsIn_vdst,
      fitsIn_vsrc, fitsIn_code, fitsIn_boolToNat, fitsIn_ofNat, fitsIn_toNat, vdst_ofBits_toBits, vsrc_ofBits_toBits,
      ofCode_code, BitVec.ofNat_toNat, BitVec.setWidth_eq, boolToNat_beq_one, Option.bind_eq_bind, Option.bind_some, ok_eq_some,
      ok_true_orElse, ok_false_orElse, beq_self_eq_true, and_self, Bool.and_self, Bool.false_and,
      Nat.le_refl, Nat.reduceLeDiff, Nat.reduceAdd, Nat.reduceSub, Nat.reduceBEq,  Nat.reducePow, Nat.reduceLT]
  all_goals nomatch hf

/-- A head and a tail that encode a well-formed instruction decode to it. Apart from the layouts that share their fields, an operand
needs an argument of its own where it is split over head and tail (LI), chooses between operations (SYSWR, SIGDEC) or has two readings
(reductions). -/
theorem decodeHT_encode {i : Instr} {h t : Nat} (hw : i.wf = true) (he : encode i = .wirath h t) : decodeHT h t = .ok i := by
  cases i
  case add | sub | and | or | xor | andn | shl | shr | sra | mul | mulh | mulhz | div | divz | rem | remz | min | max | minz | maxz |
      slt | sltz | seq | vadd | vsub | vmul | vmulh | vmulhz | vmadd | vmin | vmax | vminz | vmaxz | vadds | vsubs | vfadd | vfsub |
      vfmul | vfma | vfms | vfnma | vfdiv | vfmin | vfmax | vdeq | vand | vor | vxor | vandn | vshl | vshr | vsra | vsel | vthr | vperm
      | vabs | vpopc | vclz | vfrcp | vfsqrt | vfrsq | vfexp2 | vflog2 | vfsin | vfcos | vftanh | vfabs | vfneg | vfclass | vtld | vexp
      | vred | vfred | vscan | vfscan =>
    exact decodeHT_encode_common hw he rfl
  case vld | vldW | vlds | vldff | vst | vsts | vgath | vscat | vscadd | vtst | vfence | vfenceArr | vsell | vslideu | vslided | vxchg
      | vcomp | vfib | mzero | mma | mmaq | mmas | mmac | mscale | mld | mst | mdrain | pdrain | padj | pstat | pfix | prld | prst |
      cbind | cgo | cgoMx | cgoAuto | cgoAutoMx | cvld | rinit | await | rels | ccancel | nlookup | nadd | naddr | nfence | nfenceTag |
      fput | fget | fsig | collAllreduce | collRedscat | collAllgather | collBcast | ffence | fstat =>
    exact decodeHT_encode_engine hw he rfl
  case syswr =>
    simp only [Instr.wf, Bool.not_eq_true', Bool.or_eq_false_iff, beq_eq_false_iff_ne] at hw
    refine decodeHT_of_fields ?_ he rfl rfl (by decide) (by decide) (by decide) (fitsIn_zero 4) ?_
    all_goals simp [Instr.wf, decodeClass, decode0, rg, zr, hw]
  case li d imm =>
    have hd := d.isLt
    have hv : FitsIn (d.toNat % 16) 4 := Nat.mod_lt _ (by decide)
    have hn : FitsIn (d.toNat / 16) 1 := show d.toNat / 16 < 2 by omega
    refine decodeHT_of_fields hw he rfl rfl (by decide) (by decide) (by decide) hv ?_
    simp [decodeClass, decode2, hn, Nat.div_add_mod']
  case fence =>
    refine decodeHT_of_fields hw he rfl rfl (by decide) (by decide) (by decide) (fitsIn_zero 4) ?_
    simp [decodeClass, decode4, zr]
  case settleAll => exact decodeHT_of_fields hw he rfl rfl (by decide) (by decide) (by decide) (by simp) rfl
  case sigdec =>
    refine decodeHT_of_fields hw he rfl rfl (by decide) (by decide) (by decide) (fitsIn_zero 4) ?_
    simp only [Instr.wf, decide_eq_true_eq] at hw
    simp [decodeClass, decode4, rg, hw]
  case nop | brCc | jmp | jmpr | call | ret | loop | loopr | leave | trap | eret | sysrd | vrestore | icinv | tlbinv | halt | brkpt |
      sel | clz | popc | bext | bins | addi | andi | ori | xori | shli | shri | srai | slti | lih | ld | st | amo | cas | acq | tryacq
      | rel | xfence | waitc | spawn | join | commit | endTask | yield | wmpub | sigwait | vscacc | vcvt | vnarrow | vwiden | vshlw |
      vshrw | vfunl | vfunr | vrndb | vcmp | vfcmp | mand | mor | mxor | mnot | mcnt | mfirst | vpres | settle | setvl | setvt | vmvs |
      vsplat | vslip | mclr =>
    refine decodeHT_of_fields hw he rfl rfl (by decide) (by decide) (by decide) (by simp) ?_
    clear he
    simp only [decodeClass, decode0, decode1, decode2, decode3, decode4, decode6, decode7, decode8, rg, mr, pr, zr, bitAt_eq]
    simp_all only [Instr.wf, Bool.and_eq_true, bits_pack_at, bits_pack_below, bits_pack_above, below_cons, below_nil, fitsIn_vdst,
      fitsIn_vsrc, fitsIn_code, fitsIn_boolToNat, fitsIn_ofNat, fitsIn_toNat, vdst_ofBits_toBits, vsrc_ofBits_toBits,
      ofCode_code, BitVec.ofNat_toNat, BitVec.setWidth_eq, boolToNat_beq_one, Option.bind_eq_bind, Option.bind_some, ok_eq_some,
      ok_true_orElse, ok_false_orElse, beq_self_eq_true, and_self, Bool.and_self, Bool.and_false, Bool.false_and,
      Nat.le_refl, Nat.reduceLeDiff, Nat.reduceAdd, Nat.reduceSub, Nat.reduceBEq, Nat.reduceBNe,  Nat.reducePow, Nat.reduceLT]
  all_goals nomatch he

theorem decodeBeret_encode {i : Instr} {w : Nat} (hw : i.wf = true) (he : encode i = .beret w) : decodeBeret w = .ok i := by
  cases i
  case movb | addb | addib | andb | orb | shlib | shrib | bfxb | ldpb | ldqb | stqb | srdb | sdecb | ssetb | waitb | placeb | imgb |
      copyb | beqb | bneb | bltb | loopb | fwdb | doneb =>
    refine decodeBeret_of_fields hw he rfl (bits_pack_at ?_ ?_) ?_
    all_goals simp [decodeBeretOp, zr, bitAt_eq]
  all_goals nomatch he

/-- Settles O1: the fields of an encoding do not overlap, so each is read back as it was written (`bits_pack_at`), and each operand's code
table reads what it wrote (`Coded`). -/
theorem decodeOfEncode : Obligations.DecodeOfEncode := by
  unfold Obligations.DecodeOfEncode
  intro i hw
  split
  next h t he => exact decodeHT_encode hw he
  next w he => exact decodeBeret_encode hw he
  next => trivial

/-- Settles O3: each worked word is the encoding of its instruction, which reads back (`decodeHT_encode`). -/
theorem workedEncodings : Obligations.WorkedEncodings :=
  ⟨decodeHT_encode (i := .rel 14 .sys) rfl rfl, decodeHT_encode (i := .sigdec 15 .sys 1) rfl rfl,
    decodeHT_encode (i := .endTask) rfl rfl,
    decodeHT_encode (i := .vfadd .rne (.v 2) ⟨.o, 0, .w 1⟩ ⟨.o, 0, .e 1⟩ 0 0 .f32) rfl rfl⟩

end Sys2Proof.Proofs
end

section
/-! A head and a tail have one reading (R34, R43). -/

namespace Sys2Proof.Proofs

/-! ## A tail is the sum of its fields -/

theorem bits_add_mod (t lo w : Nat) : bits t lo w * 2 ^ lo + t % 2 ^ lo = t % 2 ^ (lo + w) := by
  rw [bits, Nat.add_comm, Nat.mul_comm, pow_add, Nat.mod_mul]

theorem pack_cons (lo v : Nat) (r : List (Nat × Nat)) : pack ((lo, v) :: r) = v * 2 ^ lo + pack r := rfl

theorem pack_nil_mod (t : Nat) : pack [] = t % 2 ^ 0 := by rw [pow_zero, Nat.mod_one, pack]

/-- A field of a fixed value adds that value. -/
theorem bits_eq_iff (t lo w n : Nat) : bits t lo w = n ↔ n * 2 ^ lo + t % 2 ^ lo = t % 2 ^ (lo + w) := by
  rw [← bits_add_mod, Nat.add_right_cancel_iff, Nat.mul_left_inj (Nat.two_pow_pos lo).ne', eq_comm]

/-- A zero field adds nothing: the tail up to its end is the tail below it. -/
theorem zr_iff (t lo w : Nat) : zr t lo w = true ↔ t % 2 ^ lo = t % 2 ^ (lo + w) := by
  rw [zr, beq_iff_eq, bits_eq_iff, Nat.zero_mul, Nat.zero_add]

theorem bitAt_toNat (t k : Nat) : (bitAt t k).toNat = bits t k 1 := by
  have h := bits_lt t k 1
  rw [bitAt_eq]
  interval_cases bits t k 1 <;> rfl

theorem ofNat_bits_toNat (t lo w : Nat) : (BitVec.ofNat w (bits t lo w)).toNat = bits t lo w := by
  rw [BitVec.toNat_ofNat, Nat.mod_eq_of_lt (bits_lt t lo w)]

theorem vdst_toBits_of_ofBits {n : Nat} {d : VDst} (hn : n < 2 ^ 8) (h : VDst.ofBits n = some d) : d.toBits = n := by
  unfold VDst.ofBits at h
  split at h
  · cases h; simp only [VDst.toBits, BitVec.toNat_ofNat, bits] at *; omega
  · split at h
    · cases h; simp only [VDst.toBits, BitVec.toNat_ofNat, bits] at *; omega
    · cases h
  · split at h
    · cases h; simp only [VDst.toBits, bits] at *; omega
    · cases h
  · cases h

theorem rep_toBits_of_ofBits {n : Nat} {r : Rep} (hn : n < 2 ^ 6) (h : Rep.ofBits (bits n 4 2) (bits n 0 4) = some r) :
    r.toBits = n := by
  unfold Rep.ofBits at h
  split at h
  · split at h
    · cases h; simp only [Rep.toBits, bits] at *; omega
    · cases h
  all_goals cases h; try (simp only [Rep.toBits, BitVec.toNat_ofNat, bits] at *; omega)

theorem vsrc_wf_of_ofBits {n : Nat} {s : VSrc} (h : VSrc.ofBits n = some s) : s.wf = true := by
  simp only [VSrc.ofBits, Option.bind_eq_bind, Option.bind_eq_some_iff, Option.ite_none_right_eq_some, Option.some.injEq] at h
  obtain ⟨f, -, r, -, hw, rfl⟩ := h
  exact hw

theorem vsrc_toBits_of_ofBits {n : Nat} {s : VSrc} (hn : n < 2 ^ 14) (h : VSrc.ofBits n = some s) : s.toBits = n := by
  simp only [VSrc.ofBits, Option.bind_eq_bind, Option.bind_eq_some_iff, Option.ite_none_right_eq_some, Option.some.injEq] at h
  obtain ⟨f, hf, r, hr, hw, rfl⟩ := h
  have hc := VFile.coded.written _ _ hf
  have hsize : bits (n % 2 ^ 6) 4 2 = bits n 4 2 := by simp only [bits]; omega
  have hidx : bits (n % 2 ^ 6) 0 4 = bits n 0 4 := by simp only [bits]; omega
  have hrep : r.toBits = n % 2 ^ 6 := rep_toBits_of_ofBits (Nat.mod_lt _ (by decide)) (by rwa [hsize, hidx])
  simp only [VSrc.toBits, hc, hrep, BitVec.toNat_ofNat, bits]
  omega

theorem vdst_ofBits_iff (t lo : Nat) (d : VDst) : VDst.ofBits (bits t lo 8) = some d ↔ d.toBits = bits t lo 8 :=
  ⟨vdst_toBits_of_ofBits (bits_lt t lo 8), fun h => h ▸ vdst_ofBits_toBits d⟩

theorem vsrc_ofBits_iff (t lo : Nat) (s : VSrc) :
    VSrc.ofBits (bits t lo 14) = some s ↔ s.wf = true ∧ s.toBits = bits t lo 14 :=
  ⟨fun h => ⟨vsrc_wf_of_ofBits h, vsrc_toBits_of_ofBits (bits_lt t lo 14) h⟩, fun h => h.2 ▸ vsrc_ofBits_toBits s h.1⟩

theorem Coded.iff {α : Type} {code : α → Nat} {ofCode : Nat → Option α} {w : Nat} (h : Coded code ofCode w) (n : Nat) (t : α) :
    ofCode n = some t ↔ code t = n := ⟨h.written n t, fun e => e ▸ h.read t⟩

theorem ofCode_iff (n : Nat) :
    (∀ t, ETy.ofCode n = some t ↔ ETy.code t = n) ∧
    (∀ t, Scope.ofCode n = some t ↔ Scope.code t = n) ∧
    (∀ t, Path.ofCode n = some t ↔ Path.code t = n) ∧
    (∀ t, Rm.ofCode n = some t ↔ Rm.code t = n) ∧
    (∀ t, Cc.ofCode n = some t ↔ Cc.code t = n) ∧
    (∀ t, CmpCc.ofCode n = some t ↔ CmpCc.code t = n) ∧
    (∀ t, AmoOp.ofCode n = some t ↔ AmoOp.code t = n) ∧
    (∀ t, NOp.ofCode n = some t ↔ NOp.code t = n) ∧
    (∀ t, Grp.ofCode n = some t ↔ Grp.code t = n) ∧
    (∀ t, PSet.ofCode n = some t ↔ PSet.code t = n) ∧
    (∀ t, OutTy.ofCode n = some t ↔ OutTy.code t = n) ∧
    (∀ t, RedOp.ofCode n = some t ↔ RedOp.code t = n) :=
  ⟨ETy.coded.iff n, Scope.coded.iff n, Path.coded.iff n, Rm.coded.iff n, Cc.coded.iff n, CmpCc.coded.iff n, AmoOp.coded.iff n,
    NOp.coded.iff n, Grp.coded.iff n, PSet.coded.iff n, OutTy.coded.iff n, RedOp.coded.iff n⟩

/-- Source b of a reduction takes bits 25:12 of the tail and bit 3 of the variant. -/
theorem redSrc_iff {var : Nat} (hv : var < 16) (t : Nat) (b : RedSrc) :
    redSrc var t = some b ↔ b.wf = true ∧ b.toBits = bits t 12 14 ∧ var % 8 + b.varBit = var := by
  refine ⟨fun h => ?_, fun ⟨hw, hb, hvar⟩ => redSrc_of_bits b hw ?_ hb.symm⟩
  · unfold redSrc at h
    split at h
    next h3 =>
      rw [Option.ite_none_right_eq_some] at h
      obtain ⟨h0, h⟩ := h
      cases h
      refine ⟨rfl, ?_⟩
      simp only [bitAt, decide_eq_true_eq] at h3
      simp only [RedSrc.toBits, RedSrc.varBit, BitVec.toNat_ofNat, bits] at *
      omega
    next h3 =>
      rw [Option.map_eq_some_iff] at h
      obtain ⟨s, hs, rfl⟩ := h
      obtain ⟨hw, hb⟩ := (vsrc_ofBits_iff t 12 s).1 hs
      simp only [bitAt, decide_eq_true_eq] at h3
      exact ⟨hw, hb, show var % 8 + 0 = var by omega⟩
  · cases b <;> simp only [RedSrc.varBit, bitAt] at * <;> simp <;> omega

theorem drainTo_iff (t : Nat) (g : DrainTo) : drainTo t = some g ↔ g.toBits = bits t 23 20 := by
  refine ⟨fun h => ?_, fun h => drainTo_of_bits g h.symm⟩
  unfold drainTo at h
  split at h
  next h42 =>
    rw [Option.ite_none_right_eq_some, Option.map_eq_some_iff] at h
    obtain ⟨h0, d, hd, rfl⟩ := h
    have hd := (vdst_ofBits_iff t 29 d).1 hd
    simp only [bitAt, decide_eq_true_eq] at h42
    simp only [DrainTo.toBits, hd, BitVec.toNat_ofNat, bits] at *
    omega
  next h42 =>
    rw [Option.ite_none_right_eq_some] at h
    obtain ⟨h0, h⟩ := h
    cases h
    simp only [bitAt, decide_eq_true_eq] at h42
    simp only [DrainTo.toBits, rg, BitVec.toNat_ofNat, bits] at *
    omega

/-- The destination of LI is split: bit 4 is the top bit of the tail, bits 3:0 are the variant (R47). -/
theorem li_destination {var : Nat} (hv : var < 16) (t : Nat) :
    (BitVec.ofNat 5 (bits t 47 1 * 16 + var)).toNat % 16 = var ∧ (BitVec.ofNat 5 (bits t 47 1 * 16 + var)).toNat / 16 = bits t 47 1 := by
  have := bits_lt t 47 1
  rw [BitVec.toNat_ofNat]
  omega

/-! ## What a head and a tail decode to encodes to them again -/

theorem orElse_eq_some (o p : Option Instr) (i : Instr) : (o <|> p) = some i ↔ o = some i ∨ (o = none ∧ p = some i) := by
  cases o <;> simp

theorem wirath_congr {h h' t t' : Nat} (hh : h = h') (ht : t = t') : Code.wirath h t = Code.wirath h' t' := by rw [hh, ht]

/-- Class by class of the map and operation by operation: what is read gives the fields back, and they add up to the tail. -/
theorem encode_of_decodeClass {cls op var tl t : Nat} {i : Instr} (h : decodeClass cls op var t = some i)
    (hm : mapTlen cls op = some tl) (ht : t < 2 ^ (16 * tl)) (hv : var < 16) : encode i = .wirath (headOf tl cls op var) t := by
  unfold decodeClass at h
  split at h
  all_goals
    simp only [decode0.eq_def, decode1.eq_def, decode2.eq_def, decode3.eq_def, decode4.eq_def, decode5.eq_def, decode6.eq_def,
      decode7.eq_def, decode8.eq_def, decode9.eq_def, decodeA.eq_def, decodeB.eq_def, decodeC.eq_def, decodeD.eq_def,
      decodeE.eq_def, reduceCtorEq] at h
  all_goals split at h
  all_goals
    simp only [Option.bind_eq_bind, Option.bind_eq_some_iff, orElse_eq_some, ok_eq_some, Bool.and_eq_true, beq_iff_eq, reduceCtorEq,
      vdst_ofBits_iff, vsrc_ofBits_iff, ofCode_iff, redSrc_iff hv, drainTo_iff, bits_eq_iff, zr_iff, Nat.reduceAdd] at h
  all_goals
    cases hm
    casesm* _ ∨ _, ∃ _, _, _ ∧ _
  all_goals
    subst i
    refine wirath_congr ?_ ?_
    · simp only [li_destination hv, *]
    · simp only [pack_nil_mod t, pack_cons, mr, pr, rg, ofNat_bits_toNat, bitAt_toNat, li_destination hv, bits_add_mod, Nat.reduceAdd, *]
      exact Nat.mod_eq_of_lt ht

theorem headOf_bits {h : Nat} (hh : h < 2 ^ 16) : headOf (bits h 14 2) (bits h 10 4) (bits h 4 6) (bits h 0 4) = h := by
  simp only [headOf_eq_pack, pack_cons, pack_nil_mod h, bits_add_mod, Nat.reduceAdd]
  exact Nat.mod_eq_of_lt hh

theorem decodeHT_eq_ok {h t : Nat} {i : Instr} (hd : decodeHT h t = .ok i) :
    mapTlen (bits h 10 4) (bits h 4 6) = some (bits h 14 2) ∧ decodeClass (bits h 10 4) (bits h 4 6) (bits h 0 4) t = some i ∧
      i.wf = true := by
  simp only [decodeHT] at hd
  split at hd
  · cases hd
  next l hm =>
    split at hd
    · cases hd
    next hl =>
      split at hd
      · cases hd
      next j hj =>
        split at hd
        next hw =>
          cases hd
          exact ⟨hm.trans (congrArg some (not_not.1 hl).symm), hj, hw⟩
        · cases hd

/-- Settles O2: a tail is the sum of its fields (`bits_add_mod`), the fields that a layout marks zero add nothing (`zr_iff`), and what an
operand's table reads it writes again, so the encoding has the same fields. -/
theorem encodeOfDecode : Obligations.EncodeOfDecode := by
  unfold Obligations.EncodeOfDecode
  intro h t i hh ht hd
  obtain ⟨hm, hc, -⟩ := decodeHT_eq_ok hd
  rw [encode_of_decodeClass hc hm ht (bits_lt h 0 4), headOf_bits hh]

end Sys2Proof.Proofs
end

section
/-! SUPPORT. What a turn of a running core, of an interpreter and of an event is, and the obligation on one step. -/

namespace Sys2Proof.Proofs

open Sys2Proof.Machine Sys2Proof.Safety

/-- What a core does with a head that has been looked at. -/
def afterPrep : Prep → Out
  | .done t => .next t
  | .run i t => exec i t

/-- A core that runs, is asked for nothing and stands at a checked line looks at that line's head. -/
theorem coreTurn_eq_issueHead {s : State} {p : Word} {l : Nat} (hm : s.core.seq.mode = .running) (hp : s.core.seq.preempt = false)
    (hsh : s.shoot = []) (hf : s.core.vec.faults = []) (hl : s.core.seq.line = some (p, l)) : coreTurn s = afterPrep (issueHead l s) := by
  rw [coreTurn, turn_eq_prepare hm hp hsh hf, prepare_eq_issueHead hm hl]
  rfl

theorem step_eq_coreTurn {s : State} {c : Nat} {r : List Turn} (ha : s.agenda = .core c :: r) (hv : s.viral = false) (hb : s.boot = .up)
    (hc : s.core.id = c) : step s = coreTurn { s with agenda := r } := by
  have hfocus : focus { s with agenda := r } c = { s with agenda := r } := focus_self hc
  rw [step_eq_runTurn ha hv hb, runTurn, hfocus]

theorem step_eq_issueHead {s : State} {c : Nat} {r : List Turn} {p : Word} {l : Nat} (ha : s.agenda = .core c :: r) (hv : s.viral = false)
    (hb : s.boot = .up) (hc : s.core.id = c) (hm : s.core.seq.mode = .running) (hp : s.core.seq.preempt = false) (hsh : s.shoot = [])
    (hf : s.core.vec.faults = []) (hl : s.core.seq.line = some (p, l)) : step s = afterPrep (issueHead l { s with agenda := r }) :=
  (step_eq_coreTurn ha hv hb hc).trans (coreTurn_eq_issueHead (s := { s with agenda := r }) hm hp hsh hf hl)

/-- A well-formed instruction none of whose registers is awaited is issued. -/
theorem issueHead_of_ready {l : Nat} {s : State} {i : Instr} (hd : decodeSlot l (slotOf s.core.seq.pc) = .ok i) (hw : i.wf = true)
    (hr : ∀ x ∈ headRegs l (slotOf s.core.seq.pc) i, x ∉ s.core.seq.busy) : issueHead l s = .run i s := by
  have hfree : ((headRegs l (slotOf s.core.seq.pc) i).any fun r => s.core.seq.busy.contains r) = false := by
    simpa only [List.any_eq_false, List.contains_iff_mem] using hr
  simp only [issueHead, hd, hw, hfree, Bool.not_true, Bool.false_eq_true, if_false]

/-- A head that is no instruction raises (R34). -/
theorem issueHead_of_reject {l : Nat} {s : State} {x : Reject} (hd : decodeSlot l (slotOf s.core.seq.pc) = .error x) :
    issueHead l s = .done (raise 0x01 s.core.seq.pc (BitVec.ofNat 64 (curHead s)) s) := by
  simp only [issueHead, hd]

theorem curHead_eq {s : State} {p : Word} {l : Nat} (hl : s.core.seq.line = some (p, l)) :
    curHead s = lineHead l (slotOf s.core.seq.pc) := by
  simp only [curHead, hl, slotOf]

/-- A step with an event at the head of the agenda is that event. -/
theorem step_event {s : State} {r : List Turn} {i : Instr} (ha : s.agenda = .event i :: r) (he : encode i = .event) (hv : s.viral = false)
    (hb : s.boot = .up) : step s = exec i { s with agenda := r } := by
  rw [step_eq_runTurn ha hv hb]
  show runEvent i _ = _
  rw [runEvent, isEvent, he, decide_eq_true rfl, if_pos rfl]

/-- A step with an interpreter at the head of the agenda is the word its program stands at (R129). -/
theorem step_beret {s : State} {r : List Turn} {q w : Nat} {c : Beret} {i : Instr} (ha : s.agenda = .beret q :: r) (hv : s.viral = false)
    (hb : s.boot = .up) (hst : (getQ s q).st = .process) (hctx : (getQ s q).ctx = some c) (hn : c.steps < 512)
    (hw : (getQ s q).code[c.at_]? = some w) (hd : decodeBeret w = .ok i) :
    step s = exec i { s with agenda := r, fe := { s.fe with cur := q } } := by
  have hq : getQ { s with agenda := r } q = getQ s q := rfl
  rw [step_eq_runTurn ha hv hb]
  show beretTurn q { s with agenda := r } = _
  simp only [beretTurn, hq, hst, hctx, hw, beretAtWord, hd, if_neg (Nat.not_le.mpr hn)]
  rfl

/-- Settles O4, by the equation of a turn in each of the four cases: an instruction, an event, an interpreter's word, a rejected head. -/
theorem stepRunsOneTurn : Obligations.StepRunsOneTurn := by
  unfold Obligations.StepRunsOneTurn
  refine ⟨?instruction, ⟨?event, ?beret⟩, ?rejected⟩
  case instruction =>
    intro s c r p l i ha hv hb hc hm hp hsh hf hl hd hw hr
    have hhead : issueHead l { s with agenda := r } = .run i { s with agenda := r } := issueHead_of_ready hd hw hr
    rw [step_eq_issueHead ha hv hb hc hm hp hsh hf hl, hhead, afterPrep]
  case event =>
    intro s r i ha he hv hb
    exact step_event ha he hv hb
  case beret =>
    intro s r q w c i ha hv hb hst hctx hn hw hd
    exact step_beret ha hv hb hst hctx hn hw hd
  case rejected =>
    intro s c r p l x ha hv hb hc hm hp hsh hf hl hd hcan
    have hhead := issueHead_of_reject (s := { s with agenda := r }) hd
    have htrap := enterTrap_eq (s := { s with agenda := r }) 0x01 s.core.seq.pc (BitVec.ofNat 64 (lineHead l (slotOf s.core.seq.pc))) hcan
    rw [curHead_eq (s := { s with agenda := r }) hl] at hhead
    refine ⟨_, by rw [step_eq_issueHead ha hv hb hc hm hp hsh hf hl, hhead, afterPrep, htrap], ?_⟩
    exact ⟨rfl, rfl, rfl, rfl, rfl, rfl, rfl, fun _ _ => rfl,
      ⟨rfl, rfl, rfl, rfl, rfl, rfl, rfl, rfl, rfl, rfl, rfl, rfl, rfl, rfl, rfl, rfl, rfl⟩, rfl, fun _ => rfl⟩

end Sys2Proof.Proofs
end

section
/-! Transfers of control within a line (R30, R31, R157), with what the machine's own transfer and target arithmetic come to. -/

namespace Sys2Proof.Proofs

open Sys2Proof.Machine Sys2Proof.Safety

/-! ### Targets -/

/-- The machine's sum of words is the address that the field names, taken modulo 2 to the 64. -/
theorem targetPc_eq (pc : Word) (tgt : BitVec 24) : targetPc pc tgt = targetOfField pc tgt := by
  have hsext : (tgt.extractLsb' 5 19).signExtend 64 = BitVec.ofInt 64 (tgt.extractLsb' 5 19).toInt := rfl
  rw [targetPc, targetOfField, hsext, BitVec.ofInt_add, BitVec.ofInt_add, BitVec.mul_comm, BitVec.ofInt_mul, lineBase]
  rfl

/-! ### Going to a place -/

@[simp] theorem goto_pc (s : State) (p : Word) (b : Bool) : (goto s p b).core.seq.pc = p := rfl
@[simp] theorem goto_loops (s : State) (p : Word) (b : Bool) : (goto s p b).core.seq.loops = s.core.seq.loops := rfl
@[simp] theorem getS_goto (s : State) (p : Word) (b : Bool) (r : SReg) : getS (goto s p b) r = getS s r := rfl
@[simp] theorem goto_vec (s : State) (p : Word) (b : Bool) : (goto s p b).core.vec = s.core.vec := rfl

theorem scalarOnly_goto {s u : State} (h : ScalarOnly s u) (p : Word) (b : Bool) : ScalarOnly s (goto u p b) := by
  unfold ScalarOnly at h ⊢
  rw [h]
  rfl

theorem scalarOnly_setS (s : State) (d : SReg) (v : Word) : ScalarOnly s (setS s d v) := by
  unfold ScalarOnly setS
  split <;> rfl

/-- A transfer to a slot of the line control is in goes there (R31). -/
theorem takeTo_of_inLine {s u : State} {p : Word} (h : InLine s p) : takeTo s u p = .next (goto u p false) := by
  obtain ⟨hb, hl, hn, hf⟩ := h
  rw [takeTo, if_pos hl, if_pos ⟨by simp [hb], hn, by simp [hf]⟩]

/-- An instruction whose work takes `s` to `u`, and that transfers control within the line. -/
theorem jumps_of_takeTo {i : Instr} {s u : State} {ws : List SReg} {p : Word} (he : exec i s = takeTo s u p) (hp : InLine s p)
    (hl : u.core.seq.loops = s.core.seq.loops) (hr : RegsKept ws s u) (ho : ScalarOnly s u) : Jumps i s ws p :=
  ⟨goto u p false, he.trans (takeTo_of_inLine hp), rfl, hl, hr, scalarOnly_goto ho p false⟩

theorem jumps_of_takeTo_self {i : Instr} {s : State} {p : Word} (he : exec i s = takeTo s s p) (hp : InLine s p) : Jumps i s [] p :=
  jumps_of_takeTo he hp rfl (fun _ _ => rfl) rfl

/-! ### The instructions -/

theorem exec_jmp (tgt : BitVec 24) (s : State) : exec (.jmp tgt) s = takeTo s s (targetOfField s.core.seq.pc tgt) := by
  rw [← targetPc_eq]
  rfl

theorem exec_call (d : SReg) (tgt : BitVec 24) (s : State) :
    exec (.call d tgt) s = takeTo s (setS s d (nextPc s)) (targetOfField s.core.seq.pc tgt) := by
  rw [← targetPc_eq]
  rfl

/-- BR.cc transfers control where its condition holds. -/
theorem exec_brCc_taken {cc : Cc} {a b : SReg} {tgt : BitVec 24} {s : State} (h : condHolds cc (getS s a) (getS s b) = true) :
    exec (.brCc cc a b tgt) s = takeTo s s (targetOfField s.core.seq.pc tgt) := by
  rw [← targetPc_eq]
  exact if_pos h

theorem exec_brCc_passed {cc : Cc} {a b : SReg} {tgt : BitVec 24} {s : State} (h : condHolds cc (getS s a) (getS s b) = false) :
    exec (.brCc cc a b tgt) s = done s :=
  if_neg (by simp [h])

/-- A branch whose condition decides `c`, both ways. -/
theorem branch_of_condHolds {cc : Cc} {a b : SReg} {tgt : BitVec 24} {s : State} {c : Prop} [Decidable c]
    (h : condHolds cc (getS s a) (getS s b) = decide c) :
    (c → InLine s (targetOfField s.core.seq.pc tgt) → Jumps (.brCc cc a b tgt) s [] (targetOfField s.core.seq.pc tgt)) ∧
      (¬c → Continues (.brCc cc a b tgt) s) :=
  ⟨fun hc hp => jumps_of_takeTo_self (exec_brCc_taken (h.trans (decide_eq_true hc))) hp,
    fun hc => continues_of_done (exec_brCc_passed (h.trans (decide_eq_false hc)))⟩

theorem jumps_call {d : SReg} {tgt : BitVec 24} {s : State} (hp : InLine s (targetOfField s.core.seq.pc tgt)) :
    Jumps (.call d tgt) s [d] (targetOfField s.core.seq.pc tgt) :=
  jumps_of_takeTo (exec_call d tgt s) hp (setS_loops s d _) (regsKept_setS s d _) (scalarOnly_setS s d _)

/-- CALL writes the address of the next head into its destination. -/
theorem call_writes_nextPc {d : SReg} {tgt : BitVec 24} {s : State} (hp : InLine s (targetOfField s.core.seq.pc tgt)) :
    ∃ t, exec (.call d tgt) s = .next t ∧ (d ≠ 0 → getS t d = nextPc s) ∧ getS t 0 = 0 :=
  ⟨_, (exec_call d tgt s).trans (takeTo_of_inLine hp), fun hd => getS_setS_self s d _ hd, getS_zero _⟩

/-- Settles O11: each condition of BR.cc decides its comparison (`branch_of_condHolds`); a transfer within the line goes there. -/
theorem branchesAndJumps : Obligations.BranchesAndJumps := by
  unfold Obligations.BranchesAndJumps
  intro a b d tgt s
  exact ⟨branch_of_condHolds rfl, branch_of_condHolds rfl, branch_of_condHolds rfl, branch_of_condHolds rfl, branch_of_condHolds rfl,
    branch_of_condHolds rfl, fun hp => jumps_of_takeTo_self (exec_jmp tgt s) hp,
    fun hx => ⟨jumps_of_takeTo_self (i := .jmpr a) rfl hx, jumps_of_takeTo_self (i := .ret a) rfl hx⟩,
    fun hp => ⟨jumps_call hp, call_writes_nextPc hp⟩⟩

end Sys2Proof.Proofs
end

section
/-! ERET and HALT, and the privilege traps (R45, R153, R160, R161). -/

namespace Sys2Proof.Proofs

open Sys2Proof.Machine Sys2Proof.Safety

/-- A slot that may hold a head does not stand at its line's first two bytes, where a frame slot's address does. -/
theorem mod_ne_zero_of_slot {p : Word} (h : badSlot p = false) : p.toNat % 64 ≠ 0 := by
  intro h0
  simp [badSlot, slotOf, h0] at h

/-- The state in which ERET has restored the privilege. -/
def returned (s : State) : State := setSeq s { s.core.seq with prv := s.core.seq.pprv, inh := false }

theorem exec_eret {s : State} (hp : s.core.seq.prv = true) (h0 : s.core.seq.epc.toNat % 64 ≠ 0) :
    exec .eret s = takeTo s (returned s) s.core.seq.epc := by
  show execEret s = _
  rw [execEret, if_pos hp, if_neg h0]
  rfl

/-- The state in which HALT has stopped the core. -/
def halted (s : State) : State := setSeq (advance s) { (advance s).core.seq with mode := .halted, stall := false }

theorem exec_halt {s : State} (hp : s.core.seq.prv = true) : exec .halt s = .next (halted s) := by
  show execHalt s = _
  rw [execHalt, if_pos hp]
  rfl

/-- The instructions of runtime privilege that the obligation lists, at task privilege. -/
theorem exec_privileged {i : Instr} {a : SReg} {s : State} (hp : s.core.seq.prv = false)
    (hi : i ∈ [Instr.eret, .halt, .icinv a, .tlbinv a, .vrestore a, .sysrd a 0x42, .sysrd a 0x43, .sysrd a 0x44, .syswr a 0x41,
      .syswr a 0x42, .syswr a 0x43, .syswr a 0x44]) : exec i s = privilegeTrap s := by
  have hn : ¬s.core.seq.prv = true := by simp [hp]
  simp only [List.mem_cons, List.not_mem_nil, or_false] at hi
  have hq : (!s.core.seq.prv) = true := by simp [hp]
  rcases hi with rfl | rfl | rfl | rfl | rfl | rfl | rfl | rfl | rfl | rfl | rfl | rfl
  exacts [if_neg hn, if_neg hn, if_neg hn, if_pos hq, if_pos hq, if_neg hn, if_neg hn, if_neg hn, if_neg hn, if_neg hn, if_neg hn,
    if_neg hn]

/-- Settles O16: ERET is a transfer with the privilege restored, HALT sequential flow with the core stopped; below runtime privilege each
of the listed instructions raises before anything else. -/
theorem privilegedInstructions : Obligations.PrivilegedInstructions := by
  unfold Obligations.PrivilegedInstructions
  refine ⟨fun s hp => ⟨fun hl => ?eret, ?halt⟩, fun a s hp hc i hi => enters_of_raise hc (exec_privileged hp hi)⟩
  case eret =>
    refine ⟨_, (exec_eret hp (mod_ne_zero_of_slot hl.1)).trans (takeTo_of_inLine hl), rfl, rfl, rfl, rfl, fun _ _ => rfl, ?_, rfl,
      fun _ => rfl, ?_, ?_⟩
    · simp [VectorKept, returned]
    · simp [DeviceKept, returned, goto]
    · simp [OthersKept, returned, goto]
  case halt =>
    obtain ⟨hvec, htiles, -, hdevice, -⟩ := coreFrame_advance (coreFrame_refl s)
    exact ⟨_, exec_halt hp, rfl, fun _ _ => rfl, advance_pc s, hvec, htiles, fun _ => rfl, hdevice, rfl, rfl, rfl⟩

end Sys2Proof.Proofs
end

section
/-! Entering a line (R33, R35): what a fetch can change, and that it reads no scalar register. -/

namespace Sys2Proof.Proofs

open Sys2Proof.Machine Sys2Proof.Safety

/-! ### What a fetch changes -/

/-- `t` differs from `s` at most in what a fetch touches: translations, choices, budgets, messages, free values, the instruction cache. -/
def FetchOnly (s t : State) : Prop :=
  t = { s with tlb := t.tlb, choices := t.choices, budgets := t.budgets, out := t.out, freeCtr := t.freeCtr,
               core := { s.core with seq := { s.core.seq with icache := t.core.seq.icache } } }

theorem FetchOnly.refl (s : State) : FetchOnly s s := rfl

theorem FetchOnly.trans {s t u : State} (h1 : FetchOnly s t) (h2 : FetchOnly t u) : FetchOnly s u := by
  unfold FetchOnly at *
  rw [h2, h1]

theorem FetchOnly.of_tlbOnly {s t : State} (h : TlbOnly s t) : FetchOnly s t := by
  unfold TlbOnly at h
  unfold FetchOnly
  rw [h]

theorem FetchOnly.mem {s t : State} (h : FetchOnly s t) : t.mem = s.mem := by rw [h]
theorem FetchOnly.vec {s t : State} (h : FetchOnly s t) : t.core.vec = s.core.vec := by rw [h]
theorem FetchOnly.mat {s t : State} (h : FetchOnly s t) : t.core.mat = s.core.mat := by rw [h]
theorem FetchOnly.regs {s t : State} (h : FetchOnly s t) : t.core.seq.regs = s.core.seq.regs := by rw [h]
theorem FetchOnly.loops {s t : State} (h : FetchOnly s t) : t.core.seq.loops = s.core.seq.loops := by rw [h]
theorem FetchOnly.statusKept {s t : State} (h : FetchOnly s t) : StatusKept s t := by
  rw [h]
  exact ⟨rfl, rfl, rfl, rfl, rfl, rfl, rfl, rfl, rfl⟩
theorem FetchOnly.othersKept {s t : State} (h : FetchOnly s t) : OthersKept s t := by
  rw [h]
  exact ⟨rfl, rfl, rfl⟩

theorem fetchOnly_cacheLine (base l : Nat) (s : State) : FetchOnly s (cacheLine base l s) := rfl

theorem fetchOnly_chargeMem (r : Region) (pa n : Nat) (s : State) : FetchOnly s (chargeMem r pa n s) := by
  rw [chargeMem_eq]
  rfl

theorem fetchOnly_homeRead (pa n : Nat) (s : State) : FetchOnly s (homeRead pa n s).2 := by
  unfold homeRead
  split
  · rw [answer_eq]
    rfl
  · rfl

/-- The copy of the line that a fetch may use. -/
def copyOf (base : Nat) (again : Bool) (s : State) : Option Nat := if again then none else heldLine base s

/-- The copy is what memory holds, without poison. -/
def copyAgrees (pa : Nat) (held : Option Nat) (s : State) : Bool :=
  match held with
  | some l => !isRemote pa && decide (s.rd pa 64 = l) && !isPoisoned s pa 64
  | none => true

/-- Whether the copy is still there: a choice where it differs from memory. -/
def keepCopy (agrees : Bool) (s : State) : Bool × State := if agrees then (true, s) else popChoice s

/-- The line read at its home, where nothing holds the access back (R9, R33, R123). -/
def readLine (base pa : Nat) (s : State) : Fetched × State :=
  if scalarWaits s || !memOk s s.core.seq.eff pa || !wayOpen s pa 0 then (.wait, s)
  else if (homeRead pa 64 (chargeMem s.core.seq.eff pa 64 s)).1.bad then
    (.fault 0x26, (homeRead pa 64 (chargeMem s.core.seq.eff pa 64 s)).2)
  else
    (.line (homeRead pa 64 (chargeMem s.core.seq.eff pa 64 s)).1.val,
      cacheLine base (homeRead pa 64 (chargeMem s.core.seq.eff pa 64 s)).1.val (homeRead pa 64 (chargeMem s.core.seq.eff pa 64 s)).2)

/-- The line from its copy or from its home. -/
def copyOrRead (base pa : Nat) (held : Option Nat) (k : Bool × State) : Fetched × State :=
  match k.1, held with
  | true, some l => (.line l, cacheLine base l k.2)
  | _, _ => readLine base pa k.2

/-- A fetch that has been translated. -/
def fetchAt (base : Nat) (again : Bool) (pa : Nat) (s : State) : Fetched × State :=
  copyOrRead base pa (copyOf base again s) (keepCopy (copyAgrees pa (copyOf base again s) s) s)

def afterTranslation (base : Nat) (again : Bool) (r : Except Nat Phys × State) : Fetched × State :=
  match r.1 with
  | .error c => (.fault c, r.2)
  | .ok p => fetchAt base again p.pa r.2

theorem fetchLine_eq (base : Nat) (again : Bool) (s : State) :
    fetchLine base again s = afterTranslation base again (translate .scalar .s .x (BitVec.ofNat 64 base) s) := by
  unfold fetchLine
  generalize translate .scalar .s .x (BitVec.ofNat 64 base) s = r
  obtain ⟨x, s1⟩ := r
  cases x <;> rfl

theorem fetchOnly_readLine (base pa : Nat) (s : State) : FetchOnly s (readLine base pa s).2 := by
  have hread := (fetchOnly_chargeMem s.core.seq.eff pa 64 s).trans (fetchOnly_homeRead pa 64 _)
  unfold readLine
  split
  · exact .refl s
  · split
    · exact hread
    · exact hread.trans (fetchOnly_cacheLine _ _ _)

theorem fetchOnly_fetchAt (base : Nat) (again : Bool) (pa : Nat) (s : State) : FetchOnly s (fetchAt base again pa s).2 := by
  have hkeep : FetchOnly s (keepCopy (copyAgrees pa (copyOf base again s) s) s).2 :=
    .of_tlbOnly (tlbOnly_ite (TlbOnly.refl s) (tlbOnly_popChoice s))
  unfold fetchAt copyOrRead
  split
  · exact hkeep.trans (fetchOnly_cacheLine _ _ _)
  · exact hkeep.trans (fetchOnly_readLine _ _ _)

theorem fetchOnly_fetchLine (base : Nat) (again : Bool) (s : State) : FetchOnly s (fetchLine base again s).2 := by
  have ht := FetchOnly.of_tlbOnly (tlbOnly_translate .scalar .s .x (BitVec.ofNat 64 base) s)
  rw [fetchLine_eq]
  unfold afterTranslation
  split
  · exact ht
  · exact ht.trans (fetchOnly_fetchAt _ _ _ _)

/-- Checks 1 and 2 on what a fetch gives (R35). -/
def entryOf (p first : Word) : Fetched → Entry
  | .wait => .wait
  | .fault c => .trap c p (BitVec.ofNat 64 (lineBase p))
  | .line l =>
    if !lineIntact l then .retry
    else if !lineFormOk l then .trap 0x02 first (BitVec.ofNat 64 (lineDesc l))
    else .ok l

/-- The head that an illegal line's trap names (R34, R140). -/
def firstHead (p : Word) (s : State) : Word := if s.core.seq.starting then p else BitVec.ofNat 64 (lineBase p + 2)

theorem enterLine_eq (p : Word) (s : State) :
    enterLine p s = (entryOf p (firstHead p s) (fetchLine (lineBase p) false s).1, (fetchLine (lineBase p) false s).2) := by
  unfold enterLine firstHead entryOf
  extract_lets base first
  generalize fetchLine (lineBase p) false s = r
  obtain ⟨x, s1⟩ := r
  cases x with
  | wait => rfl
  | fault c => rfl
  | line l =>
    dsimp only
    split
    · rfl
    · split <;> rfl

theorem fetchOnly_enterLine (p : Word) (s : State) : FetchOnly s (enterLine p s).2 := by
  rw [enterLine_eq]
  exact fetchOnly_fetchLine _ _ _

theorem fetchOnly_of_enterLine {p : Word} {s u : State} {e : Entry} (h : enterLine p s = (e, u)) : FetchOnly s u := by
  have hf := fetchOnly_enterLine p s
  rwa [h] at hf

/-- A line that has been entered passes checks 1 and 2 (R35). -/
theorem checked_of_enterLine {p : Word} {l : Nat} {s u : State} (h : enterLine p s = (.ok l, u)) :
    lineIntact l = true ∧ lineFormOk l = true := by
  have h1 : entryOf p (firstHead p s) (fetchLine (lineBase p) false s).1 = .ok l := by
    rw [enterLine_eq] at h
    exact congrArg Prod.fst h
  unfold entryOf at h1
  split at h1
  · simp at h1
  · simp at h1
  · split at h1
    · simp at h1
    · split at h1
      · simp at h1
      · simp_all

/-! ### A fetch reads no scalar register -/

/-- The state with other scalar registers. -/
def withRegs (R : Vector Word 32) (s : State) : State := setSeq s { s.core.seq with regs := R }

/-- What an operation gives, with other scalar registers in the state it gives. -/
def onRegs {α : Type} (R : Vector Word 32) (x : α × State) : α × State := (x.1, withRegs R x.2)

/-- A choice between two operations keeps registers apart where both do. -/
theorem ite_onRegs {α : Type} {R : Vector Word 32} {c : Prop} [Decidable c] {x y x' y' : α × State} (hx : x' = onRegs R x)
    (hy : y' = onRegs R y) : (if c then x' else y') = onRegs R (if c then x else y) := by
  by_cases h : c
  · rw [if_pos h, if_pos h, hx]
  · rw [if_neg h, if_neg h, hy]

theorem popChoice_withRegs (R : Vector Word 32) (s : State) : popChoice (withRegs R s) = onRegs R (popChoice s) := by
  unfold popChoice
  rw [show (withRegs R s).choices = s.choices from rfl]
  cases s.choices <;> rfl

theorem walk_withRegs (R : Vector Word 32) (site : TlbSite) (asn vp level : Nat) :
    ∀ (tbl : Nat) (s : State), walk site asn vp level tbl (withRegs R s) = onRegs R (walk site asn vp level tbl s) := by
  induction level with
  | zero =>
    intro tbl s
    rw [walk, walk]
    exact ite_onRegs rfl rfl
  | succ level ih =>
    intro tbl s
    rw [walk, walk]
    refine ite_onRegs rfl ?_
    rw [show upperAt (withRegs R s) = upperAt s from rfl, show walkHit (withRegs R s) = walkHit s from rfl]
    extract_lets lv i e ptr hit stale
    have hpair : (if stale = true then popChoice (withRegs R s) else (false, withRegs R s)) =
        onRegs R (if stale = true then popChoice s else (false, s)) := ite_onRegs (popChoice_withRegs R s) rfl
    rw [hpair]
    generalize (if stale = true then popChoice s else (false, s)) = r
    obtain ⟨use, s1⟩ := r
    clear_value hit stale ptr e i lv
    have hrest : ∀ (tb fr : Nat) (x y : Except Nat (List Leaf) × State), y = onRegs R x →
        (if ptr = true then walk site asn vp level tb (addWalk (withRegs R s1) site asn lv vp fr) else y) =
          onRegs R (if ptr = true then walk site asn vp level tb (addWalk s1 site asn lv vp fr) else x) :=
      fun tb fr x y hx => ite_onRegs (ih tb (addWalk s1 site asn lv vp fr)) hx
    have hleaf : ∀ x : Except Nat (List Leaf), (x, withRegs R s1) = onRegs R (x, s1) := fun _ => rfl
    rw [show onRegs R (use, s1) = (use, withRegs R s1) from rfl]
    match use, hit with
    | true, some f => exact ih (f * 4096) s1
    | true, none | false, none | false, some f =>
      refine hrest _ _ _ _ ?_
      repeat' apply ite_onRegs
      all_goals exact hleaf _

theorem findLeaf_withRegs (R : Vector Word 32) (site : TlbSite) (root asn vp : Nat) (s : State) :
    findLeaf site root asn vp (withRegs R s) = onRegs R (findLeaf site root asn vp s) := by
  unfold findLeaf
  rw [walk_withRegs, show tlbHit (withRegs R s) = tlbHit s from rfl]
  generalize walk site asn vp 4 (root * 4096) s = r
  obtain ⟨fresh, s1⟩ := r
  rw [show onRegs R (fresh, s1) = (fresh, withRegs R s1) from rfl]
  extract_lets hit
  clear_value hit
  dsimp -zeta only
  extract_lets first same
  have hpair : (if same = true then (false, withRegs R s1) else popChoice (withRegs R s1)) =
      onRegs R (if same = true then (false, s1) else popChoice s1) := ite_onRegs rfl (popChoice_withRegs R s1)
  rw [hpair]
  generalize (if same = true then (false, s1) else popChoice s1) = k
  obtain ⟨use, s2⟩ := k
  clear_value same first
  rw [show onRegs R (use, s2) = (use, withRegs R s2) from rfl]
  cases use <;> cases hit <;> cases first <;> rfl

theorem translate_withRegs (R : Vector Word 32) (site : Nat → TlbSite) (p : Path) (a : Acc) (va : Word) (s : State) :
    translate site p a va (withRegs R s) = onRegs R (translate site p a va s) := by
  show translateFor (site s.core.id) (some s.core.id) s.core.seq.eff p a {} va (withRegs R s) =
    onRegs R (translateFor (site s.core.id) (some s.core.id) s.core.seq.eff p a {} va s)
  unfold translateFor
  extract_lets v
  refine ite_onRegs rfl (ite_onRegs (ite_onRegs rfl rfl) ?_)
  rw [findLeaf_withRegs]
  generalize findLeaf (site s.core.id) s.core.seq.eff.root s.core.seq.eff.asn (v / 4096) s = r
  obtain ⟨l, s1⟩ := r
  cases l with
  | error c => rfl
  | ok l =>
    show (match leafChecks s1 l p a {} _ with | some c => _ | none => _) =
      onRegs R (match leafChecks s1 l p a {} _ with | some c => _ | none => _)
    generalize leafChecks s1 l p a {} _ = c
    cases c <;> rfl

theorem answer_eq_popChoice (n : Nat) (s : State) :
    answer n s = (⟨bytesNat (freeBytes s n).1, (popChoice (freeBytes s n).2).1⟩, (popChoice (freeBytes s n).2).2) := rfl

theorem answer_withRegs (R : Vector Word 32) (n : Nat) (s : State) : answer n (withRegs R s) = onRegs R (answer n s) := by
  have hchoice : popChoice (freeBytes (withRegs R s) n).2 = onRegs R (popChoice (freeBytes s n).2) :=
    popChoice_withRegs R (freeBytes s n).2
  rw [answer_eq_popChoice, answer_eq_popChoice, hchoice]
  rfl

theorem homeRead_withRegs (R : Vector Word 32) (pa n : Nat) (s : State) : homeRead pa n (withRegs R s) = onRegs R (homeRead pa n s) := by
  unfold homeRead
  cases place pa with
  | remote ap => exact answer_withRegs R n (send s (OutMsg.read (remoteOf s pa).1 (remoteOf s pa).2 n))
  | _ => rfl

theorem chargeBudget_withRegs (R : Vector Word 32) (r : Region) (a : Activity) (arb n : Nat) (s : State) :
    chargeBudget r a arb n (withRegs R s) = withRegs R (chargeBudget r a arb n s) := by
  unfold chargeBudget
  rw [show amountOf (withRegs R s) r.budgetRcb a = amountOf s r.budgetRcb a from rfl]
  split <;> rfl

theorem chargeMem_withRegs (R : Vector Word 32) (r : Region) (pa n : Nat) (s : State) :
    chargeMem r pa n (withRegs R s) = withRegs R (chargeMem r pa n s) := by
  unfold chargeMem
  rw [show memArbiter (withRegs R s) pa = memArbiter s pa from rfl]
  cases memArbiter s pa with
  | none => rfl
  | some x => exact chargeBudget_withRegs R r x.1 x.2 n s

theorem readLine_withRegs (R : Vector Word 32) (base pa : Nat) (s : State) :
    readLine base pa (withRegs R s) = onRegs R (readLine base pa s) := by
  have hread : homeRead pa 64 (chargeMem s.core.seq.eff pa 64 (withRegs R s)) =
      onRegs R (homeRead pa 64 (chargeMem s.core.seq.eff pa 64 s)) := by rw [chargeMem_withRegs, homeRead_withRegs]
  unfold readLine
  rw [show (withRegs R s).core.seq.eff = s.core.seq.eff from rfl, hread]
  exact ite_onRegs rfl (ite_onRegs rfl rfl)

theorem fetchLine_withRegs (R : Vector Word 32) (base : Nat) (again : Bool) (s : State) :
    fetchLine base again (withRegs R s) = onRegs R (fetchLine base again s) := by
  rw [fetchLine_eq, fetchLine_eq, translate_withRegs]
  generalize translate .scalar .s .x (BitVec.ofNat 64 base) s = r
  obtain ⟨x, s1⟩ := r
  cases x with
  | error c => rfl
  | ok p =>
    show fetchAt base again p.pa (withRegs R s1) = onRegs R (fetchAt base again p.pa s1)
    unfold fetchAt
    have hkeep : keepCopy (copyAgrees p.pa (copyOf base again s1) s1) (withRegs R s1) =
        onRegs R (keepCopy (copyAgrees p.pa (copyOf base again s1) s1) s1) := ite_onRegs rfl (popChoice_withRegs R s1)
    rw [show copyOf base again (withRegs R s1) = copyOf base again s1 from rfl,
      show copyAgrees p.pa (copyOf base again s1) (withRegs R s1) = copyAgrees p.pa (copyOf base again s1) s1 from rfl, hkeep]
    generalize keepCopy _ s1 = k
    obtain ⟨keep, s2⟩ := k
    have hrest := readLine_withRegs R base p.pa s2
    generalize copyOf base again s1 = held
    match keep, held with
    | true, some l => rfl
    | true, none | false, none | false, some l => exact hrest

/-- Entering a line reads no scalar register. -/
theorem enterLine_withRegs (R : Vector Word 32) (p : Word) (s : State) : enterLine p (withRegs R s) = onRegs R (enterLine p s) := by
  rw [enterLine_eq, enterLine_eq, fetchLine_withRegs, show firstHead p (withRegs R s) = firstHead p s from rfl]
  rfl

theorem setS_eq_withRegs (s : State) (d : SReg) (v : Word) : setS s d v = withRegs (setS s d v).core.seq.regs s := setS_eq s d v

theorem enterLine_setS (p : Word) (s : State) (d : SReg) (v : Word) : (enterLine p (setS s d v)).1 = (enterLine p s).1 := by
  rw [setS_eq_withRegs, enterLine_withRegs]
  rfl

end Sys2Proof.Proofs
end

section
/-! Transfers to another line and to an illegal target (R31, R32, R35, R153, R157). -/

namespace Sys2Proof.Proofs

open Sys2Proof.Machine Sys2Proof.Safety

/-! ### Arriving in another line -/

/-- Control at `p`, in the line that has been entered. -/
def arrived (p : Word) (l : Nat) (u : State) : State := setSeq (goto u p false) { (goto u p false).core.seq with line := some (p, l) }

theorem takeTo_of_entered {s v u : State} {p : Word} {l : Nat} (hb : lineBase p ≠ lineBase s.core.seq.pc)
    (he : enterLine p v = (.ok l, u)) (hk : slotOk l p = true) : takeTo s v p = .next (arrived p l u) := by
  rw [takeTo, if_neg hb, he]
  exact if_pos hk

/-- The transfer of `i` to `p`, in the line `l` of another address, with `post` of the state there. -/
def Crosses (i : Instr) (s : State) (l : Nat) (ws : List SReg) (p : Word) (post : State → Prop) : Prop :=
  ∃ t, exec i s = .next t ∧ t.core.seq.pc = p ∧ t.core.seq.line = some (p, l) ∧ lineIntact l = true ∧ lineFormOk l = true ∧
    t.core.seq.loops = s.core.seq.loops ∧ getS t 0 = 0 ∧ RegsKept ws s t ∧ MemKept s t ∧ VectorKept s t ∧ TilesKept s t ∧ post t

theorem vectorKept_of_eq {s t : State} (h : t.core.vec = s.core.vec) : VectorKept s t := by
  unfold VectorKept
  simp only [h, and_self]

theorem getS_arrived (p : Word) (l : Nat) {u v : State} (h : FetchOnly v u) (r : SReg) : getS (arrived p l u) r = getS v r := by
  show (if r = 0 then 0 else u.core.seq.regs[r.toNat]) = if r = 0 then 0 else v.core.seq.regs[r.toNat]
  simp only [h.regs]

/-- Fetching a line and going there keep what an instruction has done to registers, vector state, accumulators and memory. -/
theorem crosses_of_takeTo {i : Instr} {s v u : State} {l : Nat} {ws : List SReg} {p : Word} {post : State → Prop}
    (hx : exec i s = takeTo s v p) (hb : lineBase p ≠ lineBase s.core.seq.pc) (he : enterLine p v = (.ok l, u)) (hk : slotOk l p = true)
    (hl : v.core.seq.loops = s.core.seq.loops) (hr : RegsKept ws s v) (hm : v.mem = s.mem) (hv : v.core.vec = s.core.vec)
    (ha : v.core.mat = s.core.mat) (hp : post (arrived p l u)) : Crosses i s l ws p post := by
  have hf := fetchOnly_of_enterLine he
  obtain ⟨hintact, hform⟩ := checked_of_enterLine he
  exact ⟨arrived p l u, hx.trans (takeTo_of_entered hb he hk), rfl, rfl, hintact, hform, hf.loops.trans hl, getS_zero _,
    fun r hn => (getS_arrived p l hf r).trans (hr r hn), memKept_of_mem (hf.mem.trans hm), vectorKept_of_eq (hf.vec.trans hv),
    congrArg Mat.a (hf.mat.trans ha), hp⟩

theorem statusKept_arrived {u v : State} (h : FetchOnly v u) (p : Word) (l : Nat) : StatusKept v (arrived p l u) := h.statusKept

theorem crosses_of_takeTo_self {i : Instr} {s u : State} {l : Nat} {p : Word} (hx : exec i s = takeTo s s p)
    (hb : lineBase p ≠ lineBase s.core.seq.pc) (he : enterLine p s = (.ok l, u)) (hk : slotOk l p = true) :
    Crosses i s l [] p (StatusKept s) :=
  crosses_of_takeTo hx hb he hk rfl (fun _ _ => rfl) rfl rfl rfl (statusKept_arrived (fetchOnly_of_enterLine he) p l)

theorem setS_mat (s : State) (d : SReg) (v : Word) : (setS s d v).core.mat = s.core.mat := by
  rw [setS_eq]

theorem statusKept_of_setS {s t : State} {d : SReg} {v : Word} (h : StatusKept (setS s d v) t) : StatusKept s t := by
  rw [setS_eq] at h
  exact h

theorem crosses_brCc {cc : Cc} {a b : SReg} {tgt : BitVec 24} {s u : State} {l : Nat}
    (hb : lineBase (targetOfField s.core.seq.pc tgt) ≠ lineBase s.core.seq.pc)
    (he : enterLine (targetOfField s.core.seq.pc tgt) s = (.ok l, u)) (hk : slotOk l (targetOfField s.core.seq.pc tgt) = true)
    (hc : condHolds cc (getS s a) (getS s b) = true) :
    Crosses (.brCc cc a b tgt) s l [] (targetOfField s.core.seq.pc tgt) (StatusKept s) :=
  crosses_of_takeTo_self (exec_brCc_taken hc) hb he hk

theorem crosses_call {d : SReg} {tgt : BitVec 24} {s u : State} {l : Nat}
    (hb : lineBase (targetOfField s.core.seq.pc tgt) ≠ lineBase s.core.seq.pc)
    (he : enterLine (targetOfField s.core.seq.pc tgt) (setS s d (nextPc s)) = (.ok l, u))
    (hk : slotOk l (targetOfField s.core.seq.pc tgt) = true) :
    Crosses (.call d tgt) s l [d] (targetOfField s.core.seq.pc tgt) fun t => (d ≠ 0 → getS t d = nextPc s) ∧ StatusKept s t := by
  have hf := fetchOnly_of_enterLine he
  refine crosses_of_takeTo (exec_call d tgt s) hb he hk (setS_loops s d _) (regsKept_setS s d _) (setS_mem s d _) (setS_vec s d _)
    (setS_mat s d _) ⟨fun hd => ?_, statusKept_of_setS (statusKept_arrived hf _ l)⟩
  rw [getS_arrived _ l hf]
  exact getS_setS_self s d _ hd

theorem slot_of_slotOk {l : Nat} {p : Word} (h : slotOk l p = true) : badSlot p = false := by
  simp only [slotOk, Bool.and_eq_true, Bool.not_eq_true'] at h
  exact h.1.1

/-! ### Illegal targets -/

theorem inLine_iff {s : State} {p : Word} (hl : lineBase p = lineBase s.core.seq.pc) :
    InLine s p ↔ (!badSlot p) = true ∧ slotOf p ≤ curN s ∧ (!followSlot (curLine s) (slotOf p)) = true := by
  simp only [InLine, hl, true_and, Bool.not_eq_true']

/-- A transfer to no slot of a line raises at the branch (R31, R35), whatever the instruction has done to scalar registers. -/
theorem takeTo_of_badTarget {s v : State} {p : Word} (h : BadTarget s p) (hv : (enterLine p v).1 = (enterLine p s).1) :
    takeTo s v p = trapHere 0x03 p s := by
  rcases h with ⟨hl, hn⟩ | ⟨hl, l, u, he, hk⟩
  · rw [takeTo, if_pos hl, if_neg (mt (inLine_iff hl).mpr hn)]
  · have hok : (enterLine p v).1 = .ok l := by rw [hv, he]
    have hent : enterLine p v = (.ok l, (enterLine p v).2) := Prod.ext hok rfl
    rw [takeTo, if_neg hl, hent]
    exact if_neg (by simp [hk])

theorem entersTrap_of_badTarget {i : Instr} {s v : State} {p : Word} (hc : CanTrap s) (h : BadTarget s p) (hx : exec i s = takeTo s v p)
    (hv : (enterLine p v).1 = (enterLine p s).1) : EntersTrap i s 3 s.core.seq.pc p :=
  enters_of_raise hc (hx.trans (takeTo_of_badTarget h hv))

/-- Settles O12: a transfer enters the line and arrives (`crosses_of_takeTo`) or raises at the branch (`takeTo_of_badTarget`). -/
theorem transfersAcrossLines : Obligations.TransfersAcrossLines := by
  unfold Obligations.TransfersAcrossLines
  refine ⟨fun a b d tgt l s u => ⟨?register, ?field, ?call, ?eret⟩, fun a d tgt s hc => ⟨fun h => ⟨?_, ?_⟩, fun h => ⟨?_, ?_, ?_⟩⟩⟩
  case register =>
    rintro ⟨hb, he, hk⟩
    exact ⟨crosses_of_takeTo_self (i := .jmpr a) rfl hb he hk, crosses_of_takeTo_self (i := .ret a) rfl hb he hk⟩
  case field =>
    rintro ⟨hb, he, hk⟩
    exact ⟨crosses_of_takeTo_self (exec_jmp tgt s) hb he hk,
      fun h => crosses_brCc hb he hk (decide_eq_true h), fun h => crosses_brCc hb he hk (decide_eq_true h),
      fun h => crosses_brCc hb he hk (decide_eq_true h), fun h => crosses_brCc hb he hk (decide_eq_true h),
      fun h => crosses_brCc hb he hk (decide_eq_true h), fun h => crosses_brCc hb he hk (decide_eq_true h)⟩
  case call =>
    rintro ⟨hb, he, hk⟩
    exact crosses_call hb he hk
  case eret =>
    rintro hp ⟨hb, he, hk⟩
    have hf := fetchOnly_of_enterLine he
    have hslot := slot_of_slotOk hk
    obtain ⟨hprv, hpprv, hinh, hepc, -⟩ := statusKept_arrived hf s.core.seq.epc l
    exact crosses_of_takeTo (exec_eret hp (mod_ne_zero_of_slot hslot)) hb he hk rfl (fun _ _ => rfl) rfl rfl rfl ⟨hprv, hinh, hepc, hpprv⟩
  · exact entersTrap_of_badTarget (v := s) hc h rfl rfl
  · exact entersTrap_of_badTarget (v := s) hc h rfl rfl
  · exact entersTrap_of_badTarget hc h (exec_jmp tgt s) rfl
  · exact entersTrap_of_badTarget hc h (exec_call d tgt s) (enterLine_setS _ s d _)
  · exact entersTrap_of_badTarget hc h (exec_brCc_taken (decide_eq_true rfl)) rfl

end Sys2Proof.Proofs
end

section
/-! Loops (R136, R158): entering one, leaving one, and what the last head of a body does. -/

namespace Sys2Proof.Proofs

open Sys2Proof.Machine Sys2Proof.Safety

/-! ### The target of a LOOP -/

theorem loopTargetBad_of_badSlot {s : State} {p : Word} (h : badSlot p = true) : loopTargetBad p s = (some true, s) := if_pos h

theorem loopTargetBad_of_target {s : State} {p : Word} {there : Bool} (h : TargetSlot s p there) :
    ∃ s1, loopTargetBad p s = (some (!there), s1) ∧ FetchOnly s s1 ∧ (lineBase p = lineBase s.core.seq.pc → s1 = s) := by
  obtain ⟨hb, ⟨hl, hk⟩ | ⟨hl, l, u, he, hk⟩⟩ := h
  · refine ⟨s, ?_, .refl s, fun _ => rfl⟩
    rw [loopTargetBad, if_neg (by simp [hb]), if_pos hl, hk]
  · refine ⟨u, ?_, fetchOnly_of_enterLine he, fun hs => absurd hs hl⟩
    rw [loopTargetBad, if_neg (by simp [hb]), if_neg hl, he, ← hk]

/-! ### Entering a loop -/

/-- The entry that LOOP pushes, and that of LOOPR. -/
def loopEntry (c : SReg) (s : State) (a z : Word) : LoopEntry :=
  { start := a, stop := z, remaining := getS s c, index := 0, loopr := false, slip := 1, step := 1, rot := 0, outer := s.core.vec.slip }

def looprEntry (c : SReg) (sl : BitVec 6) (rs : BitVec 4) (s : State) (a z : Word) : LoopEntry :=
  { start := a, stop := z, remaining := getS s c, index := 0, loopr := true, slip := sl.toNat + 1, step := rs.toNat + 1, rot := 0,
    outer := s.core.vec.slip }

theorem exec_loop (c : SReg) (tgt : BitVec 24) (s : State) :
    exec (.loop c tgt) s = enterLoop c tgt (loopEntry c s) s.core.vec.slip s := rfl

theorem exec_loopr (c : SReg) (sl : BitVec 6) (rs : BitVec 4) (tgt : BitVec 24) (s : State) :
    exec (.loopr c sl rs tgt) s = enterLoop c tgt (looprEntry c sl rs s) (sl.toNat + 1) s := rfl

/-- What the obligation asks of the state in which a loop has been entered, its last head at `p`. -/
def LoopFrame (s : State) (p : Word) (t : State) : Prop :=
  RegsKept [] s t ∧ MemKept s t ∧ VectorKept s t ∧ TilesKept s t ∧ StatusKept s t ∧ OthersKept s t ∧
    (lineBase p = lineBase s.core.seq.pc → ScalarOnly s t)

/-- The state in which an entry has been pushed. -/
def inLoop (e : LoopEntry) (slip : Nat) (p : Word) (u : State) : State :=
  goto (setVec (setSeq u { u.core.seq with loops := e :: u.core.seq.loops }) { u.core.vec with slip := slip }) p false

theorem loopFrame_inLoop {s u : State} {p : Word} (e : LoopEntry) (slip : Nat) (a : Word) (hf : FetchOnly s u)
    (hs : lineBase p = lineBase s.core.seq.pc → u = s) : LoopFrame s p (inLoop e slip a u) := by
  refine ⟨regsKept_of_regs [] hf.regs, memKept_of_mem hf.mem, ?_, congrArg Mat.a hf.mat, hf.statusKept, hf.othersKept, fun hl => ?_⟩
  · exact vectorKept_of_eq (t := u) hf.vec
  · rw [hs hl]
    rfl

section
variable {c : SReg} {tgt : BitVec 24} {entry : Word → Word → LoopEntry} {slip : Nat} {s : State}

/-- What entering a loop does once its target has been found to be a slot. -/
theorem enterLoop_of_slot {u : State} (hp : s.core.seq.pc.toNat < (targetOfField s.core.seq.pc tgt).toNat)
    (hb : loopTargetBad (targetOfField s.core.seq.pc tgt) s = (some false, u)) :
    enterLoop c tgt entry slip s =
      if (getS s c).toInt ≤ 0 then takeAfter s s (targetOfField s.core.seq.pc tgt)
      else if 6 ≤ s.core.seq.loops.length then trapHere 0x06 6 s
      else .next (inLoop (entry (nextPc s) (targetOfField s.core.seq.pc tgt)) slip (nextPc s) u) := by
  unfold enterLoop
  rw [targetPc_eq]
  extract_lets stop n
  rw [if_neg (Nat.not_le.mpr hp), show loopTargetBad stop s = (some false, u) from hb]
  rfl

theorem enterLoop_pushes (hp : s.core.seq.pc.toNat < (targetOfField s.core.seq.pc tgt).toNat)
    (ht : TargetSlot s (targetOfField s.core.seq.pc tgt) true) (hn : 0 < (getS s c).toInt) (hd : s.core.seq.loops.length < 6) :
    ∃ t, enterLoop c tgt entry slip s = .next t ∧
      t.core.seq.loops = entry (nextPc s) (targetOfField s.core.seq.pc tgt) :: s.core.seq.loops ∧ t.core.seq.pc = nextPc s ∧
      t.core.vec.slip = slip ∧ LoopFrame s (targetOfField s.core.seq.pc tgt) t := by
  obtain ⟨u, hb, hf, hs⟩ := loopTargetBad_of_target ht
  refine ⟨inLoop (entry (nextPc s) (targetOfField s.core.seq.pc tgt)) slip (nextPc s) u, ?_, ?_, rfl, rfl, loopFrame_inLoop _ _ _ hf hs⟩
  · rw [enterLoop_of_slot hp hb, if_neg (Int.not_le.mpr hn), if_neg (Nat.not_le.mpr hd)]
  · exact congrArg _ hf.loops

theorem enterLoop_full (hp : s.core.seq.pc.toNat < (targetOfField s.core.seq.pc tgt).toNat)
    (ht : TargetSlot s (targetOfField s.core.seq.pc tgt) true) (hn : 0 < (getS s c).toInt) (hd : 6 ≤ s.core.seq.loops.length) :
    enterLoop c tgt entry slip s = trapHere 0x06 6 s := by
  obtain ⟨u, hb, -, -⟩ := loopTargetBad_of_target ht
  rw [enterLoop_of_slot hp hb, if_neg (Int.not_le.mpr hn), if_pos hd]

theorem enterLoop_skips (hp : s.core.seq.pc.toNat < (targetOfField s.core.seq.pc tgt).toNat)
    (ht : TargetSlot s (targetOfField s.core.seq.pc tgt) true) (hn : (getS s c).toInt ≤ 0) :
    enterLoop c tgt entry slip s = takeAfter s s (targetOfField s.core.seq.pc tgt) := by
  obtain ⟨u, hb, -, -⟩ := loopTargetBad_of_target ht
  rw [enterLoop_of_slot hp hb, if_pos hn]

/-- A target behind the LOOP or at no slot of its line raises before anything else is looked at. -/
theorem enterLoop_badTarget (h : (targetOfField s.core.seq.pc tgt).toNat ≤ s.core.seq.pc.toNat ∨
      badSlot (targetOfField s.core.seq.pc tgt) = true ∨ TargetSlot s (targetOfField s.core.seq.pc tgt) false) :
    enterLoop c tgt entry slip s = trapHere 0x03 (targetOfField s.core.seq.pc tgt) s := by
  unfold enterLoop
  rw [targetPc_eq]
  extract_lets stop n
  by_cases hp : stop.toNat ≤ s.core.seq.pc.toNat
  · exact if_pos hp
  · obtain ⟨u, hb⟩ : ∃ u, loopTargetBad stop s = (some true, u) := by
      rcases h with h | h | h
      · exact absurd h hp
      · exact ⟨s, loopTargetBad_of_badSlot h⟩
      · obtain ⟨u, hb, -, -⟩ := loopTargetBad_of_target h
        exact ⟨u, hb⟩
    rw [hb]
    exact if_neg hp

end

/-! ### Behind a body -/

/-- Control passes to the head after one that is not its line's last (R136). -/
theorem takeAfter_eq_takeTo {s u : State} {p : Word} (hl : lineBase p = lineBase s.core.seq.pc) (hn : slotOf p < curN s) :
    takeAfter s u p = takeTo s u (p + 2) := by
  rw [takeAfter, if_pos hl, if_pos (Nat.le_of_lt hn), afterPc, if_pos hn]

/-- The state in which LEAVE has popped the innermost entry. -/
def popped (e : LoopEntry) (r : List LoopEntry) (s : State) : State :=
  setVec (setSeq s { s.core.seq with loops := r }) { s.core.vec with slip := popSlip e s.core.vec.slip }

theorem exec_leave {s : State} {e : LoopEntry} {r : List LoopEntry} (h : s.core.seq.loops = e :: r) :
    exec .leave s = takeAfter s (popped e r s) e.stop := by
  show execLeave s = _
  unfold execLeave
  rw [h]
  rfl

/-! ### The last head of a body -/

/-- Outside its last head the innermost loop is left alone. -/
theorem endIteration_elsewhere {pc : Word} {ls : List LoopEntry} (h : ∀ x ∈ ls.head?, x.stop ≠ pc) (slip : Nat) :
    endIteration pc ls slip = (ls, false, none, slip) := by
  cases ls with
  | nil => rfl
  | cons e r => rw [endIteration, if_neg (h e rfl)]

/-- The entry of a loop that starts another iteration. -/
def nextIteration (e : LoopEntry) : LoopEntry :=
  { e with remaining := e.remaining - 1, index := e.index + 1, rot := if e.loopr then (e.rot + 16 - e.step) % 16 else e.rot }

theorem endIteration_again {pc : Word} {e : LoopEntry} (hs : e.stop = pc) (hn : 1 < e.remaining.toInt) (r : List LoopEntry) (slip : Nat) :
    endIteration pc (e :: r) slip = (nextIteration e :: r, true, some e.start, slip) := by
  rw [endIteration, if_pos hs]
  exact if_pos hn

theorem endIteration_last {pc : Word} {e : LoopEntry} {r : List LoopEntry} (hs : e.stop = pc) (hn : e.remaining.toInt = 1)
    (hr : ∀ x ∈ r.head?, x.stop ≠ pc) (slip : Nat) : endIteration pc (e :: r) slip = (r, true, none, popSlip e slip) := by
  rw [endIteration, if_pos hs, endIteration_elsewhere hr]
  exact if_neg (by omega)

/-- Sequential flow goes where the loop stack says. -/
theorem advance_of_endIteration {s : State} {l0 ls : List LoopEntry} {b : Bool} {nx : Option Word} {sl : Nat} (hl : s.core.seq.loops = l0)
    (h : endIteration s.core.seq.pc l0 s.core.vec.slip = (ls, b, nx, sl)) :
    (advance s).core.seq.pc = nx.getD (nextPc s) ∧ (advance s).core.seq.loops = ls := by
  unfold advance
  extract_lets q
  rw [show q.loops = l0 from hl, h]
  exact ⟨rfl, rfl⟩

/-- Settles O13: entering a loop goes through the check of its target (`loopTargetBad_of_target`) to one of four ends; the last head of a
body ends an iteration (`endIteration_again`, `endIteration_last`). -/
theorem loops : Obligations.Loops := by
  unfold Obligations.Loops
  refine ⟨fun c sl rs tgt s => ⟨fun hp ht => ⟨fun hn hd => ⟨?loop, ?loopr⟩, fun hn hd hc => ⟨?_, ?_⟩, fun hn hi hl hs => ?skip⟩,
    fun h hc => ⟨?_, ?_⟩, fun e r he hi hl hs => ?leave⟩, fun s e r he => ⟨fun hs hn => ?again, fun hs hn hr => ?last,
      fun hs => ?elsewhere⟩⟩
  case loop =>
    obtain ⟨t, hx, hls, hpc, hslip, hf⟩ := enterLoop_pushes (entry := loopEntry c s) (slip := s.core.vec.slip) hp ht hn hd
    exact ⟨t, _, hx, hls, rfl, rfl, rfl, rfl, rfl, hpc, hslip, hf⟩
  case loopr =>
    obtain ⟨t, hx, hls, hpc, hslip, hf⟩ := enterLoop_pushes (entry := looprEntry c sl rs s) (slip := sl.toNat + 1) hp ht hn hd
    exact ⟨t, _, hx, hls, rfl, rfl, rfl, rfl, rfl, rfl, hpc, hslip, rfl, hf⟩
  · exact enters_of_raise hc ((exec_loop c tgt s).trans (enterLoop_full hp ht hn hd))
  · exact enters_of_raise hc ((exec_loopr c sl rs tgt s).trans (enterLoop_full hp ht hn hd))
  case skip =>
    have hafter := takeAfter_eq_takeTo (u := s) hl hs
    exact ⟨jumps_of_takeTo_self ((exec_loop c tgt s).trans ((enterLoop_skips hp ht hn).trans hafter)) hi,
      jumps_of_takeTo_self ((exec_loopr c sl rs tgt s).trans ((enterLoop_skips hp ht hn).trans hafter)) hi⟩
  · exact enters_of_raise hc ((exec_loop c tgt s).trans (enterLoop_badTarget h))
  · exact enters_of_raise hc ((exec_loopr c sl rs tgt s).trans (enterLoop_badTarget h))
  case leave =>
    exact ⟨_, (exec_leave he).trans ((takeAfter_eq_takeTo hl hs).trans (takeTo_of_inLine hi)), rfl, rfl, rfl, fun _ _ => rfl, rfl⟩
  case again =>
    obtain ⟨hpc, hls⟩ := advance_of_endIteration he (endIteration_again hs hn r s.core.vec.slip)
    exact ⟨advance s, _, rfl, hpc, hls, rfl, rfl, rfl, rfl, fun _ _ => rfl, rfl⟩
  case last =>
    obtain ⟨hpc, hls⟩ := advance_of_endIteration he (endIteration_last hs hn hr s.core.vec.slip)
    exact ⟨advance s, rfl, hpc, hls, fun _ _ => rfl, rfl⟩
  case elsewhere =>
    have hhead : ∀ x ∈ (e :: r).head?, x.stop ≠ s.core.seq.pc := by simpa using hs
    obtain ⟨hpc, hls⟩ := advance_of_endIteration he (endIteration_elsewhere hhead s.core.vec.slip)
    exact ⟨advance s, rfl, hpc, hls, fun _ _ => rfl, rfl⟩

end Sys2Proof.Proofs
end

section
/-! SYSRD and SYSWR (R45, R46, R63, R64, R135, R161, R180). -/

namespace Sys2Proof.Proofs

open Sys2Proof.Machine Sys2Proof.Safety

/-! ### Who may use a number -/

/-- The numbers of the registers that tasks read but that nobody writes. -/
def ReadOnlyReg (n : Nat) : Prop := (0x30 ≤ n ∧ n ≤ 0x35) ∨ n = 0x40 ∨ (0x60 ≤ n ∧ n ≤ 0x63)

/-- The numbers that name a register. -/
def NamedReg (n : Nat) : Prop :=
  n ≤ 5 ∨ (0x10 ≤ n ∧ n ≤ 0x17) ∨ n = 0x20 ∨ n = 0x21 ∨ (0x30 ≤ n ∧ n ≤ 0x35) ∨ (0x40 ≤ n ∧ n ≤ 0x44) ∨ (0x60 ≤ n ∧ n ≤ 0x63)

theorem sysAccess_readOnly {n : Nat} (h : ReadOnlyReg n) : sysAccess n = .ro := by
  unfold ReadOnlyReg at h
  rw [sysAccess, if_neg (by omega), if_pos h]

theorem sysAccess_unnamed {n : Nat} (h : ¬NamedReg n) : sysAccess n = .none := by
  unfold NamedReg at h
  rw [sysAccess, if_neg (by omega), if_neg (by omega), if_neg (by omega), if_neg (by omega)]

theorem sysAccess_vidx {k : Nat} (h : k < 8) : sysAccess (0x10 + k) = .rw := by
  rw [sysAccess, if_pos (by omega)]

theorem toNat_ofNat12 {n : Nat} (h : n < 4096) : (BitVec.ofNat 12 n).toNat = n := toNat_ofNat_of_lt h

/-! ### SYSRD -/

theorem vecSysWaits_drained {s : State} (hx : s.core.vec.vxq = []) (hb : s.core.vec.block = none) (n : Nat) : vecSysWaits s n = false := by
  simp [vecSysWaits, hx, hb]

theorem vecSysWaits_scalar {n : Nat} (h : 0x21 < n) (s : State) : vecSysWaits s n = false := by
  simp [vecSysWaits, Nat.not_le.mpr h]

/-- A register that may be read, and need not be waited for, gives its value. -/
theorem sysrd_puts {d : SReg} {s : State} {n : Nat} {v : Word} (hn : n < 4096) (ha : sysAccess n ≠ .none)
    (hp : sysAccess n = .run → s.core.seq.prv = true) (hw : vecSysWaits s n = false) (hv : sysValue s n = v) :
    Puts (.sysrd d (BitVec.ofNat 12 n)) s d v := by
  refine puts_of_putS ?_
  show execSysrd d (BitVec.ofNat 12 n) s = putS d v s
  dsimp only [execSysrd]
  rw [toNat_ofNat12 hn, hw, hv]
  cases h : sysAccess n with
  | none => exact absurd h ha
  | run => exact if_pos (hp h)
  | rw | ro | roRun => rfl

/-- A register that tasks may read without waiting. -/
theorem sysrd_puts_scalar {d : SReg} {s : State} {n : Nat} {v : Word} (hn : n < 4096) (ha : sysAccess n = .ro ∨ sysAccess n = .roRun)
    (h21 : 0x21 < n) (hv : sysValue s n = v) : Puts (.sysrd d (BitVec.ofNat 12 n)) s d v := by
  refine sysrd_puts hn ?_ ?_ (vecSysWaits_scalar h21 s) hv <;> rcases ha with ha | ha <;> simp [ha]

/-- A trap register, at runtime privilege. -/
theorem sysrd_puts_run {d : SReg} {s : State} {n : Nat} {v : Word} (hn : n < 4096) (ha : sysAccess n = .run) (hp : s.core.seq.prv = true)
    (h21 : 0x21 < n) (hv : sysValue s n = v) : Puts (.sysrd d (BitVec.ofNat 12 n)) s d v :=
  sysrd_puts hn (by simp [ha]) (fun _ => hp) (vecSysWaits_scalar h21 s) hv

theorem sysrd_unnamed {n : BitVec 12} (h : ¬NamedReg n.toNat) (d : SReg) (s : State) : exec (.sysrd d n) s = illegal s := by
  show execSysrd d n s = _
  dsimp only [execSysrd]
  rw [sysAccess_unnamed h]

theorem sysValue_vidx (s : State) (k : Fin 8) : sysValue s (0x10 + k) = s.core.vec.vidx[k] := by
  have hk := k.isLt
  unfold sysValue
  rw [if_neg (by omega), if_neg (by omega), if_neg (by omega), if_neg (by omega), if_neg (by omega), if_neg (by omega), if_pos (by omega),
    Nat.add_sub_cancel_left, Vector.getElem?_eq_getElem hk]
  rfl

theorem sysValue_extended {s : State} {n m : Nat} (x : BitVec m) (h : sysValue s n = x.zeroExtend 64) :
    sysValue s n = BitVec.ofNat 64 x.toNat :=
  h.trans (BitVec.ofNat_toNat 64 x).symm

theorem sysValue_loopIndex (s : State) {k : Nat} (hk : k < 6) : sysValue s (0x30 + k) = loopIndex s.core.seq k := by
  unfold sysValue
  rw [if_neg (by omega), if_neg (by omega), if_neg (by omega), if_neg (by omega), if_neg (by omega), if_neg (by omega), if_neg (by omega),
    if_neg (by omega), if_neg (by omega), if_pos (by omega), Nat.add_sub_cancel_left]

/-! ### SYSWR -/

/-- An instruction whose work takes `s` to `u`, with the registers and the flow of `s`. -/
def Leaves (i : Instr) (s u : State) : Prop := ∃ t, exec i s = .next t ∧ ScalarOnly u t ∧ RegsKept [] s t ∧ FlowsOn s t

theorem leaves_of_done {i : Instr} {s u : State} (he : exec i s = done u) (hh : SameHead s u) (hr : u.core.seq.regs = s.core.seq.regs) :
    Leaves i s u :=
  ⟨advance u, he, rfl, regsKept_of_regs [] hr, flowsOn_advance hh⟩

/-- A vector register is written once the vector queue has drained. -/
theorem syswr_vec {a : SReg} {s : State} {n : Nat} {v : Vec} (hn : n < 4096) (ha : sysAccess n = .rw)
    (hl : ¬(n = 0 ∧ 1024 < (getS s a).toNat)) (hx : s.core.vec.vxq = []) (hb : s.core.vec.block = none)
    (hv : putVecSys n (getS s a) s.core.vec = v) : Leaves (.syswr a (BitVec.ofNat 12 n)) s (setVec s v) := by
  refine leaves_of_done ?_ ⟨rfl, rfl, rfl⟩ rfl
  show execSyswr a (BitVec.ofNat 12 n) s = _
  dsimp only [execSyswr]
  rw [toNat_ofNat12 hn, ha, vecSysWaits_drained hx hb, hv]
  exact if_neg hl

/-- A status or trap register is written at runtime privilege. -/
theorem syswr_seq {a : SReg} {s : State} {n : Nat} (hn : n < 4096) (ha : sysAccess n = .roRun ∨ sysAccess n = .run)
    (hp : s.core.seq.prv = true) (hh : SameHead s (setSeq s (putSeqSys n (getS s a) s.core.seq)))
    (hr : (putSeqSys n (getS s a) s.core.seq).regs = s.core.seq.regs) :
    Leaves (.syswr a (BitVec.ofNat 12 n)) s (setSeq s (putSeqSys n (getS s a) s.core.seq)) := by
  refine leaves_of_done ?_ hh hr
  show execSyswr a (BitVec.ofNat 12 n) s = _
  dsimp only [execSyswr]
  rw [toNat_ofNat12 hn]
  rcases ha with ha | ha <;> rw [ha] <;> exact if_pos hp

theorem putVecSys_vidx (x : Word) (v : Vec) (k : Fin 8) : putVecSys (0x10 + k) x v = { v with vidx := v.vidx.set k x } := by
  have hk := k.isLt
  have hset : v.vidx.setIfInBounds k x = v.vidx.set k x := by
    ext i hi
    rw [Vector.getElem_setIfInBounds, Vector.getElem_set]
  unfold putVecSys
  rw [if_neg (by omega), if_neg (by omega), if_neg (by omega), if_neg (by omega), if_neg (by omega), if_neg (by omega), if_pos (by omega),
    Nat.add_sub_cancel_left, hset]

theorem syswr_long {a : SReg} {s : State} (h : 1024 < (getS s a).toNat) : exec (.syswr a 0) s = illegalVal (getS s a) s :=
  if_pos ⟨rfl, h⟩

theorem syswr_illegal {n : BitVec 12} (h : ReadOnlyReg n.toNat ∨ ¬NamedReg n.toNat) (a : SReg) (s : State) :
    exec (.syswr a n) s = illegal s := by
  show execSyswr a n s = _
  dsimp only [execSyswr]
  rcases h with h | h
  · rw [sysAccess_readOnly h]
  · rw [sysAccess_unnamed h]

/-- Settles O17: each number's access and value are read from the register map (`sysAccess`, `sysValue`, `putVecSys`, `putSeqSys`); what
may be read or written completes, what may not raises. -/
theorem systemRegisters : Obligations.SystemRegisters := by
  unfold Obligations.SystemRegisters
  refine ⟨fun d s => ⟨fun hx hb => ?vectorRead, fun k hk => ?loopRead, ?slipRead, ?statusRead, fun hp => ?trapRead, ?taskRead⟩,
    fun a d s => ⟨fun hx hb => ?vectorWrite, fun hp => ?trapWrite, fun hc => ⟨fun h => ?long, fun n => ⟨fun h => ?readOnly, fun h => ⟨?_,
      ?_⟩⟩⟩⟩⟩
  case vectorRead =>
    have hw := vecSysWaits_drained hx hb
    have reads : ∀ n v, n < 4096 → sysAccess n = .rw → sysValue s n = v → Puts (.sysrd d (BitVec.ofNat 12 n)) s d v :=
      fun n v hn ha hv => sysrd_puts hn (by simp [ha]) (by simp [ha]) (hw n) hv
    exact ⟨reads 0 _ (by decide) rfl rfl, reads 1 _ (by decide) rfl (sysValue_extended s.core.vec.vtype rfl),
      reads 2 _ (by decide) rfl rfl, reads 3 _ (by decide) rfl rfl,
      reads 4 _ (by decide) rfl rfl, reads 5 _ (by decide) rfl (sysValue_extended s.core.vec.vstat rfl),
      fun k => reads (0x10 + k) _ (by omega) (sysAccess_vidx k.isLt) (sysValue_vidx s k),
      reads 0x20 _ (by decide) rfl (sysValue_extended s.core.vec.vdrop rfl), reads 0x21 _ (by decide) rfl rfl⟩
  case loopRead =>
    refine sysrd_puts_scalar (by omega) (.inl (sysAccess_readOnly (.inl (by omega)))) (by omega) ((sysValue_loopIndex s hk).trans ?_)
    unfold loopIndex
    cases s.core.seq.loops[k]? <;> rfl
  case slipRead => exact sysrd_puts_scalar (n := 0x40) (by decide) (.inl rfl) (by decide) rfl
  case statusRead => exact sysrd_puts_scalar (n := 0x41) (by decide) (.inr rfl) (by decide) rfl
  case trapRead =>
    exact ⟨sysrd_puts_run (n := 0x42) (by decide) rfl hp (by decide) rfl, sysrd_puts_run (n := 0x43) (by decide) rfl hp (by decide) rfl,
      sysrd_puts_run (n := 0x44) (by decide) rfl hp (by decide) rfl⟩
  case taskRead =>
    exact ⟨sysrd_puts_scalar (n := 0x60) (by decide) (.inl rfl) (by decide) rfl,
      sysrd_puts_scalar (n := 0x61) (by decide) (.inl rfl) (by decide) rfl,
      sysrd_puts_scalar (n := 0x62) (by decide) (.inl rfl) (by decide) rfl,
      sysrd_puts_scalar (n := 0x63) (by decide) (.inl rfl) (by decide) (sysValue_extended Config.helperBase rfl)⟩
  case vectorWrite =>
    have put : ∀ n v, n < 4096 → n ≠ 0 → sysAccess n = .rw → putVecSys n (getS s a) s.core.vec = v →
        Leaves (.syswr a (BitVec.ofNat 12 n)) s (setVec s v) :=
      fun n v hn h0 ha hv => syswr_vec hn ha (fun h => h0 h.1) hx hb hv
    exact ⟨fun hl => syswr_vec (n := 0) (by decide) rfl (fun h => Nat.not_lt.mpr hl h.2) hx hb rfl,
      put 1 _ (by decide) (by decide) rfl rfl, put 2 _ (by decide) (by decide) rfl rfl, put 3 _ (by decide) (by decide) rfl rfl,
      put 4 _ (by decide) (by decide) rfl rfl, put 5 _ (by decide) (by decide) rfl rfl,
      fun k => put (0x10 + k) _ (by omega) (by omega) (sysAccess_vidx k.isLt) (putVecSys_vidx _ _ k),
      put 0x20 _ (by decide) (by decide) rfl rfl, put 0x21 _ (by decide) (by decide) rfl rfl⟩
  case trapWrite =>
    exact ⟨syswr_seq (n := 0x41) (by decide) (.inl rfl) hp ⟨rfl, rfl, rfl⟩ rfl,
      syswr_seq (n := 0x42) (by decide) (.inr rfl) hp ⟨rfl, rfl, rfl⟩ rfl,
      syswr_seq (n := 0x43) (by decide) (.inr rfl) hp ⟨rfl, rfl, rfl⟩ rfl,
      syswr_seq (n := 0x44) (by decide) (.inr rfl) hp ⟨rfl, rfl, rfl⟩ rfl⟩
  case long => exact enters_of_raise hc (syswr_long h)
  case readOnly => exact enters_of_raise hc (syswr_illegal (.inl h) a s)
  · exact enters_of_raise hc (sysrd_unnamed h d s)
  · exact enters_of_raise hc (syswr_illegal (.inr h) a s)

end Sys2Proof.Proofs
end

section
/-! ICINV, TLBINV and VRESTORE (R33, R105, R203). -/

namespace Sys2Proof.Proofs

open Sys2Proof.Machine Sys2Proof.Safety

/-! ### TLBINV -/

section
variable {a : SReg} {s : State} {h : Shoot}

/-- The request that a TLBINV sends. -/
def shootOf (c asn x : Nat) : Shoot := ⟨c, asn, bits x 12 45, bits x 6 2, shootTargets c (bits x 0 3), shootTargets c (bits x 0 3)⟩

theorem exec_tlbinv_of_good (hp : s.core.seq.prv = true) (hb : tlbinvBad (getS s a).toNat = false) :
    exec (.tlbinv a) s =
      match s.shoot.find? (sameShoot s.core.id s.core.seq.eff.asn (getS s a).toNat) with
      | some h =>
        if h.unacked.isEmpty then
          done (bumpNum { s with shoot := s.shoot.filter fun y => !sameShoot s.core.id s.core.seq.eff.asn (getS s a).toNat y })
        else stall false s
      | none =>
        if scalarWaits s || !s.core.seq.returns.isEmpty then stall false s
        else stall false { s with shoot := s.shoot ++ [shootOf s.core.id s.core.seq.eff.asn (getS s a).toNat] } := by
  show execTlbinv a s = _
  dsimp only [execTlbinv]
  rw [if_neg (by simp [hp]), if_neg (by simp [hb])]
  rfl

theorem tlbinv_sends (hp : s.core.seq.prv = true) (hb : tlbinvBad (getS s a).toNat = false) (hs : s.shoot = [])
    (hw : scalarWaits s = false) (hr : s.core.seq.returns = []) :
    exec (.tlbinv a) s = stall false { s with shoot := [shootOf s.core.id s.core.seq.eff.asn (getS s a).toNat] } := by
  rw [exec_tlbinv_of_good hp hb, hs, hw, hr]
  rfl

theorem tlbinv_waits (hp : s.core.seq.prv = true) (hb : tlbinvBad (getS s a).toNat = false) (hs : s.shoot = [])
    (hr : s.core.seq.returns ≠ []) : exec (.tlbinv a) s = stall false s := by
  rw [exec_tlbinv_of_good hp hb, hs]
  exact if_pos (by simp [hr])

theorem tlbinv_completes (hp : s.core.seq.prv = true) (hb : tlbinvBad (getS s a).toNat = false) (hs : s.shoot = [h])
    (hh : sameShoot s.core.id s.core.seq.eff.asn (getS s a).toNat h = true) (hu : h.unacked = []) :
    exec (.tlbinv a) s = done (bumpNum { s with shoot := [] }) := by
  have hfind : [h].find? (sameShoot s.core.id s.core.seq.eff.asn (getS s a).toNat) = some h := List.find?_cons_of_pos hh
  have hdrop : ([h].filter fun y => !sameShoot s.core.id s.core.seq.eff.asn (getS s a).toNat y) = [] := by simp [hh]
  rw [exec_tlbinv_of_good hp hb, hs, hfind, hdrop]
  exact if_pos (by simp [hu])

end

/-! ### VRESTORE -/

theorem framePitch_pos {s : State} {r : Region} (h : frameAreaOk s r = true) : 0 < framePitch s r := by
  simp only [frameAreaOk, Bool.and_eq_true, decide_eq_true_eq] at h
  have hk := h.1.2
  unfold framePitch
  omega

theorem slotAddr_injective {s : State} {r : Region} (h : frameAreaOk s r = true) {i j : Nat}
    (he : slotAddr s r i = slotAddr s r j) : i = j :=
  Nat.eq_of_mul_eq_mul_right (framePitch_pos h) (Nat.add_left_cancel he)

/-- The physical address of a slot names that slot. -/
theorem slotAt_slotAddr {s : State} {r : Region} {x i : Nat} {view : Bool} (h : slotAt s r view x = some i) :
    slotAt s r false (slotAddr s r i) = some i := by
  unfold slotAt at h ⊢
  by_cases hok : frameAreaOk s r = true
  · rw [if_pos hok] at h ⊢
    obtain ⟨-, hi, -⟩ := List.find?_range_eq_some.mp h
    refine List.find?_range_eq_some.mpr ⟨by simp, hi, fun j hj => ?_⟩
    have hne : slotAddr s r j ≠ slotAddr s r i := fun he => (Nat.ne_of_lt hj) (slotAddr_injective hok he)
    simp [hne]
  · rw [if_neg hok] at h
    simp at h

/-- The engine state kept for a slot is dropped. -/
def dropKept (pa : Nat) (s : State) : State := { s with slots := s.slots.filter fun e => decide (e.slot ≠ pa) }

theorem slotAt_of_mem {s u : State} (hm : u.mem = s.mem) (r : Region) (view : Bool) (x : Nat) : slotAt u r view x = slotAt s r view x := by
  unfold slotAt frameAreaOk slotView slotAddr frameBase framePitch frameKiB frameCount State.rd
  rw [hm]

theorem dropSlotAt_eq {s u : State} {r : Region} {x i : Nat} {view : Bool} (h : slotAt s r view x = some i) (hm : u.mem = s.mem) :
    dropSlotAt r (slotAddr s r i) u = slotSet r i false (dropKept (slotAddr s r i) u) := by
  have hslot : slotAt (dropKept (slotAddr s r i) u) r false (slotAddr s r i) = some i :=
    (slotAt_of_mem hm r false _).trans (slotAt_slotAddr h)
  unfold dropSlotAt
  extract_lets t
  rw [show slotAt t r false (slotAddr s r i) = some i from hslot]
  rfl

/-- A slot whose bit has been cleared is free. -/
theorem slotUsed_slotSet {s : State} (h : MemWf s.mem) (r : Region) (i : Nat) : slotUsed (slotSet r i false s) r i = false := by
  have hx : s.rd (r.frames + 64 + i / 8) 1 < 2 ^ 8 := memRead_lt s.mem 1 _
  have hlt : putBits (s.rd (r.frames + 64 + i / 8) 1) (i % 8) 1 0 < 256 ^ 1 := putBits_lt hx (by omega)
  unfold slotUsed slotSet
  rw [rd_wr h, Bool.toNat_false, Nat.mod_eq_of_lt hlt]
  show decide (bits (putBits _ (i % 8) 1 0) (i % 8) 1 = 1) = false
  rw [bits_putBits_self]
  rfl

/-- The state in which the slot `i` of `r` has been freed and control has returned to `p`, after the work that took the state to `u`. -/
def slotReturned (r : Region) (i pa : Nat) (p : Word) (u : State) : State := trapReturn p (slotSet r i false (dropKept pa u))

theorem exec_vrestore {a : SReg} {s : State} {i : Nat} (hp : s.core.seq.prv = true)
    (hs : slotAt s s.core.seq.eff true (getS s a).toNat = some i) (hu : slotUsed s s.core.seq.eff i = true)
    (hm : bits (s.rd (slotAddr s s.core.seq.eff i) 24) 0 40 = 0x5646524D + 2 ^ 32)
    (ht : bits (s.rd (slotAddr s s.core.seq.eff i) 24) 128 31 = s.core.seq.tid.toNat) :
    exec (.vrestore a) s = .next (trapReturn (BitVec.ofNat 64 (bits (s.rd (slotAddr s s.core.seq.eff i) 24) 64 64))
      (dropSlotAt s.core.seq.eff (slotAddr s s.core.seq.eff i)
        (if bitAt (s.rd (slotAddr s s.core.seq.eff i) 24) 40 then restoreEngine (slotAddr s s.core.seq.eff i) s else s))) := by
  show execVrestore a s = _
  dsimp only [execVrestore]
  rw [if_neg (by simp [hp]), hs]
  exact if_neg (by simp [hu, hm, ht])

/-- What the obligation asks of the state in which slot `i` has been freed. -/
def Freed (s : State) (i : Nat) (t : State) : Prop :=
  t.core.seq.pc = BitVec.ofNat 64 (bits (s.rd (slotAddr s s.core.seq.eff i) 24) 64 64) ∧ t.core.seq.prv = s.core.seq.pprv ∧
    t.core.seq.inh = false ∧ slotUsed t s.core.seq.eff i = false ∧ (∀ e ∈ t.slots, e.slot ≠ slotAddr s s.core.seq.eff i) ∧
    (∀ e ∈ s.slots, e.slot ≠ slotAddr s s.core.seq.eff i → e ∈ t.slots) ∧ MemKeptOutside (s.core.seq.eff.frames + 64 + i / 8) 1 s t ∧
    RegsKept [] s t ∧ TilesKept s t

/-- Freeing the slot touches the byte of its bit and the engine states that were kept for it. -/
theorem freed_slotReturned {s u : State} {i : Nat} (h : MemWf s.mem) (hm : u.mem = s.mem) (hk : u.slots = s.slots)
    (hp : u.core.seq.pprv = s.core.seq.pprv) (hr : u.core.seq.regs = s.core.seq.regs) (ha : u.core.mat = s.core.mat) :
    Freed s i (slotReturned s.core.seq.eff i (slotAddr s s.core.seq.eff i)
      (BitVec.ofNat 64 (bits (s.rd (slotAddr s s.core.seq.eff i) 24) 64 64)) u) := by
  have hwf : MemWf (dropKept (slotAddr s s.core.seq.eff i) u).mem := hm ▸ h
  refine ⟨rfl, hp, rfl, slotUsed_slotSet hwf _ i, fun e he => ?_, fun e he hne => ?_, fun b hb => ?_, regsKept_of_regs [] hr,
    congrArg Mat.a ha⟩
  · exact of_decide_eq_true (List.mem_filter.mp he).2
  · exact List.mem_filter.mpr ⟨hk ▸ he, decide_eq_true hne⟩
  · exact (memGet_wr_outside hwf _ hb).trans (congrArg (memGet · b) hm)

/-- Bringing back what a frame keeps of the engine leaves the rest as it was. -/
theorem restoreEngine_keeps {pa : Nat} {s : State} {e : SavedEngine} (h : (s.slots.find? fun x => decide (x.slot = pa)) = some e) :
    (restoreEngine pa s).mem = s.mem ∧ (restoreEngine pa s).slots = s.slots ∧ (restoreEngine pa s).core.seq.pprv = s.core.seq.pprv ∧
      (restoreEngine pa s).core.seq.regs = s.core.seq.regs ∧ (restoreEngine pa s).core.mat = s.core.mat := by
  unfold restoreEngine
  rw [h]
  exact ⟨rfl, rfl, rfl, rfl, rfl⟩

/-- The queues of the engine of `v` with those of `o` in front, its registers but the pointers kept. -/
def EngineBack (o v w : Vec) : Prop :=
  w.vlq = o.vlq ++ v.vlq ∧ w.vxq = o.vxq ++ v.vxq ∧ w.vsq = o.vsq ++ v.vsq ∧ w.loads = o.loads ++ v.loads ∧
    w.stores = o.stores ++ v.stores ∧ w.defer = o.defer ++ v.defer ∧
    w.holes.map Hole.id = o.holes.map Hole.id ++ v.holes.map Hole.id ∧ w.v = v.v ∧ w.o = v.o ∧ w.l = o.l

theorem restoreEngine_back {pa : Nat} {s : State} {e : SavedEngine} (h : (s.slots.find? fun x => decide (x.slot = pa)) = some e) :
    EngineBack e.vec s.core.vec (restoreEngine pa s).core.vec := by
  unfold restoreEngine
  rw [h]
  refine ⟨rfl, rfl, rfl, rfl, rfl, rfl, ?_, rfl, rfl, rfl⟩
  simp only [setSeq_vec, setVec_vec, List.map_append, List.map_map]
  congr 1
  refine List.map_congr_left fun x _ => ?_
  simp only [Function.comp_apply]
  split
  · split <;> rfl
  · rfl

/-- Settles O18: ICINV and TLBINV by the equation of each case; VRESTORE frees the slot (`freed_slotReturned`) after bringing back what its
frame keeps of the engine (`restoreEngine_back`). -/
theorem cacheAndFrameActions : Obligations.CacheAndFrameActions := by
  unfold Obligations.CacheAndFrameActions
  refine fun a s hp => ⟨?icinv, fun hb hs hw hr => ?sends, fun hb hs hr => waits_of_stall (tlbinv_waits hp hb hs hr),
    fun h hb hs hh hu => ?completes, fun i hs hu hwf hm ht => ⟨fun h0 => ?task, fun e h1 he => ?memory⟩⟩
  case icinv =>
    obtain ⟨hvec, htiles, hstatus, -⟩ := coreFrame_advance (coreFrame_refl s)
    exact ⟨_, if_pos hp, rfl, fun _ _ => rfl, flowsOn_advance ⟨rfl, rfl, rfl⟩, hvec, htiles, hstatus, fun _ => rfl⟩
  case sends =>
    exact ⟨_, _, tlbinv_sends hp hb hs hw hr, rfl, rfl, rfl, by simp [shootOf, bits], rfl, rfl, fun _ _ => rfl, fun _ => rfl⟩
  case completes =>
    obtain ⟨hvec, -, hstatus, -⟩ := coreFrame_advance (coreFrame_bumpNum { s with shoot := [] })
    exact ⟨_, tlbinv_completes hp hb hs hh hu, rfl, fun _ _ => rfl, flowsOn_advance ⟨rfl, rfl, rfl⟩, hvec, hstatus, fun _ => rfl⟩
  case task =>
    have hx := exec_vrestore hp hs hu hm ht
    rw [if_neg (by simp [h0]), dropSlotAt_eq hs rfl] at hx
    exact ⟨_, hx, freed_slotReturned hwf rfl rfl rfl rfl rfl, vectorKept_of_eq (t := s) rfl⟩
  case memory =>
    obtain ⟨hmem, hslots, hpprv, hregs, hmat⟩ := restoreEngine_keeps he
    have hx := exec_vrestore hp hs hu hm ht
    rw [if_pos h1, dropSlotAt_eq hs hmem] at hx
    exact ⟨_, hx, freed_slotReturned hwf hmem hslots hpprv hregs hmat, restoreEngine_back he⟩

end Sys2Proof.Proofs
end

section
/-! Events of cores: pre-emption, saving, invalidation, refetch, budgets (R34, R35, R105, R123, R144, R145). -/

namespace Sys2Proof.Proofs

open Sys2Proof.Machine Sys2Proof.Safety

/-! ### Events at one core -/

/-- Core `c` after the core that was current has been made so again. -/
theorem focus_back {c : Nat} {u : State} (h : u.core.id = c) (d : Nat) : (focus (focus u d) c).core = u.core := by
  rw [focus_core, getCore_focus, getCore, if_pos h]

theorem getS_of_core {s t : State} (h : t.core = s.core) (r : SReg) : getS t r = getS s r := by
  unfold getS
  rw [h]

theorem regsKept_of_core {s t u : State} (ws : List SReg) (h : t.core = u.core) (hu : u.core.seq.regs = s.core.seq.regs) :
    RegsKept ws s t :=
  regsKept_of_regs ws (by rw [h, hu])

/-! ### Pre-emption (R144) -/

/-- A core whose task has been asked to go. -/
def asked (s : State) : State := setSeq s { s.core.seq with preempt := true }

theorem askPreempt_committed {s : State} (hm : s.core.seq.mode = .running) (hc : s.core.seq.cmt = true) :
    askPreempt s = asked s := by
  dsimp only [askPreempt]
  rw [if_neg (by simp [hm])]
  exact if_pos (by simp [hc])

/-- A request to a committed task marks it, and it goes on. -/
theorem preemption_marks {k c : Nat} {s : State} (hk : k < 96) (ht : preemptTarget s k = some c) (hm : (focus s c).core.seq.mode = .running)
    (hc : (focus s c).core.seq.cmt = true) :
    Happens (.preemptionRequest k) s fun t => (focus t c).core.seq.preempt = true ∧ (focus t c).core.seq.mode = .running ∧
      RegsKept [] (focus s c) (focus t c) ∧ VectorKept (focus s c) (focus t c) ∧ MemKept s t := by
  have hcore := focus_back (u := asked (focus s c)) (focus_id s c) s.core.id
  refine ⟨focus (asked (focus s c)) s.core.id, ?_, ?_, ?_, ?_, ?_, ?_⟩
  · show execPreemptionRequest k s = _
    rw [execPreemptionRequest, if_pos hk, ht]
    show Host.Outcome.next (focus (askPreempt (focus s c)) s.core.id) = _
    rw [askPreempt_committed hm hc]
  · rw [hcore]
    rfl
  · rw [hcore]
    exact hm
  · exact regsKept_of_core [] hcore rfl
  · exact vectorKept_of_eq ((congrArg Core.vec hcore).trans rfl)
  · exact memKept_of_mem (by simp [asked])

/-! ### Saving (R145) -/

@[simp] theorem noteSwap_core (s : State) : (noteSwap s).core = s.core := by unfold noteSwap; split <;> rfl

theorem emptyCore_core (s : State) :
    (emptyCore s).core.id = s.core.id ∧ (emptyCore s).core.seq.mode = .idle ∧ (emptyCore s).core.shadow = s.core.shadow := by
  unfold emptyCore goIdle
  extract_lets
  rw [noteSwap_core]
  exact ⟨rfl, rfl, rfl⟩

/-- A task that is ready to be saved goes to the shadow slot that is free. -/
theorem save_shadows {c : Nat} {s : State} (hr : saveReady (focus s c) = true) (hs : (focus s c).core.shadow = none) :
    Happens (.taskSave c) s fun t => (focus t c).core.seq.mode = .idle ∧ (focus t c).core.shadow = some (coreShadow (focus s c).core) := by
  obtain ⟨w, hw, hshadow, hid⟩ : ∃ w, saveTask (focus s c) = some (emptyCore w) ∧
      w.core.shadow = some (coreShadow (focus s c).core) ∧ w.core.id = (focus s c).core.id := by
    unfold saveTask
    extract_lets q push me
    rw [hs]
    exact ⟨_, rfl, rfl, rfl⟩
  obtain ⟨hi, hm, hsh⟩ := emptyCore_core w
  have hcore := focus_back (hi.trans (hid.trans (focus_id s c))) s.core.id
  refine ⟨focus (emptyCore w) s.core.id, ?_, ?_, ?_⟩
  · show execTaskSave c s = _
    show Host.Outcome.next
      (focus (if saveReady (focus s c) then (saveTask (focus s c)).getD (keepRunning (focus s c)) else focus s c) s.core.id) = _
    rw [if_pos hr, hw]
    rfl
  · rw [hcore, hm]
  · rw [hcore, hsh, hshadow]

/-! ### Budgets (R123) -/

theorem budget_renewed (rcb : Nat) (act : Activity) (arb : Nat) (s : State) :
    Happens (.budgetPeriod rcb act arb) s fun t => CoresKept s t ∧ t.mem = s.mem ∧
      ∀ y, y ∈ t.budgets ↔ y ∈ s.budgets ∧ ¬(y.rcb = rcb ∧ y.act = act ∧ y.arb = arb) := by
  refine ⟨_, rfl, ⟨rfl, rfl⟩, rfl, fun y => ?_⟩
  simp only [List.mem_filter, Bool.not_eq_true', decide_eq_false_iff_not]

/-! ### Invalidation (R105) -/

@[simp] theorem onCore_tlb (c : Nat) (f : State → State) (s : State) : (onCore c f s).tlb = (f (focus s c)).tlb := by simp [onCore]
@[simp] theorem onCore_near (c : Nat) (f : State → State) (s : State) : (onCore c f s).near = (f (focus s c)).near := by simp [onCore]
@[simp] theorem onCore_fab (c : Nat) (f : State → State) (s : State) : (onCore c f s).fab = (f (focus s c)).fab := by simp [onCore]

theorem staleCore_shoot (s : State) : (staleCore s).shoot = s.shoot := rfl
theorem staleCore_mem (s : State) : (staleCore s).mem = s.mem := rfl
theorem staleCore_tlb (s : State) : (staleCore s).tlb = s.tlb := rfl
theorem staleCore_id (s : State) : (staleCore s).core.id = s.core.id := rfl

section
variable {tg : ShootTarget} {h : Shoot} {s : State}

theorem find_shoot (hs : s.shoot = [h]) (hu : tg ∈ h.unacked) : (s.shoot.find? fun h => h.unacked.contains tg) = some h := by
  rw [hs]
  exact List.find?_cons_of_pos (by simpa using hu)

theorem mapFirst_shoot (hs : s.shoot = [h]) (hu : tg ∈ h.unacked) (f : Shoot → Shoot) :
    mapFirst (fun y => y.unacked.contains tg) f s.shoot = [f h] := by
  rw [hs]
  exact if_pos (by simpa using hu)

/-- The state in which the translations a request names have been dropped at its target. -/
def invalidated (tg : ShootTarget) (h : Shoot) (s : State) : State :=
  dropTlb tg h.asn h.vpage h.extent { s with shoot := [{ h with pending := h.pending.erase tg }] }

/-- The state in which a target has received its request. -/
def received (tg : ShootTarget) (h : Shoot) (s : State) : State :=
  match tg with
  | .core c => onCore c staleCore (invalidated tg h s)
  | .dispatcher _ => invalidated tg h s

theorem exec_invalidationRequest (hs : s.shoot = [h]) (hu : tg ∈ h.unacked) (hp : tg ∈ h.pending) :
    exec (.invalidationRequest tg) s = .next (received tg h s) := by
  show execInvalidationRequest tg s = _
  unfold execInvalidationRequest
  rw [find_shoot hs hu]
  dsimp only
  rw [if_neg (by simpa using hp), mapFirst_shoot hs hu]
  cases tg <;> rfl

@[simp] theorem received_shoot : (received tg h s).shoot = [{ h with pending := h.pending.erase tg }] := by
  cases tg with
  | core c =>
    rw [received, onCore_shoot, staleCore_shoot, focus_shoot]
    rfl
  | dispatcher k => rfl

@[simp] theorem received_mem : (received tg h s).mem = s.mem := by
  cases tg with
  | core c =>
    rw [received, onCore_mem, staleCore_mem, focus_mem]
    rfl
  | dispatcher k => rfl

@[simp] theorem received_tlb : (received tg h s).tlb = (invalidated tg h s).tlb := by
  cases tg with
  | core c => rw [received, onCore_tlb, staleCore_tlb, focus_tlb]
  | dispatcher k => rfl

/-- What is left of the translations is none that the request names. -/
theorem leaf_of_invalidated {e : TlbEntry} (he : e ∈ (invalidated tg h s).tlb.leaves) : e ∈ s.tlb.leaves ∧
    ¬(siteIs tg e.site = true ∧ (h.extent = 2 ∨ (e.asn = h.asn ∧ (h.extent = 1 ∨ holdsPage e h.vpage = true)))) := by
  obtain ⟨hmem, hkept⟩ := List.mem_filter.mp he
  refine ⟨hmem, fun ⟨hsite, hext⟩ => ?_⟩
  rcases hext with hext | ⟨hasn, hext | hpage⟩
  · simp [hsite, hext] at hkept
  · simp [hsite, hasn, hext] at hkept
  · simp [hsite, hasn, hpage] at hkept

theorem invalidation_drops (hs : s.shoot = [h]) (hu : tg ∈ h.unacked) (hp : tg ∈ h.pending) :
    Happens (.invalidationRequest tg) s fun t => t.shoot = [{ h with pending := h.pending.erase tg }] ∧ MemKept s t ∧
      ∀ e ∈ t.tlb.leaves, e ∈ s.tlb.leaves ∧ ¬(siteIs tg e.site = true ∧
        (h.extent = 2 ∨ (e.asn = h.asn ∧ (h.extent = 1 ∨ holdsPage e h.vpage = true)))) :=
  ⟨_, exec_invalidationRequest hs hu hp, received_shoot, memKept_of_mem received_mem,
    fun e he => leaf_of_invalidated (by rwa [received_tlb] at he)⟩

end

/-- What a core marks: its loads, its stores, its answers to come, and what it has not sent yet. -/
theorem staleCore_marks (s : State) :
    (∀ l ∈ (staleCore s).core.vec.loads, l.stale = true) ∧ (∀ x ∈ (staleCore s).core.vec.stores, x.stale = true) ∧
      (∀ r ∈ (staleCore s).core.seq.returns, r.pinned = true) ∧
      (∀ x ∈ (staleCore s).near, x.core = s.core.id → x.data = none → x.stale = true) ∧
      ∀ o ∈ (staleCore s).fab.ops, o.core = s.core.id → o.isColl = false → o.stale = true := by
  refine ⟨fun l hl => ?_, fun x hx => ?_, fun r hr => ?_, fun x hx hc hd => ?_, fun o ho hc hn => ?_⟩
  · obtain ⟨y, -, rfl⟩ := List.mem_map.mp hl
    rfl
  · obtain ⟨y, -, rfl⟩ := List.mem_map.mp hx
    rfl
  · obtain ⟨y, -, rfl⟩ := List.mem_map.mp hr
    rfl
  · obtain ⟨y, -, hy⟩ := List.mem_map.mp hx
    by_cases hmine : y.core = s.core.id ∧ y.data.isNone = true
    · rw [← hy, if_pos hmine]
    · rw [if_neg hmine] at hy
      subst hy
      exact absurd ⟨hc, Option.isNone_iff_eq_none.mpr hd⟩ hmine
  · obtain ⟨y, -, hy⟩ := List.mem_map.mp ho
    by_cases hmine : (decide (y.core = s.core.id) && !y.isColl) = true
    · rw [← hy, if_pos hmine]
    · rw [if_neg hmine] at hy
      subst hy
      exact absurd (by rw [hc, hn]; simp) hmine

theorem invalidation_marks {c : Nat} {h : Shoot} {s : State} (hs : s.shoot = [h]) (hu : .core c ∈ h.unacked) (hp : .core c ∈ h.pending) :
    Happens (.invalidationRequest (.core c)) s fun t =>
      (∀ l ∈ (focus t c).core.vec.loads, l.stale = true) ∧ (∀ x ∈ (focus t c).core.vec.stores, x.stale = true) ∧
      (∀ r ∈ (focus t c).core.seq.returns, r.pinned = true) ∧
      (∀ x ∈ t.near, x.core = (focus s c).core.id → x.data = none → x.stale = true) ∧
      ∀ o ∈ t.fab.ops, o.core = (focus s c).core.id → o.isColl = false → o.stale = true := by
  refine ⟨_, exec_invalidationRequest hs hu hp, ?_⟩
  have hid : (focus (invalidated (.core c) h s) c).core.id = (focus s c).core.id := by rw [focus_id, focus_id]
  have hcore : (focus (received (.core c) h s) c).core = (staleCore (focus (invalidated (.core c) h s) c)).core :=
    focus_onCore_core ((staleCore_id _).trans (focus_id _ c))
  have hnear : (received (.core c) h s).near = (staleCore (focus (invalidated (.core c) h s) c)).near := onCore_near _ _ _
  have hfab : (received (.core c) h s).fab = (staleCore (focus (invalidated (.core c) h s) c)).fab := onCore_fab _ _ _
  dsimp only
  rw [hcore, hnear, hfab, ← hid]
  exact staleCore_marks _

theorem ack_waits {tg : ShootTarget} {h : Shoot} {s : State} (hs : s.shoot = [h]) (hu : tg ∈ h.unacked) (hw : ackWaits tg s = true) :
    exec (.invalidationAck tg) s = .next s := by
  show execInvalidationAck tg s = _
  unfold execInvalidationAck
  rw [find_shoot hs hu]
  exact congrArg _ (if_pos (.inr hw))

theorem ack_counts {tg : ShootTarget} {h : Shoot} {s : State} (hs : s.shoot = [h]) (hu : tg ∈ h.unacked) (hp : tg ∉ h.pending)
    (hw : ackWaits tg s = false) :
    Happens (.invalidationAck tg) s fun t => CoresKept s t ∧
      t.shoot = if 1536 ≤ h.core ∧ h.unacked.erase tg = [] then [] else [{ h with unacked := h.unacked.erase tg }] := by
  refine ⟨{ s with shoot := [{ h with unacked := h.unacked.erase tg }].filter fun y => !(decide (1536 ≤ y.core) && y.unacked.isEmpty) },
    ?_, ⟨rfl, rfl⟩, ?_⟩
  · show execInvalidationAck tg s = _
    unfold execInvalidationAck
    rw [find_shoot hs hu]
    dsimp only
    rw [if_neg (by simp [hp, hw]), mapFirst_shoot hs hu]
  · show [{ h with unacked := h.unacked.erase tg }].filter (fun y : Shoot => !(decide (1536 ≤ y.core) && y.unacked.isEmpty)) = _
    by_cases hgone : 1536 ≤ h.core ∧ h.unacked.erase tg = []
    · rw [if_pos hgone, List.filter_cons_of_neg (by simp [hgone]), List.filter_nil]
    · rw [if_neg hgone, List.filter_cons_of_pos (by rw [Bool.not_eq_true', ← Bool.not_eq_true]; simpa using hgone), List.filter_nil]

/-! ### Refetch (R34, R35) -/

/-- The core after its line has been fetched once more. -/
def refetched (u : State) : State := setSeq u { u.core.seq with refetch := none, stall := false }

theorem exec_lineRefetch {c l : Nat} {p : Word} {s u : State} (hr : (focus s c).core.seq.refetch = some p)
    (hf : fetchLine (lineBase p) true (focus s c) = (.line l, u)) :
    exec (.lineRefetch c) s =
      .next (focus (if lineIntact l then refetched u else machineCheck c 0 0 (lineBase p) p.toNat false (refetched u)) s.core.id) := by
  show execLineRefetch c s = _
  unfold execLineRefetch onCore
  dsimp only
  rw [hr]
  dsimp only
  rw [hf]
  rfl

theorem refetch_intact {c l : Nat} {p : Word} {s u : State} (hr : (focus s c).core.seq.refetch = some p)
    (hf : fetchLine (lineBase p) true (focus s c) = (.line l, u)) (hl : lineIntact l = true) :
    Happens (.lineRefetch c) s fun t => (focus t c).core.seq.refetch = none ∧ (focus t c).core.seq.stall = false ∧
      RegsKept [] (focus s c) (focus t c) ∧ MemKept s t := by
  have ho : FetchOnly (focus s c) u := by
    have := fetchOnly_fetchLine (lineBase p) true (focus s c)
    rwa [hf] at this
  have hcore := focus_back (u := refetched u) (c := c) (by rw [refetched, setSeq_id, ho, focus_id]) s.core.id
  have hx := exec_lineRefetch hr hf
  rw [if_pos hl] at hx
  refine ⟨_, hx, ?_, ?_, regsKept_of_core [] hcore ho.regs, memKept_of_mem ?_⟩
  · rw [hcore]
    rfl
  · rw [hcore]
    rfl
  · rw [focus_mem]
    exact ho.mem.trans (focus_mem s c)

@[simp] theorem noteSwap_dead (s : State) : (noteSwap s).cfg.dead = s.cfg.dead := by unfold noteSwap; split <;> rfl
@[simp] theorem logRecord_dead (r : LogRec) (s : State) : (logRecord r s).cfg.dead = s.cfg.dead := by unfold logRecord; split <;> rfl
@[simp] theorem dropHandles_cfg (s : State) : (dropHandles s).cfg = s.cfg := by simp only [dropHandles]

/-- A domain that has been killed is dead (R328). -/
theorem dead_killDomain {d : Nat} (hd : d < 256) (s : State) : (killDomain d s).cfg.dead.getLsbD d = true := by
  unfold killDomain
  extract_lets hit running shadowHit shadows spilled blocks s1 s2 s3 s4 s5 s6 s7
  rw [noteSwap_dead, dropHandles_cfg, logRecord_dead]
  show (s6.cfg.dead ||| BitVec.ofNat 256 (2 ^ d)).getLsbD d = true
  rw [BitVec.getLsbD_or, BitVec.getLsbD_ofNat, decide_eq_true hd, Nat.testBit_two_pow_self, Bool.and_self, Bool.or_true]

theorem refetch_broken {c l : Nat} {p : Word} {s u : State} (hr : (focus s c).core.seq.refetch = some p)
    (hf : fetchLine (lineBase p) true (focus s c) = (.line l, u)) (hl : lineIntact l = false)
    (hd : (focus s c).core.seq.eff.domain < 256) :
    Happens (.lineRefetch c) s fun t => t.cfg.dead.getLsbD (focus s c).core.seq.eff.domain = true := by
  have ho : FetchOnly (focus s c) u := by
    have := fetchOnly_fetchLine (lineBase p) true (focus s c)
    rwa [hf] at this
  have heff : (getCore (refetched u) c).seq.eff = (focus s c).core.seq.eff := by
    rw [getCore, if_pos (by rw [refetched, setSeq_id, ho, focus_id]), refetched, setSeq_seq, ho]
  have hx := exec_lineRefetch hr hf
  rw [if_neg (by simp [hl])] at hx
  refine ⟨_, hx, ?_⟩
  dsimp only
  rw [focus_cfg, ← heff]
  exact dead_killDomain (heff ▸ hd) _

end Sys2Proof.Proofs
end

section
/-! Spilling the shadow context of an idle core (R145, R146). -/

namespace Sys2Proof.Proofs

open Sys2Proof.Machine Sys2Proof.Safety

/-! ### Operations that write memory only -/

theorem slots_of_memOnly {s t : State} (h : MemOnly s t) : t.slots = s.slots := by rw [h]

theorem memOnly_foldl {β : Type} {f : State → β → State} (h : ∀ u x, MemOnly u (f u x)) (l : List β) : ∀ s, MemOnly s (l.foldl f s) := by
  induction l with
  | nil => exact MemOnly.refl
  | cons x l ih => exact fun s => (h s x).trans (ih (f s x))

theorem memOnly_markPoison (s : State) (pa n : Nat) : MemOnly s (markPoison s pa n) := rfl

theorem memOnly_zeroMem (lo n : Nat) (s : State) : MemOnly s (zeroMem lo n s) := rfl

theorem memOnly_slotSet (r : Region) (i : Nat) (b : Bool) (s : State) : MemOnly s (slotSet r i b s) := rfl

theorem memOnly_writeFields (pa : Nat) (fs : List (Nat × Nat × Nat)) (s : State) : MemOnly s (writeFields pa fs s) :=
  memOnly_foldl (fun u _ => memOnly_wr u _ _ _) fs s

theorem memOnly_carryPoison (src dst n : Nat) (s : State) : MemOnly s (carryPoison src dst n s) :=
  memOnly_foldl (fun u _ => memOnly_markPoison u _ _) _ s

theorem memOnly_carryRegs (pa : Nat) (pv pm : List (Nat × Nat)) (s : State) : MemOnly s (carryRegs pa pv pm s) :=
  (memOnly_foldl (fun u _ => memOnly_markPoison u _ _) pv s).trans (memOnly_foldl (fun u _ => memOnly_markPoison u _ _) pm _)

theorem memOnly_carryPar (pa : Nat) (r : Region) (ps : List (Nat × Nat × Bool)) (s : State) : MemOnly s (carryPar pa r ps s) := by
  refine memOnly_foldl (fun u p => ?_) ps s
  split
  · exact memOnly_markPoison u _ _
  · split
    · exact memOnly_markPoison u _ _
    · exact MemOnly.refl u

/-! ### Ready queues -/

theorem memOnly_putChain : ∀ (l : List Nat) (s : State), MemOnly s (putChain s l)
  | [], s => MemOnly.refl s
  | [_], s => memOnly_wr s _ _ _
  | _ :: b :: r, s => (memOnly_wr s _ _ _).trans (memOnly_putChain (b :: r) _)

theorem memOnly_rqWrite (s : State) (r : Region) (h : Nat) (q : RQ) : MemOnly s (rqWrite s r h q) := by
  unfold rqWrite
  extract_lets room moved ring back s1 s2 s3
  have h1 : MemOnly s s1 := memOnly_foldl (fun u _ => memOnly_wr u _ _ _) _ s
  have h2 : MemOnly s s2 := (h1.trans (memOnly_wr _ _ _ _)).trans (memOnly_wr _ _ _ _)
  have h3 : MemOnly s s3 := ((h2.trans (memOnly_wr _ _ _ _)).trans (memOnly_wr _ _ _ _)).trans (memOnly_wr _ _ _ _)
  exact (h3.trans (memOnly_putChain _ _)).trans (memOnly_putChain _ _)

/-- An item at the front of a ready queue touches neither the cores nor the spilled contexts. -/
theorem rqPushFront_frame (s : State) (r : Region) (e a : Nat) :
    (rqPushFront s r e a).core = s.core ∧ (rqPushFront s r e a).slots = s.slots := by
  unfold rqPushFront
  extract_lets q
  split
  · exact ⟨(memOnly_rqWrite _ _ _ _).core, slots_of_memOnly (memOnly_rqWrite _ _ _ _)⟩
  · split
    · exact ⟨(memOnly_rqWrite _ _ _ _).core, slots_of_memOnly (memOnly_rqWrite _ _ _ _)⟩
    · exact ⟨rfl, rfl⟩

theorem rqRename_frame (s : State) (r : Region) (loc : ItemLoc) (e : Nat) :
    (rqRename s r loc e).core = s.core ∧ (rqRename s r loc e).slots = s.slots := by
  cases loc with
  | own x => exact ⟨rfl, rfl⟩
  | ring i => exact ⟨(memOnly_rqWrite _ _ _ _).core, slots_of_memOnly (memOnly_rqWrite _ _ _ _)⟩
  | front a => exact ⟨rfl, rfl⟩
  | back a => exact ⟨rfl, rfl⟩

/-! ### The spill -/

/-- A context in memory is kept beside its slot, and no core has changed. -/
theorem writeContext_frame (pa c : Nat) (x : Shadow) (s : State) :
    (writeContext pa c x s).core = s.core ∧ ∃ e ∈ (writeContext pa c x s).slots, e.slot = pa ∧ e.tid = x.seq.tid := by
  unfold writeContext
  extract_lets q frame t t1 t2
  have ht : MemOnly s t := (memOnly_zeroMem pa _ s).trans (memOnly_writeFields pa _ _)
  have ht1 : MemOnly s t1 := (ht.trans (memOnly_carryRegs pa _ _ _)).trans (memOnly_carryPoison _ _ _ _)
  have ht2 : MemOnly s t2 := ht1.trans (memOnly_carryPar pa _ _ _)
  exact ⟨ht2.core, _, List.mem_cons_self, rfl, rfl⟩

/-- The state in which the shadow context has been written to the slot at `pa`. -/
def spilledTo (pa : Nat) (x : Shadow) (u : State) : State :=
  { writeContext pa u.core.id x u with core := { (writeContext pa u.core.id x u).core with shadow := none } }

theorem spilledTo_frame (pa : Nat) (x : Shadow) (u : State) :
    (spilledTo pa x u).core = { u.core with shadow := none } ∧ ∃ e ∈ (spilledTo pa x u).slots, e.slot = pa ∧ e.tid = x.seq.tid := by
  obtain ⟨hcore, hslots⟩ := writeContext_frame pa u.core.id x u
  exact ⟨by rw [spilledTo, hcore], hslots⟩

theorem spillShadow_of_free {s : State} {x : Shadow} {i : Nat} (hx : s.core.shadow = some x) (hf : freeSlot s x.seq.eff = some i) :
    ∃ w, spillShadow s = some w ∧ w.core = { s.core with shadow := none } ∧
      ∃ e ∈ w.slots, e.slot = slotAddr s x.seq.eff i ∧ e.tid = x.seq.tid := by
  obtain ⟨hcore, e, he, hslot, htid⟩ := spilledTo_frame (slotAddr s x.seq.eff i) x (slotSet x.seq.eff i true s)
  obtain ⟨w, hw, hwc, hws⟩ : ∃ w, spillShadow s = some w ∧
      w.core = (spilledTo (slotAddr s x.seq.eff i) x (slotSet x.seq.eff i true s)).core ∧
      w.slots = (spilledTo (slotAddr s x.seq.eff i) x (slotSet x.seq.eff i true s)).slots := by
    unfold spillShadow
    rw [hx]
    dsimp only
    rw [hf]
    dsimp only
    split
    · exact ⟨_, rfl, rqRename_frame _ _ _ _⟩
    · exact ⟨_, rfl, rqPushFront_frame _ _ _ _⟩
  exact ⟨w, hw, hwc.trans hcore, e, hws ▸ he, hslot, htid⟩

theorem slotAddr_of_mem {s u : State} (hm : u.mem = s.mem) (r : Region) (i : Nat) : slotAddr u r i = slotAddr s r i := by
  unfold slotAddr frameBase framePitch frameKiB frameCount State.rd
  rw [hm]

theorem spill_frees {c i : Nat} {x : Shadow} {s : State} (hm : (focus s c).core.seq.mode = .idle) (hx : (focus s c).core.shadow = some x)
    (hf : freeSlot (focus s c) x.seq.eff = some i) :
    Happens (.contextSpill c) s fun t => (focus t c).core.shadow = none ∧
      ∃ e ∈ t.slots, e.slot = slotAddr s x.seq.eff i ∧ e.tid = x.seq.tid := by
  obtain ⟨w, hw, hcore, e, he, hslot, htid⟩ := spillShadow_of_free hx hf
  refine ⟨focus w s.core.id, ?_, ?_, e, ?_, ?_, htid⟩
  · show Host.Outcome.next
      (focus (if (focus s c).core.seq.mode = .idle then (spillShadow (focus s c)).getD (focus s c) else focus s c) s.core.id) = _
    rw [if_pos hm, hw]
    rfl
  · rw [focus_back ((congrArg Core.id hcore).trans (focus_id s c)), hcore]
  · rw [focus_slots]
    exact he
  · rw [hslot, slotAddr_of_mem (focus_mem s c)]

end Sys2Proof.Proofs
end

section
/-! A fresh task identity (R141): of as many numbers as are tried, one is neither 0 nor in use. -/

namespace Sys2Proof.Proofs

open Sys2Proof.Machine Sys2Proof.Safety

/-- An identity that a task may take. -/
def FreeTid (used : List Nat) (i : Nat) : Prop := i ≠ 0 ∧ i ∉ used

theorem nextFree_lt (used : List Nat) (n : Nat) : ∀ i, i < 2 ^ 31 → nextFree used n i < 2 ^ 31 := by
  induction n with
  | zero => exact fun i hi => hi
  | succ n ih =>
    intro i hi
    rw [nextFree]
    split
    · exact ih _ (Nat.mod_lt _ (by decide))
    · exact hi

theorem nextFree_of_free {used : List Nat} {i : Nat} (h : FreeTid used i) (n : Nat) : nextFree used (n + 1) i = i := by
  obtain ⟨h0, hu⟩ := h
  rw [nextFree, if_neg (by simp [h0, hu])]

theorem nextFree_of_taken {used : List Nat} {i : Nat} (h : ¬FreeTid used i) (n : Nat) :
    nextFree used (n + 1) i = nextFree used n ((i + 1) % 2 ^ 31) := by
  rw [nextFree, if_pos]
  simpa only [FreeTid, not_and_or, not_not, List.contains_iff_mem, ne_eq] using h

/-- The search ends at a free number, or has met none. -/
theorem nextFree_free_or (used : List Nat) (n : Nat) :
    ∀ i, i < 2 ^ 31 → FreeTid used (nextFree used n i) ∨ ∀ j < n, ¬FreeTid used ((i + j) % 2 ^ 31) := by
  induction n with
  | zero => exact fun i _ => .inr fun j hj => absurd hj (Nat.not_lt_zero j)
  | succ n ih =>
    intro i hi
    by_cases h : FreeTid used i
    · exact .inl (by rwa [nextFree_of_free h])
    · rw [nextFree_of_taken h]
      refine (ih _ (Nat.mod_lt (i + 1) (by decide))).imp_right fun hn j hj => ?_
      cases j with
      | zero => rwa [Nat.add_zero, Nat.mod_eq_of_lt hi]
      | succ j =>
        have hshift := hn j (by omega)
        rwa [Nat.mod_add_mod, Nat.add_right_comm, Nat.add_assoc] at hshift

/-- With room among the identities, one of the numbers tried is free: they are distinct, and more than the numbers that are not. -/
theorem nextFree_free {used : List Nat} (h : used.length + 2 ≤ 2 ^ 31) {i : Nat} (hi : i < 2 ^ 31) :
    FreeTid used (nextFree used (used.length + 2) i) := by
  refine (nextFree_free_or used _ i hi).resolve_right fun hbad => ?_
  have hmaps : ∀ j ∈ Finset.range (used.length + 2), (i + j) % 2 ^ 31 ∈ (0 :: used).toFinset := fun j hj => by
    have := hbad j (Finset.mem_range.mp hj)
    simpa only [FreeTid, not_and_or, not_not, ne_eq, List.mem_toFinset, List.mem_cons] using this
  have hcard : (0 :: used).toFinset.card < (Finset.range (used.length + 2)).card := by
    have := List.toFinset_card_le (0 :: used)
    rw [Finset.card_range]
    simp only [List.length_cons] at this
    omega
  obtain ⟨a, ha, b, hb, hab, he⟩ := Finset.exists_ne_map_eq_of_card_lt_of_maps_to hcard hmaps
  rw [Finset.mem_range] at ha hb
  omega

theorem freshTid_toNat (s : State) :
    (freshTid s).1.toNat = nextFree (usedTids s) ((usedTids s).length + 2) (s.fe.nextTid % 2 ^ 31) :=
  toNat_ofNat_of_lt (nextFree_lt _ _ _ (Nat.mod_lt _ (by decide)))

theorem freshTid_next (s : State) :
    (freshTid s).2 = { s with fe := { s.fe with
      nextTid := nextFree (usedTids s) ((usedTids s).length + 2) (s.fe.nextTid % 2 ^ 31) + 1 } } :=
  rfl

end Sys2Proof.Proofs
end

section
/-! The arbiter gives an idle core the next task of a gang (R125, R140), and the obligation on the events of tasks. -/

namespace Sys2Proof.Proofs

open Sys2Proof.Machine Sys2Proof.Safety

/-! ### The arbiter's choice -/

section
variable {u : State} {h : RcbHandle} {r : Region} {loc : ItemLoc} {e : Nat}

/-- An idle core of a running cluster takes the item that is picked, where nothing stands against it. -/
theorem arbitrate_takes (hm : u.core.seq.mode = .idle) (hup : clusterUp u (clusterOf u.core.id) = true)
    (hpick : pickCandidate (clusterOf u.core.id) (candidates u u.core) = some (h, r, loc, e)) (hdead : u.cfg.dead.getLsbD r.domain = false)
    (hshare : amountOf u r.budgetRcb .core = 2 ^ 48 - 1) (hsaved : recSaved e = false) (hpoison : itemPoison u r loc e = none) :
    arbitrate u = takeItem h r loc e (chargeServed (clusterOf u.core.id) h r u) := by
  have hspent : shareSpent r (clusterOf u.core.id) u = (false, u) := if_pos hshare
  unfold arbitrate
  dsimp only
  rw [hm, List.filter_true, hup]
  dsimp only
  rw [hpick]
  dsimp only
  rw [hdead, hspent, hsaved, if_neg (by decide), if_neg (by decide), if_neg Bool.false_ne_true, if_neg (by decide), hpoison]

/-- The state in which a core has left the gang's item in the queue, with one member more started. -/
def memberTaken (b i : Nat) (s : State) : State := (setSeq s { s.core.seq with mode := .idle }).wr (b + 32) 4 (i + 1)

/-- The next member of a gang starts on the core that is current. -/
theorem takeItem_gang {s : State} (hsaved : recSaved e = false) (hgang : recGang e = true) (hjoin : recJoin e < 0)
    (hres : blkResident s (recLink e) = false) (hmore : blkNext s (recLink e) + 1 < blkN s (recLink e)) :
    takeItem h r loc e s =
      startGang r h.idx (recLink e) (blkNext s (recLink e)) e s.core.id (memberTaken (recLink e) (blkNext s (recLink e)) s) := by
  unfold takeItem
  dsimp only
  rw [hsaved, hgang, hres]
  rw [if_neg (by decide), if_pos rfl, if_pos hjoin, if_neg (by decide), if_pos hmore]
  rfl

end

/-! ### What the started task finds -/

section
variable (r : Region) (x b i n fp code : Nat) (s : State)

@[simp] theorem startTask_id : (startTask r x b i n fp code 0 s).core.id = s.core.id := rfl
@[simp] theorem startTask_mem : (startTask r x b i n fp code 0 s).mem = s.mem := rfl
@[simp] theorem startTask_tid : (startTask r x b i n fp code 0 s).core.seq.tid = (freshTid s).1 := rfl
@[simp] theorem startTask_nextTid : (startTask r x b i n fp code 0 s).fe.nextTid = (freshTid s).2.fe.nextTid := rfl

/-- The registers of R140: frame, index, number of members and argument; the rest are zero. -/
theorem startTask_regs :
    getS (startTask r x b i n fp code 0 s) 1 = BitVec.ofNat 64 fp ∧ getS (startTask r x b i n fp code 0 s) 2 = BitVec.ofNat 64 i ∧
      getS (startTask r x b i n fp code 0 s) 3 = BitVec.ofNat 64 n ∧
      getS (startTask r x b i n fp code 0 s) 4 = BitVec.ofNat 64 (s.rd (b + 8) 8) ∧
      ∀ g : SReg, 5 ≤ g.toNat → getS (startTask r x b i n fp code 0 s) g = 0 := by
  refine ⟨rfl, rfl, rfl, rfl, fun g hg => ?_⟩
  have h0 : g ≠ 0 := fun h => by simp [h] at hg
  unfold getS startTask
  rw [if_neg h0]
  dsimp only
  rw [Vector.getElem_set_ne _ _ (by omega), Vector.getElem_set_ne _ _ (by omega), Vector.getElem_set_ne _ _ (by omega),
    Vector.getElem_set_ne _ _ (by omega), Vector.getElem_replicate]

end

/-- A member that starts on the core that is current. -/
theorem startGang_here {e : Nat} {s : State} (himg : recImg e = false) (r : Region) (x b i : Nat) :
    startGang r x b i e s.core.id s =
      startTask r x b i (blkN s b) (s.rd (b + 16) 8 + i * s.rd (b + 24) 4) (s.rd b 8) 0 s := by
  have hpick : ∀ t u : State, (if recImg e = true then t else u) = u := fun t u => if_neg (by simp [himg])
  unfold startGang
  rw [onCore_self _ rfl]
  · exact hpick _ _
  · rw [hpick, startTask_id]

/-! ### Memory and identities on the way to the start -/

theorem rd_memberTaken {s : State} (h : MemWf s.mem) {b pa n : Nat} (hb : pa + n ≤ b + 32) (i : Nat) :
    (memberTaken b i s).rd pa n = s.rd pa n := rd_wr_outside (s := setSeq s { s.core.seq with mode := .idle }) h _ (.inl hb)

theorem memberTaken_id (b i : Nat) (s : State) : (memberTaken b i s).core.id = s.core.id := rfl
theorem memberTaken_nextTid (b i : Nat) (s : State) : (memberTaken b i s).fe.nextTid = s.fe.nextTid := rfl
theorem memberTaken_mem (b i : Nat) (s : State) : (memberTaken b i s).mem = memWrite s.mem (b + 32) 4 (i + 1) := rfl
theorem usedTids_memberTaken (b i : Nat) (s : State) : usedTids (memberTaken b i s) = usedTids s := rfl

theorem rd_focus (s : State) (c pa n : Nat) : (focus s c).rd pa n = s.rd pa n := by
  unfold State.rd
  rw [focus_mem]

theorem focus_power (s : State) (c : Nat) : (focus s c).power = s.power := by unfold focus; split <;> rfl

theorem clusterUp_focus (s : State) (c k : Nat) : clusterUp (focus s c) k = clusterUp s k := by
  unfold clusterUp
  rw [focus_power]

theorem amountOf_focus (s : State) (c rcb : Nat) (a : Activity) : amountOf (focus s c) rcb a = amountOf s rcb a := by
  unfold amountOf
  rw [rd_focus]

/-- The state in which core `c` has been served from the queue of `r`. -/
def charged (c : Nat) (h : RcbHandle) (r : Region) (s : State) : State := chargeServed (clusterOf c) h r (focus s c)

theorem charged_id (c : Nat) (h : RcbHandle) (r : Region) (s : State) : (charged c h r s).core.id = c := by
  simp only [charged, chargeServed, focus_id]

theorem charged_mem (c : Nat) (h : RcbHandle) (r : Region) (s : State) : (charged c h r s).mem = s.mem := by
  simp only [charged, chargeServed, focus_mem]

theorem charged_rd (c : Nat) (h : RcbHandle) (r : Region) (s : State) (pa n : Nat) : (charged c h r s).rd pa n = s.rd pa n := by
  unfold State.rd
  rw [charged_mem]

theorem charged_tids (c : Nat) (h : RcbHandle) (r : Region) (s : State) : usedTids (charged c h r s) = usedTids (focus s c) := by
  simp only [charged, chargeServed, usedTids, allCores]

theorem charged_nextTid (c : Nat) (h : RcbHandle) (r : Region) (s : State) : (charged c h r s).fe.nextTid = s.fe.nextTid := by
  simp only [charged, chargeServed, focus_fe]

/-- The state in which, besides, the next member of the gang at `b` has been counted. -/
def served (c : Nat) (h : RcbHandle) (r : Region) (b : Nat) (s : State) : State := memberTaken b (blkNext s b) (charged c h r s)

theorem rd_served {c b pa n : Nat} {h : RcbHandle} {r : Region} {s : State} (hwf : MemWf s.mem) (hb : pa + n ≤ b + 32) :
    (served c h r b s).rd pa n = s.rd pa n :=
  (rd_memberTaken ((charged_mem c h r s).symm ▸ hwf) hb _).trans (charged_rd c h r s pa n)

theorem served_id (c : Nat) (h : RcbHandle) (r : Region) (b : Nat) (s : State) : (served c h r b s).core.id = c :=
  (memberTaken_id _ _ _).trans (charged_id c h r s)

theorem served_tids (c : Nat) (h : RcbHandle) (r : Region) (b : Nat) (s : State) : usedTids (served c h r b s) = usedTids (focus s c) :=
  (usedTids_memberTaken _ _ _).trans (charged_tids c h r s)

theorem served_nextTid (c : Nat) (h : RcbHandle) (r : Region) (b : Nat) (s : State) : (served c h r b s).fe.nextTid = s.fe.nextTid :=
  (memberTaken_nextTid _ _ _).trans (charged_nextTid c h r s)

theorem served_mem (c : Nat) (h : RcbHandle) (r : Region) (b : Nat) (s : State) :
    (served c h r b s).mem = memWrite s.mem (b + 32) 4 (blkNext s b + 1) := by
  rw [served, memberTaken_mem, charged_mem]

/-- The state in which the next member of the gang at `b` has started on core `c`. -/
def memberStarted (c : Nat) (h : RcbHandle) (r : Region) (b : Nat) (s : State) : State :=
  startTask r h.idx b (blkNext s b) (blkN s b) (s.rd (b + 16) 8 + blkNext s b * s.rd (b + 24) 4) (s.rd b 8) 0 (served c h r b s)

theorem memberStarted_id (c : Nat) (h : RcbHandle) (r : Region) (b : Nat) (s : State) : (memberStarted c h r b s).core.id = c :=
  (startTask_id _ _ _ _ _ _ _ _).trans (served_id c h r b s)

theorem memberStarted_tid (c : Nat) (h : RcbHandle) (r : Region) (b : Nat) (s : State) :
    (memberStarted c h r b s).core.seq.tid.toNat =
        nextFree (usedTids (focus s c)) ((usedTids (focus s c)).length + 2) (s.fe.nextTid % 2 ^ 31) ∧
      (memberStarted c h r b s).fe.nextTid =
        nextFree (usedTids (focus s c)) ((usedTids (focus s c)).length + 2) (s.fe.nextTid % 2 ^ 31) + 1 := by
  constructor
  · rw [memberStarted, startTask_tid, freshTid_toNat, served_tids, served_nextTid]
  · rw [memberStarted, startTask_nextTid, freshTid_next, served_tids, served_nextTid]

theorem memberStarted_memKeptOff {s : State} (hwf : MemWf s.mem) (c : Nat) (h : RcbHandle) (r : Region) (b : Nat) :
    MemKeptOff [(b + 32, 4)] s (memberStarted c h r b s) := fun a ha => by
  unfold byteAt
  rw [memberStarted, startTask_mem, served_mem]
  exact memGet_memWrite_outside hwf _ (ha _ (List.mem_singleton_self _))

theorem exec_readyQueueArbitration {c : Nat} {h : RcbHandle} {r : Region} {loc : ItemLoc} {e : Nat} {s : State} (hwf : MemWf s.mem)
    (hc : c < 1536) (hm : (focus s c).core.seq.mode = .idle) (hup : clusterUp s (clusterOf c) = true)
    (hpick : pickCandidate (clusterOf c) (candidates (focus s c) (focus s c).core) = some (h, r, loc, e))
    (hdead : s.cfg.dead.getLsbD r.domain = false) (hshare : amountOf s r.budgetRcb .core = 2 ^ 48 - 1) (hsaved : recSaved e = false)
    (hgang : recGang e = true) (hjoin : recJoin e < 0) (hres : blkResident s (recLink e) = false) (himg : recImg e = false)
    (hpoison : itemPoison (focus s c) r loc e = none) (hmore : blkNext s (recLink e) + 1 < blkN s (recLink e)) :
    exec (.readyQueueArbitration c) s = .next (focus (memberStarted c h r (recLink e) s) s.core.id) := by
  have hid := focus_id s c
  have htake : arbitrate (focus s c) = takeItem h r loc e (charged c h r s) := by
    have := arbitrate_takes hm (by rw [hid, clusterUp_focus]; exact hup) (by rw [hid]; exact hpick) (by rw [focus_cfg]; exact hdead)
      (by rw [amountOf_focus]; exact hshare) hsaved hpoison
    rwa [hid] at this
  have hgangs : takeItem h r loc e (charged c h r s) =
      startGang r h.idx (recLink e) (blkNext s (recLink e)) e (served c h r (recLink e) s).core.id (served c h r (recLink e) s) := by
    have hnext : blkNext (charged c h r s) (recLink e) = blkNext s (recLink e) := charged_rd c h r s _ _
    have hn : blkN (charged c h r s) (recLink e) = blkN s (recLink e) := charged_rd c h r s _ _
    have hr : blkResident (charged c h r s) (recLink e) = false := by
      rw [← hres, blkResident, charged_rd, blkResident]
    rw [takeItem_gang hsaved hgang hjoin hr (by rw [hnext, hn]; exact hmore), hnext]
    rfl
  have hstart : startGang r h.idx (recLink e) (blkNext s (recLink e)) e (served c h r (recLink e) s).core.id (served c h r (recLink e) s) =
      memberStarted c h r (recLink e) s := by
    have hn : blkN (served c h r (recLink e) s) (recLink e) = blkN s (recLink e) := rd_served hwf (by omega)
    rw [startGang_here himg, hn, rd_served hwf (by omega), rd_served hwf (by omega), rd_served hwf (by omega)]
    rfl
  show execReadyQueueArbitration c s = _
  rw [execReadyQueueArbitration, if_pos hc]
  show Host.Outcome.next (focus (arbitrate (focus s c)) s.core.id) = _
  rw [htake, hgangs, hstart]

/-- The registers and the state that the started member finds, on its core (R140). -/
theorem memberStarted_frame {s : State} (hwf : MemWf s.mem) (c : Nat) (h : RcbHandle) (r : Region) (b : Nat) :
    let w := memberStarted c h r b s
    getS w 1 = BitVec.ofNat 64 (s.rd (b + 16) 8 + blkNext s b * s.rd (b + 24) 4) ∧ getS w 2 = BitVec.ofNat 64 (blkNext s b) ∧
      getS w 3 = BitVec.ofNat 64 (blkN s b) ∧ getS w 4 = BitVec.ofNat 64 (s.rd (b + 8) 8) ∧ (∀ g : SReg, 5 ≤ g.toNat → getS w g = 0) := by
  have hregs := startTask_regs r h.idx b (blkNext s b) (blkN s b)
    (s.rd (b + 16) 8 + blkNext s b * s.rd (b + 24) 4) (s.rd b 8) (served c h r b s)
  rwa [rd_served hwf (by omega)] at hregs

/-- Settles O57: each event is computed at its core; the start of a gang's member goes through the arbiter's choice
(`exec_readyQueueArbitration`), and its identity is fresh since as many numbers are tried as can be taken (`nextFree_free`). -/
theorem taskEvents : Obligations.TaskEvents := by
  unfold Obligations.TaskEvents
  refine ⟨?start, fun k c s hk ht hm hc => preemption_marks hk ht hm hc, fun c s hr hs => save_shadows hr hs,
    fun c i x s hm hx hf => spill_frees hm hx hf, budget_renewed, fun tg h s hs hu => ⟨fun hp => invalidation_drops hs hu hp, ?marks,
      fun _ hw => ack_waits hs hu hw, fun hp hw => ack_counts hs hu hp hw⟩,
    fun c l p s u hr hf => ⟨fun hl => refetch_intact hr hf hl, fun hl hd => refetch_broken hr hf hl hd⟩⟩
  case marks =>
    rintro hp c rfl
    exact invalidation_marks hs hu hp
  case start =>
    intro c h r loc e s u b i hwf hc hm hup hpick hdead hshare hsaved hgang hjoin hres himg hpoison hmore
    obtain ⟨htid, hnext⟩ := memberStarted_tid c h r b s
    have hcore := focus_back (memberStarted_id c h r b s) s.core.id
    have hget := getS_of_core hcore
    obtain ⟨h1, h2, h3, h4, h5⟩ := memberStarted_frame hwf c h r b
    have hlt : s.fe.nextTid % 2 ^ 31 < 2 ^ 31 := Nat.mod_lt _ (by decide)
    refine ⟨_, exec_readyQueueArbitration hwf hc hm hup hpick hdead hshare hsaved hgang hjoin hres himg hpoison hmore, ?_⟩
    dsimp only
    rw [hcore]
    refine ⟨rfl, rfl, (hget 1).trans h1, (hget 2).trans h2, (hget 3).trans h3, (hget 4).trans h4, fun g hg => (hget g).trans (h5 g hg),
      rfl, rfl,
      rfl, rfl, rfl, rfl, rfl, rfl, fun a ha => ?_, fun h0 hu => ?_, fun hroom => ?_⟩
    · rw [← memberStarted_memKeptOff hwf c h r b a ha, byteAt, byteAt, focus_mem]
    · have hfree : nextFree (usedTids u) ((usedTids u).length + 2) (s.fe.nextTid % 2 ^ 31) = s.fe.nextTid % 2 ^ 31 :=
        nextFree_of_free ⟨h0, hu⟩ _
      rw [focus_fe, htid, hnext, hfree]
      exact ⟨rfl, rfl⟩
    · rw [htid]
      exact nextFree_free hroom hlt

end Sys2Proof.Proofs
end

section
/-! Exact results (R60): a value that the format holds is the result in every rounding mode, without a flag. -/

namespace Sys2Proof.Proofs

open Sys2Proof.Machine

/-! ### Equal magnitudes -/

/-- Equal magnitudes, counted in the smaller of their two units. -/
theorem mul_pow_of_value_eq {m u : Nat} {e l : Int} (hv : (m : ℚ) * 2 ^ e = u * 2 ^ l) (hle : l ≤ e) : m * 2 ^ (e - l).toNat = u := by
  have hz : (2 : ℚ) ^ e = 2 ^ (e - l).toNat * 2 ^ l := by
    rw [← zpow_natCast, ← zpow_add₀ two_ne_zero, Int.toNat_of_nonneg (by omega), Int.sub_add_cancel]
  rw [hz, ← mul_assoc] at hv
  exact_mod_cast mul_right_cancel₀ (zpow_ne_zero l two_ne_zero) hv

theorem log2_mul_two_pow {m : Nat} (hm : m ≠ 0) (d : Nat) : (m * 2 ^ d).log2 = m.log2 + d := by
  have hlo := Nat.log2_self_le hm
  have hhi := Nat.lt_log2_self (n := m)
  rw [Nat.log2_eq_iff (by positivity), Nat.add_right_comm, pow_add, pow_add _ (_ + 1)]
  exact ⟨Nat.mul_le_mul_right _ hlo, Nat.mul_lt_mul_of_pos_right hhi (by positivity)⟩

/-- Equal magnitudes have their leading bits at one place. -/
theorem lead_eq_of_value_eq {m u : Nat} {e l : Int} (hm : m ≠ 0) (hu : u ≠ 0) (hv : (m : ℚ) * 2 ^ e = u * 2 ^ l) :
    (m.log2 : Int) + e = u.log2 + l := by
  rcases le_total l e with h | h
  · rw [← mul_pow_of_value_eq hv h, log2_mul_two_pow hm]
    omega
  · rw [← mul_pow_of_value_eq hv.symm h, log2_mul_two_pow hu]
    omega

/-- A multiple of 2^l is not changed by rounding to one, whatever the mode and the random bits. -/
theorem quant_of_value_eq {rm : Rm} {neg : Bool} {rho m u : Nat} {e l : Int} (hrho : rho < 2 ^ 32) (hv : (m : ℚ) * 2 ^ e = u * 2 ^ l) :
    quant rm neg rho ⟨m, e, false⟩ l = (u, false) := by
  unfold quant
  dsimp only
  split
  · next h => rw [mul_pow_of_value_eq hv h]
  · next h =>
    have hm := mul_pow_of_value_eq hv.symm (by omega)
    have hpos : 0 < 2 ^ (l - e).toNat := by positivity
    have hq : m / 2 ^ (l - e).toNat = u := by rw [← hm, Nat.mul_div_cancel _ hpos]
    have hr : m % 2 ^ (l - e).toNat = 0 := by rw [← hm, Nat.mul_mod_left]
    cases rm
    case sr => simpa [hq, hr] using hrho
    all_goals simp [hq, hr, hpos.ne]

/-! ### What a format holds -/

/-- The smallest exponent of a format: that of its subnormal values and of its smallest normal ones. -/
def lowExp (f : Fmt) : Int := 1 - (f.bias : Int) - f.fb

/-- The largest exponent of a finite value of a format that keeps its last exponent field for infinities and NaNs. -/
def topExp (f : Fmt) : Int := ((2 ^ f.eb - 2 : Nat) : Int) - f.bias - f.fb

/-- m·2^e as a format holds it: a normal significand, or a subnormal one at the smallest exponent (R56). -/
def HeldAs (f : Fmt) (m : Nat) (e : Int) : Prop :=
  m < 2 ^ (f.fb + 1) ∧ lowExp f ≤ e ∧ e ≤ topExp f ∧ (m < 2 ^ f.fb → e = lowExp f)

theorem width_of_isLaneFloat {t : ETy} (ht : t.isLaneFloat = true) : t.width = (fmtOf t).fb + (fmtOf t).eb + 1 ∧ 2 ≤ (fmtOf t).eb := by
  cases t <;> first | exact ⟨rfl, by decide⟩ | cases ht

/-- The fields of a pattern, put together again. -/
theorem fields_of_lt {f : Fmt} {x : Nat} (hx : x < 2 ^ (f.fb + f.eb + 1)) :
    (if bitAt x (f.eb + f.fb) then 2 ^ (f.eb + f.fb) else 0) + bits x f.fb f.eb * 2 ^ f.fb + bits x 0 f.fb = x := by
  have hs : (if bitAt x (f.eb + f.fb) then 2 ^ (f.eb + f.fb) else 0) = bits x (f.fb + f.eb) 1 * 2 ^ (f.fb + f.eb) := by
    rw [← bitAt_toNat, Nat.add_comm f.eb]
    cases bitAt x (f.fb + f.eb) <;> simp
  have hlow : bits x 0 f.fb = x % 2 ^ f.fb := by simp [bits]
  rw [hs, hlow, Nat.add_assoc, bits_add_mod, bits_add_mod, Nat.mod_eq_of_lt hx]

/-- What a finite pattern of a lane format stands for, field by field (R56). -/
theorem fields_of_decodeF {t : ETy} (ht : t.isLaneFloat = true) {x m : Nat} {n : Bool} {e : Int} (h : decodeF t x = .fin n m e) :
    n = bitAt x ((fmtOf t).eb + (fmtOf t).fb) ∧ bits x (fmtOf t).fb (fmtOf t).eb ≠ 2 ^ (fmtOf t).eb - 1 ∧
      ((bits x (fmtOf t).fb (fmtOf t).eb = 0 ∧ m = bits x 0 (fmtOf t).fb ∧ e = lowExp (fmtOf t)) ∨
        (bits x (fmtOf t).fb (fmtOf t).eb ≠ 0 ∧ m = 2 ^ (fmtOf t).fb + bits x 0 (fmtOf t).fb ∧
          e = (bits x (fmtOf t).fb (fmtOf t).eb : Int) - (fmtOf t).bias - (fmtOf t).fb)) := by
  have h4 : t ≠ .e4m3 := by rintro rfl; cases ht
  simp only [decodeF, h4, decide_false, Bool.false_and, Bool.false_eq_true, if_false, ne_eq, not_false_eq_true, decide_true, Bool.true_and,
    decide_eq_true_eq] at h
  split at h
  · split at h <;> cases h
  · next hex =>
    split at h
    · next h0 => cases h; exact ⟨rfl, hex, .inl ⟨h0, rfl, rfl⟩⟩
    · next h0 => cases h; exact ⟨rfl, hex, .inr ⟨h0, rfl, rfl⟩⟩

theorem heldAs_of_decodeF {t : ETy} (ht : t.isLaneFloat = true) {x m : Nat} {n : Bool} {e : Int} (h : decodeF t x = .fin n m e) :
    HeldAs (fmtOf t) m e := by
  obtain ⟨-, hne, hcase⟩ := fields_of_decodeF ht h
  obtain ⟨-, heb⟩ := width_of_isLaneFloat ht
  have hpow : 2 ^ 2 ≤ 2 ^ (fmtOf t).eb := Nat.pow_le_pow_right (by decide) heb
  have hex := bits_lt x (fmtOf t).fb (fmtOf t).eb
  have hfr := bits_lt x 0 (fmtOf t).fb
  unfold HeldAs lowExp topExp
  rw [pow_succ]
  obtain ⟨h0, rfl, rfl⟩ | ⟨h0, rfl, rfl⟩ := hcase
  · unfold lowExp
    omega
  · omega

theorem encodeMag_subnormal {f : Fmt} {q : Nat} (neg : Bool) (hq : q ≠ 0) (hlt : q < 2 ^ f.fb) :
    encodeMag f neg q (lowExp f) = (if neg then 2 ^ (f.eb + f.fb) else 0) + q := by
  have hlog : q.log2 < f.fb := (Nat.log2_lt hq).mpr hlt
  have hlead : (q.log2 : Int) + lowExp f < 1 - (f.bias : Int) := by unfold lowExp; omega
  unfold encodeMag
  rw [if_neg hq]
  dsimp only
  rw [if_pos hlead]
  unfold lowExp
  simp

theorem encodeMag_normal {f : Fmt} {q : Nat} {l : Int} (neg : Bool) (hlo : 2 ^ f.fb ≤ q) (hhi : q < 2 ^ (f.fb + 1)) (hl : lowExp f ≤ l) :
    encodeMag f neg q l = (if neg then 2 ^ (f.eb + f.fb) else 0) + (l + f.fb + f.bias).toNat * 2 ^ f.fb + (q - 2 ^ f.fb) := by
  have hq : q ≠ 0 := (Nat.lt_of_lt_of_le (Nat.two_pow_pos _) hlo).ne'
  have hlog : q.log2 = f.fb := (Nat.log2_eq_iff hq).mpr ⟨hlo, hhi⟩
  have hlead : ¬((q.log2 : Int) + l < 1 - (f.bias : Int)) := by unfold lowExp at hl; omega
  unfold encodeMag
  rw [if_neg hq]
  dsimp only
  rw [if_neg hlead, hlog]
  simp [Int.add_comm l]

/-- The pattern that stands for a nonzero value is the one that encoding the value gives. -/
theorem encodeMag_of_decodeF {t : ETy} (ht : t.isLaneFloat = true) {x m : Nat} {n : Bool} {e : Int} (hx : x < 2 ^ t.width)
    (h : decodeF t x = .fin n m e) (hm : m ≠ 0) : encodeMag (fmtOf t) n m e = x := by
  obtain ⟨hlt, hlow, -, -⟩ := heldAs_of_decodeF ht h
  obtain ⟨hn, -, hcase⟩ := fields_of_decodeF ht h
  rw [(width_of_isLaneFloat ht).1] at hx
  have hfields := fields_of_lt hx
  rw [← hn] at hfields
  obtain ⟨h0, hmfr, rfl⟩ | ⟨h0, hmfr, he⟩ := hcase
  · rw [encodeMag_subnormal n hm (hmfr ▸ bits_lt _ _ _)]
    rw [h0] at hfields
    omega
  · rw [encodeMag_normal n (by omega) hlt hlow,
      show (e + (fmtOf t).fb + (fmtOf t).bias).toNat = bits x (fmtOf t).fb (fmtOf t).eb by omega]
    omega

/-- The largest finite value of a lane format (R56). -/
theorem decodeF_maxFin {t : ETy} (ht : t.isLaneFloat = true) :
    decodeF t (maxFin t) = .fin false (2 ^ ((fmtOf t).fb + 1) - 1) (topExp (fmtOf t)) := by
  cases t <;> first | decide +kernel | cases ht

/-! ### Rounding -/

/-- The last place that rounding keeps of a value is the one the format holds it with. -/
theorem lastPlace_of_heldAs {f : Fmt} {u : Nat} {l : Int} (h : HeldAs f u l) (hu : u ≠ 0) :
    max ((u.log2 : Int) + l - f.fb) (1 - (f.bias : Int) - f.fb) = l := by
  obtain ⟨hlt, hlow, -, hsub⟩ := h
  have hlog : u.log2 < f.fb + 1 := (Nat.log2_lt hu).mpr hlt
  unfold lowExp at hlow hsub
  by_cases hs : u < 2 ^ f.fb
  · have := (Nat.log2_lt hu).mpr hs
    have := hsub hs
    omega
  · have := mt (Nat.log2_lt hu).mp hs
    omega

theorem not_overflow_of_heldAs {f : Fmt} {u : Nat} {l : Int} (h : HeldAs f u l) :
    (if topExp f ≤ l then decide (2 ^ (f.fb + 1) - 1 < u * 2 ^ (l - topExp f).toNat)
      else decide ((2 ^ (f.fb + 1) - 1) * 2 ^ (topExp f - l).toNat < u)) = false := by
  obtain ⟨hlt, -, htop, -⟩ := h
  split
  · rw [show (l - topExp f).toNat = 0 by omega]
    simp only [decide_eq_false_iff_not]
    omega
  · have hpos : 0 < 2 ^ (topExp f - l).toNat := by positivity
    have := Nat.le_mul_of_pos_right (2 ^ (f.fb + 1) - 1) hpos
    simp only [decide_eq_false_iff_not]
    omega

/-- A nonzero value that a lane format holds is rounded to its own pattern, in every mode and without a flag (R60, R64). -/
theorem roundVal_of_value_eq {t : ETy} (ht : t.isLaneFloat = true) {r m u rho : Nat} {neg sat : Bool} {e l : Int} (rm : Rm)
    (zneg : Option Bool) (hrho : rho < 2 ^ 32) (hr : r < 2 ^ t.width) (hd : decodeF t r = .fin neg u l) (hu : u ≠ 0)
    (hv : (m : ℚ) * 2 ^ e = u * 2 ^ l) : roundVal t rm rho sat zneg neg ⟨m, e, false⟩ = (r, 0) := by
  have hheld := heldAs_of_decodeF ht hd
  have hm : m ≠ 0 := by
    rintro rfl
    have : (u : ℚ) * 2 ^ l = 0 := by simpa using hv.symm
    exact (mul_ne_zero (Nat.cast_ne_zero.mpr hu) (zpow_ne_zero l two_ne_zero)) this
  have hplace : max (Mag.lead ⟨m, e, false⟩ - (fmtOf t).fb) (1 - ((fmtOf t).bias : Int) - (fmtOf t).fb) = l := by
    rw [Mag.lead, lead_eq_of_value_eq hm hu hv]
    exact lastPlace_of_heldAs hheld hu
  have hover := not_overflow_of_heldAs hheld
  unfold roundVal
  rw [if_neg (by simp [hm])]
  unfold roundMag
  simp only [hplace, quant_of_value_eq hrho hv, decodeF_maxFin ht, hover, Bool.and_false, Bool.false_eq_true, if_false,
    encodeMag_of_decodeF ht hr hd hu, Bool.false_and]
  rfl

/-! ### Signed values -/

/-- The signed value ±m·2^e. -/
def signedVal (neg : Bool) (m : Nat) (e : Int) : ℚ := (if neg then -(m : ℚ) else (m : ℚ)) * 2 ^ e

theorem signedVal_not (neg : Bool) (m : Nat) (e : Int) : signedVal (!neg) m e = -signedVal neg m e := by
  cases neg <;> simp [signedVal]

theorem signedVal_mul (n k : Bool) (p q : Nat) (g j : Int) :
    signedVal (xor n k) (p * q) (g + j) = signedVal n p g * signedVal k q j := by
  unfold signedVal
  rw [zpow_add₀ two_ne_zero]
  cases n <;> cases k <;> push_cast <;> simp <;> ring

theorem signedVal_natAbs (a : Int) (e : Int) : signedVal (decide (a < 0)) a.natAbs e = a * 2 ^ e := by
  unfold signedVal
  rw [Nat.cast_natAbs, Int.cast_abs]
  by_cases ha : a < 0
  · have hq : (a : ℚ) < 0 := by exact_mod_cast ha
    simp [ha, abs_of_neg hq]
  · have hq : (0 : ℚ) ≤ a := by exact_mod_cast not_lt.mp ha
    simp [ha, abs_of_nonneg hq]

/-- A value counted in a smaller unit. -/
theorem signedVal_eq_mul {n : Bool} {p : Nat} {e g : Int} (h : e ≤ g) :
    signedVal n p g = ((if n then -((p * 2 ^ (g - e).toNat : Nat) : Int) else ((p * 2 ^ (g - e).toNat : Nat) : Int)) : Int) * (2 : ℚ) ^ e := by
  have hz : (2 : ℚ) ^ g = 2 ^ (g - e).toNat * 2 ^ e := by
    rw [← zpow_natCast, ← zpow_add₀ two_ne_zero, Int.toNat_of_nonneg (by omega), Int.sub_add_cancel]
  unfold signedVal
  rw [hz]
  cases n <;> simp [mul_assoc]

/-- The exact sum of two finite values is their sum. -/
theorem signedVal_addFin (n k : Bool) (p q : Nat) (g j : Int) :
    signedVal (addFin n p g k q j).1 (addFin n p g k q j).2.1 (addFin n p g k q j).2.2 = signedVal n p g + signedVal k q j := by
  simp only [addFin]
  rw [signedVal_natAbs, signedVal_eq_mul (min_le_left g j), signedVal_eq_mul (min_le_right g j), ← add_mul]
  cases n <;> cases k <;> push_cast <;> rfl

/-- Equal nonzero signed values have one sign and one magnitude. -/
theorem sign_and_magnitude {n h : Bool} {m u : Nat} {e l : Int} (hu : u ≠ 0) (hv : signedVal n m e = signedVal h u l) :
    n = h ∧ (m : ℚ) * 2 ^ e = u * 2 ^ l := by
  have hpos : (0 : ℚ) < u * 2 ^ l := by positivity
  have hnonneg : (0 : ℚ) ≤ m * 2 ^ e := by positivity
  unfold signedVal at hv
  cases n <;> cases h <;> simp at hv ⊢ <;> linarith

/-! ### Sums and products -/

theorem rhoOf_lt (seed base : Word) (e : Nat) : rhoOf seed base e < 2 ^ 32 :=
  Nat.div_lt_of_lt_mul (by have := (mix64 seed (base + BitVec.ofNat 64 e)).isLt; omega)

section

variable {t : ETy} {rm : Rm} {r p q u rho : Nat} {n k h : Bool} {g j l : Int}

theorem addF_of_value_eq (ht : t.isLaneFloat = true) (hrho : rho < 2 ^ 32) (hr : r < 2 ^ t.width) (hd : decodeF t r = .fin h u l)
    (hu : u ≠ 0) (hv : signedVal n p g + signedVal k q j = signedVal h u l) :
    addF t rm rho (.fin n p g) (.fin k q j) = (r, 0) := by
  rw [← signedVal_addFin] at hv
  obtain ⟨hsign, hmag⟩ := sign_and_magnitude hu hv
  simp only [addF]
  rw [hsign]
  exact roundVal_of_value_eq ht rm _ hrho hr hd hu hmag

theorem mulF_of_value_eq (ht : t.isLaneFloat = true) (hrho : rho < 2 ^ 32) (hr : r < 2 ^ t.width) (hd : decodeF t r = .fin h u l)
    (hu : u ≠ 0) (hv : signedVal n p g * signedVal k q j = signedVal h u l) :
    mulF t rm rho (.fin n p g) (.fin k q j) = (r, 0) := by
  rw [← signedVal_mul] at hv
  obtain ⟨hsign, hmag⟩ := sign_and_magnitude hu hv
  simp only [mulF]
  rw [hsign]
  exact roundVal_of_value_eq ht rm _ hrho hr hd hu hmag

end

/-- Settles O35: the exact sum or product is a multiple of the last place that rounding keeps (`lastPlace_of_heldAs`), so no mode changes it
(`quant_of_value_eq`), and a difference is the sum with the other sign. -/
theorem vectorFloatExactResults : Obligations.VectorFloatExactResults := by
  unfold Obligations.VectorFloatExactResults
  intro rm d a b m ps t env e x y r n k h p q u g j l ht _ _ hr hx hy hd hu
  have hrho := rhoOf_lt env.vseed env.vbase e
  have hsub : signedVal n p g - signedVal k q j = signedVal n p g + signedVal (!k) q j := by rw [signedVal_not, sub_eq_add_neg]
  refine ⟨fun hv => ?add, fun hv => ?sub, fun hv => ?mul⟩
  case add =>
    show addF t rm _ (decodeF t x) (decodeF t y) = _
    rw [hx, hy]
    exact addF_of_value_eq ht hrho hr hd hu hv
  case sub =>
    show addF t rm _ (decodeF t x) (decodeF t y).neg = _
    rw [hx, hy]
    exact addF_of_value_eq ht hrho hr hd hu (hsub ▸ hv)
  case mul =>
    show mulF t rm _ (decodeF t x) (decodeF t y) = _
    rw [hx, hy]
    exact mulF_of_value_eq ht hrho hr hd hu hv

end Sys2Proof.Proofs
end

section
/-! A matrix command completes (R269, R271): the tile it gives, its flags merged, and what stays. -/

namespace Sys2Proof.Proofs

open Sys2Proof.Machine Sys2Proof.Safety

/-! ### Flags and tiles -/

theorem getLsbD_orFlags_foldl (k : Nat) (fs : List Flags) :
    ∀ a : Flags, (fs.foldl (fun a b => a ||| b) a).getLsbD k = true ↔ a.getLsbD k = true ∨ ∃ f ∈ fs, f.getLsbD k = true := by
  induction fs with
  | nil => simp
  | cons f fs ih =>
    intro a
    rw [List.foldl_cons, ih, BitVec.getLsbD_or, Bool.or_eq_true, or_assoc]
    simp only [List.mem_cons, exists_eq_or_imp]

/-- The flags of a list of results are those that one of them has. -/
theorem getLsbD_orFlags (k : Nat) (fs : List Flags) : (orFlags fs).getLsbD k = true ↔ ∃ f ∈ fs, f.getLsbD k = true := by
  unfold orFlags
  rw [getLsbD_orFlags_foldl]
  simp

/-- The flags of the words of a tile, row by row. -/
theorem getLsbD_orFlags_words (g : Nat → Nat → Flags) (k : Nat) :
    (orFlags ((List.range 4096).map fun n => g (n / 64) (n % 64))).getLsbD k = true ↔
      ∃ i j, i < 64 ∧ j < 64 ∧ (g i j).getLsbD k = true := by
  simp only [getLsbD_orFlags, List.mem_map, List.mem_range, exists_exists_and_eq_and]
  constructor
  · rintro ⟨n, hn, h⟩
    exact ⟨n / 64, n % 64, by omega, by omega, h⟩
  · rintro ⟨i, j, hi, hj, h⟩
    refine ⟨64 * i + j, by omega, ?_⟩
    rwa [show (64 * i + j) / 64 = i by omega, show (64 * i + j) % 64 = j by omega]

theorem packElems_lt (w : Nat) (f : Nat → Nat) (n : Nat) : packElems w f n < 2 ^ (w * n) := by
  induction n with
  | zero => simp [packElems]
  | succ n ih =>
    have hf : f n % 2 ^ w + 1 ≤ 2 ^ w := Nat.mod_lt _ (Nat.two_pow_pos w)
    calc packElems w f n + f n % 2 ^ w * 2 ^ (w * n) < (f n % 2 ^ w + 1) * 2 ^ (w * n) := by rw [Nat.add_mul]; omega
      _ ≤ 2 ^ w * 2 ^ (w * n) := Nat.mul_le_mul_right _ hf
      _ = 2 ^ (w * (n + 1)) := by rw [← pow_add, Nat.mul_add, Nat.mul_one, Nat.add_comm]

/-- An element of a packed image (R54). -/
theorem elem_packElems {w n k : Nat} (f : Nat → Nat) (hk : k < n) : elem (packElems w f n) w k = f k % 2 ^ w := by
  induction n with
  | zero => omega
  | succ n ih =>
    have hlt := packElems_lt w f n
    unfold elem at ih ⊢
    rw [packElems]
    rcases Nat.lt_succ_iff_lt_or_eq.mp hk with hlt' | rfl
    · have hsplit : 2 ^ (w * n) = 2 ^ (w * k) * (2 ^ w * 2 ^ (w * (n - k - 1))) := by
        rw [← pow_add, ← pow_add]
        congr 1
        obtain ⟨d, rfl⟩ : ∃ d, n = k + 1 + d := ⟨n - k - 1, by omega⟩
        rw [show k + 1 + d - k - 1 = d by omega]
        ring
      rw [hsplit, Nat.mul_left_comm, Nat.add_mul_div_left _ _ (Nat.two_pow_pos _), Nat.mul_left_comm, Nat.add_mul_mod_self_left]
      exact ih hlt'
    · rw [Nat.add_mul_div_right _ _ (Nat.two_pow_pos _), Nat.div_eq_of_lt hlt, Nat.zero_add, Nat.mod_mod]

theorem toNat_ofNat_packElems {w n k : Nat} (f : Nat → Nat) (hk : k = w * n) : (BitVec.ofNat k (packElems w f n)).toNat = packElems w f n := by
  subst hk
  exact (BitVec.toNat_ofNat _ _).trans (Nat.mod_eq_of_lt (packElems_lt w f n))

theorem tileWord_tileMap (f : Nat → Nat → ER) {i j : Nat} (hi : i < 64) (hj : j < 64) :
    tileWord (tileMap f).1.toNat i j = (f i j).1 % 2 ^ 32 := by
  unfold tileWord tileMap
  dsimp only
  rw [toNat_ofNat_packElems _ (by norm_num), elem_packElems _ (by omega),
    show (64 * i + j) / 64 = i by omega, show (64 * i + j) % 64 = j by omega]

theorem tileMap_flags (f : Nat → Nat → ER) : (tileMap f).2 = orFlags ((List.range 4096).map fun n => (f (n / 64) (n % 64)).2) := by
  simp only [tileMap]

theorem getLsbD_tileMap (f : Nat → Nat → ER) (k : Nat) :
    (tileMap f).2.getLsbD k = true ↔ ∃ i j, i < 64 ∧ j < 64 ∧ (f i j).2.getLsbD k = true := by
  rw [tileMap_flags, getLsbD_orFlags_words fun i j => (f i j).2]

/-! ### Merging (R65) -/

theorem mergeMat_none_vstat (f : Flags) (v : Vec) : (mergeMat f none v).vstat = v.vstat ||| f := rfl

theorem mergeMat_none_vidx (f : Flags) (v : Vec) : (mergeMat f none v).vidx = v.vidx := rfl

/-- Flags among which SM is, merged with an index: the index adds none. -/
theorem mergeMat_some_vstat {f : Flags} (hf : f ||| fSM = f) (g : Nat) (v : Vec) : (mergeMat f (some g) v).vstat = v.vstat ||| f := by
  show v.vstat ||| f ||| fSM = v.vstat ||| f
  rw [BitVec.or_assoc, hf]

/-- The index of SM keeps the smaller value. -/
theorem mergeMat_some_vidx (f : Flags) {g : Nat} (hg : g < 2 ^ 64) (v : Vec) :
    (mergeMat f (some g) v).vidx[7] = if g < v.vidx[7].toNat then BitVec.ofNat 64 g else v.vidx[7] := by
  have hto : (BitVec.ofNat 64 g).toNat = g := by rw [BitVec.toNat_ofNat, Nat.mod_eq_of_lt hg]
  by_cases h : g < v.vidx[7].toNat <;> simp [mergeMat, mergeFlags, fSM, hto, h]

/-! ### Completion -/

theorem exec_matrixCompletion {c : Nat} {un : MUnit} {e : MEntry} {s : State} (h : OnUnit s c un e) :
    exec (.matrixCompletion c un) s = .next (focus (completeMat e (focus s c)) s.core.id) := by
  show execMatrixCompletion c un s = _
  unfold execMatrixCompletion onCore
  simp only [h.1]

/-- The marks of the tiles that a command writes are gone (R325). -/
def clearTileMarks (e : MEntry) (s : State) : State :=
  { s with core := { s.core with psnA := s.core.psnA.filter fun p => !((mUse e.instr e.x).tw.contains p.1) } }

/-- The state in which a command has written `o` to tile `t`, merged its flags and left the queue. -/
def tileDone (e : MEntry) (t : Tile) (o : BitVec 131072) (f : Flags) (i : Option Nat) (s : State) : State :=
  let u := clearTileMarks e (setVec (setMat s (setTile s.core.mat t.toNat o)) (mergeMat f i s.core.vec))
  setMat u { u.core.mat with queue := u.core.mat.queue.filter fun x => decide (x.id ≠ e.id) }

/-- The products: the commands that the array works out, each into one tile (R276 to R280). -/
def isProduct : Instr → Bool
  | .mma .. | .mmaq .. | .mmas .. | .mmac .. | .mscale .. => true
  | _ => false

/-- A product carries no poison along. -/
theorem mMovePoison_of_isProduct {e : MEntry} (h : isProduct e.instr = true) (s u : State) : mMovePoison e s u = clearTileMarks e u := by
  unfold isProduct at h
  split at h
  case h_6 => cases h
  all_goals
    next he => simp only [mMovePoison, clearTileMarks, he]

section

variable {s : State} {c : Nat} {un : MUnit} {e : MEntry} {t : Tile} {f : Flags} {i : Option Nat} {o : BitVec 131072}

theorem completeMat_eq_tileDone (hp : mConsumes s s.core e = false) (hprod : isProduct e.instr = true)
    (hrun : mRun e s = (setMat s (setTile s.core.mat t.toNat o), f, i)) : completeMat e s = tileDone e t o f i s := by
  unfold completeMat
  rw [if_neg (by simp [hp]), hrun]
  dsimp only
  rw [mMovePoison_of_isProduct hprod]
  rfl

theorem tileDone_tile (ht : t.toNat < 24) : tileBits (tileDone e t o f i s).core.mat t.toNat = o.toNat := by
  show ((s.core.mat.a.setIfInBounds t.toNat o)[t.toNat]?.getD 0).toNat = o.toNat
  simp [ht]

theorem tileDone_tilesKept : TilesKeptBut [t.toNat] s (tileDone e t o f i s) := by
  intro k hk
  have hne : t.toNat ≠ k.val := fun h => hk (by simp [h])
  show (s.core.mat.a.setIfInBounds t.toNat o)[k.val] = s.core.mat.a[k.val]
  exact Vector.getElem_setIfInBounds_ne _ hne

/-- A product completes: the tile holds its words, its flags are merged, and nothing else that it may not touch has
changed. -/
theorem matDone_tile (ht : t.toNat < 24) (h : OnUnit s c un e) (hprod : isProduct e.instr = true)
    (hrun : mRun e (focus s c) = (setMat (focus s c) (setTile (focus s c).core.mat t.toNat o), f, i)) :
    MatDone s c un e [t.toNat] [] fun u =>
      tileBits u.core.mat t.toNat = o.toNat ∧ u.core.vec = mergeMat f i (focus s c).core.vec := by
  have hexec := exec_matrixCompletion h
  rw [completeMat_eq_tileDone h.2 hprod hrun] at hexec
  have hmem : (tileDone e t o f i (focus s c)).mem = s.mem := focus_mem s c
  refine ⟨tileDone e t o f i (focus s c), hexec, rfl, ⟨tileDone_tile ht, rfl⟩, fun r _ => rfl, tileDone_tilesKept, fun a _ => ?_, ?_⟩
  · unfold byteAt
    rw [hmem]
  · exact ⟨rfl, rfl, rfl, rfl, rfl, rfl, rfl, rfl, rfl⟩

theorem matDone_imp {ts : List Nat} {rs : List (Nat × Nat)} {p q : State → Prop} (h : MatDone s c un e ts rs p) (hpq : ∀ u, p u → q u) :
    MatDone s c un e ts rs q := by
  obtain ⟨u, hexec, hqueue, hp, hrest⟩ := h
  exact ⟨u, hexec, hqueue, hpq u hp, hrest⟩

end

end Sys2Proof.Proofs
end

section
/-! The products of the matrix engine (R276 to R280): what a command reads as its operands, the words of its tile, and its flags. -/

namespace Sys2Proof.Proofs

open Sys2Proof.Machine Sys2Proof.Safety

/-! ### Operands (R268) -/

/-- `n` bytes of the scratchpad share of core `c` at a window address. -/
def padByte (s : State) (c va n : Nat) : Nat := memRead s.mem (padOf s c va) n

/-- The value of element (i, j) of an operand of rows `pitch` bytes apart. -/
def operand (s : State) (c : Nat) (ty : ETy) (base pitch i j : Nat) : FVal :=
  decodeF ty (padByte s c (base + i * pitch + j * (ty.width / 8)) (ty.width / 8))

/-- The number of a metadata entry of MMAS (R277). -/
def metaAt (s : State) (c base n : Nat) : Nat := padByte s c (base + n / 2) 1 / 16 ^ (n % 2) % 16

/-- The FP32 word (i, j) of a tile of core `c`. -/
def tileAt (s : State) (c : Nat) (q : Tile) (i j : Nat) : FVal := decodeF .f32 (tileWord (tileBits (focus s c).core.mat q.toNat) i j)

theorem padByte_lt (s : State) (c va : Nat) : padByte s c va 1 < 256 := memRead_lt s.mem 1 _

theorem padRead_focus (s : State) (c va n : Nat) : padRead (focus s c) (focus s c).core va n = padByte s c va n := by
  unfold padRead padByte padOf State.rd
  rw [focus_id, focus_mem]

theorem opElem_focus {ty : ETy} (h : ty ≠ .q4) (s : State) (c base pitch i j : Nat) :
    opElem (focus s c) (focus s c).core ty base pitch i j = padByte s c (base + i * pitch + j * (ty.width / 8)) (ty.width / 8) := by
  unfold opElem
  rw [if_neg h, padRead_focus]

theorem opElem_focus_q4 (s : State) (c base pitch i j : Nat) :
    opElem (focus s c) (focus s c).core .q4 base pitch i j = padByte s c (base + i * pitch + j / 2) 1 / 16 ^ (j % 2) % 16 := by
  unfold opElem
  rw [if_pos rfl, padRead_focus]

theorem decodeF_opElem_focus {ty : ETy} (h : ty ≠ .q4) (s : State) (c base pitch i j : Nat) :
    decodeF ty (opElem (focus s c) (focus s c).core ty base pitch i j) = operand s c ty base pitch i j := by
  rw [opElem_focus h]
  rfl

theorem metaEntry_focus (s : State) (c base g j : Nat) :
    metaEntry (focus s c) (focus s c).core base g j = metaAt s c base (64 * g + j) := by
  unfold metaEntry
  dsimp only
  rw [padRead_focus]
  rfl

theorem mmaType_spec {ty : ETy} (h : mmaType ty = true) : ty ≠ .q4 ∧ ty.width % 8 = 0 := by
  revert h
  cases ty <;> decide

/-- Elements of whole bytes lie next to one another. -/
theorem elemBytes_of_whole {ty : ETy} (h : ty.width % 8 = 0) (n : Nat) : elemBytes ty n = n * (ty.width / 8) := by
  obtain ⟨w, hw⟩ := Nat.dvd_of_mod_eq_zero h
  unfold elemBytes
  rw [hw, Nat.mul_div_cancel_left w (by decide), Nat.mul_assoc, Nat.mul_comm w]
  omega

/-- A signed integer is read from its pattern. -/
theorem toInt_of_isS {ty : ETy} (h : ty.isS = true) (x : Nat) : toInt ty x = (BitVec.ofNat ty.width x).toInt := by
  have hpow : 2 ^ ty.width = 2 * 2 ^ (ty.width - 1) := by cases ty <;> rfl
  rw [BitVec.toInt_eq_toNat_cond, BitVec.toNat_ofNat, toInt, h, Bool.true_and]
  simp only [decide_eq_true_eq]
  split <;> split <;> omega

/-! ### Tiles of words with flags (R271) -/

/-- Every word of tile `t` is as `f` says, and the flags of `sys.vstat` are those of `s`, those of the words and `more`. -/
def HoldsWords (s : State) (t : Tile) (f : Nat → Nat → ER) (more : Nat → Prop) (u : State) : Prop :=
  (∀ i j, i < 64 → j < 64 → tileWord (tileBits u.core.mat t.toNat) i j = (f i j).1 % 2 ^ 32) ∧
    ∀ k, k < 8 → (u.core.vec.vstat.getLsbD k = true ↔
      s.core.vec.vstat.getLsbD k = true ∨ more k ∨ ∃ i j, i < 64 ∧ j < 64 ∧ (f i j).2.getLsbD k = true)

theorem holdsWords_of_tileMap {s u : State} {t : Tile} {f : Nat → Nat → ER} {more : Nat → Prop} {g : Flags}
    (htile : tileBits u.core.mat t.toNat = (tileMap f).1.toNat) (hstat : u.core.vec.vstat = s.core.vec.vstat ||| ((tileMap f).2 ||| g))
    (hg : ∀ k, k < 8 → (g.getLsbD k = true ↔ more k)) : HoldsWords s t f more u := by
  refine ⟨fun i j hi hj => ?_, fun k hk => ?_⟩
  · rw [htile, tileWord_tileMap f hi hj]
  · rw [hstat, BitVec.getLsbD_or, BitVec.getLsbD_or, Bool.or_eq_true, Bool.or_eq_true, hg k hk, getLsbD_tileMap, or_comm (a := more k)]

section

variable {s : State} {c : Nat} {un : MUnit} {e : MEntry} {t : Tile} {f : Nat → Nat → ER}

/-- A product with the flags of its words and others, `g`. -/
theorem matDone_tileMap {more : Nat → Prop} {g : Flags} (ht : t.toNat < 24) (h : OnUnit s c un e) (hprod : isProduct e.instr = true)
    (hrun : mRun e (focus s c) = (setMat (focus s c) (setTile (focus s c).core.mat t.toNat (tileMap f).1), (tileMap f).2 ||| g, none))
    (hg : ∀ k, k < 8 → (g.getLsbD k = true ↔ more k)) : MatDone s c un e [t.toNat] [] (HoldsWords (focus s c) t f more) :=
  matDone_imp (matDone_tile ht h hprod hrun) fun u ⟨htile, hvec⟩ =>
    holdsWords_of_tileMap htile (by rw [hvec, mergeMat_none_vstat]) hg

/-- A product whose only flags are those of its words. -/
theorem matDone_words (ht : t.toNat < 24) (h : OnUnit s c un e) (hprod : isProduct e.instr = true)
    (hrun : mRun e (focus s c) = (setMat (focus s c) (setTile (focus s c).core.mat t.toNat (tileMap f).1), (tileMap f).2, none)) :
    MatDone s c un e [t.toNat] [] (HoldsWords (focus s c) t f fun _ => False) :=
  matDone_tileMap (g := 0) ht h hprod (by simp [hrun]) fun k _ => by simp

end

/-! ### MMA (R276) -/

/-- The window sums of a product of `k` terms over what a tile holds. -/
def productSum (s : State) (c : Nat) (t : Tile) (k : Nat) (a b : Nat → Nat → FVal) (i j : Nat) : ER :=
  windowSum (tileAt s c t i j :: (List.range k).map fun q => mulTerm (a i q) (b q j))

theorem mmaTile_focus (s : State) (c : Nat) (t : Tile) (k : Nat) (a b : Nat → Nat → FVal) :
    mmaTile (tileBits (focus s c).core.mat t.toNat) k a b = tileMap (productSum s c t k a b) := rfl

/-- MMA's operands: normal or transposed, each at its pitch. -/
def mmaA (s : State) (c : Nat) (ty : ETy) (tr : Bool) (base ld i q : Nat) : FVal :=
  let pitch := if ld % 2 ^ 32 = 0 then (if tr then 64 else mmaK ty) * (ty.width / 8) else ld % 2 ^ 32
  if tr then operand s c ty base pitch q i else operand s c ty base pitch i q

def mmaB (s : State) (c : Nat) (ty : ETy) (tr : Bool) (base ld q j : Nat) : FVal :=
  let pitch := if ld / 2 ^ 32 = 0 then (if tr then mmaK ty else 64) * (ty.width / 8) else ld / 2 ^ 32
  if tr then operand s c ty base pitch j q else operand s c ty base pitch q j

/-- The words of MMA. -/
def mmaWord (s : State) (c : Nat) (t : Tile) (ty : ETy) (ta tb : Bool) (x : List Word) : Nat → Nat → ER :=
  productSum s c t (mmaK ty) (mmaA s c ty ta (x.getD 0 0).toNat (x.getD 2 0).toNat) (mmaB s c ty tb (x.getD 1 0).toNat (x.getD 2 0).toNat)

theorem mmaRun_focus {ty : ETy} (hty : mmaType ty = true) (s : State) (c : Nat) (t : Tile) (ta tb : Bool) (x : List Word) :
    mmaRun (focus s c) (focus s c).core t ty ta tb x = tileMap (mmaWord s c t ty ta tb x) := by
  obtain ⟨hq, hw⟩ := mmaType_spec hty
  unfold mmaRun
  dsimp only
  rw [mmaTile_focus]
  unfold mmaWord mmaA mmaB pitchA pitchB
  simp only [elemBytes_of_whole hw]
  congr 2 <;> funext i j
  · cases ta <;> exact decodeF_opElem_focus hq s c _ _ _ _
  · cases tb <;> exact decodeF_opElem_focus hq s c _ _ _ _

/-! ### MMAS (R277) -/

/-- Element (r, j) of the operand that the metadata spreads: two elements of each group of four, zeros where the entry is illegal. -/
def mmasB (s : State) (c : Nat) (ty : ETy) (base mbase r j : Nat) : FVal :=
  let m := metaAt s c mbase (64 * (r / 4) + j)
  if m % 4 = m / 4 then .fin false 0 0
  else if r % 4 = m % 4 then operand s c ty base (64 * (ty.width / 8)) (2 * (r / 4)) j
  else if r % 4 = m / 4 then operand s c ty base (64 * (ty.width / 8)) (2 * (r / 4) + 1) j
  else .fin false 0 0

/-- The words of MMAS. -/
def mmasWord (s : State) (c : Nat) (t : Tile) (ty : ETy) (x : List Word) : Nat → Nat → ER :=
  productSum s c t (mmaK ty) (operand s c ty (x.getD 0 0).toNat (mmaK ty * (ty.width / 8)))
    (mmasB s c ty (x.getD 1 0).toNat (x.getD 2 0).toNat)

/-- How many metadata entries MMAS has. -/
def metaCount (ty : ETy) : Nat := mmaK ty / 4 * 64

/-- Entry `n` of the metadata of MMAS is illegal. -/
def badEntry (s : State) (c base n : Nat) : Bool := decide (metaAt s c base n % 4 = metaAt s c base n / 4)

theorem not_isEmpty_filter {α : Type} (p : α → Bool) (l : List α) : (!(l.filter p).isEmpty) = (l.find? p).isSome := by
  rw [← List.head?_filter]
  cases l.filter p <;> rfl

/-- The first illegal entry of the first `n`, if there is one. -/
def firstBad (s : State) (c base n : Nat) : Option Nat := (List.range n).find? (badEntry s c base)

/-- SM, if one of the first `n` entries is illegal. -/
def badFlag (s : State) (c base n : Nat) : Flags := fSM.when (firstBad s c base n).isSome

theorem mmasRun_focus {ty : ETy} (hty : mmaType ty = true) (s : State) (c : Nat) (t : Tile) (x : List Word) :
    mmasRun (focus s c) (focus s c).core t ty x = ((tileMap (mmasWord s c t ty x)).1,
      (tileMap (mmasWord s c t ty x)).2 ||| badFlag s c (x.getD 2 0).toNat (metaCount ty), firstBad s c (x.getD 2 0).toNat (metaCount ty)) := by
  obtain ⟨hq, hw⟩ := mmaType_spec hty
  unfold mmasRun
  dsimp only
  simp only [metaEntry_focus, decodeF_opElem_focus hq, elemBytes_of_whole hw, mmaTile_focus, Nat.div_add_mod, not_isEmpty_filter,
    List.head?_filter]
  rfl

theorem firstBad_eq_some {s : State} {c base n k : Nat} :
    firstBad s c base n = some k ↔ k < n ∧ badEntry s c base k = true ∧ ∀ j, j < k → badEntry s c base j = false := by
  unfold firstBad
  rw [List.find?_range_eq_some]
  simp only [List.mem_range, Bool.not_eq_true']
  tauto

theorem firstBad_eq_none {s : State} {c base n : Nat} : firstBad s c base n = none ↔ ∀ k, k < n → badEntry s c base k = false := by
  unfold firstBad
  simp

/-! ### MMAC, MMAQ and MSCALE (R278 to R280) -/

/-- A word of MMAC's source tile, rounded to the type of the product. -/
def mmacConv (s : State) (c : Nat) (env : VEnv) (rm : Rm) (src : Tile) (ty : ETy) (i q : Nat) : ER :=
  cvtFF ty rm (rhoOf env.vseed env.vbase (64 * i + q)) (bitAt env.vtype 7) (tileAt s c src i q)

/-- The words of MMAC. -/
def mmacWord (s : State) (c : Nat) (e : MEntry) (rm : Rm) (t src : Tile) (ty : ETy) : Nat → Nat → ER :=
  productSum s c t 64 (fun i q => decodeF ty (mmacConv s c e.env rm src ty i q).1) (operand s c ty (e.x.getD 0 0).toNat (64 * (ty.width / 8)))

/-- The flags of all conversions of MMAC. -/
def mmacConvFlags (s : State) (c : Nat) (env : VEnv) (rm : Rm) (src : Tile) (ty : ETy) : Flags :=
  orFlags ((List.range 4096).map fun q => (mmacConv s c env rm src ty (q / 64) (q % 64)).2)

theorem mmacRun_focus {ty : ETy} (hty : mmaType ty = true) (s : State) (c : Nat) (e : MEntry) (rm : Rm) (t src : Tile) :
    mmacRun (focus s c) (focus s c).core e rm t src ty = ((tileMap (mmacWord s c e rm t src ty)).1,
      (tileMap (mmacWord s c e rm t src ty)).2 ||| mmacConvFlags s c e.env rm src ty) := by
  obtain ⟨hq, hw⟩ := mmaType_spec hty
  unfold mmacRun
  dsimp only
  simp only [decodeF_opElem_focus hq, elemBytes_of_whole hw, mmaTile_focus]
  rfl

/-- A word of MMAQ's first operand less its row's zero point. -/
def mmaqA (s : State) (c : Nat) (ty : ETy) (g : Grp) (base zbase i q : Nat) : Int :=
  let n := padByte s c (base + i * g.size + q) 1
  if ty = .s8 then (BitVec.ofNat 8 n).toInt else (n : Int) - padByte s c (zbase + i) 1

/-- A word of MMAQ's second operand. -/
def mmaqB (s : State) (c : Nat) (ty : ETy) (base q j : Nat) : Nat :=
  if ty = .q4 then padByte s c (base + q * 32 + j / 2) 1 / 16 ^ (j % 2) % 16 else padByte s c (base + q * 64 + j) 1

/-- A word of MMAQ: the exact sum, or IV for a zero point that no nibble holds. -/
def mmaqWord (s : State) (c : Nat) (ta tb : ETy) (g : Grp) (x : List Word) (i j : Nat) : ER :=
  let z := padByte s c ((x.getD 2 0).toNat + 64 + j) 1
  if tb = .q4 ∧ 15 < z then (0, fIV)
  else (ofInt 32 ((List.range g.size).map fun q => mmaqA s c ta g (x.getD 0 0).toNat (x.getD 2 0).toNat i q *
    ((mmaqB s c tb (x.getD 1 0).toNat q j : Int) - z)).sum, 0)

theorem mmaqA_focus {ta : ETy} (h : ta = .s8 ∨ ta = .q8) (s : State) (c : Nat) (g : Grp) (base zbase i q : Nat) :
    toInt (if ta = .s8 then .s8 else .z8) (opElem (focus s c) (focus s c).core ta base g.size i q) -
      (if ta = .s8 then 0 else (padByte s c (zbase + i) 1 : Int)) = mmaqA s c ta g base zbase i q := by
  unfold mmaqA
  obtain rfl | rfl := h
  · rw [opElem_focus (by decide), if_pos rfl, if_pos rfl, if_pos rfl, toInt_of_isS rfl, Int.sub_zero]
    simp [ETy.width]
  · rw [opElem_focus (by decide), if_neg (by decide), if_neg (by decide), if_neg (by decide)]
    have := padByte_lt s c (base + i * g.size + q)
    simp [toInt, ETy.isS, ETy.width, Nat.mod_eq_of_lt this]

theorem mmaqB_focus {tb : ETy} (h : tb = .q4 ∨ tb = .q8) (s : State) (c base q j : Nat) :
    opElem (focus s c) (focus s c).core tb base (elemBytes tb 64) q j = mmaqB s c tb base q j := by
  obtain rfl | rfl := h
  · exact opElem_focus_q4 s c _ _ _ _
  · rw [opElem_focus (by decide)]
    simp [mmaqB, elemBytes, ETy.width]

theorem mmaqRun_focus {ta tb : ETy} (ha : ta = .s8 ∨ ta = .q8) (hb : tb = .q4 ∨ tb = .q8) (s : State) (c : Nat) (g : Grp) (x : List Word) :
    mmaqRun (focus s c) (focus s c).core ta tb g x = tileMap (mmaqWord s c ta tb g x) := by
  unfold mmaqRun
  dsimp only
  simp only [mmaqA_focus ha, mmaqB_focus hb, padRead_focus]
  rfl

/-- A word of MSCALE: the integer of the source tile times its row's and its column's scale, from the left. -/
def mscaleWord (s : State) (c : Nat) (t src : Tile) (x : List Word) (i j : Nat) : ER :=
  let v := (BitVec.ofNat 32 (tileWord (tileBits (focus s c).core.mat src.toNat) i j)).toInt
  windowSum [tileAt s c t i j,
    mulTerm (mulTerm (.fin (decide (v < 0)) v.natAbs 0) (decodeF .f16 (padByte s c ((x.getD 0 0).toNat + 2 * i) 2)))
      (decodeF .f16 (padByte s c ((x.getD 1 0).toNat + 2 * j) 2))]

theorem mscaleRun_focus (s : State) (c : Nat) (t src : Tile) (x : List Word) :
    mscaleRun (focus s c) (focus s c).core t src x = tileMap (mscaleWord s c t src x) := by
  unfold mscaleRun
  simp only [padRead_focus, toInt_of_isS (ty := .s32) rfl]
  rfl

end Sys2Proof.Proofs
end

section
/-! The products, instruction by instruction. -/

namespace Sys2Proof.Proofs

open Sys2Proof.Machine Sys2Proof.Safety

section

variable {s : State} {c : Nat} {e : MEntry} {t src : Tile} {a b d : SReg} {ty tb : ETy}

theorem mma_words {ta' tb' : Bool} (ht : t.toNat < 24) (h : OnUnit s c .array e) (he : e.instr = .mma t a b ty d ta' tb')
    (hty : mmaType ty = true) :
    MatDone s c .array e [t.toNat] [] (HoldsWords (focus s c) t (mmaWord s c t ty ta' tb' e.x) fun _ => False) :=
  matDone_words ht h (by rw [he]; rfl) (by simp only [mRun, he, mmaRun_focus hty])

theorem mmaq_words {g : Grp} (ht : t.toNat < 24) (h : OnUnit s c .array e) (he : e.instr = .mmaq t a b d ty tb g)
    (hty : ty = .s8 ∨ ty = .q8) (htb : tb = .q4 ∨ tb = .q8) :
    MatDone s c .array e [t.toNat] [] (HoldsWords (focus s c) t (mmaqWord s c ty tb g e.x) fun _ => False) :=
  matDone_words ht h (by rw [he]; rfl) (by simp only [mRun, he, mmaqRun_focus hty htb])

theorem mscale_words (ht : t.toNat < 24) (h : OnUnit s c .array e) (he : e.instr = .mscale t src a b) :
    MatDone s c .array e [t.toNat] [] (HoldsWords (focus s c) t (mscaleWord s c t src e.x) fun _ => False) :=
  matDone_words ht h (by rw [he]; rfl) (by simp only [mRun, he, mscaleRun_focus])

/-- MMAC's flags are those of its words and those of the conversions of its source tile. -/
theorem mmac_words {rm : Rm} (ht : t.toNat < 24) (h : OnUnit s c .array e) (he : e.instr = .mmac rm t src b ty) (hty : mmaType ty = true) :
    MatDone s c .array e [t.toNat] [] (HoldsWords (focus s c) t (mmacWord s c e rm t src ty)
      fun k => ∃ i q, i < 64 ∧ q < 64 ∧ (mmacConv s c e.env rm src ty i q).2.getLsbD k = true) :=
  matDone_tileMap (g := mmacConvFlags s c e.env rm src ty) ht h (by rw [he]; rfl) (by simp only [mRun, he, mmacRun_focus hty]) fun k _ =>
    getLsbD_orFlags_words (fun i q => (mmacConv s c e.env rm src ty i q).2) k

/-! ### MMAS (R277) -/

/-- SM among the flags, where the condition holds. -/
theorem getLsbD_fSM_when (p : Bool) {k : Nat} (hk : k < 8) : (fSM.when p).getLsbD k = true ↔ k = 7 ∧ p = true := by
  have hsm : ∀ k, k < 8 → (fSM.getLsbD k = true ↔ k = 7) := by decide
  cases p
  · simp [Flags.when]
  · simpa [Flags.when] using hsm k hk

theorem firstBad_isSome {n base : Nat} : (firstBad s c base n).isSome = true ↔ ∃ k, k < n ∧ badEntry s c base k = true := by
  simp [firstBad]

/-- The flags of MMAS hold SM already where it has an index. -/
theorem mmas_vstat (n base : Nat) (f : Flags) (v : Vec) :
    (mergeMat (f ||| badFlag s c base n) (firstBad s c base n) v).vstat = v.vstat ||| (f ||| badFlag s c base n) := by
  unfold badFlag
  cases firstBad s c base n with
  | none => exact mergeMat_none_vstat _ _
  | some k => exact mergeMat_some_vstat (by rw [Option.isSome_some, Flags.when, if_pos rfl, BitVec.or_assoc, BitVec.or_self]) k v

theorem metaCount_le (ty : ETy) : metaCount ty ≤ 2 ^ 64 := by
  unfold metaCount mmaK
  split <;> decide

/-- MMAS has a further flag, SM, and its index is that of the first illegal entry. -/
theorem mmas_words (ht : t.toNat < 24) (h : OnUnit s c .array e) (he : e.instr = .mmas t a b d ty) (hty : mmaType ty = true) :
    let base := (e.x.getD 2 0).toNat
    MatDone s c .array e [t.toNat] [] fun u =>
      HoldsWords (focus s c) t (mmasWord s c t ty e.x) (fun q => q = 7 ∧ ∃ n, n < metaCount ty ∧ badEntry s c base n = true) u ∧
      (∀ n, firstBad s c base (metaCount ty) = some n →
        u.core.vec.vidx[7] = if n < (focus s c).core.vec.vidx[7].toNat then BitVec.ofNat 64 n else (focus s c).core.vec.vidx[7]) ∧
      (firstBad s c base (metaCount ty) = none → u.core.vec.vidx = (focus s c).core.vec.vidx) := by
  intro base
  have hrun : mRun e (focus s c) = (setMat (focus s c) (setTile (focus s c).core.mat t.toNat (tileMap (mmasWord s c t ty e.x)).1),
      (tileMap (mmasWord s c t ty e.x)).2 ||| badFlag s c base (metaCount ty), firstBad s c base (metaCount ty)) := by
    simp only [mRun, he, mmasRun_focus hty]
    rfl
  refine matDone_imp (matDone_tile ht h (by rw [he]; rfl) hrun) fun u ⟨htile, hvec⟩ => ⟨?words, fun n hn => ?first, fun hn => ?none⟩
  case words =>
    refine holdsWords_of_tileMap htile (by rw [hvec]; exact mmas_vstat _ _ _ _) fun q hq => ?_
    rw [badFlag, getLsbD_fSM_when _ hq, firstBad_isSome]
  case first =>
    simp only [hvec, hn]
    exact mergeMat_some_vidx _ (Nat.lt_of_lt_of_le (firstBad_eq_some.mp hn).1 (metaCount_le ty)) _
  case none =>
    rw [hvec, hn]
    exact mergeMat_none_vidx _ _

end

/-- Settles O46: what each command computes is a tile of the words that the statement writes out (`mmaRun_focus`, `mmasRun_focus`,
`mmacRun_focus`, `mmaqRun_focus`, `mscaleRun_focus`), and a completed tile holds its words and merges their flags (`holdsWords_of_tileMap`). -/
theorem matrixProducts : Obligations.MatrixProducts := by
  unfold Obligations.MatrixProducts
  intro c e t src a b d ty tb ta' tb' rm g s x word byte w el kk word0 flags results gives ht h
  refine ⟨fun he hty => mma_words ht h he hty, fun he hty htb => mmaq_words ht h he hty htb, fun he hty => ?mmas,
    fun he hty _ => mmac_words ht h he (by obtain rfl | rfl := hty <;> rfl), fun he => mscale_words ht h he⟩
  case mmas =>
    intro ent bad
    have hbad : ∀ n, bad n ↔ n < kk / 4 * 64 ∧ badEntry s c (x 2) n = true := fun n => by
      rw [badEntry, decide_eq_true_eq]
      rfl
    refine matDone_imp (mmas_words ht h he hty) fun u ⟨hwords, hfirst, hnone⟩ => ⟨?_, fun n hn hmin => hfirst n ?_, fun hn => hnone ?_⟩
    · simp only [hbad]
      exact hwords
    · obtain ⟨hlt, hb⟩ := (hbad n).mp hn
      refine firstBad_eq_some.mpr ⟨hlt, hb, fun j hj => ?_⟩
      exact Bool.eq_false_iff.mpr fun hb' => absurd (hmin j ((hbad j).mpr ⟨by omega, hb'⟩)) (by omega)
    · refine firstBad_eq_none.mpr fun k hk => ?_
      exact Bool.eq_false_iff.mpr fun hb => hn k ((hbad k).mpr ⟨hk, hb⟩)

end Sys2Proof.Proofs
end

section
/-! SUPPORT. The canonical form of memory (log entry 5) as a fact that operations hand on: what it is for a state, an outcome, a turn and a
moved element, and the operations that write memory (R72, R95). Every other operation of the machine is made of these. -/

namespace Sys2Proof.Proofs

open Sys2Proof.Machine Sys2Proof.Safety

/-- The canonical form as one fact about a memory. Unlike `MemWf` it does not unfold by itself, so that the lemmas below chain. -/
def Canon (m : List Host.Cell) : Prop := MemWf m

/-- Where an outcome goes on, it goes on with a canonical memory. -/
def OutCanon : Out → Prop
  | .next t => Canon t.mem
  | _ => True

@[simp] theorem outCanon_next {t : State} : OutCanon (.next t) ↔ Canon t.mem := Iff.rfl

/-- Where a core's turn comes to, it comes with a canonical memory. -/
def PrepCanon : Prep → Prop
  | .done s => Canon s.mem
  | .run _ s => Canon s.mem

/-- Where an element of a stream has moved, memory is canonical. -/
def MovedCanon : Moved → Prop
  | .ok _ s => Canon s.mem
  | _ => True

theorem canon_wr {pa n x : Nat} {s : State} (hm : Canon s.mem) : Canon (s.wr pa n x).mem := memWf_wr _ _ _ hm

theorem canon_wrBytes {pa : Nat} {bs : List Byte} {s : State} (hm : Canon s.mem) : Canon (s.wrBytes pa bs).mem := memWf_wrBytes _ _ hm

theorem canon_zeroMem {lo n : Nat} {s : State} (hm : Canon s.mem) : Canon (zeroMem lo n s).mem := memWf_zeroMem _ _ hm

theorem canon_foldl {α : Type} {f : State → α → State} (hf : ∀ t x, Canon t.mem → Canon (f t x).mem) (l : List α) {s : State}
    (hm : Canon s.mem) : Canon (l.foldl f s).mem := by
  induction l generalizing s with
  | nil => exact hm
  | cons x l ih => exact ih (hf _ _ hm)

/-- A fold of an operation that leaves memory alone leaves it alone. -/
theorem foldl_mem {α : Type} {f : State → α → State} (hf : ∀ t x, (f t x).mem = t.mem) (l : List α) (s : State) :
    (l.foldl f s).mem = s.mem := by
  induction l generalizing s with
  | nil => rfl
  | cons x l ih => exact (ih _).trans (hf s x)

/-- An operation that leaves memory alone leaves it alone at another core. -/
theorem onCore_mem_of {c : Nat} {f : State → State} {s : State} (hf : ∀ t, (f t).mem = t.mem) : (onCore c f s).mem = s.mem := by
  rw [onCore_mem, hf, focus_mem]

theorem canon_onCore {c : Nat} {f : State → State} {s : State} (hf : ∀ t, Canon t.mem → Canon (f t).mem) (hm : Canon s.mem) :
    Canon (onCore c f s).mem := by
  rw [onCore_mem]
  exact hf _ (by rwa [focus_mem])

theorem canon_ite {p : Prop} [Decidable p] {s t : State} (hs : Canon s.mem) (ht : Canon t.mem) : Canon (if p then s else t).mem := by
  split <;> assumption

theorem canon_withCore {s : State} {k : Core} (hm : Canon s.mem) : Canon ({ s with core := k } : State).mem := hm

theorem canon_withShoot {s : State} {l : List Shoot} (hm : Canon s.mem) : Canon ({ s with shoot := l } : State).mem := hm

theorem canon_foldl_fst {α β : Type} {f : State × β → α → State × β} (hf : ∀ p x, Canon p.1.mem → Canon (f p x).1.mem)
    (l : List α) {p : State × β} (hm : Canon p.1.mem) : Canon (l.foldl f p).1.mem := by
  induction l generalizing p with
  | nil => exact hm
  | cons x l ih => exact ih (hf _ _ hm)

end Sys2Proof.Proofs
end

section
/-! SUPPORT. What the shared operations, the matrix commands and the streams do to memory (R72, R95): each leaves it alone or keeps
its canonical form. -/

namespace Sys2Proof.Proofs

open Sys2Proof.Machine Sys2Proof.Safety

/-! ### Operations every meaning is written over -/

@[simp] theorem popChoice_mem {s : State} : (popChoice s).2.mem = s.mem := (tlbOnly_popChoice _).mem
@[simp] theorem freeBytes_mem {s : State} {n : Nat} : (freeBytes s n).2.mem = s.mem := rfl
@[simp] theorem goto_mem {s : State} {p : Word} {point : Bool} : (goto s p point).mem = s.mem := rfl

theorem outCanon_done {s : State} (hm : Canon s.mem) : OutCanon (done s) := hm

theorem outCanon_stall {point : Bool} {s : State} (hm : Canon s.mem) : OutCanon (stall point s) := hm

theorem canon_logRecord {r : LogRec} {s : State} (hm : Canon s.mem) : Canon (logRecord r s).mem := by
  unfold logRecord
  grind [canon_wr]

theorem canon_endWithFault {cause : Nat} {epc tval : Word} {s : State} (hm : Canon s.mem) : Canon (endWithFault cause epc tval s).mem := by
  unfold endWithFault
  grind [canon_logRecord, setSeq_mem]

theorem canon_enterTrap {cause : Nat} {epc tval : Word} {s : State} (hm : Canon s.mem) : Canon (enterTrap cause epc tval s).mem := by
  unfold enterTrap
  grind [canon_endWithFault, setSeq_mem]

theorem canon_raise {cause : Nat} {epc tval : Word} {s : State} (hm : Canon s.mem) : Canon (raise cause epc tval s).mem := by
  unfold raise
  grind [setSeq_mem, canon_enterTrap]

theorem outCanon_trapHere {cause : Nat} {tval : Word} {s : State} (hm : Canon s.mem) : OutCanon (trapHere cause tval s) := canon_raise hm

theorem outCanon_illegal {s : State} (hm : Canon s.mem) : OutCanon (illegal s) := outCanon_trapHere hm

theorem outCanon_illegalVal {v : Word} {s : State} (hm : Canon s.mem) : OutCanon (illegalVal v s) := outCanon_trapHere hm

theorem outCanon_privilegeTrap {s : State} (hm : Canon s.mem) : OutCanon (privilegeTrap s) := outCanon_trapHere hm

@[simp] theorem trapReturn_mem {p : Word} {s : State} : (trapReturn p s).mem = s.mem := rfl
@[simp] theorem commitTask_mem {s : State} : (commitTask s).mem = s.mem := rfl
@[simp] theorem send_mem {s : State} {m : OutMsg} : (send s m).mem = s.mem := rfl
@[simp] theorem answer_mem {n : Nat} {s : State} : (answer n s).2.mem = s.mem := by rw [answer_eq]

@[simp] theorem homeRead_mem {pa n : Nat} {s : State} : (homeRead pa n s).2.mem = s.mem := by
  unfold homeRead
  grind [answer_mem, send_mem]

theorem canon_homeWrite {pa n x : Nat} {s : State} (hm : Canon s.mem) : Canon (homeWrite pa n x s).mem := memWf_homeWrite _ _ _ hm

@[simp] theorem translateFor_mem {site : TlbSite} {core : Option Nat} {eff : Region} {p : Path} {a : Acc} {reach : Reach} {va : Word}
    {s : State} : (translateFor site core eff p a reach va s).2.mem = s.mem :=
  (tlbOnly_translateFor _ _ _ _ _ _ _ _).mem

@[simp] theorem translate_mem {site : Nat → TlbSite} {p : Path} {a : Acc} {va : Word}
    {s : State} : (Machine.translate site p a va s).2.mem = s.mem :=
  (tlbOnly_translate _ _ _ _ _).mem

@[simp] theorem transS_mem {a : Acc} {va : Word} {s : State} : (transS a va s).2.mem = s.mem := (tlbOnly_transS _ _ _).mem
@[simp] theorem setBudget_mem {rcb : Nat} {a : Activity} {arb left : Nat} {s : State} : (setBudget rcb a arb left s).mem = s.mem := rfl

@[simp] theorem chargeBudget_mem {r : Region} {a : Activity} {arb n : Nat} {s : State} : (chargeBudget r a arb n s).mem = s.mem := by
  unfold chargeBudget
  grind [setBudget_mem]

@[simp] theorem flushReplies_mem {s : State} : (flushReplies s).mem = s.mem := by
  unfold flushReplies
  grind

@[simp] theorem bumpNum_mem {s : State} : (bumpNum s).mem = s.mem := rfl

theorem canon_sigChange {pa : Nat} {f : Int → Int} {abcode : Nat} {s : State} (hm : Canon s.mem) : Canon (sigChange pa f abcode s).mem :=
  memWf_sigChange _ _ _ hm

theorem canon_sigDec {pa : Nat} {n : Int} {abcode : Nat} {s : State} (hm : Canon s.mem) : Canon (sigDec pa n abcode s).mem :=
  canon_sigChange hm

theorem canon_sigAbort {pa abcode : Nat} {s : State} (hm : Canon s.mem) : Canon (sigAbort pa abcode s).mem := by
  unfold sigAbort
  grind [canon_sigChange]

theorem canon_sigSkip {pa : Nat} {s : State} (hm : Canon s.mem) : Canon (sigSkip pa s).mem := by
  unfold sigSkip
  grind [canon_sigAbort]

theorem canon_addWaiter {pa entry : Nat} {s : State} (hm : Canon s.mem) : Canon (addWaiter pa entry s).mem := by
  unfold addWaiter
  grind [canon_wr]

theorem canon_delWaiter {pa entry : Nat} {s : State} (hm : Canon s.mem) : Canon (delWaiter pa entry s).mem := by
  unfold delWaiter
  exact canon_foldl (by grind [canon_wr]) _ hm

@[simp] theorem remoteAtomic_mem {pa n : Nat} {op : AtomicOp} {s : State} : (remoteAtomic pa n op s).2.mem = s.mem := by
  unfold remoteAtomic
  grind [answer_mem, send_mem]

@[simp] theorem postAtomic_mem {pa : Nat} {op : AtomicOp} {s : State} : (postAtomic pa op s).mem = s.mem := by
  unfold postAtomic
  grind [remoteAtomic_mem]

@[simp] theorem flushPosts_mem {s : State} : (flushPosts s).mem = s.mem := by
  unfold flushPosts
  exact foldl_mem (fun _ _ => postAtomic_mem) _ _

@[simp] theorem tierLost_mem {launch : Nat} {s : State} : (tierLost launch s).mem = s.mem := by
  unfold tierLost
  grind [setFe_mem]

@[simp] theorem dcFill_mem {b : Nat} {s : State} : (dcFill b s).mem = s.mem := rfl
@[simp] theorem dcDrop_mem {s : State} : (dcDrop s).mem = s.mem := rfl
@[simp] theorem dcUpdate_mem {pa : Nat} {s : State} : (dcUpdate pa s).mem = s.mem := rfl

/-! ### Matrix commands -/

@[simp] theorem pushMat_mem {e : MEntry} {s : State} : (pushMat e s).mem = s.mem := rfl

theorem outCanon_dispatchMat {i : Instr} {s : State} (hm : Canon s.mem) : OutCanon (dispatchMat i s) := by
  unfold dispatchMat
  grind [OutCanon, outCanon_trapHere, outCanon_stall, outCanon_done, pushMat_mem]

theorem canon_padWrite {s : State} {k : Core} {va n x : Nat} (hm : Canon s.mem) : Canon (padWrite s k va n x).mem := canon_wr hm

theorem canon_mRun {e : MEntry} {s : State} (hm : Canon s.mem) : Canon (mRun e s).1.mem := by
  unfold mRun
  extract_lets k n tile
  split
  · exact hm
  · exact hm
  · exact hm
  · exact hm
  · exact hm
  · exact hm
  · exact hm
  · exact canon_padWrite hm
  · dsimp only
    split
    · exact canon_padWrite hm
    · split <;> exact hm
  · dsimp only
    split
    all_goals
      refine canon_foldl (fun t i ht => ?_) _ hm
      split
      · exact canon_padWrite ht
      · exact canon_padWrite (canon_padWrite ht)
  · exact canon_foldl (fun _ _ h => canon_padWrite h) _ hm
  · exact canon_foldl (fun _ _ h => canon_padWrite h) _ hm
  · exact canon_foldl (fun _ _ h => canon_padWrite h) _ hm
  · exact canon_foldl_fst (fun _ _ h => canon_padWrite h) _ hm
  · exact canon_foldl_fst (fun _ _ h => canon_padWrite h) _ hm
  · exact hm

@[simp] theorem mMovePoison_mem {e : MEntry} {src s : State} : (mMovePoison e src s).mem = s.mem := by
  unfold mMovePoison
  extract_lets k u pa c s1
  have h1 : s1.mem = s.mem := rfl
  clear_value s1
  split
  · exact h1
  · exact (foldl_mem (fun _ _ => markPoison_mem _ _ _) _ s1).trans h1
  · exact (foldl_mem (fun _ _ => markPoison_mem _ _ _) _ s1).trans h1
  · split
    · exact h1
    · exact h1
  · refine (foldl_mem (fun t i => ?_) _ _).trans ?_
    · dsimp only
      split
      · exact markPoison_mem _ _ _
      · rw [markPoison_mem, markPoison_mem]
    · split <;> exact h1
  · exact h1

/-! ### Streams and descriptors -/

@[simp] theorem setStream_mem {s : State} {t : Stream} : (setStream s t).mem = s.mem := rfl
@[simp] theorem setRing_mem {s : State} {r : Ring} : (setRing s r).mem = s.mem := rfl

@[simp] theorem transC_mem {t : Stream} {a : Acc} {va : Word} {s : State} : (transC t a va s).2.mem = s.mem := by
  unfold transC
  grind [translateFor_mem]

theorem canon_writeC {t : Stream} {va : Word} {n x : Nat} {s : State} (hm : Canon s.mem) : Canon (writeC t va n x s).mem := by
  unfold writeC
  grind [transC_mem, canon_homeWrite, chargeMem_mem]

theorem canon_putStatus {t : Stream} {done cause st : Nat} {s : State} (hm : Canon s.mem) : Canon (putStatus t done cause st s).mem :=
  canon_writeC hm

theorem canon_putRing {t : Stream} {r : Ring} {s : State} (hm : Canon s.mem) : Canon (putRing t r s).mem := canon_writeC hm

theorem canon_deliverElem {t : Stream} {d : Delivery} {n : Nat} {x : Got} {s : State} (hm :
    Canon s.mem) : MovedCanon (deliverElem t d n x s) := by
  unfold deliverElem
  split
  · exact hm
  · refine canon_onCore (fun u hu => ?_) hm
    dsimp only
    split <;> exact hu

theorem canon_writeElem {t : Stream} {pa e : Nat} {x : Got} {s : State} (hm : Canon s.mem) : MovedCanon (writeElem t pa e x s) := by
  unfold writeElem
  grind [MovedCanon, chargeMem_mem, send_mem, canon_wr, markPoison_mem]

theorem canon_moveElem {t : Stream} {n : Nat} {s : State} (hm : Canon s.mem) : MovedCanon (moveElem t n s) := by
  unfold moveElem
  grind [MovedCanon, canon_onCore, setVec_mem, transC_mem, homeRead_mem, chargeMem_mem, canon_deliverElem, canon_writeElem]

theorem canon_moveElems {n : Nat} {t : Stream} {s : State} (hm : Canon s.mem) : Canon (moveElems n t s).1.mem := by
  fun_induction moveElems n t s <;> grind [MovedCanon, canon_moveElem]

@[simp] theorem dropStream_mem {id : Nat} {s : State} : (dropStream id s).mem = s.mem := rfl
@[simp] theorem dropFollow_mem {t : Stream} {s : State} : (dropFollow t s).mem = s.mem := rfl
@[simp] theorem freeFollow_mem {t : Stream} {s : State} : (freeFollow t s).mem = s.mem := rfl

@[simp] theorem endDelivery_mem {t : Stream} {s : State} : (endDelivery t s).mem = s.mem := by
  unfold endDelivery
  split
  · refine onCore_mem_of fun u => ?_
    split <;> rfl
  · rfl

@[simp] theorem unreserve_mem {t : Stream} {s : State} : (unreserve t s).mem = s.mem := by
  unfold unreserve
  grind [setRing_mem]

theorem canon_cancelOne {id : Nat} {s : State} (hm : Canon s.mem) : Canon (cancelOne id s).mem := by
  unfold cancelOne
  grind [canon_putStatus, endDelivery_mem, dropFollow_mem, dropStream_mem, unreserve_mem]

theorem canon_cancelSoon {by_ : Word} {id : Nat} {s : State} (hm : Canon s.mem) : Canon (cancelSoon by_ id s).mem := by
  unfold cancelSoon
  grind [canon_cancelOne, setStream_mem, dropFollow_mem, unreserve_mem]

theorem canon_cancelStreams {by_ : Word} {ids : List Nat} {s : State} (hm : Canon s.mem) : Canon (cancelStreams by_ ids s).mem :=
  canon_foldl (fun _ _ => canon_cancelSoon) _ hm

theorem canon_cancelNow {ids : List Nat} {s : State} (hm : Canon s.mem) : Canon (cancelNow ids s).mem :=
  canon_foldl (fun _ _ => canon_cancelOne) _ hm

@[simp] theorem copyError_mem {t : Stream} {cause : Nat} {tval : Word} {s : State} : (copyError t cause tval s).mem = s.mem := by
  unfold copyError
  grind

theorem canon_stopStream {t : Stream} {n cause : Nat} {tval : Word} {readable : Bool} {s : State} (hm : Canon s.mem) :
    Canon (stopStream t n cause tval readable s).mem := by
  unfold stopStream
  extract_lets s1 later s2
  have h1 : Canon s1.mem := by
    unfold s1
    split
    · exact canon_putStatus hm
    · exact hm
  have h2 : Canon s2.mem := by
    rwa [show s2.mem = _ from endDelivery_mem, dropFollow_mem, dropStream_mem, unreserve_mem]
  rw [copyError_mem]
  exact canon_foldl (fun _ _ h => canon_cancelSoon h) _ h2

theorem takeError_mem {s t : State} {e : CopyError} (h : takeError s = some (e, t)) : t.mem = s.mem := by
  unfold takeError at h
  grind

theorem outCanon_withCopyError {f : State → Out} {s : State} (hf : ∀ t, Canon t.mem → OutCanon (f t)) (hm : Canon s.mem) :
    OutCanon (withCopyError f s) := by
  unfold withCopyError
  grind [takeError_mem, outCanon_stall, outCanon_trapHere]

@[simp] theorem setBind_mem {b : PortBind} {s : State} : (setBind b s).mem = s.mem := rfl

theorem outCanon_placed {mx : Bool} {f : State → Out} {s : State} (hf : ∀ t, Canon t.mem → OutCanon (f t)) (hm : Canon s.mem) :
    OutCanon (placed mx f s) := by
  unfold placed
  grind [OutCanon, outCanon_trapHere]

@[simp] theorem advanceMx_mem {s : State} : (advanceMx s).mem = s.mem := by
  unfold advanceMx
  grind [advance_mem, setSeq_mem]

theorem outCanon_dispatchStream {p : Option Nat} {desc src dst : Word} {tag : Nat} {rg : SReg} {mx : Bool} {s : State} (hm :
    Canon s.mem) : OutCanon (dispatchStream p desc src dst tag rg mx s) := by
  unfold dispatchStream
  grind [OutCanon, outCanon_illegal, outCanon_trapHere, outCanon_stall, commitTask_mem, setRing_mem, advanceMx_mem, pushMat_mem,
    outCanon_done, bumpNum_mem]

@[simp] theorem readDesc_mem {t : Stream} {s : State} : (readDesc t s).2.mem = s.mem := by
  unfold readDesc
  extract_lets go
  have hgo : ∀ acc j, (go acc j).2.mem = acc.2.mem := fun acc j => by
    unfold go
    obtain ⟨e | bs, u⟩ := acc <;> grind [transC_mem, homeRead_mem, chargeMem_mem]
  simp only [List.foldl_cons, List.foldl_nil, hgo]

end Sys2Proof.Proofs
end

section
/-! SUPPORT. What tasks, the front end and the interpreters do to memory: each operation leaves it alone or keeps its canonical form. -/

namespace Sys2Proof.Proofs

open Sys2Proof.Machine Sys2Proof.Safety

/-! ### Ready queues, launches and tasks -/

theorem giveHandle_mem {s t : State} {rcb i : Nat} (h : giveHandle s rcb = some (i, t)) : t.mem = s.mem := by
  unfold giveHandle at h
  grind

theorem canon_putChain {s : State} {l : List Nat} (hm : Canon s.mem) : Canon (putChain s l).mem := by
  fun_induction putChain s l <;> grind [canon_wr]

theorem canon_rqWrite {s : State} {r : Region} {h : Nat} {q : RQ} (hm : Canon s.mem) : Canon (rqWrite s r h q).mem := by
  unfold rqWrite
  exact canon_putChain (canon_putChain (canon_wr (canon_wr (canon_wr (canon_wr (canon_wr (canon_foldl (fun _ _ h => canon_wr h) _ hm)))))))

theorem canon_rqPushBack {s : State} {r : Region} {entry rec_ : Nat} (hm : Canon s.mem) : Canon (rqPushBack s r entry rec_).mem := by
  unfold rqPushBack
  extract_lets q
  split <;> exact canon_rqWrite hm

theorem canon_rqPushFront {s : State} {r : Region} {entry rec_ : Nat} (hm : Canon s.mem) : Canon (rqPushFront s r entry rec_).mem := by
  unfold rqPushFront
  extract_lets q
  split
  · exact canon_rqWrite hm
  · split
    · exact canon_rqWrite hm
    · exact hm

theorem canon_rqTake {s : State} {r : Region} {loc : ItemLoc} (hm : Canon s.mem) : Canon (rqTake s r loc).mem := by
  unfold rqTake
  grind [canon_rqWrite]

theorem canon_placeLaunch {q : LaunchReq} {s : State} (hm : Canon s.mem) : Canon (placeLaunch q s).2.mem := by
  unfold placeLaunch
  split
  · exact hm
  split
  · exact hm
  split
  · exact hm
  split
  · exact hm
  split
  · exact hm
  next s1 hg =>
  split
  · exact hm
  split
  · exact hm
  exact canon_rqPushBack (canon_wr (canon_wr (giveHandle_mem hg ▸ hm)))

@[simp] theorem freshTid_mem {s : State} : (freshTid s).2.mem = s.mem := rfl

@[simp] theorem mem_startTask {r : Region} {rcbx b idx n frame code record : Nat}
    {s : State} : (startTask r rcbx b idx n frame code record s).mem = s.mem :=
  rfl

theorem canon_writeBack {q : Nat} {full : Bool} {s : State} (hm : Canon s.mem) : Canon (writeBack q full s).mem := memWf_writeBack _ _ hm

theorem canon_putCompletion {sig flags status nfault : Nat} {s : State} (hm : Canon s.mem) :
    Canon (putCompletion sig flags status nfault s).mem := by
  unfold putCompletion
  grind [canon_wr]

@[simp] theorem releaseHeld_mem {h : QHold} {s : State} : (releaseHeld h s).mem = s.mem := by
  unfold releaseHeld
  exact foldl_mem (fun t q => setQ_mem _ t) _ s

theorem canon_readPoison {r : Region} {pa : Nat} {s : State} (hm : Canon s.mem) : Canon (readPoison r pa s).mem := canon_logRecord hm

theorem canon_reportLaunch {r : Region} {sig flags st0 nfault : Nat} {s0 : State} (hm : Canon s0.mem) :
    Canon (reportLaunch r sig flags st0 nfault s0).mem := by
  unfold reportLaunch
  grind [canon_readPoison, canon_putCompletion, canon_sigAbort, canon_sigDec]

theorem canon_completeLaunch {b : Nat} {r : Region} {s : State} (hm : Canon s.mem) : Canon (completeLaunch b r s).mem := by
  unfold completeLaunch
  grind [canon_reportLaunch, canon_wr, releaseHeld_mem]

theorem canon_setBlkStatus {b st : Nat} {s : State} (hm : Canon s.mem) : Canon (setBlkStatus b st s).mem := by
  unfold setBlkStatus
  grind [canon_wr]

theorem canon_finishTask {b : Nat} {r : Region} {flags : Nat} {fault : Bool} {s0 : State} (hm : Canon s0.mem) :
    Canon (finishTask b r flags fault s0).mem := by
  unfold finishTask
  grind [canon_setBlkStatus, canon_readPoison, canon_wr, canon_completeLaunch]

theorem canon_freeLatch {pa : Nat} {bump : Bool} {s : State} (hm : Canon s.mem) : Canon (freeLatch pa bump s).mem := by
  unfold freeLatch
  grind [postAtomic_mem, canon_wr]

theorem canon_dropWait {w : LatchWait} {bump : Bool} {s : State} (hm : Canon s.mem) : Canon (dropWait w bump s).mem := by
  unfold dropWait
  grind [canon_freeLatch, postAtomic_mem]

theorem canon_dropWaits {tid : BitVec 31} {bump : Bool} {s : State} (hm : Canon s.mem) : Canon (dropWaits tid bump s).mem :=
  canon_foldl (fun _ _ h => canon_dropWait h) _ hm

theorem canon_freeLatches {bump : Bool} {s : State} (hm : Canon s.mem) : Canon (freeLatches bump s).mem :=
  canon_foldl (fun _ _ h => canon_freeLatch h) _ hm

@[simp] theorem noteSwap_mem {s : State} : (noteSwap s).mem = s.mem := by
  unfold noteSwap
  grind

@[simp] theorem goIdle_mem {s : State} : (goIdle s).mem = s.mem := by
  unfold goIdle
  grind [noteSwap_mem, setSeq_mem]

@[simp] theorem dropHandles_mem {s : State} : (dropHandles s).mem = s.mem := rfl

theorem canon_endCopy {job st : Nat} {s : State} (hm : Canon s.mem) : Canon (endCopy job st s).mem := by
  unfold endCopy
  grind [dropHandles_mem, releaseHeld_mem, canon_reportLaunch]

@[simp] theorem dropPorts_mem {tid : BitVec 31} {s : State} : (dropPorts tid s).mem = s.mem := rfl

theorem canon_discardTask {s : State} (hm : Canon s.mem) : Canon (discardTask s).mem := by
  unfold discardTask
  extract_lets q s1 s2 s3 v0 s4 entry fe s5
  have h2 : Canon s2.mem := canon_dropWaits (canon_freeLatches (canon_cancelNow hm))
  have h3 : Canon s3.mem := by
    rw [show s3 = dropPorts q.tid s2 from rfl, dropPorts_mem]
    exact h2
  clear_value s3
  have h5 : Canon s5.mem := by
    unfold s5
    split <;> exact h3
  clear_value s5 entry
  rw [goIdle_mem]
  exact canon_rqPushFront h5

theorem canon_pushRecord {r : Region} {pa : Nat} {s : State} (hm : Canon s.mem) : Canon (pushRecord r pa s).mem := canon_rqPushBack hm

/-! ### Frame areas and the kill of a domain -/

theorem canon_slotSet {r : Region} {i : Nat} {c : Bool} {s : State} (hm : Canon s.mem) : Canon (slotSet r i c s).mem := canon_wr hm

theorem canon_dropSlotAt {r : Region} {pa : Nat} {s : State} (hm : Canon s.mem) : Canon (dropSlotAt r pa s).mem := by
  unfold dropSlotAt
  grind [canon_slotSet]

@[simp] theorem cancelNear_mem {tid : BitVec 31} {s : State} : (cancelNear tid s).mem = s.mem := rfl
@[simp] theorem cancelFab_mem {tid : BitVec 31} {s : State} : (cancelFab tid s).mem = s.mem := rfl
@[simp] theorem dropUnsent_mem {tid : BitVec 31} {s : State} : (dropUnsent tid s).mem = s.mem := rfl

theorem canon_releaseTask {q : Seq} {s : State} (hm : Canon s.mem) : Canon (releaseTask q s).mem := by
  unfold releaseTask
  rw [dropPorts_mem]
  refine canon_dropWaits (canon_foldl (fun _ _ h => canon_freeLatch h) _ (canon_cancelNow ?_))
  rwa [dropUnsent_mem]

theorem canon_scrubCore {s : State} (hm : Canon s.mem) : Canon (scrubCore s).mem := by
  unfold scrubCore
  grind [canon_releaseTask, canon_zeroMem]

theorem canon_scrubShadow {s : State} (hm : Canon s.mem) : Canon (scrubShadow s).mem := by
  unfold scrubShadow
  grind [canon_zeroMem, canon_releaseTask]

@[simp] theorem freeHeld_mem {b : Nat} {s : State} : (freeHeld b s).mem = s.mem := by
  unfold freeHeld
  grind [noteSwap_mem]

theorem canon_killLaunch {b : Nat} {r : Region} {s : State} (hm : Canon s.mem) : Canon (killLaunch b r s).mem := by
  unfold killLaunch
  extract_lets mine strip s1
  have hstrip : ∀ u, Canon u.mem → Canon (strip u).mem := fun u hu => by
    unfold strip
    split
    · exact canon_rqTake hu
    · exact hu
  have h1 : Canon s1.mem := canon_foldl (fun u _ => hstrip u) _ (by rwa [freeHeld_mem])
  split
  · exact canon_completeLaunch (canon_wr h1)
  · exact h1

theorem canon_killCopies {d : Nat} {s : State} (hm : Canon s.mem) : Canon (killCopies d s).mem :=
  canon_foldl (fun _ _ h => canon_endCopy (canon_cancelNow h)) _ hm

theorem canon_killDomain {d : Nat} {s : State} (hm : Canon s.mem) : Canon (killDomain d s).mem := by
  unfold killDomain
  extract_lets hit running shadowHit shadows spilled blocks s1 s2 s3 s4 s5 s6 s7
  have h1 : Canon s1.mem := canon_foldl (fun _ _ => canon_onCore fun _ => canon_scrubCore) _ hm
  have h2 : Canon s2.mem := canon_foldl (fun _ _ => canon_onCore fun _ => canon_scrubShadow) _ h1
  have h3 : Canon s3.mem := canon_foldl (fun _ _ h => canon_dropSlotAt (canon_releaseTask h)) _ h2
  have h4 : Canon s4.mem := by
    refine canon_foldl (fun u r hu => ?_) _ h3
    split
    · refine canon_foldl (fun z _ hz => ?_) _ hu
      split
      · exact canon_rqTake hz
      · exact hz
    · exact hu
  have h5 : Canon s5.mem := by
    refine canon_foldl (fun u b hu => ?_) _ h4
    split
    · exact canon_killLaunch hu
    · exact hu
  have h6 : Canon s6.mem := canon_killCopies h5
  rw [noteSwap_mem, dropHandles_mem]
  exact canon_logRecord h6

theorem canon_machineCheck {c unit cause addr pc : Nat} {psn : Bool} {s : State} (hm : Canon s.mem) :
    Canon (machineCheck c unit cause addr pc psn s).mem := by
  unfold machineCheck
  grind [canon_killDomain, canon_logRecord]

theorem canon_machineCheck0 {unit at_ addr : Nat} {psn : Bool} {s : State} (hm : Canon s.mem) :
    Canon (machineCheck0 unit at_ addr psn s).mem := by
  unfold machineCheck0
  grind [canon_killDomain, canon_logRecord]

theorem canon_enterViral {s : State} (hm : Canon s.mem) : Canon (enterViral s).mem := canon_logRecord hm

@[simp] theorem dropTlb_mem {tg : ShootTarget} {asn vpage extent : Nat} {s : State} : (dropTlb tg asn vpage extent s).mem = s.mem := rfl
@[simp] theorem dropFrames_mem {lo n : Nat} {s : State} : (dropFrames lo n s).mem = s.mem := rfl

/-! ### Queues, packets and their signals -/

theorem canon_endPacket {q : Nat} {ok : Bool} {hold : Option QHold} {s : State} (hm : Canon s.mem) : Canon (endPacket q ok hold s).mem := by
  unfold endPacket
  grind [canon_writeBack, setQ_mem]

theorem canon_failSignal {p : List Byte} {st : Nat} {s : State} (hm : Canon s.mem) : Canon (failSignal p st s).mem := by
  unfold failSignal
  grind [canon_putCompletion, canon_sigAbort]

theorem canon_failPacket {q st : Nat} {s : State} (hm : Canon s.mem) : Canon (failPacket q st s).mem := by
  unfold failPacket
  grind [canon_endPacket, canon_failSignal]

theorem canon_skipPacket {q : Nat} {s : State} (hm : Canon s.mem) : Canon (skipPacket q s).mem := by
  unfold skipPacket
  grind [canon_sigSkip, canon_putCompletion, canon_endPacket]

@[simp] theorem readSignals_mem {sigs : List Nat} {zero : Bool} {s : State} : (readSignals sigs zero s).2.mem = s.mem := by
  fun_induction readSignals sigs zero s <;> grind [popChoice_mem]

@[simp] theorem evalPass_mem {x : Queue} {sigs : List Nat} {s : State} : (evalPass x sigs s).2.mem = s.mem := by
  unfold evalPass
  grind [readSignals_mem]

theorem canon_waitOn {q : Nat} {sigs : List Nat} {s : State} (hm : Canon s.mem) : Canon (waitOn q sigs s).mem :=
  canon_foldl (fun _ _ h => canon_addWaiter h) _ hm

theorem canon_unwait {q : Nat} {sigs : List Nat} {s : State} (hm : Canon s.mem) : Canon (unwait q sigs s).mem :=
  canon_foldl (fun _ _ h => canon_delWaiter h) _ hm

theorem canon_fePoison {q pa : Nat} {s : State} (hm : Canon s.mem) : Canon (fePoison q pa s).mem := canon_logRecord hm

theorem canon_afterWindow {q : Nat} {was : QState} {s : State} (hm : Canon s.mem) : Canon (afterWindow q was s).mem := canon_writeBack hm

theorem canon_windowError {q code : Nat} {s : State} (hm : Canon s.mem) : Canon (windowError q code s).mem := by
  unfold windowError
  grind [canon_afterWindow, setQ_mem]

theorem canon_inlineWrite {q : Nat} {bs : List Byte} {s : State} (hm : Canon s.mem) : Canon (inlineWrite q bs s).mem := by
  unfold inlineWrite
  grind [canon_afterWindow, setQ_mem, canon_wrBytes]

theorem canon_doTail {q : Nat} {arg : Word} {s : State} (hm : Canon s.mem) : Canon (doTail q arg s).mem := by
  unfold doTail
  grind [canon_windowError, canon_afterWindow, setQ_mem]

theorem canon_doEnable {q : Nat} {s : State} (hm : Canon s.mem) : Canon (doEnable q s).mem := by
  unfold doEnable
  refine canon_ite (canon_windowError hm) <| canon_ite (canon_windowError (canon_fePoison hm)) <| canon_ite (canon_windowError hm) ?_
  split
  · exact canon_windowError (canon_fePoison hm)
  · split
    · exact canon_windowError hm
    · exact canon_afterWindow (by rwa [setQ_mem])

theorem canon_doDisable {q : Nat} {s : State} (hm : Canon s.mem) : Canon (doDisable q s).mem := by
  unfold doDisable
  grind [canon_windowError, canon_afterWindow, setQ_mem, canon_sigAbort, canon_unwait]

theorem canon_doResume {q : Nat} {s : State} (hm : Canon s.mem) : Canon (doResume q s).mem := by
  unfold doResume
  grind [canon_windowError, canon_afterWindow, setQ_mem]

theorem canon_doSwap {q : Nat} {arg : Word} {s : State} (hm : Canon s.mem) : Canon (doSwap q arg s).mem := by
  unfold doSwap
  grind [canon_windowError, canon_fePoison, canon_afterWindow, setQ_mem]

theorem canon_doorbell {q off : Nat} {v : Word} {s : State} (hm : Canon s.mem) : Canon (doorbell q off v s).mem := by
  unfold doorbell
  grind [canon_windowError, canon_doTail, canon_doEnable, canon_doDisable, canon_doResume, canon_doSwap]

theorem canon_appendPacket {q : Nat} {p : List Byte} {s : State} (hm : Canon s.mem) : Canon (appendPacket q p s).mem := by
  unfold appendPacket
  extract_lets x p1 p2 s1 x1 s2
  have h1 : Canon s1.mem := canon_foldl (fun _ _ h => canon_wrBytes h) _ hm
  split
  · exact hm
  · split <;> exact h1

theorem canon_startCopy {desc tag sig rcb : Nat} {s : State} (hm : Canon s.mem) : Canon (startCopy desc tag sig rcb s).2.mem := by
  unfold startCopy
  grind [giveHandle_mem, transC_mem]

/-! ### Context images, saving and arbitration -/

@[simp] theorem carryPoison_mem {src dst n : Nat} {s : State} : (carryPoison src dst n s).mem = s.mem :=
  foldl_mem (fun _ _ => markPoison_mem _ _ _) _ _

@[simp] theorem carryRegs_mem {pa : Nat} {pv pm : List (Nat × Nat)} {s : State} : (carryRegs pa pv pm s).mem = s.mem :=
  (foldl_mem (fun _ _ => markPoison_mem _ _ _) _ _).trans (foldl_mem (fun _ _ => markPoison_mem _ _ _) _ _)

@[simp] theorem carryPar_mem {pa : Nat} {r : Region} {ps : List (Nat × Nat × Bool)} {s : State} : (carryPar pa r ps s).mem = s.mem := by
  unfold carryPar
  refine foldl_mem (fun u p => ?_) _ _
  split
  · rfl
  · split <;> rfl

theorem canon_writeFields {pa : Nat} {fs : List (Nat × Nat × Nat)} {s : State} (hm : Canon s.mem) : Canon (writeFields pa fs s).mem :=
  canon_foldl (fun _ _ h => canon_wr h) _ hm

theorem canon_writeContext {pa c : Nat} {x : Shadow} {s : State} (hm : Canon s.mem) : Canon (writeContext pa c x s).mem := by
  unfold writeContext
  grind [canon_writeFields, canon_zeroMem, carryPoison_mem, carryRegs_mem, carryPar_mem]

theorem canon_placeShares {pa : Nat} {r : Region} {s : State} (hm : Canon s.mem) : Canon (placeShares pa r s).mem := by
  unfold placeShares
  grind [carryPoison_mem, canon_wr, setVec_mem]

theorem canon_startImage {r : Region} {rcbx b pa : Nat} {s : State} (hm : Canon s.mem) : Canon (startImage r rcbx b pa s).mem := by
  unfold startImage
  grind [freshTid_mem, canon_placeShares]

theorem canon_spillImage {s : State} (hm : Canon s.mem) : Canon (spillImage s).mem := by
  unfold spillImage
  grind [carryPar_mem, carryRegs_mem, canon_writeFields, canon_wr]

@[simp] theorem emptyCore_mem {s : State} : (emptyCore s).mem = s.mem := by
  unfold emptyCore
  grind [goIdle_mem]

@[simp] theorem runContext_mem {x : Shadow} {s : State} : (runContext x s).mem = s.mem := rfl

theorem canon_rqRename {s : State} {r : Region} {loc : ItemLoc} {e : Nat} (hm : Canon s.mem) : Canon (rqRename s r loc e).mem := by
  unfold rqRename
  grind [canon_rqWrite]

theorem canon_spillShadow {s t : State} (hm : Canon s.mem) (h : spillShadow s = some t) : Canon t.mem := by
  unfold spillShadow at h
  grind [canon_writeContext, canon_slotSet, canon_rqRename, canon_rqPushFront]

theorem canon_saveTask {s t : State} (hm : Canon s.mem) (h : saveTask s = some t) : Canon t.mem := by
  unfold saveTask at h
  extract_lets +onlyGivenNames q push me at h
  have he : ∀ t, push t = rqPushFront t q.eff (savedRecord q 0) 0 := fun _ => rfl
  have hpush : ∀ t, Canon t.mem → Canon (push t).mem := fun t ht => by
    rw [he]
    exact canon_rqPushFront ht
  clear_value push me
  split at h
  · obtain rfl := Option.some.inj h
    rw [emptyCore_mem]
    exact canon_withCore (hpush s hm)
  · next x _ =>
    split at h
    · obtain rfl := Option.some.inj h
      rw [noteSwap_mem, runContext_mem]
      refine canon_withCore (hpush _ ?_)
      split
      · exact canon_rqTake hm
      · exact hm
    · split at h
      · cases h
      · next s1 hs =>
        obtain rfl := Option.some.inj h
        rw [emptyCore_mem]
        exact canon_withCore (hpush s1 (canon_spillShadow hm hs))

theorem canon_resumeSlot {r : Region} {pa : Nat} {s : State} (hm : Canon s.mem) : Canon (resumeSlot r pa s).mem := by
  unfold resumeSlot
  grind [canon_placeShares, canon_dropSlotAt, dcDrop_mem, runContext_mem, canon_readPoison, setSeq_mem]

@[simp] theorem chargeServed_mem {c : Nat} {h : RcbHandle} {r : Region} {s : State} : (chargeServed c h r s).mem = s.mem := rfl

theorem canon_startGang {r : Region} {h b i e c : Nat} {s : State} (hm : Canon s.mem) : Canon (startGang r h b i e c s).mem := by
  unfold startGang
  refine canon_onCore (fun t ht => ?_) hm
  split
  · exact canon_startImage ht
  · rwa [mem_startTask]

theorem canon_dropItem {r : Region} {loc : ItemLoc} {e pa : Nat} {s : State} (hm : Canon s.mem) : Canon (dropItem r loc e pa s).mem := by
  unfold dropItem
  grind [canon_readPoison, freeHeld_mem, canon_finishTask, canon_wr, canon_rqTake]

theorem canon_takeItem {h : RcbHandle} {r : Region} {loc : ItemLoc} {e : Nat} {s : State} (hm : Canon s.mem) :
    Canon (takeItem h r loc e s).mem := by
  unfold takeItem
  dsimp only
  split
  · grind [canon_rqTake, runContext_mem, canon_resumeSlot, setSeq_mem]
  · split
    · split
      · split
        · split
          · exact hm
          · exact canon_foldl (fun _ _ h => canon_startGang h) _ (canon_wr (canon_rqTake hm))
        · refine canon_startGang ?_
          split
          · exact canon_wr hm
          · exact canon_rqTake (canon_wr hm)
      · exact canon_startGang (canon_rqTake hm)
    · rw [mem_startTask]
      exact canon_rqTake hm

@[simp] theorem shareSpent_mem {r : Region} {c : Nat} {s : State} : (shareSpent r c s).2.mem = s.mem := by
  unfold shareSpent
  grind [popChoice_mem, setBudget_mem]

theorem canon_arbitrate {s : State} (hm : Canon s.mem) : Canon (arbitrate s).mem := by
  unfold arbitrate
  grind [canon_rqTake, canon_killLaunch, shareSpent_mem, canon_dropItem, canon_takeItem, chargeServed_mem]

/-! ### Fetching, placing and barriers -/

theorem canon_feFault {q pa : Nat} {s : State} (hm : Canon s.mem) : Canon (feFault q pa s).mem := by
  unfold feFault
  grind [canon_failPacket, canon_fePoison]

theorem canon_acceptPacket {q : Nat} {p : List Byte} {s : State} (hm : Canon s.mem) : Canon (acceptPacket q p s).mem := by
  unfold acceptPacket
  grind [setQ_mem, canon_skipPacket, canon_feFault, canon_failPacket]

theorem outCanon_execPacketFetch {q : Nat} {s : State} (hm : Canon s.mem) : OutCanon (execPacketFetch q s) := by
  unfold execPacketFetch
  grind [OutCanon, setFe_mem, canon_acceptPacket, setQ_mem]

theorem outCanon_execPacketRefetch {q : Nat} {s : State} (hm : Canon s.mem) : OutCanon (execPacketRefetch q s) := by
  unfold execPacketRefetch
  grind [OutCanon, canon_acceptPacket, setQ_mem]

theorem outCanon_placeFor {q : Nat} {r : LaunchReq} {ok : Nat → State → State} {s : State}
    (hok : ∀ a0 a1, Canon a1.mem → Canon (ok a0 a1).mem) (hm : Canon s.mem) : OutCanon (placeFor q r ok s) := by
  unfold placeFor
  grind [OutCanon, canon_feFault, canon_placeLaunch, canon_failPacket, setQ_mem]

theorem canon_placedEnd {q b : Nat} {s : State} (hm : Canon s.mem) : Canon (placedEnd q b s).mem := canon_endPacket hm

theorem outCanon_placeImage {q : Nat} {r : LaunchReq} {ok : Nat → State → State} {s : State}
    (hok : ∀ a0 a1, Canon a1.mem → Canon (ok a0 a1).mem) (hm : Canon s.mem) : OutCanon (placeImage q r ok s) := by
  unfold placeImage
  grind [OutCanon, canon_failPacket, canon_feFault, outCanon_placeFor]

theorem outCanon_stockLaunch {q : Nat} {s : State} (hm : Canon s.mem) : OutCanon (stockLaunch q s) := by
  unfold stockLaunch
  grind [OutCanon, outCanon_placeFor, canon_placedEnd]

theorem outCanon_stockImage {q : Nat} {s : State} (hm : Canon s.mem) : OutCanon (stockImage q s) := by
  unfold stockImage
  grind [OutCanon, outCanon_placeImage, canon_placedEnd]

theorem outCanon_stockFrame {q : Nat} {s : State} (hm : Canon s.mem) : OutCanon (stockFrame q s) := by
  unfold stockFrame
  grind [OutCanon, canon_endPacket, canon_appendPacket, canon_failPacket, canon_feFault, outCanon_placeFor]

theorem outCanon_execLaunch {q : Nat} {s : State} (hm : Canon s.mem) : OutCanon (execLaunch q s) := by
  unfold execLaunch
  grind [OutCanon, outCanon_stockLaunch]

theorem outCanon_execImage {q : Nat} {s : State} (hm : Canon s.mem) : OutCanon (execImage q s) := by
  unfold execImage
  grind [OutCanon, outCanon_stockImage]

theorem outCanon_execFrame {q : Nat} {s : State} (hm : Canon s.mem) : OutCanon (execFrame q s) := by
  unfold execFrame
  grind [OutCanon, outCanon_stockFrame]

theorem outCanon_execNopPacket {q : Nat} {s : State} (hm : Canon s.mem) : OutCanon (execNopPacket q s) := by
  unfold execNopPacket
  grind [OutCanon, canon_endPacket]

theorem outCanon_execSignal {q : Nat} {s : State} (hm : Canon s.mem) : OutCanon (execSignal q s) := by
  unfold execSignal
  grind [OutCanon, canon_feFault, canon_sigDec, canon_sigChange, canon_endPacket]

theorem canon_stockCopy {q : Nat} {s : State} (hm : Canon s.mem) : Canon (stockCopy q s).mem := by
  unfold stockCopy
  grind [canon_feFault, canon_startCopy, canon_endPacket, canon_failPacket, setQ_mem]

theorem outCanon_execCopy {q : Nat} {s : State} (hm : Canon s.mem) : OutCanon (execCopy q s) := by
  unfold execCopy
  grind [OutCanon, canon_stockCopy]

theorem canon_barrierWait {q : Nat} {pass : Option (List Nat × Bool)} {s : State} (hm : Canon s.mem) :
    Canon (barrierWait q pass s).mem := by
  unfold barrierWait
  grind [canon_endPacket, canon_waitOn, setQ_mem, canon_sigAbort, canon_unwait]

theorem outCanon_execBarrier {q : Nat} {s : State} (hm : Canon s.mem) : OutCanon (execBarrier q s) := by
  unfold execBarrier
  grind [OutCanon, readSignals_mem, canon_feFault, canon_unwait, canon_endPacket, canon_sigDec, canon_sigAbort, canon_barrierWait]

@[simp] theorem putPass_mem {x : Queue} {pass : Option (List Nat × Bool)} {s : State} : (putPass x pass s).mem = s.mem := by
  unfold putPass
  grind [setQ_mem]

theorem canon_heldBarrier {q : Nat} {s : State} (hm : Canon s.mem) : Canon (heldBarrier q s).mem := by
  unfold heldBarrier
  grind [evalPass_mem, canon_unwait, setQ_mem, canon_sigAbort, canon_fePoison, canon_sigDec, putPass_mem]

theorem canon_heldWaitb {q : Nat} {d : BitVec 4} {mask : Nat} {s : State} (hm : Canon s.mem) : Canon (heldWaitb q d mask s).mem := by
  unfold heldWaitb
  grind [setQ_mem, canon_unwait, evalPass_mem, canon_feFault, putPass_mem]

theorem outCanon_execBarrierEvaluation {q : Nat} {s : State} (hm : Canon s.mem) : OutCanon (execBarrierEvaluation q s) := by
  unfold execBarrierEvaluation
  grind [OutCanon, canon_heldBarrier, canon_heldWaitb]

theorem outCanon_execSignalPoll {sig : Nat} {s : State} (hm : Canon s.mem) : OutCanon (execSignalPoll sig s) := by
  unfold execSignalPoll
  extract_lets waits t cores
  have ht : Canon t.mem := by
    refine canon_foldl (fun u q hu => ?_) _ hm
    split
    · exact canon_heldBarrier hu
    · exact canon_heldWaitb hu
    · exact hu
  clear_value t cores
  have h := canon_foldl (f := fun u (k : Core) => onCore k.id (fun w => setSeq w { w.core.seq with stall := false }) u)
    (fun _ _ hu => canon_onCore (fun _ hw => hw) hu) cores ht
  exact h

theorem outCanon_execPlacementResume {q : Nat} {s : State} (hm : Canon s.mem) : OutCanon (execPlacementResume q s) := by
  unfold execPlacementResume
  grind [OutCanon, setQ_mem, outCanon_stockLaunch, outCanon_stockImage, canon_stockCopy, outCanon_stockFrame]

theorem outCanon_execQueueMigration {q itp : Nat} {s : State} (hm : Canon s.mem) : OutCanon (execQueueMigration q itp s) := by
  unfold execQueueMigration
  grind [OutCanon, setQ_mem]

/-! ### Beret instructions -/

theorem outCanon_beretStep {f : Queue → Beret → State → Out} {s : State} (hf : ∀ a0 a1 a2, Canon a2.mem → OutCanon (f a0 a1 a2))
    (hm : Canon s.mem) : OutCanon (beretStep f s) := by
  unfold beretStep
  grind [OutCanon]

@[simp] theorem putCtx_mem {c : Beret} {s : State} : (putCtx c s).mem = s.mem := rfl

theorem outCanon_beretPut {d : BitVec 4} {f : Beret → Word} {s : State} (hm : Canon s.mem) : OutCanon (beretPut d f s) := by
  unfold beretPut
  grind [OutCanon, outCanon_beretStep, putCtx_mem]

theorem outCanon_beretFail {st : Nat} {s : State} (hm : Canon s.mem) : OutCanon (beretFail st s) := canon_failPacket hm

theorem outCanon_execLdpb {d : BitVec 4} {imm : BitVec 15} {s : State} (hm : Canon s.mem) : OutCanon (execLdpb d imm s) := by
  unfold execLdpb
  grind [OutCanon, outCanon_beretStep, outCanon_beretFail, putCtx_mem]

theorem outCanon_execLdqb {d : BitVec 4} {imm : BitVec 15} {s : State} (hm : Canon s.mem) : OutCanon (execLdqb d imm s) := by
  unfold execLdqb
  grind [OutCanon, outCanon_beretStep, putCtx_mem]

theorem outCanon_execStqb {a : BitVec 4} {s : State} (hm : Canon s.mem) : OutCanon (execStqb a s) := by
  unfold execStqb
  grind [OutCanon, outCanon_beretStep, setQ_mem]

theorem outCanon_onSignal {j : Nat} {f : Nat → Beret → State → Out} {s : State}
    (hf : ∀ a0 a1 a2, Canon a2.mem → OutCanon (f a0 a1 a2)) (hm : Canon s.mem) : OutCanon (onSignal j f s) := by
  unfold onSignal
  grind [OutCanon, outCanon_beretStep, outCanon_beretFail, canon_feFault]

theorem outCanon_execSrdb {d : BitVec 4} {imm : BitVec 15} {s : State} (hm : Canon s.mem) : OutCanon (execSrdb d imm s) := by
  unfold execSrdb
  grind [OutCanon, outCanon_onSignal, putCtx_mem]

theorem outCanon_execSdecb {a : BitVec 4} {imm : BitVec 15} {s : State} (hm : Canon s.mem) : OutCanon (execSdecb a imm s) := by
  unfold execSdecb
  grind [OutCanon, outCanon_onSignal, putCtx_mem, canon_sigDec]

theorem outCanon_execSsetb {a : BitVec 4} {imm : BitVec 15} {s : State} (hm : Canon s.mem) : OutCanon (execSsetb a imm s) := by
  unfold execSsetb
  grind [OutCanon, outCanon_onSignal, freeBytes_mem, putCtx_mem, canon_sigChange]

theorem outCanon_execWaitb {d a : BitVec 4} {s : State} (hm : Canon s.mem) : OutCanon (execWaitb d a s) := by
  unfold execWaitb
  grind [OutCanon, outCanon_beretStep, outCanon_beretFail, setQ_mem, canon_waitOn, readSignals_mem, canon_feFault, putCtx_mem]

theorem outCanon_beretPlace {f : Queue → Beret → Nat → Nat → Except Nat LaunchReq} {s : State} (hm : Canon s.mem) :
    OutCanon (beretPlace f s) := by
  unfold beretPlace
  grind [OutCanon, outCanon_beretStep, outCanon_beretFail, setQ_mem, outCanon_placeImage, outCanon_placeFor]

theorem outCanon_execPlaceb {res : Bool} {s : State} (hm : Canon s.mem) : OutCanon (execPlaceb res s) := outCanon_beretPlace hm

theorem outCanon_execImgb {s : State} (hm : Canon s.mem) : OutCanon (execImgb s) := outCanon_beretPlace hm

theorem outCanon_execCopyb {s : State} (hm : Canon s.mem) : OutCanon (execCopyb s) := by
  unfold execCopyb
  grind [OutCanon, outCanon_beretStep, outCanon_beretFail, canon_feFault, canon_startCopy, setQ_mem]

theorem outCanon_beretBranch {cond : Word → Word → Bool} {a b : BitVec 4} {imm : BitVec 15} {s : State} (hm : Canon s.mem) :
    OutCanon (beretBranch cond a b imm s) := by
  unfold beretBranch
  grind [OutCanon, outCanon_beretStep, putCtx_mem]

theorem outCanon_execLoopb {len count : BitVec 7} {s : State} (hm : Canon s.mem) : OutCanon (execLoopb len count s) := by
  unfold execLoopb
  grind [OutCanon, outCanon_beretStep, putCtx_mem]

theorem outCanon_execFwdb {a : BitVec 4} {s : State} (hm : Canon s.mem) : OutCanon (execFwdb a s) := by
  unfold execFwdb
  grind [OutCanon, outCanon_beretStep, putCtx_mem, canon_appendPacket, outCanon_beretFail]

theorem outCanon_beretDone {x : Queue} {st : Nat} {s : State} (hm : Canon s.mem) : OutCanon (beretDone x st s) := by
  unfold beretDone
  grind [OutCanon, canon_endPacket, outCanon_beretFail]

theorem outCanon_execDoneb {a : BitVec 4} {s : State} (hm : Canon s.mem) : OutCanon (execDoneb a s) := by
  unfold execDoneb
  grind [OutCanon, outCanon_beretStep, outCanon_beretDone]

theorem outCanon_execBeretStepLimit {q : Nat} {s : State} (hm : Canon s.mem) : OutCanon (execBeretStepLimit q s) := by
  unfold execBeretStepLimit
  grind [OutCanon, canon_failPacket]

end Sys2Proof.Proofs
end

section
/-! SUPPORT. What the control core and the vector engine do to memory: each operation leaves it alone or keeps its canonical form. -/

namespace Sys2Proof.Proofs

open Sys2Proof.Machine Sys2Proof.Safety

/-! ### Fetching a line and transfers of control -/

@[simp] theorem cacheLine_mem {base line : Nat} {s : State} : (cacheLine base line s).mem = s.mem := rfl

@[simp] theorem fetchLine_mem {base : Nat} {again : Bool} {s : State} : (fetchLine base again s).2.mem = s.mem := by
  unfold fetchLine
  grind [translate_mem, popChoice_mem, cacheLine_mem, homeRead_mem, chargeMem_mem]

@[simp] theorem enterLine_mem {p : Word} {s : State} : (enterLine p s).2.mem = s.mem := by
  unfold enterLine
  grind [fetchLine_mem]

@[simp] theorem markRefetch_mem {p : Word} {s : State} : (markRefetch p s).mem = s.mem := rfl

theorem outCanon_takeTo {s0 s1 : State} {p : Word} (h0 : Canon s0.mem) (h1 : Canon s1.mem) : OutCanon (takeTo s0 s1 p) := by
  unfold takeTo
  grind [OutCanon, goto_mem, outCanon_trapHere, enterLine_mem, setSeq_mem, canon_raise, markRefetch_mem, outCanon_stall]

theorem outCanon_takeAfter {s0 s1 : State} {p : Word} (h0 : Canon s0.mem) (h1 : Canon s1.mem) : OutCanon (takeAfter s0 s1 p) := by
  unfold takeAfter
  grind [OutCanon, outCanon_takeTo, outCanon_trapHere, enterLine_mem, setSeq_mem, canon_raise, markRefetch_mem, outCanon_stall]

@[simp] theorem loopTargetBad_mem {p : Word} {s : State} : (loopTargetBad p s).2.mem = s.mem := by
  unfold loopTargetBad
  grind [enterLine_mem]

theorem canon_issueHead {l : Nat} {s : State} (hm : Canon s.mem) : PrepCanon (issueHead l s) := by
  unfold issueHead
  grind [PrepCanon, canon_raise, setSeq_mem]

theorem canon_prepare {s : State} (hm : Canon s.mem) : PrepCanon (prepare s) := by
  unfold prepare
  grind [PrepCanon, canon_issueHead, enterLine_mem, setSeq_mem, canon_raise, markRefetch_mem]

theorem outCanon_execLineRefetch {c : Nat} {s : State} (hm : Canon s.mem) : OutCanon (execLineRefetch c s) := by
  unfold execLineRefetch
  refine canon_onCore (fun t ht => ?_) hm
  grind [fetchLine_mem, setSeq_mem, canon_machineCheck]

/-! ### Issue to the lanes -/

@[simp] theorem cleanMask_mem {v : Vec} {e : VEntry} {s : State} : (cleanMask v e s).mem = s.mem := by
  unfold cleanMask
  grind

@[simp] theorem runWhole_mem {e : VEntry} {s : State} : (runWhole e s).mem = s.mem := by
  unfold runWhole
  extract_lets v env f act put n
  have hput : ∀ d x, (put d x).mem = s.mem := fun _ _ => rfl
  clear_value put
  split
  case h_7 => exact hput _ _
  all_goals grind [setVec_mem, landS_mem]

@[simp] theorem replayEntry_mem {e : VEntry} {r : List VEntry} {s : State} : (replayEntry e r s).mem = s.mem := rfl

@[simp] theorem cleanDest_mem {e : VEntry} {es : List Nat} {s : State} : (cleanDest e es s).mem = s.mem := by
  unfold cleanDest
  grind

theorem canon_issueLanes {rc : Recheck} {s : State} (hm : Canon s.mem) : Canon (issueLanes rc s).mem := by
  unfold issueLanes
  grind [setVec_mem, canon_machineCheck, replayEntry_mem, cleanDest_mem, cleanMask_mem, runWhole_mem]

/-! ### Near-memory commands translated again -/

@[simp] theorem transRowFor_mem {c : Nat} {r : Region} {a : Acc} {va : Word} {len : Nat}
    {s : State} : (transRowFor c r a va len s).2.mem = s.mem := by
  unfold transRowFor
  grind [translateFor_mem]

theorem transAgain_mem {f : Word → State → Except (Nat × Word) Nat × State} {vas : List Nat} {s : State}
    (hf : ∀ a0 a1, (f a0 a1).2.mem = a1.mem) : (transAgain f vas s).2.mem = s.mem := by
  fun_induction transAgain f vas s <;> grind

theorem orLost_mem {f : Word → State → Except (Nat × Word) Nat × State} {va : Word} {s : State}
    (hf : ∀ a0 a1, (f a0 a1).2.mem = a1.mem) : (orLost f va s).2.mem = s.mem := by
  have h := hf va s
  unfold orLost
  split
  · next hr =>
    rw [hr] at h
    split
    · split <;> exact h
    · exact h
  · exact h

theorem outAgain_mem {c : NearCmd} {a : Acc} {va : Word} {s : State} : (outAgain c a va s).2.mem = s.mem :=
  orLost_mem fun a t => by grind [translateFor_mem]

theorem rowAgain_mem {c : NearCmd} {a : Acc} {va : Word} {s : State} : (rowAgain c a va s).2.mem = s.mem :=
  orLost_mem fun _ _ => transRowFor_mem

@[simp] theorem nearAgain_mem {c : NearCmd} {s : State} : (nearAgain c s).2.mem = s.mem := by
  unfold nearAgain
  grind [transAgain_mem, rowAgain_mem, outAgain_mem]

/-! ### Descriptors read -/

@[simp] theorem openDesc_mem {t : Stream} {s : State} : (openDesc t s).2.mem = s.mem := by
  unfold openDesc
  grind [readDesc_mem]

/-! ### Vector memory -/

@[simp] theorem transPage_mem {i : Instr} {memo : PageMemo} {va : Nat} {s : State} : (transPage i memo va s).2.2.mem = s.mem := by
  unfold transPage
  grind [translateFor_mem]

@[simp] theorem transAll_mem {i : Instr} {l : List (Nat × Nat)} {memo : PageMemo} {s : State} : (transAll i l memo s).2.2.mem = s.mem := by
  fun_induction transAll i l memo s <;> grind [transPage_mem]

@[simp] theorem addFaults_mem {e : VEntry} {bad : List BadAccess} {s : State} : (addFaults e bad s).mem = s.mem := by
  unfold addFaults
  grind [setVec_mem]

@[simp] theorem runVtld_mem {e : VEntry} {a : VSrc} {t : ETy} {s : State} : (runVtld e a t s).mem = s.mem := rfl

@[simp] theorem landAll_mem {l : VLoad} {s : State} : (landAll l s).mem = s.mem := by
  unfold landAll
  extract_lets t f d d2 val idx s0 s1 s2
  have h2 : s2.mem = s.mem := (foldl_mem (fun _ _ => landLoad_mem ..) idx s1).trans (foldl_mem (fun _ _ => landLoad_mem ..) val s0)
  split
  · exact h2
  · exact h2

@[simp] theorem reload_mem {l : VLoad} {s : State} : (reload l s).2.mem = s.mem := by
  unfold reload
  grind [transAll_mem, addFaults_mem]

@[simp] theorem restoreArr_mem {t : VStore} {s : State} : (restoreArr t s).2.mem = s.mem := by
  unfold restoreArr
  grind [transS_mem, addFaults_mem]

@[simp] theorem restoreStore_mem {n : Nat} {s : State} : (restoreStore n s).2.mem = s.mem := by
  unfold restoreStore
  grind [restoreArr_mem, setVec_mem, transAll_mem, addFaults_mem]

@[simp] theorem sellHeader_mem {e : VEntry} {s : State} : (sellHeader e s).2.mem = s.mem := by
  unfold sellHeader
  grind [transPage_mem, chargeAll_mem]

@[simp] theorem startLoad_mem {e : VEntry} {r : List VEntry} {ps : List (Nat × Nat × Phys)} {lim : Nat} {md : Option (MReg × Nat)}
    {s : State} : (startLoad e r ps lim md s).mem = s.mem :=
  rfl

@[simp] theorem endFirstFault_mem {e : VEntry} {x : SReg} {vl : Nat} {shrink : Bool}
    {s : State} : (endFirstFault e x vl shrink s).mem = s.mem := by
  unfold endFirstFault
  grind [landS_mem, setVec_mem]

theorem canon_replayMem {e : VEntry} {q : VQueue} {r : List VEntry} {psn : Bool} {s : State} (hm : Canon s.mem) :
    Canon (replayMem e q r psn s).mem := by
  unfold replayMem
  grind [canon_machineCheck]

theorem canon_issueLoad {s : State} (hm : Canon s.mem) : Canon (issueLoad s).mem := by
  unfold issueLoad
  grind [canon_replayMem, transAll_mem, startLoad_mem, addFaults_mem, cleanDest_mem, runVtld_mem, setVec_mem, endFirstFault_mem,
    sellHeader_mem]

theorem canon_perform {env : VEnv} {kind : DeferKind} {addr n : Nat} {xs : List Nat} {el : Nat} {psn : Bool} {s : State} (hm :
    Canon s.mem) : Canon (perform env kind addr n xs el psn s).mem := by
  unfold perform
  cases kind with
  | put =>
    dsimp only
    split <;> exact canon_wr hm
  | add t =>
    dsimp only
    split <;> exact canon_wr hm
  | table lane => exact hm

theorem canon_issueStore {s : State} (hm : Canon s.mem) : Canon (issueStore s).mem := by
  unfold issueStore
  extract_lets v
  split
  · exact hm
  · next e r _ =>
    split
    · exact hm
    · split
      · exact canon_replayMem hm
      · split
        · exact canon_replayMem hm
        · split
          · exact hm
          · exact hm
          · split
            · exact hm
            · exact canon_foldl (fun _ _ h => canon_perform h) _ hm
          · have ht : (transAll e.instr (memElems v e.env e.instr) [] s).2.2.mem = s.mem := transAll_mem
            generalize transAll e.instr (memElems v e.env e.instr) [] s = x at ht ⊢
            obtain ⟨ok, bad, s1⟩ := x
            dsimp only
            split
            · rw [addFaults_mem]
              exact ht ▸ hm
            · exact ht.symm ▸ hm

theorem canon_performDefers {n : Nat} {l : List Defer} {s : State} (hm : Canon s.mem) : Canon (performDefers n l s).mem := by
  fun_induction performDefers n l s <;> grind [canon_perform, chargeAll_mem, setVec_mem]

theorem canon_runDefers {n : Nat} {s : State} (hm : Canon s.mem) : Canon (runDefers n s).mem := by
  unfold runDefers
  grind [restoreStore_mem, canon_performDefers]

theorem canon_arrive {pa : Nat} {s : State} (hm : Canon s.mem) : Canon (arrive pa s).mem := by
  unfold arrive
  grind [send_mem, canon_sigDec]

theorem canon_completeStore {n : Nat} {s : State} (hm : Canon s.mem) : Canon (completeStore n s).mem := by
  have hr : (restoreStore n s).2.mem = s.mem := restoreStore_mem
  unfold completeStore
  generalize restoreStore n s = r at hr ⊢
  obtain ⟨b, s1⟩ := r
  have h1 : Canon s1.mem := hr ▸ hm
  cases b with
  | false => exact h1
  | true =>
    refine canon_performDefers ?_
    split
    · exact h1
    · split
      · extract_lets v u
        have hu : Canon u.mem := by
          rw [show u = chargeAll _ _ _ from rfl, chargeAll_mem]
          exact h1
        clear_value u
        split
        · split
          · rwa [addFaults_mem]
          · exact canon_arrive hu
        · rw [coverPoison_mem]
          exact canon_foldl (fun _ _ h => canon_perform h) _ hu
      · exact h1

@[simp] theorem completeLoad_mem {n : Nat} {s : State} : (completeLoad n s).mem = s.mem := by
  unfold completeLoad
  grind [reload_mem, setVec_mem, landAll_mem, chargeAll_mem]

/-! ### Mitts, settle faults and memory faults -/

theorem canon_flushDefers {s : State} (hm : Canon s.mem) : Canon (flushDefers s).mem := canon_foldl (fun _ _ h => canon_runDefers h) _ hm

@[simp] theorem chargeMitt_mem {s : State} : (chargeMitt s).mem = s.mem := by
  unfold chargeMitt
  grind [freeBytes_mem, chargeBudget_mem]

theorem canon_mittFill {rc : Recheck} {s : State} (hm : Canon s.mem) : Canon (mittFill rc s).mem := by
  unfold mittFill
  grind [setVec_mem, canon_machineCheck, chargeMitt_mem, canon_flushDefers]

theorem canon_takeFrame {kind cause : Nat} {recs : List FrameRec} {rpc : Word} {tval : Nat → Word} {pre : State → State}
    {lost : State → State} {s : State} (hpre : ∀ t, Canon t.mem → Canon (pre t).mem)
    (hlost : ∀ t, Canon t.mem → Canon (lost t).mem) (hm : Canon s.mem) : Canon (takeFrame kind cause recs rpc tval pre lost s).mem := by
  unfold takeFrame
  extract_lets q hdr
  split
  · exact hlost _ hm
  · extract_lets pa s1 s2 view
    have h1 : Canon s1.mem := canon_wr (canon_slotSet hm)
    have h2 : Canon s2.mem := by
      refine canon_foldl (fun t j ht => ?_) _ h1
      split
      · exact canon_wr ht
      · exact ht
    exact canon_enterTrap (hpre _ h2)

theorem canon_settleFault {ids : List Nat} {s : State} (hm : Canon s.mem) : Canon (settleFault ids s).mem := by
  unfold settleFault
  extract_lets q
  split
  · exact canon_endWithFault hm
  · generalize deliverHoles s.core.vec.holes.length ids s.core.vec = r
    obtain ⟨v, recs⟩ := r
    exact canon_takeFrame (fun _ h => h) (fun _ h => h) (canon_flushDefers hm)

theorem outCanon_settleOver {c : Cover} {point : Bool} {f : State → Out} {s : State} (hf : ∀ t, Canon t.mem → OutCanon (f t))
    (hm : Canon s.mem) : OutCanon (settleOver c point f s) := by
  unfold settleOver
  grind [OutCanon, setVec_mem, canon_settleFault, outCanon_stall]

@[simp] theorem carryOff_mem {pa : Nat} {s : State} : (carryOff pa s).mem = s.mem := rfl

theorem canon_memoryFault {s : State} (hm : Canon s.mem) : Canon (memoryFault s).mem := by
  unfold memoryFault
  grind [setVec_mem, canon_endWithFault, canon_takeFrame, carryOff_mem]

@[simp] theorem restoreEngine_mem {pa : Nat} {s : State} : (restoreEngine pa s).mem = s.mem := by
  unfold restoreEngine
  grind [setSeq_mem, setVec_mem]

/-! ### Pre-emption, saving and discarding -/

theorem canon_stopTask {s : State} (hm : Canon s.mem) : Canon (stopTask s).mem := by
  unfold stopTask
  grind [setMat_mem, setVec_mem, canon_cancelStreams, cancelFab_mem]

theorem canon_tryDiscard {s : State} (hm : Canon s.mem) : Canon (tryDiscard s).mem := by
  have h : Canon (discardTask (cancelNear s.core.seq.tid s)).mem := canon_discardTask (by rwa [cancelNear_mem])
  unfold tryDiscard
  split
  · exact canon_withShoot h
  · exact hm

theorem canon_askPreempt {s : State} (hm : Canon s.mem) : Canon (askPreempt s).mem := by
  unfold askPreempt
  grind [setSeq_mem, canon_tryDiscard, canon_stopTask]

@[simp] theorem hold_mem {point : Bool} {s : State} : (hold point s).mem = s.mem := rfl

theorem canon_turn {s : State} (hm : Canon s.mem) : PrepCanon (turn s) := by
  unfold turn
  grind [PrepCanon, canon_prepare, canon_tryDiscard, canon_stopTask, canon_memoryFault, hold_mem]

@[simp] theorem keepRunning_mem {s : State} : (keepRunning s).mem = s.mem := by
  unfold keepRunning
  grind [setSeq_mem, outCanon_stall]

theorem outCanon_execTaskSave {c : Nat} {s : State} (hm : Canon s.mem) : OutCanon (execTaskSave c s) := by
  unfold execTaskSave
  refine canon_onCore (fun t ht => ?_) hm
  split
  · cases hs : saveTask t with
    | none => exact keepRunning_mem.symm ▸ ht
    | some u => exact canon_saveTask ht hs
  · exact ht

theorem outCanon_execContextSpill {c : Nat} {s : State} (hm : Canon s.mem) : OutCanon (execContextSpill c s) := by
  unfold execContextSpill
  refine canon_onCore (fun t ht => ?_) hm
  split
  · cases hs : spillShadow t with
    | none => exact ht
    | some u => exact canon_spillShadow ht hs
  · exact ht

theorem outCanon_execReadyQueueArbitration {c : Nat} {s : State} (hm : Canon s.mem) : OutCanon (execReadyQueueArbitration c s) := by
  unfold execReadyQueueArbitration
  grind [OutCanon, canon_onCore, canon_arbitrate]

theorem outCanon_execPreemptionRequest {k : Nat} {s : State} (hm : Canon s.mem) : OutCanon (execPreemptionRequest k s) := by
  unfold execPreemptionRequest
  grind [OutCanon, canon_onCore, canon_askPreempt]

theorem outCanon_execBudgetPeriod {rcb : Nat} {act : Activity} {arb : Nat} {s : State} (hm : Canon s.mem) :
    OutCanon (execBudgetPeriod rcb act arb s) :=
  hm

/-! ### Scalar memory and atomics -/

@[simp] theorem cacheRead_mem {p : Phys} {n : Nat} {s : State} : (cacheRead p n s).2.mem = s.mem := by
  unfold cacheRead
  grind [popChoice_mem]

@[simp] theorem fillRead_mem {p : Phys} {n : Nat} {s : State} : (fillRead p n s).2.mem = s.mem := by
  unfold fillRead
  grind [dcFill_mem]

@[simp] theorem readCached_mem {p : Phys} {n : Nat} {s : State} : (readCached p n s).2.mem = s.mem := by
  unfold readCached
  grind [cacheRead_mem, fillRead_mem]

@[simp] theorem awaitReturn_mem {r : ReturnSlot} {s : State} : (awaitReturn r s).mem = s.mem := rfl

theorem outCanon_askFar {d : SReg} {ty : ETy} {va : Word} {pa vc : Nat} {commits : Bool} {m : OutMsg} {s : State} (hm :
    Canon s.mem) : OutCanon (askFar d ty va pa vc commits m s) := by
  unfold askFar
  grind [OutCanon, popChoice_mem, outCanon_trapHere, send_mem, commitTask_mem, outCanon_done, awaitReturn_mem]

@[simp] theorem setFlight_mem {fl : Option Flight} {s : State} : (setFlight fl s).mem = s.mem := rfl

theorem outCanon_crossTo {p : Phys} {n : Nat} {held : Option Bool} {f : State → Out} {s : State}
    (hf : ∀ t, Canon t.mem → OutCanon (f t)) (hm : Canon s.mem) : OutCanon (crossTo p n held f s) := by
  unfold crossTo
  grind [OutCanon, outCanon_stall, chargeMem_mem, popChoice_mem, setFlight_mem]

theorem outCanon_lostTrap {va : Word} {s : State} (hm : Canon s.mem) : OutCanon (lostTrap va s) := by
  unfold lostTrap
  grind [OutCanon, outCanon_stall, outCanon_trapHere, tierLost_mem, setFlight_mem]

theorem outCanon_reachS {a : Acc} {va : Word} {n : Nat} {held : Nat → State → Option Bool} {f : Phys → State → Out} {s : State}
    (hf : ∀ a0 a1, Canon a1.mem → OutCanon (f a0 a1)) (hm : Canon s.mem) : OutCanon (reachS a va n held f s) := by
  unfold reachS
  grind [OutCanon, outCanon_lostTrap, setFlight_mem, outCanon_stall, transS_mem, outCanon_trapHere, outCanon_crossTo]

theorem outCanon_reachPoint {a : Acc} {va : Word} {n : Nat} {held : Nat → State → Option Bool} {f : Phys → State → Out} {s : State}
    (hf : ∀ a0 a1, Canon a1.mem → OutCanon (f a0 a1)) (hm : Canon s.mem) : OutCanon (reachPoint a va n held f s) := by
  unfold reachPoint
  grind [OutCanon, outCanon_stall, outCanon_reachS]

theorem outCanon_readHere {ty : ETy} {d : SReg} {a : Word} {p : Phys} {s : State} (hm : Canon s.mem) : OutCanon (readHere ty d a p s) := by
  unfold readHere
  grind [OutCanon, outCanon_trapHere, popChoice_mem, outCanon_done, awaitReturn_mem, fillRead_mem, bumpNum_mem, setS_mem]

theorem outCanon_execLd {ty : ETy} {d b : SReg} {disp : BitVec 22} {s : State} (hm : Canon s.mem) : OutCanon (execLd ty d b disp s) := by
  unfold execLd
  grind [OutCanon, outCanon_trapHere, outCanon_lostTrap, outCanon_readHere, setFlight_mem, outCanon_stall, transS_mem, cacheRead_mem,
    outCanon_done, bumpNum_mem, setS_mem, outCanon_crossTo, outCanon_askFar]

@[simp] theorem transStore_mem {n : Nat} {a : Word} {s : State} : (transStore n a s).2.mem = s.mem := by
  unfold transStore
  grind [translateFor_mem]

theorem canon_postFar {va : Word} {pa n x : Nat} {s : State} (hm : Canon s.mem) : Canon (postFar va pa n x s).mem := hm

theorem canon_lostWrite {pa n : Nat} {s : State} (hm : Canon s.mem) : Canon (lostWrite pa n s).mem := by
  unfold lostWrite
  grind [freeBytes_mem, tierLost_mem, setFlight_mem, dcUpdate_mem, canon_wr]

theorem outCanon_storeHome {va : Word} {p : Phys} {n x : Nat} {f : State → State} {t : State}
    (hf : ∀ t, Canon t.mem → Canon (f t).mem) (hm : Canon t.mem) : OutCanon (storeHome va p n x f t) := by
  unfold storeHome
  grind [OutCanon, outCanon_done, canon_postFar, bumpNum_mem, dcUpdate_mem, canon_wr]

theorem outCanon_execSt {ty : ETy} {a b : SReg} {disp : BitVec 22} {s : State} (hm : Canon s.mem) : OutCanon (execSt ty a b disp s) := by
  unfold execSt
  grind [OutCanon, outCanon_done, bumpNum_mem, canon_doorbell, outCanon_storeHome, outCanon_trapHere, canon_lostWrite, setFlight_mem,
    outCanon_stall, transStore_mem, outCanon_crossTo]

theorem outCanon_atomicAt {d : SReg} {w64 : Bool} {a : Word} {op : AtomicOp} {s : State} (hm : Canon s.mem) :
    OutCanon (atomicAt d w64 a op s) := by
  unfold atomicAt
  grind [OutCanon, outCanon_trapHere, outCanon_reachS, outCanon_askFar, commitTask_mem, canon_wr, outCanon_done, bumpNum_mem, setS_mem,
    dcUpdate_mem]

theorem outCanon_execCas {d b e n : SReg} {_sc : Scope} {w64 : Bool} {disp : BitVec 16} {s : State} (hm : Canon s.mem) :
    OutCanon (execCas d b e n _sc w64 disp s) :=
  outCanon_atomicAt hm

theorem outCanon_execScalarDataReturn {c : Nat} {v : Word} {s : State} (hm : Canon s.mem) : OutCanon (execScalarDataReturn c v s) := by
  unfold execScalarDataReturn
  grind [OutCanon, canon_onCore, setSeq_mem, setS_mem]

/-! ### Dispatch of vector instructions -/

@[simp] theorem enqueue_mem {i : Instr} {f : VForm} {x y : Word} {pa : Nat} {s : State} : (enqueue i f x y pa s).mem = s.mem := rfl

theorem outCanon_vDispatch {i : Instr} {s : State} (hm : Canon s.mem) : OutCanon (vDispatch i s) := by
  unfold vDispatch
  grind [OutCanon, outCanon_stall, outCanon_trapHere, outCanon_done, enqueue_mem]

theorem outCanon_vDispatchArr {b : SReg} {sc : Scope} {s : State} (hm : Canon s.mem) : OutCanon (vDispatchArr b sc s) := by
  unfold vDispatchArr
  grind [OutCanon, outCanon_stall, outCanon_trapHere, transS_mem, outCanon_done, enqueue_mem, commitTask_mem]

@[simp] theorem takeSeqn_mem {i : Instr} {s : State} : (takeSeqn i s).mem = s.mem := rfl

theorem outCanon_marked {f : State → Out} {s : State} (hf : ∀ t, Canon t.mem → OutCanon (f t)) (hm : Canon s.mem) :
    OutCanon (marked f s) := by
  unfold marked
  grind [OutCanon, outCanon_stall]

/-! ### Latches, fences, records, signals and END -/

theorem outCanon_withLatch {acq : Bool} {a : SReg} {ask : State → LatchView → Option AtomicOp} {f : Nat → LatchView → State → Out}
    {s : State} (hf : ∀ a0 a1 a2, Canon a2.mem → OutCanon (f a0 a1 a2)) (hm : Canon s.mem) : OutCanon (withLatch acq a ask f s) := by
  unfold withLatch
  grind [OutCanon, outCanon_trapHere, outCanon_reachPoint, outCanon_reachS, answer_mem, homeRead_mem, outCanon_stall, chargeAll_mem,
    send_mem]

@[simp] theorem dcDropIn_mem {rs : List (Nat × Nat)} {s : State} : (dcDropIn rs s).mem = s.mem := rfl

theorem canon_takeLatch {pa : Nat} {va : Word} {rs : List (Nat × Nat)} {s : State} (hm : Canon s.mem) :
    Canon (takeLatch pa va rs s).mem := by
  unfold takeLatch
  grind [canon_wr, setSeq_mem, dcUpdate_mem, dcDropIn_mem]

theorem outCanon_execAcq {a : SReg} {_sc : Scope} {s : State} (hm : Canon s.mem) : OutCanon (execAcq a _sc s) := by
  unfold execAcq
  grind [OutCanon, outCanon_withLatch, outCanon_done, bumpNum_mem, canon_takeLatch, outCanon_stall, outCanon_trapHere]

theorem outCanon_execTryacq {d a : SReg} {_sc : Scope} {s : State} (hm : Canon s.mem) : OutCanon (execTryacq d a _sc s) := by
  unfold execTryacq
  grind [OutCanon, outCanon_withLatch, outCanon_done, bumpNum_mem, setS_mem, dcUpdate_mem, outCanon_trapHere, canon_takeLatch]

theorem outCanon_execRel {a : SReg} {_sc : Scope} {s : State} (hm : Canon s.mem) : OutCanon (execRel a _sc s) := by
  unfold execRel
  grind [OutCanon, outCanon_withLatch, outCanon_trapHere, outCanon_stall, commitTask_mem, canon_freeLatch, setSeq_mem, outCanon_done,
    bumpNum_mem, dcUpdate_mem]

theorem outCanon_execLatchGrant {pa : Nat} {s : State} (hm : Canon s.mem) : OutCanon (execLatchGrant pa s) := by
  unfold execLatchGrant
  split
  · exact hm
  · split
    · exact hm
    · split
      · exact hm
      · extract_lets s2 s3
        have h2 : Canon s2.mem := by
          unfold s2
          split
          · exact hm
          · exact canon_wr hm
        refine canon_onCore (fun t ht => ?_) h2
        split <;> exact ht

@[simp] theorem prunePoints_mem {s : State} : (prunePoints s).mem = s.mem := rfl

theorem outCanon_execXfence {p q : Path} {s : State} (hm : Canon s.mem) : OutCanon (execXfence p q s) := by
  unfold execXfence
  grind [OutCanon, outCanon_illegal, prunePoints_mem, outCanon_done, bumpNum_mem, setVec_mem, outCanon_withCopyError]

theorem outCanon_execFence {sc : Scope} {s : State} (hm : Canon s.mem) : OutCanon (execFence sc s) := by
  unfold execFence
  grind [OutCanon, outCanon_stall, outCanon_done, bumpNum_mem, dcDrop_mem]

theorem outCanon_execWaitc {l st c t : BitVec 4} {s : State} (hm : Canon s.mem) : OutCanon (execWaitc l st c t s) := by
  unfold execWaitc
  grind [OutCanon, outCanon_done, outCanon_stall, outCanon_withCopyError]

theorem outCanon_withRecord {a : SReg} {f : Word → Nat → State → Out} {s : State}
    (hf : ∀ a0 a1 a2, Canon a2.mem → OutCanon (f a0 a1 a2)) (hm : Canon s.mem) : OutCanon (withRecord a f s) := by
  unfold withRecord
  grind [OutCanon, outCanon_trapHere, outCanon_stall, outCanon_reachS]

theorem outCanon_execSpawn {a : SReg} {s : State} (hm : Canon s.mem) : OutCanon (execSpawn a s) := by
  unfold execSpawn
  grind [OutCanon, outCanon_withRecord, outCanon_trapHere, commitTask_mem, canon_wr, canon_pushRecord, outCanon_done, bumpNum_mem,
    dcUpdate_mem]

theorem outCanon_execJoin {a : SReg} {s : State} (hm : Canon s.mem) : OutCanon (execJoin a s) := by
  unfold execJoin
  grind [OutCanon, outCanon_withRecord, outCanon_trapHere, commitTask_mem, canon_wr, canon_pushRecord, outCanon_done, bumpNum_mem,
    dcUpdate_mem]

theorem outCanon_execYield {s : State} (hm : Canon s.mem) : OutCanon (execYield s) := by
  unfold execYield
  grind [OutCanon, advance_mem, setSeq_mem, canon_askPreempt, outCanon_done]

theorem outCanon_execWmpub {w : BitVec 3} {a : SReg} {s : State} (hm : Canon s.mem) : OutCanon (execWmpub w a s) := by
  unfold execWmpub
  grind [OutCanon, outCanon_illegal, outCanon_stall, outCanon_trapHere, chargeMem_mem, outCanon_done, bumpNum_mem, dcUpdate_mem, canon_wr]

theorem outCanon_withSignal {wait : Bool} {a : SReg} {held : Nat → State → Option Bool} {f : Nat → State → Out} {s : State}
    (hf : ∀ a0 a1, Canon a1.mem → OutCanon (f a0 a1)) (hm : Canon s.mem) : OutCanon (withSignal wait a held f s) := by
  unfold withSignal
  grind [OutCanon, outCanon_trapHere, outCanon_reachPoint, outCanon_reachS]

theorem outCanon_execSigdec {a : SReg} {_sc : Scope} {count : BitVec 24} {s : State} (hm : Canon s.mem) :
    OutCanon (execSigdec a _sc count s) := by
  unfold execSigdec
  grind [OutCanon, outCanon_withSignal, outCanon_askFar, outCanon_done, bumpNum_mem, dcUpdate_mem, canon_sigDec, commitTask_mem]

theorem outCanon_execSigwait {a : SReg} {_sc : Scope} {s : State} (hm : Canon s.mem) : OutCanon (execSigwait a _sc s) := by
  unfold execSigwait
  grind [OutCanon, outCanon_withSignal, homeRead_mem, commitTask_mem, outCanon_trapHere, dcUpdate_mem, canon_delWaiter, outCanon_done,
    bumpNum_mem, setSeq_mem, canon_addWaiter, outCanon_stall]

theorem outCanon_execSigwaitWake {c : Nat} {s : State} (hm : Canon s.mem) : OutCanon (execSigwaitWake c s) := by
  unfold execSigwaitWake
  refine canon_onCore (fun t ht => ?_) hm
  grind [setSeq_mem]

theorem canon_dropSlots {tid : BitVec 31} {r : Region} {s : State} (hm : Canon s.mem) : Canon (dropSlots tid r s).mem :=
  canon_foldl (fun _ _ h => canon_dropSlotAt h) _ hm

theorem outCanon_execEndTask {s : State} (hm : Canon s.mem) : OutCanon (execEndTask s) := by
  unfold execEndTask
  grind [OutCanon, canon_dropSlots, setSeq_mem, outCanon_stall, outCanon_withCopyError, outCanon_settleOver]

theorem canon_endLosses {s : State} (hm : Canon s.mem) : Canon (endLosses s).mem := by
  unfold endLosses
  extract_lets q lost s1 s2
  have h1 : Canon s1.mem := by
    unfold s1
    split
    · exact canon_setBlkStatus (canon_logRecord hm)
    · exact hm
  exact canon_foldl (fun _ _ h => canon_setBlkStatus h) _ h1

@[simp] theorem dropLosses_mem {b : Nat} {s : State} : (dropLosses b s).mem = s.mem := by
  unfold dropLosses
  grind [setFe_mem]

@[simp] theorem leaveCore_mem {s : State} : (leaveCore s).mem = s.mem := by
  unfold leaveCore
  grind [goIdle_mem, setMat_mem, setVec_mem]

theorem canon_endDone {fault : Bool} {s : State} (hm : Canon s.mem) : Canon (endDone fault s).mem := by
  unfold endDone
  grind [canon_dropWaits, canon_freeLatches, canon_endLosses, canon_spillImage, canon_dropSlots, dropPorts_mem, dropHandles_mem,
    leaveCore_mem, dropLosses_mem, canon_finishTask]

@[simp] theorem dropFaulting_mem {s : State} : (dropFaulting s).mem = s.mem := rfl
@[simp] theorem discardFaults_mem {s : State} : (discardFaults s).mem = s.mem := rfl

theorem outCanon_execEndCompletion {c : Nat} {s : State} (hm : Canon s.mem) : OutCanon (execEndCompletion c s) := by
  unfold execEndCompletion
  refine canon_onCore (fun t ht => ?_) hm
  grind [discardFaults_mem, dropFaulting_mem, canon_memoryFault, setSeq_mem, canon_endDone]

/-! ### System registers and invalidation -/

theorem outCanon_execSysrd {d : SReg} {num : BitVec 12} {s : State} (hm : Canon s.mem) : OutCanon (execSysrd d num s) := by
  unfold execSysrd
  grind [OutCanon, outCanon_illegal, outCanon_done, setS_mem, outCanon_privilegeTrap, outCanon_stall]

theorem outCanon_execSyswr {a : SReg} {num : BitVec 12} {s : State} (hm : Canon s.mem) : OutCanon (execSyswr a num s) := by
  unfold execSyswr
  grind [OutCanon, outCanon_illegal, outCanon_done, setSeq_mem, outCanon_privilegeTrap, outCanon_illegalVal, outCanon_stall, setVec_mem]

theorem outCanon_execVrestore {a : SReg} {s : State} (hm : Canon s.mem) : OutCanon (execVrestore a s) := by
  unfold execVrestore
  grind [OutCanon, outCanon_privilegeTrap, outCanon_illegalVal, restoreEngine_mem, trapReturn_mem, canon_dropSlotAt]

theorem outCanon_execIcinv {_a : SReg} {s : State} (hm : Canon s.mem) : OutCanon (execIcinv _a s) := by
  unfold execIcinv
  grind [OutCanon, outCanon_done, setSeq_mem, outCanon_privilegeTrap]

theorem outCanon_execTlbinv {a : SReg} {s : State} (hm : Canon s.mem) : OutCanon (execTlbinv a s) := by
  unfold execTlbinv
  grind [OutCanon, outCanon_privilegeTrap, outCanon_illegalVal, outCanon_done, bumpNum_mem, outCanon_stall]

theorem outCanon_execInvalidationRequest {tg : ShootTarget} {s : State} (hm : Canon s.mem) : OutCanon (execInvalidationRequest tg s) := by
  unfold execInvalidationRequest
  split
  · exact hm
  · split
    · exact hm
    · extract_lets s1 s2
      have h2 : Canon s2.mem := by rwa [show s2.mem = s1.mem from dropTlb_mem]
      split
      · exact canon_onCore (fun t ht => by rwa [staleCore_mem]) h2
      · exact h2

theorem outCanon_execInvalidationAck {tg : ShootTarget} {s : State} (hm : Canon s.mem) : OutCanon (execInvalidationAck tg s) := by
  unfold execInvalidationAck
  grind [OutCanon]

end Sys2Proof.Proofs
end

section
/-! SUPPORT. What the remaining instructions and events do to memory: each leaves it alone or keeps its canonical form. -/

namespace Sys2Proof.Proofs

open Sys2Proof.Machine Sys2Proof.Safety

/-! ### Dispatch and completion of matrix commands -/

theorem outCanon_execMatrixIssue {c : Nat} {s : State} (hm : Canon s.mem) : OutCanon (execMatrixIssue c s) := by
  unfold execMatrixIssue
  refine canon_onCore (fun t ht => ?_) hm
  grind [chargeBudget_mem, setMat_mem]

theorem canon_completeMat {e : MEntry} {s : State} (hm : Canon s.mem) : Canon (completeMat e s).mem := by
  have hr : Canon (mRun e s).1.mem := canon_mRun hm
  unfold completeMat
  split
  · exact canon_machineCheck hm
  · generalize mRun e s = r at hr ⊢
    obtain ⟨t, f, i⟩ := r
    change Canon (mMovePoison e s _).mem
    rw [mMovePoison_mem]
    exact hr

theorem outCanon_execMatrixCompletion {c : Nat} {un : MUnit} {s : State} (hm : Canon s.mem) : OutCanon (execMatrixCompletion c un s) := by
  unfold execMatrixCompletion
  refine canon_onCore (fun t ht => ?_) hm
  grind [canon_completeMat]

/-! ### Copy instructions and stream events -/

theorem outCanon_withRead {va : Word} {n : Nat} {f : Nat → State → Out} {s : State}
    (hf : ∀ a0 a1, Canon a1.mem → OutCanon (f a0 a1)) (hm : Canon s.mem) : OutCanon (withRead va n f s) := by
  unfold withRead
  grind [OutCanon, outCanon_reachS, homeRead_mem, outCanon_trapHere, readCached_mem]

theorem outCanon_aligned64 {r : SReg} {f : State → Out} {s : State} (hf : ∀ t, Canon t.mem → OutCanon (f t)) (hm :
    Canon s.mem) : OutCanon (aligned64 r f s) := by
  unfold aligned64
  grind [OutCanon, outCanon_trapHere]

theorem outCanon_execCbind {p : BitVec 4} {d : SReg} {s : State} (hm : Canon s.mem) : OutCanon (execCbind p d s) := by
  unfold execCbind
  grind [OutCanon, outCanon_illegal, outCanon_aligned64, outCanon_withRead, outCanon_done, bumpNum_mem, setBind_mem]

theorem outCanon_goPort {p : BitVec 4} {tag : BitVec 8} {rg : SReg} {mx : Bool} {s : State} (hm : Canon s.mem) :
    OutCanon (goPort p tag rg mx s) := by
  unfold goPort
  grind [OutCanon, outCanon_withCopyError, outCanon_placed, outCanon_illegal, outCanon_aligned64, outCanon_dispatchStream]

theorem outCanon_goAuto {d : SReg} {tag : BitVec 8} {rg : SReg} {mx : Bool} {s : State} (hm : Canon s.mem) :
    OutCanon (goAuto d tag rg mx s) := by
  unfold goAuto
  grind [OutCanon, outCanon_withCopyError, outCanon_placed, outCanon_aligned64, outCanon_stall, outCanon_withRead, outCanon_dispatchStream]

theorem outCanon_execCvld {vd : VDst} {md : MReg} {d x : SReg} {tag : BitVec 8} {ty : ETy} {s : State} (hm : Canon s.mem) :
    OutCanon (execCvld vd md d x tag ty s) := by
  unfold execCvld
  grind [OutCanon, outCanon_withCopyError, outCanon_aligned64, outCanon_illegal, outCanon_stall, outCanon_trapHere, setCopy_mem,
    setVec_mem, outCanon_done, bumpNum_mem, setSeq_mem]

@[simp] theorem addRing_mem {r : Ring} {s : State} : (addRing r s).mem = s.mem := rfl

theorem outCanon_execRinit {rg b z n : SReg} {s : State} (hm : Canon s.mem) : OutCanon (execRinit rg b z n s) := by
  unfold execRinit
  grind [OutCanon, outCanon_withCopyError, outCanon_aligned64, outCanon_illegalVal, outCanon_done, bumpNum_mem, addRing_mem,
    canon_lostWrite, outCanon_reachS, outCanon_storeHome]

theorem outCanon_withRing {rg : SReg} {f : Ring → State → Out} {s : State} (hf : ∀ a0 a1, Canon a1.mem → OutCanon (f a0 a1)) (hm :
    Canon s.mem) : OutCanon (withRing rg f s) := by
  unfold withRing
  grind [OutCanon, outCanon_withCopyError, outCanon_aligned64, outCanon_illegalVal]

theorem outCanon_execAwait {rg n : SReg} {s : State} (hm : Canon s.mem) : OutCanon (execAwait rg n s) := by
  unfold execAwait
  grind [OutCanon, outCanon_withRing, outCanon_illegalVal, outCanon_done, outCanon_stall]

theorem outCanon_execRels {rg : SReg} {s : State} (hm : Canon s.mem) : OutCanon (execRels rg s) := by
  unfold execRels
  grind [OutCanon, outCanon_withRing, outCanon_stall, outCanon_illegal, outCanon_done, bumpNum_mem, canon_putRing, setRing_mem]

theorem outCanon_execCcancel {p : BitVec 4} {s : State} (hm : Canon s.mem) : OutCanon (execCcancel p s) := by
  unfold execCcancel
  grind [OutCanon, outCanon_withCopyError, canon_cancelStreams, outCanon_stall, outCanon_done]

theorem outCanon_execStreamStart {id : Nat} {s : State} (hm : Canon s.mem) : OutCanon (execStreamStart id s) := by
  unfold execStreamStart
  split
  · exact hm
  · next t _ =>
    split
    · exact hm
    · have ho : (openDesc t s).2.mem = s.mem := openDesc_mem
      generalize openDesc t s = r at ho ⊢
      obtain ⟨e | bs, s1⟩ := r
      · exact hm
      · have h1 : Canon s1.mem := ho ▸ hm
        dsimp only
        split
        · exact canon_putStatus h1
        · refine canon_onCore (fun u hu => ?_) (canon_putStatus h1)
          split
          · exact (foldl_mem (fun _ _ => landS_mem _ _ _) _ _).symm ▸ hu
          · exact hu

theorem canon_runStream {t : Stream} {s : State} (hm : Canon s.mem) : Canon (runStream t s).1.mem := by
  unfold runStream
  grind [canon_moveElems, coverPoison_mem, chargeBudget_mem]

theorem canon_fillSlot {t : Stream} {s : State} (hm : Canon s.mem) : Canon (fillSlot t s).mem := by
  unfold fillSlot
  grind [setRing_mem, canon_putRing]

@[simp] theorem landDelivery_mem {t : Stream} {s : State} : (landDelivery t s).mem = s.mem := by
  unfold landDelivery
  split
  · rfl
  · exact onCore_mem_of fun _ => rfl

theorem canon_endStream {t : Stream} {s : State} (hm : Canon s.mem) : Canon (endStream t s).mem := by
  unfold endStream
  grind [freeFollow_mem, dropStream_mem, canon_fillSlot, canon_putStatus, landDelivery_mem, canon_endCopy]

theorem canon_failStream {t : Stream} {cause : Nat} {tval : Word} {desc : Bool} {s : State} (hm : Canon s.mem) :
    Canon (failStream t cause tval desc s).mem := by
  unfold failStream
  grind [canon_logRecord, canon_endCopy]

theorem canon_lossRecord {t : Stream} {s : State} (hm : Canon s.mem) : Canon (lossRecord t s).mem := by
  unfold lossRecord
  grind [canon_logRecord]

theorem canon_settleStream {t : Stream} {s : State} (hm : Canon s.mem) : Canon (settleStream t s).mem := by
  unfold settleStream
  grind [canon_lossRecord, canon_endStream, canon_cancelOne, canon_failStream, canon_stopStream]

theorem outCanon_execStreamCompletion {id : Nat} {s : State} (hm : Canon s.mem) : OutCanon (execStreamCompletion id s) := by
  unfold execStreamCompletion
  grind [OutCanon, canon_settleStream, canon_runStream, setStream_mem, canon_endStream]

theorem outCanon_execStreamError {id : Nat} {s : State} (hm : Canon s.mem) : OutCanon (execStreamError id s) := by
  unfold execStreamError
  grind [OutCanon, canon_settleStream, canon_runStream, setStream_mem, openDesc_mem, canon_failStream, canon_stopStream]

/-! ### Near-memory engines -/

theorem canon_mapVstat {tid : BitVec 31} {f : Flags} {s : State} (hm : Canon s.mem) : Canon (mapVstat tid f s).mem := by
  unfold mapVstat
  exact canon_foldl (fun _ _ h => canon_wr h) _ hm

@[simp] theorem transN_mem {a : Acc} {va : Word} {s : State} : (transN a va s).2.mem = s.mem := by
  unfold transN
  grind [translate_mem]

@[simp] theorem readN_mem {sz n : Nat} {va : Word} {s : State} : (readN sz n va s).2.mem = s.mem := by
  fun_induction readN sz n va s <;> grind [transN_mem]

@[simp] theorem transRow_mem {a : Acc} {va : Word} {len : Nat} {s : State} : (transRow a va len s).2.mem = s.mem := by
  unfold transRow
  grind [transRowFor_mem]

@[simp] theorem transRows_mem {table : Word} {stride nrows len : Nat} {k : Nat} {l : List Nat}
    {s : State} : (transRows table stride nrows len k l s).2.mem = s.mem := by
  fun_induction transRows table stride nrows len k l s <;> grind [transRow_mem]

@[simp] theorem transOut_mem {n : Nat} {va : Word} {s : State} : (transOut n va s).2.mem = s.mem := by
  fun_induction transOut n va s <;> grind [transN_mem]

@[simp] theorem pushNear_mem {c : NearCmd} {s : State} : (pushNear c s).mem = s.mem := rfl

@[simp] theorem portLookup_mem {o : Word} {b : Bag} {s : State} : (portLookup o b s).2.mem = s.mem := by
  unfold portLookup
  grind [readN_mem, transRows_mem, transOut_mem]

theorem outCanon_execNlookup {d o : SReg} {tag : BitVec 8} {s : State} (hm : Canon s.mem) : OutCanon (execNlookup d o tag s) := by
  unfold execNlookup
  grind [OutCanon, outCanon_trapHere, outCanon_stall, readN_mem, chargeAll_mem, outCanon_illegalVal, portLookup_mem, outCanon_done,
    pushNear_mem]

theorem outCanon_sendUpdate {i : Instr} {a : SReg} {tag : BitVec 8} {s : State} (hm : Canon s.mem) : OutCanon (sendUpdate i a tag s) := by
  unfold sendUpdate
  grind [OutCanon, outCanon_stall, outCanon_trapHere, outCanon_done, commitTask_mem, transRow_mem, pushNear_mem]

theorem outCanon_execNaddr {op : NOp} {d : VDst} {a : SReg} {src : VSrc} {tag : BitVec 8} {s : State} (hm : Canon s.mem) :
    OutCanon (execNaddr op d a src tag s) := by
  unfold execNaddr
  grind [OutCanon, outCanon_illegal, outCanon_sendUpdate]

theorem outCanon_execNfence {_sc : Scope} {s : State} (hm : Canon s.mem) : OutCanon (execNfence _sc s) := by
  unfold execNfence
  grind [OutCanon, outCanon_done, outCanon_stall]

theorem outCanon_execNfenceTag {_sc : Scope} {tag : BitVec 8} {s : State} (hm : Canon s.mem) : OutCanon (execNfenceTag _sc tag s) := by
  unfold execNfenceTag
  grind [OutCanon, outCanon_done, outCanon_stall]

theorem canon_runLookup {c : NearCmd} {s : State} (hm : Canon s.mem) : Canon (runLookup c s).mem := by
  unfold runLookup
  extract_lets lost outs bad
  have hj : (if lost = true then freeBytes s (4 * c.w) else ([], s)).2.mem = s.mem := by split <;> rfl
  generalize (if lost = true then freeBytes s (4 * c.w) else ([], s)) = r at hj ⊢
  obtain ⟨junk, s1⟩ := r
  dsimp -zeta only
  extract_lets s2 s3
  have h2 : Canon s2.mem := by
    rw [show s2 = coverPoison _ _ from rfl, coverPoison_mem]
    exact canon_foldl (fun _ _ h => canon_wr h) _ (hj ▸ hm)
  clear_value s2
  unfold s3
  split
  · rwa [tierLost_mem]
  · exact canon_mapVstat h2

@[simp] theorem landOld_mem {slot : Nat} {got : List (Nat × Bool)} {s : State} : (landOld slot got s).mem = s.mem := rfl

theorem canon_runUpdate {c : NearCmd} {op : NOp} {d : Option VDst} {s : State} (hm : Canon s.mem) : Canon (runUpdate c op d s).mem := by
  unfold runUpdate
  extract_lets pa es lost src
  have hj : (if lost = true then freeBytes s (8 * c.w) else ([], s)).2.mem = s.mem := by split <;> rfl
  generalize (if lost = true then freeBytes s (8 * c.w) else ([], s)) = r at hj ⊢
  obtain ⟨junk, s0⟩ := r
  dsimp -zeta only
  extract_lets old rs s1 marks s2 s3
  have h2 : Canon s2.mem := by
    rw [show s2.mem = s1.mem from foldl_mem (fun _ _ => markPoison_mem _ _ _) _ _]
    exact canon_wr (hj ▸ hm)
  have h3 : Canon s3.mem := by
    unfold s3
    split
    · refine canon_onCore (fun t ht => ?_) h2
      split
      · rwa [landOld_mem]
      · exact ht
    · exact h2
  split
  · rwa [tierLost_mem]
  · exact canon_mapVstat h3

theorem canon_performNear {c : NearCmd} {s : State} (hm : Canon s.mem) : Canon (performNear c s).mem := by
  unfold performNear
  grind [canon_runUpdate, canon_runLookup]

@[simp] theorem sendNear_mem {c : NearCmd} {s : State} : (sendNear c s).mem = s.mem := by
  unfold sendNear
  grind [nearAgain_mem, chargeAll_mem]

theorem outCanon_execNmePerformed {id : Nat} {s : State} (hm : Canon s.mem) : OutCanon (execNmePerformed id s) := by
  unfold execNmePerformed
  grind [OutCanon, canon_performNear, sendNear_mem]

/-! ### The fabric -/

@[simp] theorem transPiece_mem {c : Nat} {r : Region} {remote : Bool} {a : Acc} {va n : Nat}
    {s : State} : (transPiece c r remote a va n s).2.mem = s.mem := by
  unfold transPiece
  grind [translateFor_mem]

@[simp] theorem transPieces_mem {c : Nat} {g : Region} {remote : Bool} {a : Acc} {l : List (Nat × Nat)}
    {s : State} : (transPieces c g remote a l s).2.mem = s.mem := by
  fun_induction transPieces c g remote a l s <;> grind [transPiece_mem]

@[simp] theorem transRange_mem {remote : Bool} {a : Acc} {va : Word} {n : Nat}
    {s : State} : (transRange remote a va n s).2.mem = s.mem := by
  unfold transRange
  grind [transPieces_mem]

theorem canon_of_transRange {r : Bool} {a : Acc} {v : Word} {n : Nat} {s t : State} {x : Except (Nat × Word) (List (Nat × Nat))}
    (h : transRange r a v n s = (x, t)) (hm : Canon s.mem) : Canon t.mem := by
  have ht := @transRange_mem r a v n s
  rw [h] at ht
  exact ht ▸ hm

theorem canon_writeP {l : List (Nat × Nat)} {bs : List Byte} {s : State} (hm : Canon s.mem) : Canon (writeP l bs s).mem := by
  fun_induction writeP l bs s <;> grind [canon_wrBytes]

@[simp] theorem markP_mem {ps : List (Nat × Nat)} {s : State} : (markP ps s).mem = s.mem := foldl_mem (fun _ _ => markPoison_mem _ _ _) _ s

@[simp] theorem markOffsets_mem {ps : List (Nat × Nat)} {ks : List Nat} {s : State} : (markOffsets ps ks s).mem = s.mem :=
  foldl_mem (fun _ _ => markP_mem) _ s

@[simp] theorem putOp_mem {o : FabOp} {s : State} : (putOp o s).mem = s.mem := rfl
@[simp] theorem dropOp_mem {id : Nat} {s : State} : (dropOp id s).mem = s.mem := rfl

theorem outCanon_fabCopy {put : Bool} {i : Instr} {r l n : SReg} {tag : BitVec 8} {s : State} (hm : Canon s.mem) :
    OutCanon (fabCopy put i r l n tag s) := by
  unfold fabCopy
  grind [OutCanon, commitTask_mem, outCanon_trapHere, outCanon_illegalVal, outCanon_done, outCanon_stall, transRange_mem, pushFab_mem]

theorem outCanon_execFsig {r : SReg} {count : BitVec 24} {s : State} (hm : Canon s.mem) : OutCanon (execFsig r count s) := by
  unfold execFsig
  grind [OutCanon, outCanon_illegal, outCanon_trapHere, outCanon_stall, transRange_mem, outCanon_done, pushFab_mem, commitTask_mem]

theorem outCanon_execFfence {s : State} (hm : Canon s.mem) : OutCanon (execFfence s) := by
  unfold execFfence
  grind [OutCanon, outCanon_done, outCanon_stall]

theorem outCanon_execFstat {d i : SReg} {s : State} (hm : Canon s.mem) : OutCanon (execFstat d i s) := by
  unfold execFstat
  grind [OutCanon, outCanon_illegalVal, outCanon_stall, outCanon_done, setS_mem]

theorem outCanon_sendColl {i : Instr} {g sr d : SReg} {tag : BitVec 8} {s : State} (hm : Canon s.mem) :
    OutCanon (sendColl i g sr d tag s) := by
  unfold sendColl
  generalize collForm i = kt
  obtain ⟨kind, ty⟩ := kt
  dsimp only
  split
  · exact outCanon_trapHere hm
  split
  · exact outCanon_trapHere hm
  split
  · exact outCanon_trapHere hm
  split
  · exact outCanon_stall hm
  split
  · next h => exact outCanon_trapHere (canon_of_transRange h hm)
  next h =>
  have h1 := canon_of_transRange h hm
  split
  · exact outCanon_stall h1
  split
  · exact outCanon_trapHere h1
  split
  · exact outCanon_illegalVal h1
  split
  · next h => exact outCanon_trapHere (canon_of_transRange h h1)
  next h =>
  have h2 := canon_of_transRange h h1
  split
  · next h => exact outCanon_trapHere (canon_of_transRange h h2)
  next h =>
  have h3 := canon_of_transRange h h2
  split
  · next h => exact outCanon_trapHere (canon_of_transRange h h3)
  next h =>
  have h4 := canon_of_transRange h h3
  refine outCanon_done (canon_wr ?_)
  rw [pushFab_mem, commitTask_mem, chargeAll_mem]
  exact h4

theorem canon_landChunk {o : FabOp} {k : Nat} {bs : List Byte} {psn : Bool} {fl : Flags} {s : State} (hm : Canon s.mem) :
    Canon (landChunk o k bs psn fl s).2.mem := by
  unfold landChunk
  grind [canon_writeP, chargeAll_mem, markP_mem]

@[simp] theorem sendChunk_mem {o : FabOp} {p r k : Nat} {bs : List Byte} {psn : Bool} {fl : Flags}
    {s : State} : (sendChunk o p r k bs psn fl s).mem = s.mem := by
  unfold sendChunk
  grind [send_mem, chargeBudget_mem]

theorem canon_startChunk {o : FabOp} {p k : Nat} {s : State} (hm : Canon s.mem) : Canon (startChunk o p k s).2.mem := by
  unfold startChunk
  grind [chargeAll_mem, sendChunk_mem, canon_landChunk]

theorem canon_setPmap {o : FabOp} {b : Nat} {s : State} (hm : Canon s.mem) : Canon (setPmap o b s).mem := by
  unfold setPmap
  grind [canon_wr]

@[simp] theorem poisonedLaunch_mem {launch : Nat} {s : State} : (poisonedLaunch launch s).mem = s.mem := by
  unfold poisonedLaunch
  grind [setFe_mem]

theorem canon_finishColl {o : FabOp} {s : State} (hm : Canon s.mem) : Canon (finishColl o s).mem := by
  unfold finishColl
  generalize collForm o.instr = kt
  obtain ⟨kind, ty⟩ := kt
  dsimp -zeta only
  extract_lets s1 s2 s3
  have h1 : Canon s1.mem := canon_foldl (fun _ _ h => canon_setPmap h) _ (by rwa [chargeAll_mem])
  have h3 : Canon s3.mem := by
    rw [show s3.mem = _ from dropOp_mem]
    exact canon_mapVstat (canon_wr h1)
  split
  · exact h3
  · rwa [poisonedLaunch_mem]

theorem canon_settleColl {p : FabOp × State} (hm : Canon p.2.mem) : Canon (settleColl p).mem := by
  unfold settleColl
  grind [canon_finishColl, putOp_mem]

theorem canon_takeCheck {o : FabOp} {side : Nat} {bs : List Byte} {s : State} (hm : Canon s.mem) : Canon (takeCheck o side bs s).mem := by
  unfold takeCheck
  grind [canon_settleColl, putOp_mem, dropOp_mem, canon_wr, chargeMem_mem]

theorem canon_joinChunk {o : FabOp} {k : Nat} {bs : List Byte} {psn : Bool} {fl : Flags} {s : State} (hm : Canon s.mem) :
    Canon (joinChunk o k bs psn fl s).mem := by
  unfold joinChunk
  grind [canon_settleColl, canon_landChunk, chargeAll_mem]

theorem canon_takeResult {o : FabOp} {k : Nat} {bs : List Byte} {psn : Bool} {fl : Flags} {s : State} (hm : Canon s.mem) :
    Canon (takeResult o k bs psn fl s).mem := by
  unfold takeResult
  grind [canon_settleColl, canon_landChunk]

theorem canon_advanceColl {o : FabOp} {s : State} (hm : Canon s.mem) : Canon (advanceColl o s).mem := by
  unfold advanceColl
  grind [canon_settleColl, putOp_mem, sendChunk_mem, canon_startChunk]

theorem outCanon_execCollChunk {id k : Nat} {bs : List Byte} {psn : Bool} {fl : BitVec 8} {s : State} (hm : Canon s.mem) :
    OutCanon (execCollChunk id k bs psn fl s) := by
  unfold execCollChunk
  grind [OutCanon, canon_takeCheck, canon_joinChunk, canon_takeResult]

@[simp] theorem putPieces_mem {o : FabOp} {l : List (Nat × Nat)} {off : Nat} {s : State} : (putPieces o l off s).mem = s.mem := by
  fun_induction putPieces o l off s <;> grind [send_mem]

theorem canon_getBytes {o : FabOp} {bs : List Byte} {psn : List Nat} {s : State} (hm : Canon s.mem) : Canon (getBytes o bs psn s).mem := by
  unfold getBytes
  extract_lets s1
  have h1 : Canon s1.mem := by
    rwa [show s1.mem = s.mem from foldl_mem (fun _ _ => send_mem) _ _]
  grind [freeBytes_mem, canon_writeP, markOffsets_mem]

@[simp] theorem fabAgain_mem {o : FabOp} {s : State} : (fabAgain o s).2.mem = s.mem := by
  unfold fabAgain
  grind [transPieces_mem]

theorem canon_acceptOp {o : FabOp} {bs : List Byte} {psn : List Nat} {s : State} (hm : Canon s.mem) : Canon (acceptOp o bs psn s).mem := by
  unfold acceptOp
  grind [chargeAll_mem, dropOp_mem, putPieces_mem, canon_getBytes, send_mem]

theorem canon_endLost {o : FabOp} {s : State} (hm : Canon s.mem) : Canon (endLost o s).mem := by
  unfold endLost
  grind [freeBytes_mem, chargeAll_mem, canon_writeP, canon_wr, dropOp_mem, setFab_mem]

theorem canon_loseOp {o : FabOp} {s : State} (hm : Canon s.mem) : Canon (loseOp o s).mem := by
  unfold loseOp
  grind [canon_endLost, putOp_mem]

theorem outCanon_execFabricAcceptance {id : Nat} {bs : List Byte} {psn : List Nat} {s : State} (hm : Canon s.mem) :
    OutCanon (execFabricAcceptance id bs psn s) := by
  unfold execFabricAcceptance
  grind [OutCanon, canon_loseOp, canon_advanceColl, fabAgain_mem, dropOp_mem, putOp_mem, canon_acceptOp]

@[simp] theorem loseReturns_mem {p : Nat} {s : State} : (loseReturns p s).mem = s.mem := by
  unfold loseReturns
  extract_lets mine gone q s1 s2
  have h2 : s2.mem = s.mem := foldl_mem (fun t r => by grind [setSeq_mem, freeBytes_mem, setS_mem]) _ s1
  split
  · rfl
  · exact h2

@[simp] theorem putPort_mem {p : Nat} {x : FPort} {s : State} : (putPort p x s).mem = s.mem := by
  unfold putPort
  grind

theorem canon_loseStream {t : Stream} {s : State} (hm : Canon s.mem) : Canon (loseStream t s).mem := by
  unfold loseStream
  grind [setFab_mem, canon_settleStream, setStream_mem]

theorem canon_failPort {p : Nat} {s : State} (hm : Canon s.mem) : Canon (failPort p s).mem := by
  unfold failPort
  extract_lets x s1 all s2 s3
  have h2 : Canon s2.mem := by
    refine canon_foldl (fun t o ht => ?_) _ (by rwa [show s1.mem = s.mem from putPort_mem])
    grind [popChoice_mem, canon_loseOp]
  have h3 : Canon s3.mem := canon_foldl (fun _ _ h => canon_loseStream h) _ h2
  rw [flushPosts_mem]
  exact canon_foldl (fun _ _ => canon_onCore fun _ h => by rwa [loseReturns_mem]) _ h3

theorem canon_portReplay {p : Nat} {s : State} (hm : Canon s.mem) : Canon (portReplay p s).mem := by
  unfold portReplay
  grind [popChoice_mem, canon_failPort, putPort_mem]

theorem canon_portTimeout {p : Nat} {s : State} (hm : Canon s.mem) : Canon (portTimeout p s).mem := by
  unfold portTimeout
  grind [canon_failPort]

@[simp] theorem flushPorts_mem {s : State} : (flushPorts s).mem = s.mem := by
  unfold flushPorts
  grind [flushPosts_mem, flushReplies_mem]

theorem outCanon_execFabricLinkTrained {port partner : Nat} {s : State} (hm : Canon s.mem) :
    OutCanon (execFabricLinkTrained port partner s) := by
  unfold execFabricLinkTrained
  grind [OutCanon, popChoice_mem, flushPorts_mem, putPort_mem]

theorem outCanon_execVirtualChannelPause {port vc : Nat} {on : Bool} {s : State} (hm : Canon s.mem) :
    OutCanon (execVirtualChannelPause port vc on s) := by
  unfold execVirtualChannelPause
  grind [OutCanon, flushPorts_mem, putPort_mem]

/-! ### Errors, links and sparing -/

@[simp] theorem putGlink_mem {c : Nat} {x : GLinkSt} {s : State} : (putGlink c x s).mem = s.mem := by
  unfold putGlink
  grind

theorem canon_stopChipStreams {hits : List (Nat × Word)} {s : State} (hm : Canon s.mem) : Canon (stopChipStreams hits s).mem := by
  unfold stopChipStreams
  refine canon_foldl (fun u h hu => ?_) _ hm
  split
  · exact hu
  · refine canon_failStream (canon_stopStream ?_)
    split
    · rwa [tierLost_mem]
    · exact hu

theorem canon_loseChipNear {c : Nat} {s : State} (hm : Canon s.mem) : Canon (loseChipNear c s).mem :=
  canon_foldl (fun _ _ h => canon_performNear h) _ hm

@[simp] theorem loseChipScalar_mem {c : Nat} {s : State} : (loseChipScalar c s).mem = s.mem := rfl

theorem canon_linkRecord {c : Nat} {s : State} (hm : Canon s.mem) : Canon (linkRecord c s).mem := canon_logRecord hm

@[simp] theorem putChip_mem {c : Nat} {on : Bool} {s : State} : (putChip c on s).mem = s.mem := rfl
@[simp] theorem staleCores_mem {s : State} : (staleCores s).mem = s.mem := rfl

theorem canon_failGolhan {c : Nat} {s : State} (hm : Canon s.mem) : Canon (failGolhan c s).mem := by
  unfold failGolhan
  grind [putGlink_mem, canon_linkRecord, staleCores_mem, dropFrames_mem, putChip_mem, canon_loseChipNear, loseChipScalar_mem,
    canon_stopChipStreams]

theorem canon_golhanReplay {c : Nat} {s : State} (hm : Canon s.mem) : Canon (golhanReplay c s).mem := by
  unfold golhanReplay
  grind [popChoice_mem, canon_failGolhan, putGlink_mem]

theorem outCanon_execLinkReplay {lk : Link} {s : State} (hm : Canon s.mem) : OutCanon (execLinkReplay lk s) := by
  unfold execLinkReplay
  grind [OutCanon, canon_portReplay, canon_golhanReplay]

theorem outCanon_execLinkAckTimeout {lk : Link} {s : State} (hm : Canon s.mem) : OutCanon (execLinkAckTimeout lk s) := by
  unfold execLinkAckTimeout
  grind [OutCanon, canon_portTimeout, canon_failGolhan]

@[simp] theorem doGlink_mem {v : Word} {s : State} : (doGlink v s).mem = s.mem := by
  unfold doGlink
  refine foldl_mem (fun t c => ?_) _ _
  split
  · exact putGlink_mem
  · rfl

theorem outCanon_execGlink {v : Word} {s : State} (hm : Canon s.mem) : OutCanon (execGlink v s) := by
  unfold execGlink
  grind [OutCanon, doGlink_mem]

theorem outCanon_execRetrainDone {chip : Nat} {ok : Bool} {s : State} (hm : Canon s.mem) : OutCanon (execRetrainDone chip ok s) := by
  unfold execRetrainDone
  grind [OutCanon, putChip_mem, putGlink_mem, canon_linkRecord, canon_failGolhan]

theorem canon_rasRecord {kind row spare : Nat} {s : State} (hm : Canon s.mem) : Canon (rasRecord kind row spare s).mem := canon_logRecord hm

theorem canon_beginSpare {row : Nat} {s : State} (hm : Canon s.mem) : Canon (beginSpare row s).mem := by
  unfold beginSpare
  grind [canon_logRecord]

theorem canon_startSpare {row : Nat} {s : State} (hm : Canon s.mem) : Canon (startSpare row s).mem := by
  unfold startSpare
  grind [canon_beginSpare]

@[simp] theorem dropJob_mem {row : Nat} {s : State} : (dropJob row s).mem = s.mem := rfl

theorem outCanon_execRowSpareSwitch {row : Nat} {s : State} (hm : Canon s.mem) : OutCanon (execRowSpareSwitch row s) := by
  unfold execRowSpareSwitch
  grind [OutCanon, dropJob_mem, canon_rasRecord]

theorem outCanon_execSpareAbort {row : Nat} {s : State} (hm : Canon s.mem) : OutCanon (execSpareAbort row s) := by
  unfold execSpareAbort
  grind [OutCanon, dropJob_mem, canon_beginSpare, canon_rasRecord]

theorem canon_doSpare {pa : Word} {s : State} (hm : Canon s.mem) : Canon (doSpare pa s).mem := by
  unfold doSpare
  grind [canon_startSpare]

theorem canon_rowError {pa : Nat} {s : State} (hm : Canon s.mem) : Canon (rowError pa s).mem := by
  unfold rowError
  grind [canon_startSpare]

theorem outCanon_execCorrectedError {un : ErrUnit} {loc pa : Nat} {s : State} (hm : Canon s.mem) :
    OutCanon (execCorrectedError un loc pa s) := by
  unfold execCorrectedError
  grind [OutCanon, canon_rowError, popChoice_mem, canon_logRecord, canon_machineCheck0]

theorem canon_coreCheck {c unit : Nat} {s : State} (hm : Canon s.mem) : Canon (coreCheck c unit s).mem := by
  unfold coreCheck
  grind [canon_machineCheck0, canon_machineCheck]

@[simp] theorem markWord_mem {c : Nat} {f : Core → Core} {s : State} : (markWord c f s).mem = s.mem := onCore_mem_of fun _ => rfl

theorem outCanon_execUncorrectableError {site : ErrSite} {s : State} (hm : Canon s.mem) : OutCanon (execUncorrectableError site s) := by
  unfold execUncorrectableError
  grind [OutCanon, markPoison_mem, markWord_mem, canon_coreCheck, canon_machineCheck0, canon_enterViral]

/-! ### Ethernet -/

@[simp] theorem putEth_mem {p : Nat} {x : Eth} {s : State} : (putEth p x s).mem = s.mem := by
  unfold putEth
  grind

theorem canon_tickEth {p : Nat} {s : State} (hm : Canon s.mem) : Canon (tickEth p s).mem := by
  unfold tickEth
  grind [putEth_mem]

theorem outCanon_execFrameIngress {port : Nat} {bs : List Byte} {fcsOk : Bool} {s : State} (hm : Canon s.mem) :
    OutCanon (execFrameIngress port bs fcsOk s) := by
  unfold execFrameIngress
  grind [OutCanon, canon_tickEth, putEth_mem, setQ_mem, canon_wrBytes, canon_appendPacket]

theorem outCanon_execPpsEdge {port : Nat} {s : State} (hm : Canon s.mem) : OutCanon (execPpsEdge port s) := by
  unfold execPpsEdge
  grind [OutCanon, canon_tickEth, putEth_mem]

theorem canon_doTctl {port : Nat} {v : Word} {s : State} (hm : Canon s.mem) : Canon (doTctl port v s).mem := by
  unfold doTctl
  grind [canon_tickEth, putEth_mem]

/-! ### Bring-up, power and configuration -/

@[simp] theorem extendMeas_mem {k : Nat} {digest : BitVec 256} {s : State} : (extendMeas k digest s).mem = s.mem := by
  unfold extendMeas
  grind

@[simp] theorem trainChips_mem {n c : Nat} {s : State} : (trainChips n c s).mem = s.mem := by
  fun_induction trainChips n c s <;> grind [popChoice_mem, putChip_mem]

@[simp] theorem bootUp_mem {s : State} : (bootUp s).mem = s.mem := by
  unfold bootUp
  grind [trainChips_mem]

theorem canon_bootFrom {a b : List FwImage} {n k : Nat} {s : State} (hm : Canon s.mem) : Canon (bootFrom a b n k s).mem := by
  fun_induction bootFrom a b n k s <;> grind [bootUp_mem, extendMeas_mem]

theorem outCanon_execBoot {copyA copyB : List FwImage} {s : State} (hm : Canon s.mem) : OutCanon (execBoot copyA copyB s) := by
  unfold execBoot
  grind [OutCanon, canon_bootFrom]

theorem canon_afterReset {s : State} : Canon (afterReset s).mem := memWf_nil

theorem outCanon_execColdReset {s : State} : OutCanon (execColdReset s) := by
  unfold execColdReset
  grind [OutCanon, canon_afterReset]

theorem outCanon_execBootFromB {copyB : List FwImage} {s : State} : OutCanon (execBootFromB copyB s) := by
  unfold execBootFromB
  grind [OutCanon, canon_bootFrom, canon_afterReset]

@[simp] theorem putPower_mem {k : Nat} {p : Power} {s : State} : (putPower k p s).mem = s.mem := by
  unfold putPower
  grind

theorem canon_loseSram {k : Nat} {s : State} (hm : Canon s.mem) : Canon (loseSram k s).mem := canon_zeroMem hm

theorem outCanon_execClusterGate {k : Nat} {s : State} (hm : Canon s.mem) : OutCanon (execClusterGate k s) := by
  unfold execClusterGate
  grind [OutCanon, putPower_mem, canon_loseSram]

theorem outCanon_execClusterWake {k : Nat} {s : State} (hm : Canon s.mem) : OutCanon (execClusterWake k s) := by
  unfold execClusterWake
  grind [OutCanon, putPower_mem]

theorem outCanon_execClusterWakeDone {k : Nat} {s : State} (hm : Canon s.mem) : OutCanon (execClusterWakeDone k s) := by
  unfold execClusterWakeDone
  grind [OutCanon, putPower_mem]

theorem outCanon_execClockThrottle {down : Bool} {s : State} (hm : Canon s.mem) : OutCanon (execClockThrottle down s) := hm

theorem outCanon_execCriticalTemperature {s : State} (hm : Canon s.mem) : OutCanon (execCriticalTemperature s) := hm

@[simp] theorem setCfg_mem {s : State} {c : Cfg} : (setCfg s c).mem = s.mem := rfl

@[simp] theorem doDead_mem {k : Nat} {v : Word} {s : State} : (doDead k v s).mem = s.mem := by
  unfold doDead
  grind [setCfg_mem]

theorem outCanon_execDead {k : Nat} {v : Word} {s : State} (hm : Canon s.mem) : OutCanon (execDead k v s) := by
  unfold execDead
  grind [OutCanon, doDead_mem]

theorem canon_doPartitionSwap {v : Word} {s : State} (hm : Canon s.mem) : Canon (doPartitionSwap v s).mem := by
  unfold doPartitionSwap
  extract_lets a isPart
  split
  · exact hm
  · split
    · exact hm
    · rw [noteSwap_mem]
      exact canon_foldl (fun _ _ => canon_onCore fun _ => canon_askPreempt) _ hm

@[simp] theorem doFwcmd_mem {v : Word} {s : State} : (doFwcmd v s).mem = s.mem := by
  unfold doFwcmd
  grind [setFe_mem, setCfg_mem]

theorem outCanon_execFwcmd {v : Word} {s : State} (hm : Canon s.mem) : OutCanon (execFwcmd v s) := by
  unfold execFwcmd
  grind [OutCanon, doFwcmd_mem]

theorem outCanon_execFirmwareReplacementDone {itp : Nat} {img : FwImage} {s : State} (hm : Canon s.mem) :
    OutCanon (execFirmwareReplacementDone itp img s) := by
  unfold execFirmwareReplacementDone
  grind [OutCanon, setFe_mem, setCfg_mem, extendMeas_mem]

@[simp] theorem doPwrcap_mem {v : Word} {s : State} : (doPwrcap v s).mem = s.mem := by
  unfold doPwrcap
  grind [setCfg_mem]

theorem outCanon_execPwrcap {v : Word} {s : State} (hm : Canon s.mem) : OutCanon (execPwrcap v s) := by
  unfold execPwrcap
  grind [OutCanon, doPwrcap_mem]

@[simp] theorem putAtt_mem {x : Attest} {s : State} : (putAtt x s).mem = s.mem := rfl

@[simp] theorem doAttest_mem {off : Nat} {v : Word} {s : State} : (doAttest off v s).mem = s.mem := by
  unfold doAttest
  grind [putAtt_mem]

theorem outCanon_execAttest {off : Nat} {v : Word} {s : State} (hm : Canon s.mem) : OutCanon (execAttest off v s) := by
  unfold execAttest
  grind [OutCanon, doAttest_mem]

theorem outCanon_execAttestReportDone {s : State} (hm : Canon s.mem) : OutCanon (execAttestReportDone s) := by
  unfold execAttestReportDone
  grind [OutCanon, canon_wrBytes, putAtt_mem]

theorem outCanon_execNodeIdAssignment {id : Nat} {s : State} (hm : Canon s.mem) : OutCanon (execNodeIdAssignment id s) := hm

@[simp] theorem putAperture_mem {i : Nat} {hi : Bool} {v : Nat} {s : State} : (putAperture i hi v s).mem = s.mem := by
  unfold putAperture
  grind [setCfg_mem]

@[simp] theorem putFilter_mem {i : Nat} {hi : Bool} {v : Nat} {s : State} : (putFilter i hi v s).mem = s.mem := by
  unfold putFilter
  grind [setCfg_mem]

theorem canon_putEthReg {p k : Nat} {v : Word} {s : State} (hm : Canon s.mem) : Canon (putEthReg p k v s).mem := by
  unfold putEthReg
  grind [putEth_mem, canon_doTctl]

theorem canon_cfgWrite {off : Nat} {v : Word} {s : State} (hm : Canon s.mem) : Canon (cfgWrite off v s).mem := by
  have hc : ∀ c, Canon (setCfg s c).mem := fun _ => setCfg_mem.symm ▸ hm
  unfold cfgWrite
  exact canon_ite (hc _) <| canon_ite (hc _) <| canon_ite (hc _) <| canon_ite (doDead_mem.symm ▸ hm) <|
    canon_ite (canon_doPartitionSwap hm) <| canon_ite (canon_doSpare hm) <| canon_ite (hc _) <| canon_ite (doFwcmd_mem.symm ▸ hm) <|
    canon_ite (doPwrcap_mem.symm ▸ hm) <| canon_ite (hc _) <| canon_ite (hc _) <| canon_ite (doGlink_mem.symm ▸ hm) <|
    canon_ite (putAperture_mem.symm ▸ hm) <| canon_ite (putFilter_mem.symm ▸ hm) <| canon_ite (canon_putEthReg hm) <|
    canon_ite (doAttest_mem.symm ▸ hm) hm

theorem outCanon_execConfigWrite {off : Nat} {v : Word} {s : State} (hm : Canon s.mem) : OutCanon (execConfigWrite off v s) := by
  unfold execConfigWrite
  grind [OutCanon, canon_cfgWrite]

theorem outCanon_execManagementRead {item : MgmtItem} {sense : Word} {s : State} (hm : Canon s.mem) :
    OutCanon (execManagementRead item sense s) :=
  hm

theorem outCanon_execResumeCore {c : Nat} {s : State} (hm : Canon s.mem) : OutCanon (execResumeCore c s) := by
  unfold execResumeCore
  refine canon_onCore (fun t ht => ?_) hm
  grind [setSeq_mem]

/-! ### Control flow -/

theorem outCanon_execBrCc {cc : Cc} {a b : SReg} {tgt : BitVec 24} {s : State} (hm : Canon s.mem) : OutCanon (execBrCc cc a b tgt s) := by
  unfold execBrCc
  grind [OutCanon, outCanon_takeTo, outCanon_done]

theorem outCanon_execCall {d : SReg} {tgt : BitVec 24} {s : State} (hm : Canon s.mem) : OutCanon (execCall d tgt s) := by
  unfold execCall
  grind [OutCanon, outCanon_takeTo, setS_mem]

theorem outCanon_execRet {a : SReg} {s : State} (hm : Canon s.mem) : OutCanon (execRet a s) := by
  unfold execRet
  grind [OutCanon, outCanon_takeTo]

theorem outCanon_enterLoop {c : SReg} {tgt : BitVec 24} {entry : Word → Word → LoopEntry} {slip : Nat} {s : State} (hm :
    Canon s.mem) : OutCanon (enterLoop c tgt entry slip s) := by
  unfold enterLoop
  grind [OutCanon, outCanon_trapHere, loopTargetBad_mem, outCanon_stall, outCanon_takeAfter, setSeq_mem, goto_mem, setVec_mem]

theorem outCanon_execLeave {s : State} (hm : Canon s.mem) : OutCanon (execLeave s) := by
  unfold execLeave
  grind [OutCanon, outCanon_illegal, setSeq_mem, outCanon_takeAfter, setVec_mem]

theorem outCanon_execEret {s : State} (hm : Canon s.mem) : OutCanon (execEret s) := by
  unfold execEret
  grind [OutCanon, outCanon_trapHere, outCanon_takeTo, setSeq_mem, outCanon_privilegeTrap]

theorem outCanon_execHalt {s : State} (hm : Canon s.mem) : OutCanon (execHalt s) := by
  unfold execHalt
  grind [OutCanon, advance_mem, setSeq_mem, outCanon_privilegeTrap]

/-! ### Accesses from the fabric -/

@[simp] theorem refuse_mem {node : Nat} {s : State} : (refuse node s).mem = s.mem := by
  unfold refuse
  grind [respond_mem, setFab_mem]

theorem outCanon_execInboundRead {node pa n : Nat} {s : State} (hm : Canon s.mem) : OutCanon (execInboundRead node pa n s) := by
  unfold execInboundRead
  grind [OutCanon, refuse_mem, respond_mem]

theorem canon_windowWrite {q off : Nat} {bs : List Byte} {s : State} (hm : Canon s.mem) : Canon (windowWrite q off bs s).mem := by
  unfold windowWrite
  grind [canon_inlineWrite, canon_doorbell, canon_windowError]

theorem outCanon_execInboundWrite {node pa : Nat} {bs : List Byte} {psn : List Nat} {s : State} (hm : Canon s.mem) :
    OutCanon (execInboundWrite node pa bs psn s) := by
  unfold execInboundWrite
  grind [OutCanon, respond_mem, refuse_mem, markOffsets_mem, canon_wrBytes, canon_windowWrite, canon_cfgWrite]

theorem outCanon_execInboundAtomic {node pa : Nat} {op : HAtomic} {x y : Word} {s : State} (hm : Canon s.mem) :
    OutCanon (execInboundAtomic node pa op x y s) := by
  unfold execInboundAtomic
  grind [OutCanon, refuse_mem, canon_wr, respond_mem]

theorem outCanon_execInboundSignalDecrement {node pa : Nat} {count : Word} {s : State} (hm : Canon s.mem) :
    OutCanon (execInboundSignalDecrement node pa count s) := by
  unfold execInboundSignalDecrement
  grind [OutCanon, refuse_mem, respond_mem, canon_sigDec]

/-! ### Scalar arithmetic -/

theorem outCanon_putS {d : SReg} {v : Word} {s : State} (hm : Canon s.mem) : OutCanon (putS d v s) := by
  unfold putS
  grind [OutCanon, outCanon_done, setS_mem]

theorem outCanon_alu3 {f : Word → Word → Word} {d a b : SReg} {s : State} (hm : Canon s.mem) : OutCanon (alu3 f d a b s) := outCanon_putS hm

theorem outCanon_execBext {d a : SReg} {lo wm1 : BitVec 6} {s : State} (hm : Canon s.mem) : OutCanon (execBext d a lo wm1 s) := by
  unfold execBext
  grind [OutCanon, outCanon_illegal, outCanon_putS]

theorem outCanon_execBins {d a : SReg} {lo wm1 : BitVec 6} {s : State} (hm : Canon s.mem) : OutCanon (execBins d a lo wm1 s) := by
  unfold execBins
  grind [OutCanon, outCanon_illegal, outCanon_putS]

/-! ### Events of the vector engine -/

theorem outCanon_execVectorIssue {c : Nat} {vq : VQueue} {rc : Recheck} {s : State} (hm : Canon s.mem) :
    OutCanon (execVectorIssue c vq rc s) := by
  unfold execVectorIssue
  refine canon_onCore (fun t ht => ?_) hm
  cases vq with
  | vlq => exact canon_issueLoad ht
  | vxq => exact canon_issueLanes ht
  | vsq => exact canon_issueStore ht

theorem outCanon_execVectorLoadCompletion {c seq : Nat} {s : State} (hm : Canon s.mem) : OutCanon (execVectorLoadCompletion c seq s) := by
  unfold execVectorLoadCompletion
  refine canon_onCore (fun t ht => ?_) hm
  grind [completeLoad_mem]

theorem outCanon_execVectorStoreCompletion {c seq : Nat} {s : State} (hm : Canon s.mem) : OutCanon (execVectorStoreCompletion c seq s) := by
  unfold execVectorStoreCompletion
  refine canon_onCore (fun t ht => ?_) hm
  grind [canon_completeStore]

theorem outCanon_execMittFill {c : Nat} {rc : Recheck} {s : State} (hm : Canon s.mem) : OutCanon (execMittFill c rc s) := by
  unfold execMittFill
  refine canon_onCore (fun t ht => ?_) hm
  grind [canon_mittFill]

theorem outCanon_execWatermarkRecheck {c : Nat} {s : State} (hm : Canon s.mem) : OutCanon (execWatermarkRecheck c s) := by
  unfold execWatermarkRecheck
  refine canon_onCore (fun t ht => ?_) hm
  grind [chargeMem_mem, setVec_mem]

/-! ### Vector state -/

theorem outCanon_execSettle {x y w : VDst} {s : State} (hm : Canon s.mem) : OutCanon (execSettle x y w s) := by
  unfold execSettle
  grind [OutCanon, outCanon_marked, outCanon_settleOver, outCanon_done, takeSeqn_mem]

theorem outCanon_execSettleAll {s : State} (hm : Canon s.mem) : OutCanon (execSettleAll s) := by
  unfold execSettleAll
  grind [OutCanon, outCanon_marked, outCanon_settleOver, outCanon_done, takeSeqn_mem]

theorem outCanon_execSetvl {d a : SReg} {ty : ETy} {s : State} (hm : Canon s.mem) : OutCanon (execSetvl d a ty s) := by
  unfold execSetvl
  grind [OutCanon, outCanon_marked, takeSeqn_mem, outCanon_done, setS_mem, setVec_mem]

theorem outCanon_execSetvt {a : SReg} {s : State} (hm : Canon s.mem) : OutCanon (execSetvt a s) := by
  unfold execSetvt
  grind [OutCanon, outCanon_marked, takeSeqn_mem, outCanon_done, setVec_mem]

theorem outCanon_execVslip {nm1 : BitVec 6} {s : State} (hm : Canon s.mem) : OutCanon (execVslip nm1 s) := by
  unfold execVslip
  grind [OutCanon, outCanon_marked, takeSeqn_mem, outCanon_done, setVec_mem]

/-! ### The launch register window -/

theorem outCanon_execInlinePacket {q : Nat} {bs : List Byte} {s : State} (hm : Canon s.mem) : OutCanon (execInlinePacket q bs s) := by
  unfold execInlinePacket
  grind [OutCanon, canon_inlineWrite, canon_windowError]

end Sys2Proof.Proofs
end

section
/-! Every instruction, every event and every move of the machine keeps the canonical form of memory. -/

namespace Sys2Proof.Proofs

open Sys2Proof.Machine Sys2Proof.Safety

@[simp] theorem wakeAll_mem {s : State} : (wakeAll s).mem = s.mem := rfl

/-! ### The dispatch -/

theorem outCanon_exec (i : Instr) {s : State} (hm : Canon s.mem) : OutCanon (exec i s) := by
  cases i with
  | vadd | vsub | vmul | vmulh | vmulhz | vmadd | vmin | vmax | vminz | vmaxz | vabs | vadds | vsubs | vpopc | vclz | vfadd | vfsub
  | vfmul | vfma | vfms | vfnma | vfdiv | vfrcp | vfsqrt | vfrsq | vfexp2 | vflog2 | vfsin | vfcos | vftanh | vfmin | vfmax | vfabs
  | vfneg | vfclass | vscacc | vcvt | vnarrow | vwiden | vdeq | vand | vor | vxor | vandn | vshl | vshr | vsra | vshlw | vshrw | vfunl
  | vfunr | vrndb | vcmp | vfcmp | vsel | vpres | vred | vfred | vscan | vfscan | vthr | vmvs | vsplat | vld | vldW | vlds | vldff | vst
  | vsts | vgath | vscat | vscadd | vtld | vtst | vsell | vslideu | vslided | vperm | vxchg | vcomp | vexp | vfib
    => exact outCanon_vDispatch hm
  | add | sub | and | or | xor | mul | mulh | mulhz | div | divz | rem | remz | max | minz | maxz => exact outCanon_alu3 hm
  | mma | mmaq | mmas | mmac | mscale | mld | mst | mdrain | pdrain | padj | pstat | pfix | prld | prst => exact outCanon_dispatchMat hm
  | sel | clz | popc | addi | andi | ori | xori | shli | shri | srai | slti | li | lih => exact outCanon_putS hm
  | nop | commit => exact outCanon_done hm
  | jmp | jmpr => exact outCanon_takeTo hm hm
  | trap | brkpt => exact canon_raise hm
  | cgo | cgoMx => exact outCanon_goPort hm
  | cgoAuto | cgoAutoMx => exact outCanon_goAuto hm
  | fput | fget => exact outCanon_fabCopy hm
  | amo => exact outCanon_atomicAt hm
  | vfenceArr => exact outCanon_vDispatchArr hm
  | nadd => exact outCanon_sendUpdate hm
  | tail => exact canon_doTail hm
  | enable => exact canon_doEnable hm
  | disable => exact canon_doDisable hm
  | resume => exact canon_doResume hm
  | swap => exact canon_doSwap hm
  | malformedWindowWrite => exact canon_windowError hm
  | tctl => exact canon_doTctl hm
  | spare => exact canon_doSpare hm
  | partitionSwap => exact canon_doPartitionSwap hm
  | brCc => exact outCanon_execBrCc hm
  | call => exact outCanon_execCall hm
  | ret => exact outCanon_execRet hm
  | loop c tgt => exact (outCanon_enterLoop hm : OutCanon (execLoop c tgt s))
  | loopr c slip rstep tgt => exact (outCanon_enterLoop hm : OutCanon (execLoopr c slip rstep tgt s))
  | leave => exact outCanon_execLeave hm
  | eret => exact outCanon_execEret hm
  | sysrd => exact outCanon_execSysrd hm
  | syswr => exact outCanon_execSyswr hm
  | vrestore => exact outCanon_execVrestore hm
  | icinv a => exact outCanon_execIcinv (_a := a) hm
  | tlbinv => exact outCanon_execTlbinv hm
  | halt => exact outCanon_execHalt hm
  | andn d a b => exact (outCanon_alu3 hm : OutCanon (execAndn d a b s))
  | shl d a b => exact (outCanon_alu3 hm : OutCanon (execShl d a b s))
  | shr d a b => exact (outCanon_alu3 hm : OutCanon (execShr d a b s))
  | sra d a b => exact (outCanon_alu3 hm : OutCanon (execSra d a b s))
  | min d a b => exact (outCanon_alu3 hm : OutCanon (execMin d a b s))
  | slt d a b => exact (outCanon_alu3 hm : OutCanon (execSlt d a b s))
  | sltz d a b => exact (outCanon_alu3 hm : OutCanon (execSltz d a b s))
  | seq d a b => exact (outCanon_alu3 hm : OutCanon (execSeq d a b s))
  | bext => exact outCanon_execBext hm
  | bins => exact outCanon_execBins hm
  | ld => exact outCanon_execLd hm
  | st => exact outCanon_execSt hm
  | cas d b e n sc w64 disp => exact outCanon_execCas (_sc := sc) hm
  | acq a sc => exact outCanon_execAcq (_sc := sc) hm
  | tryacq d a sc => exact outCanon_execTryacq (_sc := sc) hm
  | rel a sc => exact outCanon_execRel (_sc := sc) hm
  | xfence => exact outCanon_execXfence hm
  | fence => exact outCanon_execFence hm
  | waitc => exact outCanon_execWaitc hm
  | spawn => exact outCanon_execSpawn hm
  | join => exact outCanon_execJoin hm
  | endTask => exact outCanon_execEndTask hm
  | yield => exact outCanon_execYield hm
  | wmpub => exact outCanon_execWmpub hm
  | sigdec a sc count => exact outCanon_execSigdec (_sc := sc) hm
  | sigwait a sc => exact outCanon_execSigwait (_sc := sc) hm
  | mand d a b => exact (outCanon_vDispatch hm : OutCanon (execMand d a b s))
  | mor d a b => exact (outCanon_vDispatch hm : OutCanon (execMor d a b s))
  | mxor d a b => exact (outCanon_vDispatch hm : OutCanon (execMxor d a b s))
  | mnot d a => exact (outCanon_vDispatch hm : OutCanon (execMnot d a s))
  | mcnt d a => exact (outCanon_vDispatch hm : OutCanon (execMcnt d a s))
  | mfirst d a => exact (outCanon_vDispatch hm : OutCanon (execMfirst d a s))
  | settle => exact outCanon_execSettle hm
  | settleAll => exact outCanon_execSettleAll hm
  | setvl => exact outCanon_execSetvl hm
  | setvt => exact outCanon_execSetvt hm
  | vslip => exact outCanon_execVslip hm
  | mclr d => exact (outCanon_vDispatch hm : OutCanon (execMclr d s))
  | vfence => exact (outCanon_vDispatch hm : OutCanon (execVfence s))
  | mzero f l => exact (outCanon_dispatchMat hm : OutCanon (execMzero f l s))
  | cbind => exact outCanon_execCbind hm
  | cvld => exact outCanon_execCvld hm
  | rinit => exact outCanon_execRinit hm
  | await => exact outCanon_execAwait hm
  | rels => exact outCanon_execRels hm
  | ccancel => exact outCanon_execCcancel hm
  | nlookup => exact outCanon_execNlookup hm
  | naddr => exact outCanon_execNaddr hm
  | nfence sc => exact outCanon_execNfence (_sc := sc) hm
  | nfenceTag sc tag => exact outCanon_execNfenceTag (_sc := sc) hm
  | fsig => exact outCanon_execFsig hm
  | collAllreduce g sc_ d tag ty => exact (outCanon_sendColl hm : OutCanon (execCollAllreduce g sc_ d tag ty s))
  | collRedscat g sc_ d tag ty => exact (outCanon_sendColl hm : OutCanon (execCollRedscat g sc_ d tag ty s))
  | collAllgather g sc_ d tag ty => exact (outCanon_sendColl hm : OutCanon (execCollAllgather g sc_ d tag ty s))
  | collBcast g sc_ d tag ty => exact (outCanon_sendColl hm : OutCanon (execCollBcast g sc_ d tag ty s))
  | ffence => exact outCanon_execFfence hm
  | fstat => exact outCanon_execFstat hm
  | movb d imm => exact (outCanon_beretPut hm : OutCanon (execMovb d imm s))
  | addb d a b => exact (outCanon_beretPut hm : OutCanon (execAddb d a b s))
  | addib d a imm => exact (outCanon_beretPut hm : OutCanon (execAddib d a imm s))
  | andb d a b => exact (outCanon_beretPut hm : OutCanon (execAndb d a b s))
  | orb d a b => exact (outCanon_beretPut hm : OutCanon (execOrb d a b s))
  | shlib d a imm => exact (outCanon_beretPut hm : OutCanon (execShlib d a imm s))
  | shrib d a imm => exact (outCanon_beretPut hm : OutCanon (execShrib d a imm s))
  | bfxb d a lo wm1 => exact (outCanon_beretPut hm : OutCanon (execBfxb d a lo wm1 s))
  | ldpb => exact outCanon_execLdpb hm
  | ldqb => exact outCanon_execLdqb hm
  | stqb => exact outCanon_execStqb hm
  | srdb => exact outCanon_execSrdb hm
  | sdecb => exact outCanon_execSdecb hm
  | ssetb => exact outCanon_execSsetb hm
  | waitb => exact outCanon_execWaitb hm
  | placeb => exact outCanon_execPlaceb hm
  | imgb => exact outCanon_execImgb hm
  | copyb => exact outCanon_execCopyb hm
  | beqb a b imm => exact (outCanon_beretBranch hm : OutCanon (execBeqb a b imm s))
  | bneb a b imm => exact (outCanon_beretBranch hm : OutCanon (execBneb a b imm s))
  | bltb a b imm => exact (outCanon_beretBranch hm : OutCanon (execBltb a b imm s))
  | loopb => exact outCanon_execLoopb hm
  | fwdb => exact outCanon_execFwdb hm
  | doneb => exact outCanon_execDoneb hm
  | beretStepLimit => exact outCanon_execBeretStepLimit hm
  | inlinePacket => exact outCanon_execInlinePacket hm
  | packetFetch => exact outCanon_execPacketFetch hm
  | packetRefetch => exact outCanon_execPacketRefetch hm
  | launch => exact outCanon_execLaunch hm
  | image => exact outCanon_execImage hm
  | barrier => exact outCanon_execBarrier hm
  | signal => exact outCanon_execSignal hm
  | copy => exact outCanon_execCopy hm
  | nopPacket => exact outCanon_execNopPacket hm
  | frame => exact outCanon_execFrame hm
  | barrierEvaluation => exact outCanon_execBarrierEvaluation hm
  | placementResume => exact outCanon_execPlacementResume hm
  | readyQueueArbitration => exact outCanon_execReadyQueueArbitration hm
  | preemptionRequest => exact outCanon_execPreemptionRequest hm
  | taskSave => exact outCanon_execTaskSave hm
  | contextSpill => exact outCanon_execContextSpill hm
  | budgetPeriod => exact outCanon_execBudgetPeriod hm
  | queueMigration => exact outCanon_execQueueMigration hm
  | signalPoll => exact outCanon_execSignalPoll hm
  | sigwaitWake => exact outCanon_execSigwaitWake hm
  | latchGrant => exact outCanon_execLatchGrant hm
  | watermarkRecheck => exact outCanon_execWatermarkRecheck hm
  | invalidationRequest => exact outCanon_execInvalidationRequest hm
  | invalidationAck => exact outCanon_execInvalidationAck hm
  | lineRefetch => exact outCanon_execLineRefetch hm
  | endCompletion => exact outCanon_execEndCompletion hm
  | vectorIssue => exact outCanon_execVectorIssue hm
  | vectorLoadCompletion => exact outCanon_execVectorLoadCompletion hm
  | mittFill => exact outCanon_execMittFill hm
  | streamStart => exact outCanon_execStreamStart hm
  | streamCompletion => exact outCanon_execStreamCompletion hm
  | streamError => exact outCanon_execStreamError hm
  | matrixIssue => exact outCanon_execMatrixIssue hm
  | matrixCompletion => exact outCanon_execMatrixCompletion hm
  | nmePerformed => exact outCanon_execNmePerformed hm
  | inboundRead => exact outCanon_execInboundRead hm
  | inboundWrite => exact outCanon_execInboundWrite hm
  | inboundAtomic => exact outCanon_execInboundAtomic hm
  | inboundSignalDecrement => exact outCanon_execInboundSignalDecrement hm
  | fabricAcceptance => exact outCanon_execFabricAcceptance hm
  | linkReplay => exact outCanon_execLinkReplay hm
  | linkAckTimeout => exact outCanon_execLinkAckTimeout hm
  | collChunk => exact outCanon_execCollChunk hm
  | frameIngress => exact outCanon_execFrameIngress hm
  | ppsEdge => exact outCanon_execPpsEdge hm
  | correctedError => exact outCanon_execCorrectedError hm
  | uncorrectableError => exact outCanon_execUncorrectableError hm
  | rowSpareSwitch => exact outCanon_execRowSpareSwitch hm
  | spareAbort => exact outCanon_execSpareAbort hm
  | glink => exact outCanon_execGlink hm
  | retrainDone => exact outCanon_execRetrainDone hm
  | fwcmd => exact outCanon_execFwcmd hm
  | dead => exact outCanon_execDead hm
  | attest => exact outCanon_execAttest hm
  | attestReportDone => exact outCanon_execAttestReportDone hm
  | pwrcap => exact outCanon_execPwrcap hm
  | configWrite => exact outCanon_execConfigWrite hm
  | clockThrottle => exact outCanon_execClockThrottle hm
  | criticalTemperature => exact outCanon_execCriticalTemperature hm
  | clusterGate => exact outCanon_execClusterGate hm
  | clusterWake => exact outCanon_execClusterWake hm
  | clusterWakeDone => exact outCanon_execClusterWakeDone hm
  | boot => exact outCanon_execBoot hm
  | coldReset => exact outCanon_execColdReset
  | bootFromB => exact outCanon_execBootFromB
  | managementRead => exact outCanon_execManagementRead hm
  | resumeCore => exact outCanon_execResumeCore hm
  | vectorStoreCompletion => exact outCanon_execVectorStoreCompletion hm
  | scalarDataReturn => exact outCanon_execScalarDataReturn hm
  | fabricLinkTrained => exact outCanon_execFabricLinkTrained hm
  | nodeIdAssignment => exact outCanon_execNodeIdAssignment hm
  | virtualChannelPause => exact outCanon_execVirtualChannelPause hm
  | firmwareReplacementDone => exact outCanon_execFirmwareReplacementDone hm

/-! ### One step -/

/-- A move after which memory is still in its canonical form. -/
def Keeps (f : State → Out) : Prop := ∀ s, Canon s.mem → OutCanon (f s)

theorem keeps_exec (i : Instr) : Keeps (exec i) := fun _ hm => outCanon_exec i hm

theorem outCanon_runEvent {i : Instr} {s : State} (hm : Canon s.mem) : OutCanon (runEvent i s) := by
  unfold runEvent
  split
  · exact outCanon_exec i hm
  · exact hm

theorem outCanon_coreTurn {s : State} (hm : Canon s.mem) : OutCanon (coreTurn s) := by
  have ht : PrepCanon (turn s) := canon_turn hm
  unfold coreTurn
  split
  · next h => exact (h ▸ ht : PrepCanon (.done _))
  · next i t h => exact outCanon_exec i (h ▸ ht : PrepCanon (.run i t))

theorem outCanon_beretAtWord {w : Option Nat} {s : State} (hm : Canon s.mem) : OutCanon (beretAtWord w s) := by
  unfold beretAtWord
  split
  · exact outCanon_beretStep (fun _ _ _ => outCanon_beretDone) hm
  · split
    · exact outCanon_exec _ hm
    · exact hm

theorem outCanon_beretTurn {q : Nat} {s : State} (hm : Canon s.mem) : OutCanon (beretTurn q s) := by
  unfold beretTurn
  extract_lets x fe t
  have ht : Canon t.mem := hm
  split
  · split
    · exact outCanon_execBeretStepLimit ht
    · exact outCanon_beretAtWord ht
  · exact ht

theorem outCanon_runTurn {m : Turn} {s : State} (hm : Canon s.mem) : OutCanon (runTurn m s) := by
  cases m with
  | event i => exact outCanon_runEvent hm
  | core c => exact outCanon_coreTurn (by rwa [focus_mem])
  | beret q => exact outCanon_beretTurn hm

/-- What an engine of a core does is one of the events. -/
theorem keeps_coreMoves {k : Core} : ∀ f ∈ coreMoves k, Keeps f := by
  unfold coreMoves
  simp only [List.forall_mem_append, List.forall_mem_cons, List.forall_mem_map]
  refine ⟨⟨⟨⟨⟨keeps_exec (.vectorIssue k.id .vlq .agree), keeps_exec (.vectorIssue k.id .vxq .agree),
    keeps_exec (.vectorIssue k.id .vsq .agree), List.forall_mem_nil _⟩, fun l _ => keeps_exec (.vectorLoadCompletion k.id l.env.seqn)⟩,
    fun n _ => keeps_exec (.vectorStoreCompletion k.id n)⟩,
    keeps_exec (.mittFill k.id .agree), keeps_exec (.matrixIssue k.id), keeps_exec (.matrixCompletion k.id .array),
    keeps_exec (.matrixCompletion k.id .port), keeps_exec (.lineRefetch k.id), keeps_exec (.watermarkRecheck k.id),
    keeps_exec (.taskSave k.id), keeps_exec (.endCompletion k.id), List.forall_mem_nil _⟩, ?_⟩
  split
  · split
    · exact List.forall_mem_singleton.mpr (keeps_exec (.scalarDataReturn k.id 0))
    · exact List.forall_mem_nil _
  · exact List.forall_mem_nil _

theorem keeps_queueMoves {x : Queue} : ∀ f ∈ queueMoves x, Keeps f := by
  unfold queueMoves
  simp only [List.forall_mem_cons]
  exact ⟨keeps_exec (.packetFetch x.q), keeps_exec (.packetRefetch x.q), keeps_exec (.launch x.q), keeps_exec (.image x.q),
    keeps_exec (.barrier x.q), keeps_exec (.signal x.q), keeps_exec (.copy x.q), keeps_exec (.nopPacket x.q), keeps_exec (.frame x.q),
    keeps_exec (.barrierEvaluation x.q), keeps_exec (.placementResume x.q), List.forall_mem_nil _⟩

theorem keeps_ownMoves {s : State} : ∀ f ∈ ownMoves s, Keeps f := by
  unfold ownMoves
  simp only [List.forall_mem_append, List.forall_mem_map, List.forall_mem_flatMap, List.forall_mem_cons]
  exact ⟨⟨⟨⟨⟨⟨⟨⟨fun _ _ => keeps_coreMoves,
    fun t _ => ⟨keeps_exec (.streamStart t.id), keeps_exec (.streamCompletion t.id), keeps_exec (.streamError t.id),
      List.forall_mem_nil _⟩⟩,
    fun c _ => keeps_exec (.nmePerformed c.id)⟩, fun o _ => keeps_exec (.fabricAcceptance o.id [] [])⟩,
    fun w _ => keeps_exec (.latchGrant w.pa)⟩,
    fun _ _ => ⟨fun t _ => keeps_exec (.invalidationRequest t), fun t _ => keeps_exec (.invalidationAck t)⟩⟩,
    fun _ _ => keeps_queueMoves⟩, fun c _ => keeps_exec (.readyQueueArbitration c)⟩, fun k _ => keeps_exec (.preemptionRequest k)⟩

theorem outCanon_tryMoves {l : List (State → Out)} {s : State} {o : Out} (hl : ∀ f ∈ l, Keeps f) (hm : Canon s.mem)
    (h : tryMoves l s = some o) : OutCanon o := by
  induction l with
  | nil => cases h
  | cons f r ih =>
    obtain ⟨hf, hr⟩ := List.forall_mem_cons.mp hl
    have hfs : OutCanon (f s) := hf s hm
    unfold tryMoves at h
    split at h
    · next hn =>
      split at h
      · exact ih hr h
      · exact Option.some.inj h ▸ hn ▸ hfs
    · exact Option.some.inj h ▸ hfs

theorem outCanon_ownMove {s : State} (hm : Canon s.mem) : OutCanon (ownMove s) := by
  unfold ownMove
  split
  · exact outCanon_coreTurn hm
  · split
    · next h =>
      have ht : OutCanon (.next _) := outCanon_tryMoves keeps_ownMoves hm h
      exact outCanon_next.mpr (by rwa [wakeAll_mem])
    · next h => exact outCanon_tryMoves keeps_ownMoves hm h
    · split
      · exact outCanon_beretTurn hm
      · split
        · exact outCanon_coreTurn (by rwa [focus_mem])
        · exact outCanon_next.mpr (by rwa [wakeAll_mem])

theorem outCanon_move {s : State} (hm : Canon s.mem) : OutCanon (move s) := by
  unfold move
  split
  · split
    · exact hm
    · exact outCanon_ownMove hm
  · extract_lets t
    have ht : Canon t.mem := hm
    split
    · split
      · split
        · exact outCanon_exec _ ht
        · exact ht
      · exact ht
    · exact outCanon_runTurn ht

/-- Settles O7: whatever moves, what it does to memory is a sequence of byte writes and clearings, and each keeps the canonical form
(`memWf_memWrite`, `memWf_filter`). -/
theorem memoryCanonical : Obligations.MemoryCanonical := by
  unfold Obligations.MemoryCanonical
  intro s t hm h
  have hs : OutCanon (step s) := outCanon_move hm
  exact (h ▸ hs : OutCanon (.next t))

end Sys2Proof.Proofs
end

section
/-! Scalar accesses that reach plain bytes (R103, R123, R168, R331): the state they are performed in, and what every operation on such bytes
keeps. -/

namespace Sys2Proof.Proofs

open Sys2Proof.Machine Sys2Proof.Safety

/-- `t` differs from `s` at most in what the way to a home uses up: translation structures, choices and budgets. -/
def TransitOnly (s t : State) : Prop := t = { s with tlb := t.tlb, choices := t.choices, budgets := t.budgets }

theorem TransitOnly.trans {s t u : State} (h1 : TransitOnly s t) (h2 : TransitOnly t u) : TransitOnly s u := by
  unfold TransitOnly at *
  rw [h2, h1]

theorem TransitOnly.of_tlbOnly {s t : State} (h : TlbOnly s t) : TransitOnly s t := by
  rw [TransitOnly, h]

theorem transitOnly_chargeMem (r : Region) (pa n : Nat) (s : State) : TransitOnly s (chargeMem r pa n s) := by
  rw [chargeMem_eq]
  rfl

theorem transitOnly_chargeAll (r : Region) (bs : List (Nat × Nat)) (s : State) : TransitOnly s (chargeAll r bs s) := by
  rw [chargeAll_eq]
  rfl

theorem TransitOnly.core {s t : State} (h : TransitOnly s t) : t.core = s.core := by rw [h]
theorem TransitOnly.mem {s t : State} (h : TransitOnly s t) : t.mem = s.mem := by rw [h]
theorem TransitOnly.fe {s t : State} (h : TransitOnly s t) : t.fe = s.fe := by rw [h]
theorem TransitOnly.out {s t : State} (h : TransitOnly s t) : t.out = s.out := by rw [h]
theorem TransitOnly.others {s t : State} (h : TransitOnly s t) : t.others = s.others := by rw [h]

theorem TransitOnly.isPoisoned {s t : State} (h : TransitOnly s t) (pa n : Nat) : isPoisoned t pa n = isPoisoned s pa n := by
  rw [h]
  rfl

theorem TransitOnly.coreFrame {s t : State} (h : TransitOnly s t) : CoreFrame s t := by
  rw [h]
  exact coreFrame_refl s

theorem TransitOnly.memoryFrame_of {s t u : State} (h : TransitOnly s t) (hf : MemoryFrame t u) : MemoryFrame s u := by
  rw [h] at hf
  exact hf

theorem TransitOnly.sameHead {s t : State} (h : TransitOnly s t) : SameHead s t := by
  rw [h]
  exact ⟨rfl, rfl, rfl⟩

/-- The state in which an access of `n` bytes at `pa` is performed at once: its bytes charged, the choice of its chip's link taken. -/
def crossed (pa n : Nat) (s : State) : State := afterLink (chargeMem s.core.seq.eff pa n s) pa

theorem tlbOnly_afterLink (s : State) (pa : Nat) : TlbOnly s (afterLink s pa) := by
  unfold afterLink
  split
  · exact tlbOnly_popChoice s
  · exact TlbOnly.refl s

theorem transitOnly_crossed (pa n : Nat) (s : State) : TransitOnly s (crossed pa n s) :=
  (transitOnly_chargeMem _ _ _ s).trans (.of_tlbOnly (tlbOnly_afterLink _ pa))

theorem popChoice_chargeMem (r : Region) (pa n : Nat) (s : State) : (popChoice (chargeMem r pa n s)).1 = (popChoice s).1 := by
  rw [chargeMem_eq]
  unfold popChoice
  cases s.choices <;> rfl

/-- An access that nothing holds, and whose budget has something left, is performed at once where its link is crossed at once. -/
theorem crossTo_atOnce {p : Phys} {n : Nat} {f : State → Out} {s : State} (hm : memOk s s.core.seq.eff p.pa = true)
    (ha : AtOnce s p.pa) : crossTo p n none f s = f (crossed p.pa n s) := by
  unfold crossed afterLink
  by_cases hp : ∃ c, place p.pa = .tier c
  · obtain ⟨c, hc⟩ := hp
    rw [crossTo_tier_now hm hc (Prod.ext ((popChoice_chargeMem _ _ _ s).trans (ha c hc)) rfl), hc]
  · rw [crossTo_near hm fun c hc => hp ⟨c, hc⟩]
    split
    · exact absurd ⟨_, ‹_›⟩ hp
    · rfl

theorem isRemote_of_plainPlace {pa : Nat} (h : PlainPlace pa) : isRemote pa = false := by
  unfold isRemote
  rcases h with h | ⟨c, h⟩ | ⟨c, o, h⟩ <;> rw [h]

section Reached

variable {acc : Acc} {va : Word} {m : Nat} {s s1 : State} {p : Phys}

theorem reached_transitOnly (h : Reached s acc va m s1 p) : TransitOnly s s1 := by
  obtain ⟨-, -, ht, -⟩ := h
  have := tlbOnly_transS acc va s
  rw [ht] at this
  exact .of_tlbOnly this

theorem reached_crossed (h : Reached s acc va m s1 p) (n : Nat) : TransitOnly s (crossed p.pa n s1) :=
  (reached_transitOnly h).trans (transitOnly_crossed _ _ _)

theorem reached_isRemote (h : Reached s acc va m s1 p) : isRemote p.pa = false := by
  obtain ⟨-, -, -, ⟨hp, -⟩, -⟩ := h
  exact isRemote_of_plainPlace hp

theorem reached_notPoisoned (h : Reached s acc va m s1 p) {t : State} (ht : TransitOnly s t) : isPoisoned t p.pa m = false := by
  obtain ⟨-, -, -, ⟨-, hp⟩, -⟩ := h
  rw [ht.isPoisoned, hp]

/-- An access that reaches plain bytes, which nothing more holds back, is performed on them. -/
theorem reached_reachS_eq (h : Reached s acc va m s1 p) (n : Nat) {held : Nat → State → Option Bool} {f : Phys → State → Out}
    (hh : held p.pa s1 = none) : reachS acc va n held f s = f p (crossed p.pa n s1) := by
  obtain ⟨-, ⟨hf, hw⟩, ht, -, hm, ha⟩ := h
  rw [reachS_fresh hf hw ht, hh, crossTo_atOnce hm ha]

theorem reached_reachPoint_eq (h : Reached s acc va m s1 p) (n : Nat) {held : Nat → State → Option Bool} {f : Phys → State → Out}
    (hh : held p.pa s1 = none) : reachPoint acc va n held f s = f p (crossed p.pa n s1) := by
  have hp := h
  obtain ⟨-, ⟨-, hw⟩, -, -, hm, -⟩ := hp
  rw [reachPoint, hw, Bool.and_false, if_neg (by decide)]
  exact reached_reachS_eq h n (by simp [hm, hh])

theorem reached_farHeld (h : Reached s acc va m s1 p) (vc : Nat) (t : State) : farHeld vc p.pa t = none := by
  simp [Machine.farHeld, reached_isRemote h]

end Reached

/-! ### What an operation on plain bytes keeps -/

theorem coreFrame_setS (s : State) (d : SReg) (v : Word) : CoreFrame s (setS s d v) := by
  rw [setS_eq]
  exact coreFrame_refl s

theorem memoryFrame_of_coreFrame {s t : State} (h : CoreFrame s t) (hf : t.fe = s.fe) (hl : t.core.seq.latches = s.core.seq.latches)
    (ho : t.out = s.out) : MemoryFrame s t := by
  obtain ⟨hv, ht, hs, hd, hoth, hsl, hc, hn, hfab, hw⟩ := h
  exact ⟨hv, ht, hs, hd, ⟨hf, hoth, hsl⟩, hc, hn, hfab, hl, hw, ho⟩

/-- A memory operation whose work takes `s` to `u`, at the same head, completes. -/
theorem stores_of_done {i : Instr} {s u : State} {ws : List SReg} {pa n : Nat} {post : State → Prop} (he : exec i s = done u)
    (hh : SameHead s u) (hr : RegsKept ws s u) (hm : MemKeptOutside pa n s u) (hf : MemoryFrame s u) (hp : post (advance u)) :
    Stores i s ws pa n post :=
  ⟨advance u, he, hp, getS_zero _, hr, flowsOn_advance hh, hm, hf⟩

theorem regsKept_setS_of_regs {s u : State} (h : u.core.seq.regs = s.core.seq.regs) (d : SReg) (v : Word) : RegsKept [d] s (setS u d v) :=
  fun r hr => (getS_setS_other u d r v (by simpa using hr)).trans (regsKept_of_regs [] h r (by simp))

end Sys2Proof.Proofs
end

section
/-! AMO and CAS (R74, R142, R166, R167). -/

namespace Sys2Proof.Proofs

open Sys2Proof.Machine Sys2Proof.Safety

/-- How many bytes an atomic accesses. -/
def atomicSize (w64 : Bool) : Nat := if w64 then 8 else 4

/-- The memory after an atomic on `n` bytes at `pa` that writes `y`, if anything (R166, R167). -/
def atomicPut (pa n : Nat) (y : Option Nat) (s : State) : State :=
  match y with
  | some y => s.wr pa n y
  | none => s

/-- The state after an atomic that is performed at its home, before control goes on. -/
def atomicDone (d : SReg) (pa n : Nat) (op : AtomicOp) (s : State) : State :=
  let old := memRead s.mem pa n
  bumpNum (setS (dcUpdate pa (atomicPut pa n (atomicFn op (8 * n) old) (commitTask s))) d (BitVec.ofNat 64 old))

theorem atomicAt_reached {d : SReg} {w64 : Bool} {va : Word} {op : AtomicOp} {s s1 : State} {p : Phys}
    (h : Reached s .rw va (atomicSize w64) s1 p) :
    atomicAt d w64 va op s = done (atomicDone d p.pa (atomicSize w64) op (crossed p.pa (atomicSize w64) s1)) := by
  have hp := reached_notPoisoned h (reached_crossed h (atomicSize w64))
  refine (if_neg (not_not.2 h.1)).trans ?_
  refine (reached_reachS_eq h (atomicSize w64) (reached_farHeld h 2 s1)).trans ?_
  simp only [reached_isRemote h, Bool.false_eq_true, if_false]
  rw [if_neg (by simpa [atomicSize] using hp)]
  rfl

section Done

variable (d : SReg) (pa n : Nat) (op : AtomicOp) (s : State)

theorem atomicPut_core (y : Option Nat) : (atomicPut pa n y s).core = s.core := by cases y <;> rfl
theorem atomicPut_fe (y : Option Nat) : (atomicPut pa n y s).fe = s.fe := by cases y <;> rfl
theorem atomicPut_out (y : Option Nat) : (atomicPut pa n y s).out = s.out := by cases y <;> rfl
theorem coreFrame_atomicPut (y : Option Nat) : CoreFrame s (atomicPut pa n y s) := by cases y <;> exact coreFrame_refl s

theorem memKept_atomicPut (h : MemWf s.mem) (y : Option Nat) : MemKeptOutside pa n s (atomicPut pa n y s) := by
  cases y with
  | none => exact fun _ _ => rfl
  | some y => exact fun a ha => memGet_wr_outside h y ha

theorem memRead_atomicPut (h : MemWf s.mem) (y : Option Nat) (hy : ∀ x ∈ y, x < 256 ^ n) :
    memRead (atomicPut pa n y s).mem pa n = y.getD (memRead s.mem pa n) := by
  cases y with
  | none => rfl
  | some y => exact (rd_wr h pa n y).trans (Nat.mod_eq_of_lt (hy y rfl))

theorem atomicDone_mem : (atomicDone d pa n op s).mem = (atomicPut pa n (atomicFn op (8 * n) (memRead s.mem pa n)) s).mem := by
  unfold atomicDone
  rw [bumpNum_mem, setS_mem, dcUpdate_mem]
  cases atomicFn op (8 * n) (memRead s.mem pa n) <;> rfl

theorem getS_atomicDone (hd : d ≠ 0) : getS (atomicDone d pa n op s) d = BitVec.ofNat 64 (memRead s.mem pa n) :=
  getS_setS_self _ d _ hd

theorem atomicDone_cmt : (atomicDone d pa n op s).core.seq.cmt = true := by
  show (setS _ _ _).core.seq.cmt = _
  rw [setS_eq]
  show (atomicPut _ _ _ _).core.seq.cmt = _
  rw [atomicPut_core]
  rfl

theorem atomicDone_latches : (atomicDone d pa n op s).core.seq.latches = s.core.seq.latches := by
  show (setS _ _ _).core.seq.latches = _
  rw [setS_eq]
  show (atomicPut _ _ _ _).core.seq.latches = _
  rw [atomicPut_core]
  rfl

theorem memoryFrame_atomicDone : MemoryFrame s (atomicDone d pa n op s) := by
  refine memoryFrame_of_coreFrame ?_ ?_ (atomicDone_latches d pa n op s) ?_
  · exact coreFrame_trans (coreFrame_commitTask s) (coreFrame_trans (coreFrame_atomicPut _ _ _ _)
      (coreFrame_trans (coreFrame_dcUpdate _ _) (coreFrame_trans (coreFrame_setS _ _ _) (coreFrame_bumpNum _))))
  · show (setS _ _ _).fe = _
    rw [setS_eq]
    exact atomicPut_fe _ _ _ _
  · show (setS _ _ _).out = _
    rw [setS_eq]
    exact atomicPut_out _ _ _ _

theorem regsKept_atomicDone : RegsKept [d] s (atomicDone d pa n op s) := by
  refine regsKept_setS_of_regs ?_ d _
  show (atomicPut _ _ _ _).core.seq.regs = _
  rw [atomicPut_core]
  rfl

theorem sameHead_atomicDone : SameHead s (atomicDone d pa n op s) := by
  simp [SameHead, atomicDone, bumpNum, dcUpdate, atomicPut_core, commitTask]

end Done

/-- An atomic that reaches plain bytes completes: the old value is in its register, what its operation gives in memory (R74, R142). -/
theorem atomic_stores {i : Instr} {d : SReg} {w64 : Bool} {va : Word} {op : AtomicOp} {s s1 : State} {p : Phys}
    (hwf : MemWf s.mem) (h : Reached s .rw va (atomicSize w64) s1 p) (he : exec i s = atomicAt d w64 va op s)
    (hy : ∀ x ∈ atomicFn op (8 * atomicSize w64) (memRead s.mem p.pa (atomicSize w64)), x < 256 ^ atomicSize w64) :
    Stores i s [d] p.pa (atomicSize w64) fun t =>
      (d ≠ 0 → getS t d = BitVec.ofNat 64 (memRead s.mem p.pa (atomicSize w64))) ∧
      memRead t.mem p.pa (atomicSize w64) =
        (atomicFn op (8 * atomicSize w64) (memRead s.mem p.pa (atomicSize w64))).getD (memRead s.mem p.pa (atomicSize w64)) ∧
      t.core.seq.cmt = true := by
  generalize hn : atomicSize w64 = n at *
  have htr := reached_crossed h n
  rw [atomicAt_reached (hn.symm ▸ h), hn] at he
  generalize crossed p.pa n s1 = u at htr he
  have hu : MemWf u.mem := by rwa [htr.mem]
  have hk : MemKeptOutside p.pa n u (atomicDone d p.pa n op u) := fun a ha => by
    unfold byteAt
    rw [atomicDone_mem]
    exact memKept_atomicPut _ _ _ hu _ a ha
  refine stores_of_done he ?_ ?_ ?_ ?_ ⟨fun hd => ?_, ?_, ?_⟩
  · rw [SameHead, ← htr.core]
    exact sameHead_atomicDone d p.pa n op u
  · intro r hr
    exact (regsKept_atomicDone d p.pa n op u r hr).trans (getS_of_core htr.core r)
  · intro a ha
    exact (hk a ha).trans (by unfold byteAt; rw [htr.mem])
  · exact htr.memoryFrame_of (memoryFrame_atomicDone d p.pa n op u)
  · rw [getS_advance, getS_atomicDone d p.pa n op u hd, htr.mem]
  · rw [advance_mem, atomicDone_mem, memRead_atomicPut _ _ _ hu _ (by rwa [htr.mem]), htr.mem]
  · rw [advance_cmt, atomicDone_cmt]

theorem pow_atomicBits (n : Nat) : 2 ^ (8 * n) = 256 ^ n := pow_mul 2 8 n

/-- An atomic operation on two values of `n` bytes gives one of `n` bytes (R166). -/
theorem amoFn_lt (op : AmoOp) {n a b : Nat} (ha : a < 256 ^ n) (hb : b < 256 ^ n) : amoFn op (8 * n) a b < 256 ^ n := by
  have hmin : ∀ c : Prop, ∀ _ : Decidable c, (if c then a else b) < 256 ^ n := fun c _ => by split <;> assumption
  have hmax : ∀ c : Prop, ∀ _ : Decidable c, (if c then b else a) < 256 ^ n := fun c _ => by split <;> assumption
  rw [← pow_atomicBits] at *
  cases op with
  | add => exact Nat.mod_lt _ (Nat.two_pow_pos _)
  | and => exact Nat.and_lt_two_pow a hb
  | or => exact Nat.or_lt_two_pow ha hb
  | xor => exact Nat.xor_lt_two_pow ha hb
  | min => exact hmin _ _
  | max => exact hmax _ _
  | minz => exact (Nat.min_le_left a b).trans_lt ha
  | maxz => exact max_lt ha hb
  | swap => exact hb

theorem execAmo_eq (op : AmoOp) (d b a : SReg) (sc : Scope) (w64 : Bool) (disp : BitVec 16) (s : State) :
    exec (.amo op d b a sc w64 disp) s = atomicAt d w64 (getS s b + disp.signExtend 64)
      (.amo op ((getS s a).toNat % 2 ^ (8 * atomicSize w64))) s := by
  cases w64 <;> rfl

theorem execCas_eq (d b e nw : SReg) (sc : Scope) (w64 : Bool) (disp : BitVec 16) (s : State) :
    exec (.cas d b e nw sc w64 disp) s = atomicAt d w64 (getS s b + disp.signExtend 64)
      (.cas ((getS s e).toNat % 2 ^ (8 * atomicSize w64)) ((getS s nw).toNat % 2 ^ (8 * atomicSize w64))) s := by
  cases w64 <;> rfl

theorem mod_atomicBits_lt (x n : Nat) : x % 2 ^ (8 * n) < 256 ^ n := by
  rw [← pow_atomicBits]
  exact Nat.mod_lt _ (Nat.two_pow_pos _)

/-- Settles O22: both are an atomic at a home in the device (`atomic_stores`), AMO with one of its nine functions, CAS with the comparison;
what either writes has as many bits as its access. -/
theorem atomics : Obligations.Atomics := by
  unfold Obligations.Atomics
  refine ⟨?_, ?_⟩
  · intro d b a sc w64 disp s s1 p va n w old v sv holds hwf h
    have ho : old < 256 ^ n := memRead_lt _ _ _
    have hv : v < 256 ^ n := mod_atomicBits_lt _ _
    have key (op : AmoOp) : holds op (amoFn op w old v) :=
      atomic_stores hwf h (execAmo_eq op d b a sc w64 disp s) fun x hx => Option.mem_some.1 hx ▸ amoFn_lt op ho hv
    exact ⟨key .add, key .and, key .or, key .xor, key .min, key .max, key .minz, key .maxz, key .swap⟩
  · intro d b e nw sc w64 disp s s1 p va n old hwf h
    obtain ⟨t, ht, ⟨hd, hm, hc⟩, hr⟩ := atomic_stores hwf h (execCas_eq d b e nw sc w64 disp s) fun x hx => by
      simp only [atomicFn] at hx
      split at hx
      · exact Option.mem_some.1 hx ▸ mod_atomicBits_lt _ _
      · exact absurd hx (Option.not_mem_none x)
    refine ⟨t, ht, ⟨hd, hc, hm.trans ?_⟩, hr⟩
    simp only [atomicFn]
    exact apply_ite (fun o => Option.getD o _) _ _ _

end Sys2Proof.Proofs
end

section
/-! Synchronisation at a home in the device: what an operation on it can change besides memory, and how it ends (R12, R76 to R79, R171). -/

namespace Sys2Proof.Proofs

open Sys2Proof.Machine Sys2Proof.Safety

/-- `t` differs from `s` at most in memory, in what the way there uses up, in the front end, and, in the current core, in the commit mark,
the cached lines, the latches held, the polling mark and the program-order number. -/
def SyncOnly (s t : State) : Prop :=
  t = { s with
    mem := t.mem, poison := t.poison, frameSlots := t.frameSlots, tlb := t.tlb, choices := t.choices, budgets := t.budgets, fe := t.fe
    core := { s.core with
      seq := { s.core.seq with cmt := t.core.seq.cmt, dcache := t.core.seq.dcache, latches := t.core.seq.latches, polls := t.core.seq.polls }
      vec := { s.core.vec with num := t.core.vec.num } } }

theorem SyncOnly.trans {s t u : State} (h1 : SyncOnly s t) (h2 : SyncOnly t u) : SyncOnly s u := by
  unfold SyncOnly at *
  rw [h2, h1]

theorem SyncOnly.refl (s : State) : SyncOnly s s := rfl

theorem TransitOnly.syncOnly {s t : State} (h : TransitOnly s t) : SyncOnly s t := by
  rw [h]
  rfl

theorem syncOnly_of_memOnly {s t : State} (h : MemOnly s t) : SyncOnly s t := by
  rw [h]
  rfl

theorem syncOnly_commitTask (s : State) : SyncOnly s (commitTask s) := rfl
theorem syncOnly_dcUpdate (pa : Nat) (s : State) : SyncOnly s (dcUpdate pa s) := rfl
theorem syncOnly_bumpNum (s : State) : SyncOnly s (bumpNum s) := rfl

theorem SyncOnly.sameHead {s t : State} (h : SyncOnly s t) : SameHead s t := by
  rw [h]
  exact ⟨rfl, rfl, rfl⟩

theorem SyncOnly.coreFrame {s t : State} (h : SyncOnly s t) : CoreFrame s t := by
  rw [h]
  exact coreFrame_refl s

theorem SyncOnly.regs {s t : State} (h : SyncOnly s t) : t.core.seq.regs = s.core.seq.regs := by rw [h]

theorem finishes_of_syncOnly {i : Instr} {s u : State} {rs : List (Nat × Nat)} {post : State → Prop} (he : exec i s = done u)
    (h : SyncOnly s u) (hm : MemKeptOff rs s u) (hp : post (advance u)) : Finishes i s [] rs post :=
  finishes_of_done he h.sameHead (regsKept_of_regs [] h.regs) hm h.coreFrame hp

/-- Bytes that stay stay between any two states with these memories. -/
theorem memKeptOff_congr {rs : List (Nat × Nat)} {s s' t t' : State} (hs : s'.mem = s.mem) (ht : t'.mem = t.mem)
    (h : MemKeptOff rs s t) : MemKeptOff rs s' t' := fun a ha => by
  unfold byteAt
  rw [hs, ht]
  exact h a ha

theorem memKeptOff_trans {rs : List (Nat × Nat)} {s t u : State} (h1 : MemKeptOff rs s t) (h2 : MemKeptOff rs t u) : MemKeptOff rs s u :=
  fun a ha => (h2 a ha).trans (h1 a ha)

/-- A write of bytes that lie in a range keeps the bytes outside it. -/
theorem memKeptOff_wr_in {s : State} (h : MemWf s.mem) {pa n lo k : Nat} (x : Nat) (hl : lo ≤ pa) (hu : pa + n ≤ lo + k) :
    MemKeptOff [(lo, k)] s (s.wr pa n x) := fun a ha => by
  have := ha (lo, k) (by simp)
  exact memGet_wr_outside h x (by omega)

end Sys2Proof.Proofs
end

section
/-! SIGDEC, SIGWAIT, and the events that wake a waiting core and grant a latch (R79, R116, R171). -/

namespace Sys2Proof.Proofs

open Sys2Proof.Machine Sys2Proof.Safety

/-! ### The waiter list of a signal -/

theorem memOnly_delWaiter (pa e : Nat) (s : State) : MemOnly s (delWaiter pa e s) :=
  memOnly_foldl (fun u i => by
    split
    · exact memOnly_wr u _ _ _
    · exact MemOnly.refl u) _ s

theorem memOnly_addWaiter (pa e : Nat) (s : State) : MemOnly s (addWaiter pa e s) := by
  unfold addWaiter
  extract_lets es
  split
  · exact MemOnly.refl s
  · split <;> exact memOnly_wr s _ _ _

/-- Taking an entry out of the list of a signal touches the list alone. -/
theorem memKeptOff_delWaiter {s : State} (h : MemWf s.mem) (pa e : Nat) : MemKeptOff [(pa + 32, 32)] s (delWaiter pa e s) := by
  have step (l : List Nat) (hl : ∀ i ∈ l, i < 4) : ∀ u : State, MemWf u.mem → MemKeptOff [(pa + 32, 32)] u
      (l.foldl (fun t i => if t.rd (pa + 32 + 8 * i) 8 = e then t.wr (pa + 32 + 8 * i) 8 0 else t) u) := by
    induction l with
    | nil => exact fun u _ _ _ => rfl
    | cons i l ih =>
      intro u hu
      have hi : i < 4 := hl i (by simp)
      have ih := ih fun j hj => hl j (List.mem_cons_of_mem i hj)
      rw [List.foldl_cons]
      split
      · exact memKeptOff_trans (memKeptOff_wr_in hu 0 (by omega) (by omega)) (ih _ (memWf_wr _ _ _ hu))
      · exact ih u hu
  exact step _ (fun i hi => List.mem_range.1 hi) s h

/-- Entering a waiter touches the list of a signal and its overflow bit. -/
theorem memKeptOff_addWaiter {s : State} (h : MemWf s.mem) (pa e : Nat) : MemKeptOff [(pa + 31, 33)] s (addWaiter pa e s) := by
  unfold addWaiter
  extract_lets es
  split
  · exact fun _ _ => rfl
  · split
    next i hi =>
      have : i < 4 := List.mem_range.1 (List.mem_of_find?_eq_some hi)
      exact memKeptOff_wr_in h _ (by omega) (by omega)
    · exact memKeptOff_wr_in h _ (by omega) (by omega)

/-! ### SIGDEC and SIGWAIT -/

section Signal

variable {a : SReg} {s s1 : State} {p : Phys}

/-- A signal that is aligned, translates to plain bytes and is reached at once is operated on. -/
theorem withSignal_reached (h : Reached s .rw (getS s a) 64 s1 p) (wait : Bool) {held : Nat → State → Option Bool}
    {f : Nat → State → Out} (hh : held p.pa s1 = none) : withSignal wait a held f s = f p.pa (crossed p.pa 8 s1) := by
  have hp : isPoisoned (crossed p.pa 8 s1) p.pa 64 = false := reached_notPoisoned h (reached_crossed h 8)
  have he : f p.pa (crossed p.pa 8 s1) =
      if isPoisoned (crossed p.pa 8 s1) p.pa 64 then trapHere 0x26 (getS s a) (crossed p.pa 8 s1) else f p.pa (crossed p.pa 8 s1) := by
    rw [hp]
    rfl
  rw [he]
  refine (if_neg (not_not.2 h.1)).trans ?_
  cases wait with
  | true => exact reached_reachPoint_eq h 8 hh
  | false =>
    rw [if_neg (by decide)]
    exact reached_reachS_eq h 8 hh

/-- A decrement of a signal is performed, and the task committed. -/
theorem execSigdec_reached (h : Reached s .rw (getS s a) 64 s1 p) (sc : Scope) (count : BitVec 24) : exec (.sigdec a sc count) s =
    done (bumpNum (dcUpdate p.pa (sigDec p.pa count.toNat 0x100 (commitTask (crossed p.pa 8 s1))))) := by
  show execSigdec a sc count s = _
  unfold execSigdec
  rw [withSignal_reached h false (reached_farHeld h 2 s1), reached_isRemote h]
  rfl

theorem sigdec_finishes (hwf : MemWf s.mem) (h : Reached s .rw (getS s a) 64 s1 p) (sc : Scope) (count : BitVec 24) :
    Finishes (.sigdec a sc count) s [] [(p.pa, 12)] fun t =>
      (BitVec.ofNat 64 (memRead t.mem p.pa 8)).toInt = max (-(2 ^ 63)) ((BitVec.ofNat 64 (memRead s.mem p.pa 8)).toInt - count.toNat) ∧
      t.core.seq.cmt = true := by
  have he := execSigdec_reached h sc count
  have ht := reached_crossed h 8
  generalize crossed p.pa 8 s1 = u at he ht
  have hu : MemWf (commitTask u).mem := by rwa [commitTask_mem, ht.mem]
  have ho : MemOnly (commitTask u) (sigDec p.pa count.toNat 0x100 (commitTask u)) := memOnly_sigChange _ _ _ _
  have hs : SyncOnly s (sigDec p.pa count.toNat 0x100 (commitTask u)) :=
    ht.syncOnly.trans ((syncOnly_commitTask u).trans (syncOnly_of_memOnly ho))
  have hk : MemKeptOff [(p.pa, 12)] (commitTask u) (sigDec p.pa count.toNat 0x100 (commitTask u)) := fun b hb =>
    memGet_sigChange p.pa _ 0x100 hu (hb (p.pa, 12) (by simp))
  have hc : (sigDec p.pa count.toNat 0x100 (commitTask u)).core.seq.cmt = true := congrArg (·.seq.cmt) ho.core
  have hval := sigValue_sigChange p.pa (fun v => v - count.toNat) 0x100 hu
  rw [← sigDec] at hval
  generalize sigDec p.pa count.toNat 0x100 (commitTask u) = t at *
  refine finishes_of_syncOnly he (hs.trans ((syncOnly_dcUpdate _ _).trans (syncOnly_bumpNum _)))
    (memKeptOff_congr ht.mem.symm rfl hk) ⟨?_, hc⟩
  · refine hval.trans ?_
    have hv : sigValue (commitTask u) p.pa = (BitVec.ofNat 64 (memRead s.mem p.pa 8)).toInt := by
      rw [← ht.mem]
      rfl
    have hlt := BitVec.toInt_lt (x := BitVec.ofNat 64 (memRead s.mem p.pa 8))
    rw [hv]
    omega

/-- The polling mark of the current core is `b`. -/
def setPolls (b : Bool) (s : State) : State := setSeq s { s.core.seq with polls := b }

theorem syncOnly_setPolls (b : Bool) (s : State) : SyncOnly s (setPolls b s) := rfl

/-- The state after a SIGWAIT that goes on, the core taken off the list of waiters. -/
def waited (pa : Nat) (s : State) : State :=
  setPolls false (dcUpdate pa (delWaiter pa (coreWaiter s.core.id) (commitTask s)))

/-- The state of a SIGWAIT that waits, the core entered in the list of waiters: it polls where the list has no room. -/
def waiting (pa : Nat) (s : State) : State :=
  let t := addWaiter pa (coreWaiter s.core.id) (commitTask s)
  setPolls (!(List.range 4).any fun i => decide (t.rd (pa + 32 + 8 * i) 8 = coreWaiter s.core.id)) t

theorem execSigwait_reached (h : Reached s .rw (getS s a) 64 s1 p) (sc : Scope) : exec (.sigwait a sc) s =
    if (BitVec.ofNat 64 (memRead s.mem p.pa 8)).toInt ≤ 0 then done (bumpNum (waited p.pa (crossed p.pa 8 s1)))
    else stall true (waiting p.pa (crossed p.pa 8 s1)) := by
  have ht := reached_crossed h 8
  have hr := reached_isRemote h
  have hp : isPoisoned (crossed p.pa 8 s1) p.pa 8 = false := by
    have h64 := reached_notPoisoned h ht
    simp only [isPoisoned, List.any_eq_false, Bool.and_eq_true, decide_eq_true_eq, not_and] at h64 ⊢
    exact fun g hg hlt => h64 g hg (by omega)
  show execSigwait a sc s = _
  unfold execSigwait
  rw [withSignal_reached h true (reached_farHeld h 0 s1)]
  generalize crossed p.pa 8 s1 = u at ht hp ⊢
  have hx : u.rd p.pa 8 = memRead s.mem p.pa 8 := congrArg (memRead · p.pa 8) ht.mem
  simp only [homeRead_local hr, hr, hp, hx, Bool.false_eq_true, if_false, Bool.not_false, Bool.true_and, waited, waiting, setPolls]

theorem waited_syncOnly (pa : Nat) (u : State) : SyncOnly u (waited pa u) :=
  (syncOnly_commitTask u).trans ((syncOnly_of_memOnly (memOnly_delWaiter pa _ _)).trans
    ((syncOnly_dcUpdate pa _).trans (syncOnly_setPolls false _)))

theorem waiting_syncOnly (pa : Nat) (u : State) : SyncOnly u (waiting pa u) :=
  (syncOnly_commitTask u).trans ((syncOnly_of_memOnly (memOnly_addWaiter pa _ _)).trans (syncOnly_setPolls _ _))

theorem setPolls_cmt (b : Bool) (s : State) : (setPolls b s).core.seq.cmt = s.core.seq.cmt := rfl
theorem setPolls_mem (b : Bool) (s : State) : (setPolls b s).mem = s.mem := rfl
theorem dcUpdate_cmt (pa : Nat) (s : State) : (dcUpdate pa s).core.seq.cmt = s.core.seq.cmt := rfl

theorem waited_cmt (pa : Nat) (u : State) : (waited pa u).core.seq.cmt = true := by
  rw [waited, setPolls_cmt, dcUpdate_cmt, (memOnly_delWaiter pa _ _).core]
  rfl

theorem waiting_cmt (pa : Nat) (u : State) : (waiting pa u).core.seq.cmt = true := by
  rw [waiting, setPolls_cmt, (memOnly_addWaiter pa _ _).core]
  rfl

theorem waited_mem {u : State} (h : MemWf u.mem) (pa : Nat) : MemKeptOff [(pa + 32, 32)] u (waited pa u) :=
  memKeptOff_congr commitTask_mem.symm (by rw [waited, setPolls_mem, dcUpdate_mem])
    (memKeptOff_delWaiter (s := commitTask u) (by rwa [commitTask_mem]) pa (coreWaiter u.core.id))

theorem waiting_mem {u : State} (h : MemWf u.mem) (pa : Nat) : MemKeptOff [(pa + 31, 33)] u (waiting pa u) :=
  memKeptOff_congr commitTask_mem.symm (setPolls_mem _ _)
    (memKeptOff_addWaiter (s := commitTask u) (by rwa [commitTask_mem]) pa (coreWaiter u.core.id))

theorem sigwait_finishes (hwf : MemWf s.mem) (h : Reached s .rw (getS s a) 64 s1 p) (sc : Scope)
    (hv : (BitVec.ofNat 64 (memRead s.mem p.pa 8)).toInt ≤ 0) :
    Finishes (.sigwait a sc) s [] [(p.pa + 32, 32)] fun t => t.core.seq.cmt = true ∧ t.core.seq.polls = false := by
  have he := (execSigwait_reached h sc).trans (if_pos hv)
  have ht := reached_crossed h 8
  generalize crossed p.pa 8 s1 = u at he ht
  have hs := ht.syncOnly.trans (waited_syncOnly p.pa u)
  have hk := waited_mem (ht.mem.symm ▸ hwf) p.pa
  have hc := waited_cmt p.pa u
  have hp : (waited p.pa u).core.seq.polls = false := rfl
  generalize waited p.pa u = t at *
  exact finishes_of_syncOnly he (hs.trans (syncOnly_bumpNum t)) (memKeptOff_congr ht.mem.symm rfl hk) ⟨hc, hp⟩

theorem sigwait_waits (hwf : MemWf s.mem) (h : Reached s .rw (getS s a) 64 s1 p) (sc : Scope)
    (hv : 0 < (BitVec.ofNat 64 (memRead s.mem p.pa 8)).toInt) :
    ∃ t, exec (.sigwait a sc) s = .next t ∧ t.core.seq.pc = s.core.seq.pc ∧ t.core.seq.stall = true ∧ t.core.seq.cmt = true ∧
      RegsKept [] s t ∧ MemKeptOff [(p.pa + 31, 33)] s t ∧ CoreFrame s t := by
  have he := (execSigwait_reached h sc).trans (if_neg (not_le.2 hv))
  have ht := reached_crossed h 8
  generalize crossed p.pa 8 s1 = u at he ht
  have hs := ht.syncOnly.trans (waiting_syncOnly p.pa u)
  have hk := waiting_mem (ht.mem.symm ▸ hwf) p.pa
  have hc := waiting_cmt p.pa u
  generalize waiting p.pa u = t at *
  obtain ⟨hpc, -⟩ := hs.sameHead
  exact ⟨_, he, hpc, rfl, hc, regsKept_of_regs [] hs.regs, memKeptOff_congr ht.mem.symm rfl hk, hs.coreFrame⟩

end Signal

/-! ### Events -/

/-- A waiting core goes back to the head it waits at. -/
theorem sigwaitWake_resumes (c : Nat) (s : State) (h : (focus s c).core.seq.mode = .running) :
    ∃ u, exec (.sigwaitWake c) s = .next (focus u s.core.id) ∧ u.core.seq.stall = false ∧ u.core.seq.pc = (focus s c).core.seq.pc ∧
      RegsKept [] (focus s c) u ∧ MemKept s u ∧ CoreFrame (focus s c) u := by
  refine ⟨setSeq (focus s c) { (focus s c).core.seq with stall := false }, ?_, rfl, rfl, regsKept_of_regs [] rfl,
    memKept_of_mem (by simp), coreFrame_refl (focus s c)⟩
  show execSigwaitWake c s = _
  simp only [execSigwaitWake, onCore, h, if_true]

/-- What a grant writes and marks, before the core that waits is told. -/
def granted (pa : Nat) (w : LatchWait) (s : State) : State :=
  let t := s.wr pa 8 (2 ^ 63 + w.tid.toNat * 2 ^ 32 + s.rd pa 8 % 2 ^ 32)
  { t with fe := { t.fe with waits := t.fe.waits.map fun y => if y = w then { w with granted := true } else y } }

/-- The turn of core `c`, which waits for a grant as task `tid` or does not. -/
def told (tid : BitVec 31) (t : State) : State := if t.core.seq.tid = tid then setSeq t { t.core.seq with stall := false } else t

theorem told_mem (tid : BitVec 31) (t : State) : (told tid t).mem = t.mem := by
  unfold told
  split <;> rfl

theorem told_fe (tid : BitVec 31) (t : State) : (told tid t).fe = t.fe := by
  unfold told
  split <;> rfl

theorem latchGrant_grants {pa : Nat} {w : LatchWait} {s : State} (hwf : MemWf s.mem) (hp : PlainPlace pa)
    (hg : ∀ y ∈ s.fe.waits, y.pa = pa → y.granted = false) (hw : (s.fe.waits.find? fun y => decide (y.pa = pa)) = some w)
    (hfree : bitAt (memRead s.mem pa 8) 63 = false) :
    ∃ t, exec (.latchGrant pa) s = .next t ∧ memRead t.mem pa 8 = 2 ^ 63 + w.tid.toNat * 2 ^ 32 + memRead s.mem pa 8 % 2 ^ 32 ∧
      MemKeptOff [(pa, 8)] s t ∧ { w with granted := true } ∈ t.fe.waits := by
  have hnone : (s.fe.waits.any fun y => decide (y.pa = pa) && y.granted) = false := by
    simpa using hg
  have hr := isRemote_of_plainPlace hp
  have hmem : (onCore w.core (told w.tid) (granted pa w s)).mem = (granted pa w s).mem := by rw [onCore_mem, told_mem, focus_mem]
  have hfe : (onCore w.core (told w.tid) (granted pa w s)).fe = (granted pa w s).fe := by rw [onCore_fe, told_fe, focus_fe]
  refine ⟨onCore w.core (told w.tid) (granted pa w s), ?_, ?_, memKeptOff_congr rfl hmem (memKeptOff_wr hwf pa 8 _), ?_⟩
  · show execLatchGrant pa s = _
    simp only [execLatchGrant, hnone, hw, hr, State.rd, hfree]
    rfl
  · rw [hmem]
    refine (rd_wr hwf pa 8 _).trans (Nat.mod_eq_of_lt ?_)
    have := w.tid.isLt
    simp only [State.rd]
    omega
  · rw [hfe]
    exact List.mem_map.2 ⟨w, List.mem_of_find?_eq_some hw, if_pos rfl⟩

/-- Settles O28: SIGDEC is a change of the signal's value, SIGWAIT leaves or enters the list of waiters, the wake clears the stall of its
core alone, and the grant writes the first request's task into the latch. -/
theorem signalsAndWakes : Obligations.SignalsAndWakes := by
  unfold Obligations.SignalsAndWakes
  exact ⟨fun a sc count s s1 p hwf h => ⟨sigdec_finishes hwf h sc count, sigwait_finishes hwf h sc, sigwait_waits hwf h sc⟩,
    sigwaitWake_resumes, fun pa w s => latchGrant_grants⟩

end Sys2Proof.Proofs
end

section
/-! ACQ, TRYACQ and REL at a home in the device (R76 to R79, R169). -/

namespace Sys2Proof.Proofs

open Sys2Proof.Machine Sys2Proof.Safety

/-! ### Numbers read and written in parts -/

/-- A read is its first bytes and the rest. -/
theorem memRead_add (m : List Host.Cell) (n k : Nat) : ∀ a, memRead m a (n + k) = memRead m a n + 256 ^ n * memRead m (a + n) k := by
  induction n with
  | zero => intro a; simp [memRead]
  | succ n ih =>
    intro a
    rw [show n + 1 + k = n + k + 1 by omega]
    simp only [memRead]
    rw [ih, show a + 1 + n = a + (n + 1) by omega, Nat.pow_succ']
    ring

/-- Fewer bytes read at the same place are the low ones. -/
theorem memRead_prefix (m : List Host.Cell) (a n k : Nat) : memRead m a n = memRead m a (n + k) % 256 ^ n := by
  rw [memRead_add, Nat.add_mul_mod_self_left, Nat.mod_eq_of_lt (memRead_lt m n a)]

theorem bits_of_low {v w : Nat} (h : Nat) {lo k : Nat} (hw : lo + k ≤ w) : bits (v + 2 ^ w * h) lo k = bits v lo k := by
  obtain ⟨d, rfl⟩ := Nat.exists_eq_add_of_le hw
  unfold bits
  rw [show lo + k + d = lo + (k + d) by omega, pow_add, mul_assoc, Nat.add_mul_div_left _ _ (Nat.two_pow_pos lo), pow_add, mul_assoc,
    Nat.add_mul_mod_self_left]

theorem bits_of_high {v w : Nat} (hv : v < 2 ^ w) (h : Nat) {lo k : Nat} (hw : w ≤ lo) : bits (v + 2 ^ w * h) lo k = bits h (lo - w) k := by
  obtain ⟨d, rfl⟩ := Nat.exists_eq_add_of_le hw
  unfold bits
  rw [Nat.add_sub_cancel_left, pow_add, ← Nat.div_div_eq_div_mul, Nat.add_mul_div_left _ _ (Nat.two_pow_pos w), Nat.div_eq_of_lt hv,
    Nat.zero_add]

theorem bitAt_of_low {v w : Nat} (h : Nat) {k : Nat} (hw : k < w) : bitAt (v + 2 ^ w * h) k = bitAt v k := by
  have := bits_of_low (v := v) h (lo := k) (k := 1) hw
  simp only [bits, pow_one] at this
  rw [bitAt, bitAt, this]

/-- The first 64 bits of a latch say whether it is held, and by whom; the rest of a latch is the rest of its view (R76, R77). -/
theorem latchView_of_words {v x : Nat} (hv : v < 2 ^ 64) (hx : x < 2 ^ 64) (h : Nat) :
    latchView (v + 2 ^ 64 * h) = { latchView (x + 2 ^ 64 * h) with held := bitAt v 63, holder := bits v 32 31 } := by
  have low := bits_of_low (v := v) (w := 64) h (lo := 32) (k := 31) (by omega)
  have held := bitAt_of_low (v := v) (w := 64) h (k := 63) (by omega)
  have high {lo k : Nat} (hl : 64 ≤ lo) : bits (v + 2 ^ 64 * h) lo k = bits (x + 2 ^ 64 * h) lo k := by
    rw [bits_of_high hv h hl, bits_of_high hx h hl]
  simp only [latchView, low, held, high (lo := 64) (by omega), high (lo := 72) (by omega), high (lo := 128) (by omega),
    high (lo := 192 + 4) (by omega), high (lo := 67) (by omega), high (lo := 79) (by omega), high (lo := 144) (by omega),
    high (lo := 192) (by omega), high (lo := 244) (by omega), high (lo := 256) (by omega)]

/-- The view of a latch whose first eight bytes have been written. -/
theorem latchView_wr {s : State} (h : MemWf s.mem) (pa : Nat) {v : Nat} (hv : v < 2 ^ 64) :
    latchView (memRead (memWrite s.mem pa 8 v) pa 64) =
      { latchView (memRead s.mem pa 64) with held := bitAt v 63, holder := bits v 32 31 } := by
  have h1 : memRead (memWrite s.mem pa 8 v) pa 64 = v + 2 ^ 64 * memRead s.mem (pa + 8) 56 := by
    have h0 : memRead (memWrite s.mem pa 8 v) pa 8 = v := (memRead_memWrite 8 _ _ _ h).trans (Nat.mod_eq_of_lt hv)
    refine (memRead_add _ 8 56 pa).trans ?_
    rw [h0, memRead_memWrite_outside h v (by omega)]
    rfl
  have h2 : memRead s.mem pa 64 = memRead s.mem pa 8 + 2 ^ 64 * memRead s.mem (pa + 8) 56 := memRead_add s.mem 8 56 pa
  rw [h1, h2]
  exact latchView_of_words hv (memRead_lt s.mem 8 pa) _

/-! ### Where the regions of a latch stand -/

theorem rd_congr {s t : State} (h : t.mem = s.mem) : t.rd = s.rd := by
  funext pa n
  rw [State.rd, h]
  rfl

theorem pteAt_congr {s t : State} (h : t.mem = s.mem) : pteAt t = pteAt s := by
  funext tbl i
  rw [pteAt, rd_congr h]
  rfl

theorem upperAt_congr {s t : State} (h : t.mem = s.mem) : upperAt t = upperAt s := by
  funext tbl i
  rw [upperAt, rd_congr h]
  rfl

theorem lineOkSummary_congr {s t : State} (h : t.mem = s.mem) : lineOkSummary t = lineOkSummary s := by
  funext tbl k
  unfold lineOkSummary
  rw [pteAt_congr h, rd_congr h]

theorem walkLeaf_congr {s t : State} (h : t.mem = s.mem) : walkLeaf t = walkLeaf s := by
  funext tbl vp
  unfold walkLeaf
  rw [pteAt_congr h, lineOkSummary_congr h, rd_congr h]

theorem popChoice_nil {s : State} (h : s.choices = []) : popChoice s = (false, s) := by rw [popChoice, h]

/-- A walk that has no choice to take goes by the tables in memory, whatever the walk cache holds. -/
theorem walk_congr (site : TlbSite) (asn vp level : Nat) : ∀ (tbl : Nat) (s t : State), s.choices = [] → t.choices = [] → t.mem = s.mem →
    (walk site asn vp level tbl t).1 = (walk site asn vp level tbl s).1 := by
  induction level with
  | zero =>
    intro tbl s t _ _ h
    simp only [walk, walkLeaf_congr h]
    split <;> rfl
  | succ level ih =>
    intro tbl s t hs ht h
    unfold walk
    rw [upperAt_congr h]
    extract_lets lv i e ptr hitT staleT hitS staleS
    have use {u : State} (hu : u.choices = []) (b : Bool) : (if b = true then popChoice u else (false, u)) = (false, u) := by
      rw [popChoice_nil hu, ite_self]
    rw [use hs, use ht]
    clear staleT staleS
    have next := ih (bits e 16 40 * 4096) (addWalk s site asn lv vp (bits e 16 40)) (addWalk t site asn lv vp (bits e 16 40)) hs ht h
    clear_value hitT hitS
    rcases hitT with _ | f <;> rcases hitS with _ | g <;> simp only [apply_ite Prod.fst, next]

theorem whereIs_congr {s t : State} (hm : t.mem = s.mem) (hi : t.core.id = s.core.id) (he : t.core.seq.eff = s.core.seq.eff) :
    whereIs t = whereIs s := by
  funext va
  unfold whereIs
  rw [hi, he]
  have hw := walk_congr (.scalar s.core.id) s.core.seq.eff.asn (va / 4096) 4 (s.core.seq.eff.root * 4096) { s with choices := [] }
    { t with choices := [] } rfl rfl hm
  dsimp only
  rw [hw]

/-- Where regions stand goes by memory, the core and its task's tables. -/
theorem regionSpans_congr {s t : State} (hm : t.mem = s.mem) (hi : t.core.id = s.core.id) (he : t.core.seq.eff = s.core.seq.eff)
    (rs : List (Nat × Nat)) : regionSpans t rs = regionSpans s rs := by
  have hp (n : Nat) : ∀ va e, physSpans t n va e = physSpans s n va e := by
    induction n with
    | zero => exact fun _ _ => rfl
    | succ n ih =>
      intro va e
      simp only [physSpans, whereIs_congr hm hi he, ih]
  unfold regionSpans
  simp only [hp]

/-! ### What reaching a latch gives -/

theorem trapWaits_congr {s t : State} (h : t.core = s.core) : trapWaits t = trapWaits s := by
  unfold trapWaits transPending returnPending
  rw [h]

/-- An instruction that has reached its home and raises there, where a trap can be taken, enters it. -/
theorem enters_of_transit {i : Instr} {s u : State} {cause : Nat} {tval : Word} (hc : CanTrap s) (h : TransitOnly s u)
    (he : exec i s = trapHere cause tval u) : EntersTrap i s cause s.core.seq.pc tval := by
  have hcu : CanTrap u := by
    rwa [CanTrap, trapWaits_congr h.core, h.core]
  refine ⟨_, he, ?_⟩
  rw [enterTrap_eq cause _ tval hcu, h]
  simp [setSeq, RegsKept, getS, VectorKept, TilesKept, MemKept, byteAt, DeviceKept, OthersKept]

section Reached

variable {va : Word} {s s1 : State} {p : Phys} {l : LatchView}

theorem latchRegions_congr {s t : State} (h : t.mem = s.mem) : latchRegions t = latchRegions s := by
  funext l
  unfold latchRegions
  rw [rd_congr h]

theorem latchBad_congr {s t : State} (h : t.mem = s.mem) : latchBad t = latchBad s := by
  funext l
  unfold latchBad
  rw [latchRegions_congr h]

theorem latchTablePoison_transit {s t : State} (h : TransitOnly s t) (l : LatchView) : latchTablePoison t l = latchTablePoison s l := by
  unfold latchTablePoison
  rw [h.isPoisoned]

theorem tableOk_tlbOnly {s t : State} (h : TlbOnly s t) (l : LatchView) : tableOk t l = tableOk s l := by
  rw [h]
  rfl

/-- A latch that is reached is operated on as its home holds it; only an ACQ goes by a request that waits already. -/
theorem withLatch_reached (hl : LatchAt s s1 p va l) {a : SReg} (ha : getS s a = va) {acq : Bool}
    (hw : acq = true → getWait s p.pa = none) :
    ∃ u, TransitOnly s u ∧ ∀ (ask : State → LatchView → Option AtomicOp) (f : Nat → LatchView → State → Out),
      withLatch acq a ask f s = f p.pa l u := by
  obtain ⟨h, hview, hbad, hpoison, htab⟩ := hl
  have ht := reached_crossed h 64
  have ht1 := reached_transitOnly h
  have hr := reached_isRemote h
  have hp := reached_notPoisoned h ht
  have hok : tableOk (crossed p.pa 64 s1) l = true := (tableOk_tlbOnly (tlbOnly_afterLink _ p.pa) l).trans htab
  have hnone {t : State} (hst : TransitOnly s t) : (if acq = true then getWait t p.pa else none) = none := by
    have : getWait t p.pa = getWait s p.pa := by rw [getWait, hst.fe, hst.core, getWait]
    rw [this]
    cases acq with
    | true => exact hw rfl
    | false => rfl
  have hreach (held : Nat → State → Option Bool) (g : Phys → State → Out) (hh : held p.pa s1 = none) :
      (if acq = true then reachPoint else reachS) .rw va 64 held g s = g p (crossed p.pa 64 s1) := by
    cases acq with
    | true => exact reached_reachPoint_eq h 64 hh
    | false =>
      rw [if_neg (by decide)]
      exact reached_reachS_eq h 64 hh
  generalize crossed p.pa 64 s1 = u at ht hp hok hreach
  have hu : latchView (u.rd p.pa 64) = l := by rw [hview, State.rd, ht.mem]
  have htu := ht.trans (transitOnly_chargeAll s.core.seq.eff (latchTable l) u)
  subst ha
  refine ⟨_, htu, fun ask f => ?_⟩
  refine (if_neg (not_not.2 h.1)).trans ((hreach _ _ ?_).trans ?_)
  · simp only [hnone ht1, hr]
    rfl
  · simp only [hr, hnone ht, homeRead_local hr, hp, hu, hok, latchTablePoison_transit ht, hpoison, latchBad_congr htu.mem, hbad,
      Bool.false_eq_true, false_and, if_false, Bool.not_true, Bool.or_self]

end Reached

/-! ### Taking and freeing -/

/-- The first eight bytes of a latch that task `tid` holds, `x` those before (R76). -/
def heldWord (tid : BitVec 31) (x : Nat) : Nat := 2 ^ 63 + tid.toNat * 2 ^ 32 + x % 2 ^ 32

theorem heldWord_view (tid : BitVec 31) (x : Nat) :
    heldWord tid x < 2 ^ 64 ∧ bitAt (heldWord tid x) 63 = true ∧ bits (heldWord tid x) 32 31 = tid.toNat := by
  have := tid.isLt
  simp only [heldWord, bitAt, bits]
  exact ⟨by omega, decide_eq_true (by omega), by omega⟩

/-- The first eight bytes of a latch that is freed: the holder stays named, and the release count goes up by one (R78). -/
def freedWord (x : Nat) : Nat := (x % 2 ^ 32 + 1) % 2 ^ 32 + bits x 32 31 * 2 ^ 32

theorem freedWord_view (x : Nat) : freedWord x < 2 ^ 64 ∧ bitAt (freedWord x) 63 = false ∧
    bits (freedWord x) 32 31 = bits x 32 31 ∧ freedWord x % 2 ^ 32 = (x % 2 ^ 32 + 1) % 2 ^ 32 := by
  simp only [freedWord, bitAt, bits]
  exact ⟨by omega, decide_eq_false (by omega), by omega, by omega⟩

/-- The latch at `pa`, which stands in the device, is the current task's: what its home and its list say. -/
def heldAt (pa : Nat) (va : Word) (s : State) : State :=
  let s1 := s.wr pa 8 (heldWord s.core.seq.tid (s.rd pa 8))
  let s2 := setSeq s1 { s1.core.seq with latches := ⟨va, pa⟩ :: s1.core.seq.latches }
  { s2 with fe := { s2.fe with waits := s2.fe.waits.filter fun w => !(decide (w.pa = pa ∧ w.tid = s2.core.seq.tid)) } }

theorem takeLatch_local {pa : Nat} (h : isRemote pa = false) (va : Word) (rs : List (Nat × Nat)) (s : State) :
    takeLatch pa va rs s = dcUpdate pa (dcDropIn rs (heldAt pa va s)) := by
  unfold takeLatch
  rw [h]
  rfl

theorem syncOnly_heldAt (pa : Nat) (va : Word) (s : State) : SyncOnly s (heldAt pa va s) := rfl

theorem syncOnly_dcDropIn (rs : List (Nat × Nat)) (s : State) : SyncOnly s (dcDropIn rs s) := rfl

theorem regionSpans_dcDropIn (rs rs' : List (Nat × Nat)) (s : State) : regionSpans (dcDropIn rs s) rs' = regionSpans s rs' :=
  regionSpans_congr dcDropIn_mem rfl rfl rs'

theorem regionSpans_dcUpdate (pa : Nat) (rs : List (Nat × Nat)) (s : State) : regionSpans (dcUpdate pa s) rs = regionSpans s rs :=
  regionSpans_congr dcUpdate_mem rfl rfl rs

/-- The lines that are left lie outside the regions, and every line outside them is left. -/
theorem dcDropIn_lines (rs : List (Nat × Nat)) (s : State) (e : Nat × Nat) :
    e ∈ (dcDropIn rs s).core.seq.dcache ↔ e ∈ s.core.seq.dcache ∧ overlaps [(e.1, 64)] (regionSpans s rs) = false := by
  unfold dcDropIn
  extract_lets spans
  rw [setSeq_seq, List.mem_filter, Bool.not_eq_true']
  refine and_congr_right fun he => ?_
  have hne : s.core.seq.dcache.isEmpty = false := by
    rw [List.isEmpty_eq_false_iff]
    exact List.ne_nil_of_mem he
  rw [show spans = regionSpans s rs from if_neg (by simp [hne])]

/-- An update of a cached line changes no line's address. -/
theorem dcUpdate_lines (pa : Nat) (s : State) (b : Nat) :
    (∃ e ∈ (dcUpdate pa s).core.seq.dcache, e.1 = b) ↔ ∃ e ∈ s.core.seq.dcache, e.1 = b := by
  have key (e : Nat × Nat) : (if e.1 = pa / 64 * 64 then (pa / 64 * 64, s.rd (pa / 64 * 64) 64) else e).1 = e.1 := by
    split <;> simp_all
  simp only [dcUpdate, setSeq_seq, List.mem_map, exists_exists_and_eq_and, key]

/-- What `Holds` goes by in the state after: memory, the latches held, the cached lines, and where the task's regions stand. -/
theorem holds_congr {s t u : State} {pa : Nat} {va : Word} {l : LatchView} (hm : t.mem = u.mem)
    (hl : t.core.seq.latches = u.core.seq.latches) (hd : t.core.seq.dcache = u.core.seq.dcache) (hi : t.core.id = u.core.id)
    (he : t.core.seq.eff = u.core.seq.eff) (h : Holds s u pa va l) : Holds s t pa va l := by
  unfold Holds at *
  rw [hm, hl, hd, regionSpans_congr hm hi he]
  exact h

section Take

variable {pa : Nat} {s u : State} {l : LatchView}

theorem heldAt_mem (pa : Nat) (va : Word) (u : State) :
    (heldAt pa va u).mem = memWrite u.mem pa 8 (heldWord u.core.seq.tid (u.rd pa 8)) := rfl

theorem heldAt_seq (pa : Nat) (va : Word) (u : State) :
    (heldAt pa va u).core.seq = { u.core.seq with latches := ⟨va, pa⟩ :: u.core.seq.latches } := rfl

/-- A latch that the current task has taken is held by it. -/
theorem holds_takeLatch (hwf : MemWf s.mem) (hr : isRemote pa = false) (ht : TransitOnly s u) (va : Word)
    (hl : l = latchView (memRead s.mem pa 64)) : Holds s (takeLatch pa va (latchRegions s l) u) pa va l := by
  have hu : MemWf u.mem := by rwa [ht.mem]
  obtain ⟨hlt, hheld, hholder⟩ := heldWord_view u.core.seq.tid (u.rd pa 8)
  have hlines (b : Nat) := dcUpdate_lines pa (dcDropIn (latchRegions s l) (heldAt pa va u)) b
  have hspans : regionSpans (takeLatch pa va (latchRegions s l) u) = regionSpans (heldAt pa va u) := by
    funext rs
    rw [takeLatch_local hr, regionSpans_dcUpdate, regionSpans_dcDropIn]
  have hsame : (heldAt pa va u).core.seq.dcache = s.core.seq.dcache := by rw [heldAt_seq, ht.core]
  unfold Holds
  rw [hspans, takeLatch_local hr]
  refine ⟨?_, ?_, fun e he => ?_, fun o ho hout => ?_⟩
  · rw [dcUpdate_mem, dcDropIn_mem, heldAt_mem, latchView_wr hu pa hlt, hheld, hholder, ht.mem, ht.core, ← hl]
  · show (heldAt pa va u).core.seq.latches = _
    rw [heldAt_seq, ht.core]
  · obtain ⟨o, ho, hoe⟩ := (hlines e.1).1 ⟨e, he, rfl⟩
    rw [dcDropIn_lines, hoe, hsame] at ho
    exact ⟨ho.2, o, ho.1, hoe⟩
  · exact (hlines o.1).2 ⟨o, (dcDropIn_lines _ _ o).2 ⟨hsame ▸ ho, hout⟩, rfl⟩

theorem takeLatch_keeps (hwf : MemWf s.mem) (hr : isRemote pa = false) (ht : TransitOnly s u) (va : Word) (rs : List (Nat × Nat)) :
    SyncOnly s (takeLatch pa va rs u) ∧ MemKeptOff [(pa, 8)] s (takeLatch pa va rs u) := by
  rw [takeLatch_local hr]
  refine ⟨ht.syncOnly.trans ((syncOnly_heldAt pa va u).trans ((syncOnly_dcDropIn _ _).trans (syncOnly_dcUpdate _ _))), ?_⟩
  exact memKeptOff_congr ht.mem.symm rfl (memKeptOff_wr (s := u) (by rwa [ht.mem]) pa 8 (heldWord u.core.seq.tid (u.rd pa 8)))

end Take

/-! ### ACQ and TRYACQ -/

section Acquire

variable {a d : SReg} {sc : Scope} {s s1 : State} {p : Phys} {l : LatchView}

theorem ownLatch_congr {s t : State} (h : t.core = s.core) (l : LatchView) : ownLatch t l = ownLatch s l := by
  rw [ownLatch, h, ownLatch]

theorem getWait_of_none {pa : Nat} (h : ∀ w ∈ s.fe.waits, w.pa ≠ pa) : getWait s pa = none := by
  rw [getWait, List.find?_eq_none]
  exact fun w hw => by simp [h w hw]

/-- An ACQ whose task has no request at the latch yet: taken, misused, or a request entered. -/
theorem execAcq_reached (h : LatchAt s s1 p (getS s a) l) (hw : getWait s p.pa = none) : ∃ u, TransitOnly s u ∧ exec (.acq a sc) s =
    if ownLatch s l ∨ 16 ≤ s.core.seq.latches.length then trapHere 0x08 (getS s a) u
    else if !l.held && !(s.fe.waits.any fun w => decide (w.pa = p.pa)) then
      done (bumpNum (takeLatch p.pa (getS s a) (latchRegions s l) u))
    else
      stall true { u with fe := { u.fe with waits := u.fe.waits ++
        [{ pa := p.pa, core := s.core.id, tid := s.core.seq.tid, va := getS s a, regions := [] }] } } := by
  have hr := reached_isRemote h.1
  obtain ⟨u, ht, he⟩ := withLatch_reached h rfl (fun _ => hw)
  refine ⟨u, ht, (show exec (.acq a sc) s = execAcq a sc s from rfl).trans ?_⟩
  rw [execAcq, he]
  have hwu : getWait u p.pa = none := by rwa [getWait, ht.fe, ht.core]
  simp only [hwu, hr, ownLatch_congr ht.core, ht.core, ht.fe, latchRegions_congr ht.mem, Bool.false_or, Bool.false_eq_true, if_false]

/-- An instruction that puts a result into `d` after an operation on its home completes. -/
theorem finishes_with_result {i : Instr} {u : State} {v : Word} {rs : List (Nat × Nat)} {post : State → Prop}
    (he : exec i s = done (bumpNum (setS u d v))) (h : SyncOnly s u) (hm : MemKeptOff rs s u) (hp : post (advance (bumpNum (setS u d v)))) :
    Finishes i s [d] rs post := by
  obtain ⟨hpc, hline, hloops⟩ := h.sameHead
  refine finishes_of_done he ?_ (regsKept_setS_of_regs h.regs d v) (memKeptOff_congr rfl (setS_mem u d v) hm)
    (coreFrame_trans h.coreFrame (coreFrame_trans (coreFrame_setS u d v) (coreFrame_bumpNum _))) hp
  exact ⟨(setS_pc u d v).trans hpc, (setS_line u d v).trans hline, (setS_loops u d v).trans hloops⟩

/-- A taken latch is still held once a result is written and control goes on. -/
theorem holds_setS {u : State} {pa : Nat} {va : Word} (v : Word) (h : Holds s u pa va l) : Holds s (setS u d v) pa va l := by
  refine holds_congr (setS_mem u d v) ?_ ?_ ?_ ?_ h <;> rw [setS_eq]

theorem holds_goesOn {u : State} {pa : Nat} {va : Word} (h : Holds s u pa va l) : Holds s (advance (bumpNum u)) pa va l :=
  holds_congr (t := advance (bumpNum u)) (u := u) (by rw [advance_mem, bumpNum_mem]) rfl rfl rfl rfl h

theorem getS_goesOn (u : State) (r : SReg) : getS (advance (bumpNum u)) r = getS u r := rfl

theorem acq_takes (hwf : MemWf s.mem) (h : LatchAt s s1 p (getS s a) l) (hfree : l.held = false) (hw : ∀ w ∈ s.fe.waits, w.pa ≠ p.pa)
    (hn : s.core.seq.latches.length < 16) : Finishes (.acq a sc) s [] [(p.pa, 8)] fun t => Holds s t p.pa (getS s a) l := by
  obtain ⟨u, ht, he⟩ := execAcq_reached (sc := sc) h (getWait_of_none hw)
  have hany : (s.fe.waits.any fun w => decide (w.pa = p.pa)) = false := by simpa using hw
  rw [if_neg (by simp [ownLatch, hfree, hn]), if_pos (by simp [hfree, hany])] at he
  obtain ⟨hs, hm⟩ := takeLatch_keeps hwf (reached_isRemote h.1) ht (getS s a) (latchRegions s l)
  have hh := holds_takeLatch hwf (reached_isRemote h.1) ht (getS s a) h.2.1
  generalize takeLatch p.pa (getS s a) (latchRegions s l) u = t at *
  exact finishes_of_syncOnly he (hs.trans (syncOnly_bumpNum t)) (memKeptOff_congr rfl bumpNum_mem hm) (holds_goesOn hh)

theorem acq_waits (h : LatchAt s s1 p (getS s a) l) (hheld : l.held = true) (hother : l.holder ≠ s.core.seq.tid.toNat)
    (hn : s.core.seq.latches.length < 16) (hw : getWait s p.pa = none) :
    Waits (.acq a sc) s ∧ ∃ t w, exec (.acq a sc) s = .next t ∧ t.fe.waits = s.fe.waits ++ [w] ∧ w.pa = p.pa ∧ w.core = s.core.id ∧
      w.tid = s.core.seq.tid ∧ w.granted = false := by
  obtain ⟨u, ht, he⟩ := execAcq_reached (sc := sc) h hw
  rw [if_neg (by simp [ownLatch, hother, hn]), if_neg (by simp [hheld])] at he
  have hs := ht.syncOnly
  obtain ⟨hv, htile, hstat, hdev, -⟩ := hs.coreFrame
  refine ⟨⟨_, he, hs.sameHead.1, rfl, regsKept_of_regs [] hs.regs, memKept_of_mem ht.mem, hv, htile, hstat, hdev⟩,
    _, { pa := p.pa, core := s.core.id, tid := s.core.seq.tid, va := getS s a, regions := [] }, he, ?_, rfl, rfl, rfl, rfl⟩
  show u.fe.waits ++ _ = _
  rw [ht.fe]

theorem acq_own_traps (h : LatchAt s s1 p (getS s a) l) (hown : ownLatch s l = true) (hw : getWait s p.pa = none) (hc : CanTrap s) :
    EntersTrap (.acq a sc) s 8 s.core.seq.pc (getS s a) := by
  obtain ⟨u, ht, he⟩ := execAcq_reached (sc := sc) h hw
  exact enters_of_transit hc ht (he.trans (if_pos (.inl hown)))

theorem execTryacq_reached (h : LatchAt s s1 p (getS s a) l) : ∃ u, TransitOnly s u ∧ exec (.tryacq d a sc) s =
    if l.held || s.fe.waits.any fun w => decide (w.pa = p.pa) then done (bumpNum (setS (dcUpdate p.pa u) d 0))
    else if 16 ≤ s.core.seq.latches.length then trapHere 0x08 (getS s a) u
    else done (bumpNum (setS (takeLatch p.pa (getS s a) (latchRegions s l) u) d 1)) := by
  have hr := reached_isRemote h.1
  obtain ⟨u, ht, he⟩ := withLatch_reached h rfl (acq := false) (fun hf => absurd hf (by decide))
  refine ⟨u, ht, (show exec (.tryacq d a sc) s = execTryacq d a sc s from rfl).trans ?_⟩
  rw [execTryacq, he]
  simp only [hr, ht.core, ht.fe, latchRegions_congr ht.mem, Bool.not_false, Bool.true_and]

theorem tryacq_takes (hwf : MemWf s.mem) (h : LatchAt s s1 p (getS s a) l) (hfree : l.held = false) (hw : ∀ w ∈ s.fe.waits, w.pa ≠ p.pa)
    (hn : s.core.seq.latches.length < 16) :
    Finishes (.tryacq d a sc) s [d] [(p.pa, 8)] fun t => Holds s t p.pa (getS s a) l ∧ (d ≠ 0 → getS t d = 1) := by
  obtain ⟨u, ht, he⟩ := execTryacq_reached (d := d) (sc := sc) h
  have hany : (s.fe.waits.any fun w => decide (w.pa = p.pa)) = false := by simpa using hw
  rw [if_neg (by simp [hfree, hany]), if_neg (by omega)] at he
  obtain ⟨hs, hm⟩ := takeLatch_keeps hwf (reached_isRemote h.1) ht (getS s a) (latchRegions s l)
  have hh := holds_takeLatch hwf (reached_isRemote h.1) ht (getS s a) h.2.1
  generalize takeLatch p.pa (getS s a) (latchRegions s l) u = t at *
  exact finishes_with_result he hs hm ⟨holds_goesOn (holds_setS 1 hh), fun hd => (getS_goesOn _ d).trans (getS_setS_self t d 1 hd)⟩

theorem tryacq_fails (h : LatchAt s s1 p (getS s a) l) (hheld : l.held = true) :
    Finishes (.tryacq d a sc) s [d] [] fun t => d ≠ 0 → getS t d = 0 := by
  obtain ⟨u, ht, he⟩ := execTryacq_reached (d := d) (sc := sc) h
  rw [if_pos (by simp [hheld])] at he
  have hs := ht.syncOnly.trans (syncOnly_dcUpdate p.pa u)
  have hm : (dcUpdate p.pa u).mem = s.mem := dcUpdate_mem.trans ht.mem
  generalize dcUpdate p.pa u = t at *
  exact finishes_with_result he hs (memKeptOff_of_mem [] hm)
    fun hd => (getS_goesOn _ d).trans (getS_setS_self t d 0 hd)

end Acquire

/-! ### REL -/

section Release

variable {a : SReg} {sc : Scope} {s s1 : State} {p : Phys} {l : LatchView}

theorem writesPending_transit {t : State} (h : TransitOnly s t) (rs : List (Nat × Nat)) : writesPending t rs = writesPending s rs := by
  rw [h]
  rfl

/-- The state after a REL: the latch freed at its home, and off the task's list. -/
def released (pa : Nat) (s : State) : State :=
  let t := (commitTask s).wr pa 8 (freedWord (s.rd pa 8))
  setSeq t { t.core.seq with latches := t.core.seq.latches.filter fun h => decide (h.pa ≠ pa) }

theorem syncOnly_released (pa : Nat) (s : State) : SyncOnly s (released pa s) := rfl
theorem released_mem (pa : Nat) (s : State) : (released pa s).mem = memWrite s.mem pa 8 (freedWord (s.rd pa 8)) := rfl

theorem execRel_reached (h : LatchAt s s1 p (getS s a) l) : ∃ u, TransitOnly s u ∧ exec (.rel a sc) s =
    if !ownLatch s l then trapHere 0x08 (getS s a) u
    else if writesPending s (latchRegions s l) then stall false (commitTask { u with budgets := s.budgets })
    else done (bumpNum (dcUpdate p.pa (released p.pa u))) := by
  have hr := reached_isRemote h.1
  obtain ⟨u, ht, he⟩ := withLatch_reached h rfl (acq := false) (fun hf => absurd hf (by decide))
  refine ⟨u, ht, (show exec (.rel a sc) s = execRel a sc s from rfl).trans ?_⟩
  rw [execRel, he]
  simp only [ownLatch_congr ht.core, writesPending_transit ht, latchRegions_congr ht.mem, freeLatch, hr, Bool.false_eq_true, if_false]
  rfl

theorem rel_frees (hwf : MemWf s.mem) (h : LatchAt s s1 p (getS s a) l) (hown : ownLatch s l = true)
    (hw : writesPending s (latchRegions s l) = false) :
    Finishes (.rel a sc) s [] [(p.pa, 8)] fun t =>
      latchView (memRead t.mem p.pa 64) = { l with held := false } ∧
      memRead t.mem p.pa 4 = (memRead s.mem p.pa 4 + 1) % 2 ^ 32 ∧
      t.core.seq.latches = (s.core.seq.latches.filter fun h => decide (h.pa ≠ p.pa)) ∧ t.core.seq.cmt = true := by
  obtain ⟨u, ht, he⟩ := execRel_reached (sc := sc) h
  rw [if_neg (by simp [hown]), if_neg (by simp [hw])] at he
  have hu : MemWf u.mem := by rwa [ht.mem]
  obtain ⟨hlt, hheld, hholder, hcount⟩ := freedWord_view (u.rd p.pa 8)
  have hsync := ht.syncOnly.trans ((syncOnly_released p.pa u).trans ((syncOnly_dcUpdate p.pa _).trans (syncOnly_bumpNum _)))
  have hmem : (dcUpdate p.pa (released p.pa u)).mem = memWrite u.mem p.pa 8 (freedWord (u.rd p.pa 8)) := dcUpdate_mem
  have hword : memRead (memWrite u.mem p.pa 8 (freedWord (u.rd p.pa 8))) p.pa 8 = freedWord (u.rd p.pa 8) :=
    (memRead_memWrite 8 _ _ _ hu).trans (Nat.mod_eq_of_lt hlt)
  have hlow (m : List Host.Cell) : memRead m p.pa 4 = memRead m p.pa 8 % 2 ^ 32 := memRead_prefix m p.pa 4 4
  have hk : MemKeptOff [(p.pa, 8)] s (bumpNum (dcUpdate p.pa (released p.pa u))) :=
    memKeptOff_congr (s := u) (t := u.wr p.pa 8 (freedWord (u.rd p.pa 8))) ht.mem.symm hmem (memKeptOff_wr hu p.pa 8 _)
  have hview : l.holder = bits (u.rd p.pa 8) 32 31 := by
    have hx : memRead s.mem p.pa 64 = memRead s.mem p.pa 8 + 2 ^ 64 * memRead s.mem (p.pa + 8) 56 := memRead_add s.mem 8 56 p.pa
    rw [h.2.1, hx, State.rd, ht.mem]
    exact bits_of_low _ (by decide)
  refine finishes_of_syncOnly he hsync hk ⟨?_, ?_, ?_, rfl⟩
  · show latchView (memRead (dcUpdate p.pa (released p.pa u)).mem p.pa 64) = _
    rw [hmem, latchView_wr hu p.pa hlt, hheld, hholder, ht.mem, ← h.2.1, ← hview]
  · show memRead (dcUpdate p.pa (released p.pa u)).mem p.pa 4 = _
    rw [hmem, hlow, hword, hcount, hlow, State.rd, ht.mem]
  · show (u.core.seq.latches.filter _) = _
    rw [ht.core]

theorem rel_waits (h : LatchAt s s1 p (getS s a) l) (hown : ownLatch s l = true) (hw : writesPending s (latchRegions s l) = true) :
    Waits (.rel a sc) s ∧ ∃ t, exec (.rel a sc) s = .next t ∧ t.core.seq.cmt = true := by
  obtain ⟨u, ht, he⟩ := execRel_reached (sc := sc) h
  rw [if_neg (by simp [hown]), if_pos hw] at he
  refine ⟨?_, _, he, rfl⟩
  have hs : SyncOnly s (commitTask { u with budgets := s.budgets }) := ht.syncOnly.trans rfl
  obtain ⟨hv, htile, hstat, hdev, -⟩ := hs.coreFrame
  exact ⟨_, he, hs.sameHead.1, rfl, regsKept_of_regs [] hs.regs, memKept_of_mem ht.mem, hv, htile, hstat, hdev⟩

theorem rel_other_traps (h : LatchAt s s1 p (getS s a) l) (hown : ownLatch s l = false) (hc : CanTrap s) :
    EntersTrap (.rel a sc) s 8 s.core.seq.pc (getS s a) := by
  obtain ⟨u, ht, he⟩ := execRel_reached (sc := sc) h
  exact enters_of_transit hc ht (he.trans (if_pos (by simp [hown])))

end Release

/-- Settles O26: each clause is one outcome of an instruction whose latch is reached (`withLatch_reached`): taken, waited for, refused,
freed, or misused. -/
theorem latches : Obligations.Latches := by
  unfold Obligations.Latches
  refine ⟨?_, ?_⟩
  · intro a d sc s s1 p l va hwf h
    exact ⟨fun hf hw hn => ⟨acq_takes hwf h hf hw hn, tryacq_takes hwf h hf hw hn⟩, tryacq_fails h, acq_waits h, acq_own_traps h⟩
  · intro a sc s s1 p l va hwf h
    exact ⟨rel_frees hwf h, rel_waits h, rel_other_traps h⟩

end Sys2Proof.Proofs
end

section
/-! A mitt's fill, and the recheck of a watermark (R86, R123, R188). -/

namespace Sys2Proof.Proofs

open Sys2Proof.Machine Sys2Proof.Safety

/-! ### What filling an entry writes -/

theorem regImg_of_files {v u : Vec} (hv : u.v = v.v) (ho : u.o = v.o) (hl : u.l = v.l) : regImg u = regImg v := by
  funext slot
  rw [regImg, hv, ho, hl]
  rfl

theorem regImg_resolveAll (id x : Nat) (v : Vec) : regImg (resolveAll id x v) = regImg v := regImg_of_files rfl rfl rfl

theorem regImg_mergeFlags (f : Flags) (i : Option Word) (v : Vec) : regImg (mergeFlags f i v) = regImg v := regImg_of_files rfl rfl rfl

theorem setMask_frame (v : Vec) (m : MReg) (x : Nat) : setMask v m x = { v with m := (setMask v m x).m } := by
  unfold setMask
  split <;> rfl

theorem regImg_setMsat (v : Vec) (e : Nat) : regImg (setMsat v e) = regImg v := by
  rw [setMsat, setMask_frame]
  exact regImg_of_files rfl rfl rfl

theorem setReg_holes (v : Vec) (slot x p : Nat) : (setReg v slot x p).holes = v.holes := by
  unfold setReg
  split
  · rfl
  · split <;> rfl

theorem setReg_defer (v : Vec) (slot x p : Nat) : (setReg v slot x p).defer = v.defer := by
  unfold setReg
  split
  · rfl
  · split <;> rfl

section Fill

variable {h : Hole} {q : Nat} {v : Vec} (hd : h.dest = some q) (hlive : h.live = true) (hl : h.lpos = [])
include hd hlive hl

/-- An entry with a destination and no copy in an L register fills one element. -/
theorem fillHole_single (x : Nat) : fillHole h x v =
    resolveAll h.id x { setPresent v q h.w h.elem x true with
      holes := (setPresent v q h.w h.elem x true).holes.filter fun g => decide (g.id ≠ h.id) } := by
  unfold fillHole
  rw [hd, hlive, hl]
  rfl

theorem regImg_fillHole (x : Nat) : regImg (fillHole h x v) = regImg (setPresent v q h.w h.elem x true) := by
  rw [fillHole_single hd hlive hl, regImg_resolveAll]
  exact regImg_of_files rfl rfl rfl

theorem fillHole_holes (hv : v.holes = [h]) (x : Nat) : (fillHole h x v).holes = [] := by
  rw [fillHole_single hd hlive hl]
  simp [resolveAll, setPresent, setReg_holes, hv]

theorem fillHole_defer (hv : v.defer = []) (x : Nat) : (fillHole h x v).defer = [] := by
  rw [fillHole_single hd hlive hl]
  simp [resolveAll, setPresent, setReg_defer, hv]

end Fill

/-- Flags and the saturation mark change no register, no entry and no deferred write. -/
theorem landHole_eq (h : Hole) (r : ER) (v : Vec) : regImg (landHole h r v) = regImg (fillHole h r.1 v) ∧
    (landHole h r v).holes = (fillHole h r.1 v).holes ∧ (landHole h r v).defer = (fillHole h r.1 v).defer := by
  unfold landHole
  extract_lets v1
  have h1 : regImg v1 = regImg (fillHole h r.1 v) := regImg_mergeFlags _ _ _
  split
  · rw [regImg_setMsat, setMsat, setMask_frame]
    exact ⟨h1, rfl, rfl⟩
  · exact ⟨h1, rfl, rfl⟩

/-! ### The fill of the only hole -/

theorem chargeMitt_frame (s : State) : (chargeMitt s).core = s.core ∧ (chargeMitt s).mem = s.mem := by
  unfold chargeMitt freeBytes
  extract_lets r
  split
  · exact ⟨rfl, rfl⟩
  · dsimp only
    rw [chargeBudget_eq]
    exact ⟨rfl, rfl⟩

/-- No fault spreads to an entry that waits for nothing. -/
theorem spreadFaults_ready {v : Vec} {h : Hole} (hv : v.holes = [h]) (hp : parents h.ops = []) (n : Nat) : spreadFaults n v = v := by
  cases n with
  | zero => rfl
  | succ n =>
    have hf : faultParent v h = none := by rw [faultParent, hp]; rfl
    simp [spreadFaults, hv, hf]

theorem flushDefers_none {s : State} (h : s.core.vec.defer = []) : flushDefers s = s := by
  rw [flushDefers, h]
  rfl

section Mitt

variable {h : Hole} {s : State} (hv : s.core.vec.holes = [h]) (hf : h.fault = none) (hops : ∀ o ∈ h.ops, o.parts = [])
  (hb : budgetOk s s.core.seq.eff .mitt s.core.id = true) (ht : traps h.instr = true → enabledOf h.env.vtype (holeResult h).2 = 0)
include hv hf hops hb ht

/-- A mitt fills the only hole, whose operands are there and whose result does not trap. -/
theorem mittFill_only : mittFill .agree s = flushDefers (chargeMitt (setVec s (landHole h (holeResult h) s.core.vec))) := by
  have hp : parents h.ops = [] := by
    have : h.ops.flatMap HOp.parts = [] := List.flatMap_eq_nil_iff.2 hops
    rw [parents, this]
    rfl
  have hready : h.ops.all HOp.ready = true := List.all_eq_true.2 fun o ho => by rw [HOp.ready, hops o ho]; rfl
  have hfirst : firstHole (s.core.vec.holes.filter fun g => g.fault.isNone && g.ops.all HOp.ready) = some h := by
    simp [hv, hf, hready, firstHole]
  have htrap : ¬(traps h.instr = true ∧ enabledOf h.env.vtype (holeResult h).2 ≠ 0) := fun hc => hc.2 (ht hc.1)
  unfold mittFill
  simp only [spreadFaults_ready hv hp, hfirst, hb]
  simp only [reduceCtorEq, false_and, if_false, if_neg htrap, Bool.not_true, Bool.false_eq_true]

theorem mittFill_frame {q : Nat} (hd : h.dest = some q) (hlive : h.live = true) (hl : h.lpos = []) (hdef : s.core.vec.defer = []) :
    (mittFill .agree s).core.vec = landHole h (holeResult h) s.core.vec ∧ (mittFill .agree s).core.seq = s.core.seq ∧
      (mittFill .agree s).mem = s.mem := by
  obtain ⟨hc, hm⟩ := chargeMitt_frame (setVec s (landHole h (holeResult h) s.core.vec))
  obtain ⟨-, -, hdl⟩ := landHole_eq h (holeResult h) s.core.vec
  rw [mittFill_only hv hf hops hb ht, flushDefers_none]
  · rw [hc, hm]
    exact ⟨rfl, rfl, rfl⟩
  · rw [hc]
    exact hdl.trans (fillHole_defer hd hlive hl hdef _)

end Mitt

theorem mittFill_fills {c q : Nat} {h : Hole} {s : State} (hv : (focus s c).core.vec.holes = [h]) (hf : h.fault = none)
    (hops : ∀ o ∈ h.ops, o.parts = []) (hdef : (focus s c).core.vec.defer = []) (hd : h.dest = some q) (hq : q < 72) (hlive : h.live = true)
    (hl : h.lpos = []) (hw : h.w * h.elem + h.w ≤ 8192)
    (hb : budgetOk (focus s c) (focus s c).core.seq.eff .mitt (focus s c).core.id = true)
    (ht : traps h.instr = true → enabledOf h.env.vtype (holeResult h).2 = 0) :
    ∃ u, exec (.mittFill c .agree) s = .next (focus u s.core.id) ∧ u.core.vec.holes = [] ∧
      bits (regImg u.core.vec q) (h.w * h.elem) h.w = (holeResult h).1 % 2 ^ h.w ∧
      (∀ j, j < 72 → j ≠ q → regImg u.core.vec j = regImg (focus s c).core.vec j) ∧ RegsKept [] (focus s c) u ∧ MemKept s u := by
  obtain ⟨hvec, hseq, hmem⟩ := mittFill_frame hv hf hops hb ht hd hlive hl hdef
  obtain ⟨hreg, hholes, -⟩ := landHole_eq h (holeResult h) (focus s c).core.vec
  rw [regImg_fillHole hd hlive hl] at hreg
  refine ⟨mittFill .agree (focus s c), rfl, ?_, ?_, fun j hj hne => ?_, regsKept_of_regs [] (by rw [hseq]),
    memKept_of_mem (by rw [hmem, focus_mem])⟩
  · rw [hvec, hholes, fillHole_holes hd hlive hl hv]
  · rw [hvec, hreg, setPresent, regImg_setReg_self hq (putBits_lt (regImg_lt _ q) hw), bits_putBits_self]
  · rw [hvec, hreg, setPresent, regImg_setReg_ne hq hj hne]

/-! ### The recheck of a watermark -/

/-- The watermark of the `vld.w` at the head of the VLQ is read again, in the current core. -/
def markReread (e : VEntry) (r : List VEntry) (obj : Nat) (s : State) : State :=
  if memOk s s.core.seq.eff obj then
    chargeMem s.core.seq.eff obj 8 (setVec s { s.core.vec with vlq := { e with pub := s.rd obj 8 } :: r })
  else s

theorem watermarkRecheck_rereads {c : Nat} {e : VEntry} {r : List VEntry} {d : VDst} {b : SReg} {disp : BitVec 14} {j : Fin 8} {m : MReg}
    {ps : PReg} {ty : ETy} {x : WReg} {s : State} (hq : (focus s c).core.vec.vlq = e :: r)
    (hi : e.instr = .vldW d b disp (BitVec.ofNat 3 j) m ps ty) (hw : (focus s c).core.seq.w[j] = some x) :
    exec (.watermarkRecheck c) s = .next (focus (markReread e r x.obj (focus s c)) s.core.id) := by
  have hreg : ((focus s c).core.seq.w[(BitVec.ofNat 3 j).toNat]?).getD none = some x := by
    have hlt : (BitVec.ofNat 3 j).toNat = j.val := by simp
    rw [hlt, Vector.getElem?_eq_getElem j.isLt]
    exact hw
  obtain ⟨i, env, replay, pub, pa, rest, stale⟩ := e
  obtain rfl : i = _ := hi
  show execWatermarkRecheck c s = _
  simp only [execWatermarkRecheck, onCore, hq, hreg]
  rfl

theorem markReread_frame (e : VEntry) (r : List VEntry) (obj : Nat) {s : State} (hq : s.core.vec.vlq = e :: r) :
    (markReread e r obj s).core.vec.vlq = (if memOk s s.core.seq.eff obj then { e with pub := memRead s.mem obj 8 } else e) :: r ∧
      RegsKept [] s (markReread e r obj s) ∧ (markReread e r obj s).mem = s.mem ∧ VectorKept s (markReread e r obj s) := by
  unfold markReread
  split
  · rw [chargeMem_eq]
    exact ⟨rfl, fun _ _ => rfl, rfl, by simp [VectorKept]⟩
  · exact ⟨hq, fun _ _ => rfl, rfl, by simp [VectorKept]⟩

/-- Settles O43: a mitt's fill is one element put into its register, whatever flags it raises; the recheck writes the entry's watermark or
nothing. -/
theorem mittsAndWatermarks : Obligations.MittsAndWatermarks := by
  unfold Obligations.MittsAndWatermarks
  refine ⟨?_, ?_⟩
  · intro c q h s k res hv hf hops hdef hd hq hlive hl hw hb ht
    exact mittFill_fills hv hf hops hdef hd hq hlive hl hw hb ht
  · intro c e r d b disp j m ps ty x s k hq hi hw
    obtain ⟨hvlq, hregs, hmem, hvec⟩ := markReread_frame e r x.obj (s := focus s c) hq
    refine ⟨_, watermarkRecheck_rereads hq hi hw, ?_, hregs, memKept_of_mem (hmem.trans (focus_mem s c)), hvec⟩
    rw [hvlq, focus_mem]

end Sys2Proof.Proofs
end

section
/-! The arrival of a VFENCE_ARR at a signal that is poisoned by then (R88, R326; log entry 86). -/

namespace Sys2Proof.Proofs

open Sys2Proof.Machine Sys2Proof.Safety

/-- A VFENCE_ARR on its way to a signal at 0x300000. -/
def arrivalX : VStore := { env := { seqn := 1, num := 1 }, instr := .vfenceArr 4 .pkg, writes := [], arr := some 0x300000 }

/-- A task runs on core 0, its VFENCE_ARR is on its way, and the signal holds 1 in a granule that is poisoned. -/
def poisonedSignalT : State :=
  let s := { State.reset with boot := .up, mem := memWrite [] 0x300000 8 1, poison := [0x300000] }
  setVec (setSeq s { s.core.seq with mode := .running, tid := 5 }) { s.core.vec with stores := [arrivalX] }

theorem poisonedSignalT_arrives : MemWf poisonedSignalT.mem ∧ (focus poisonedSignalT 0).core.vec.stores = [arrivalX] ∧
    (focus poisonedSignalT 0).core.vec.defer = [] ∧ storeReady (focus poisonedSignalT 0) arrivalX = true ∧
    0 < (BitVec.ofNat 64 (memRead poisonedSignalT.mem 0x300000 8)).toInt ∧ isRemote 0x300000 = false := by
  decide +kernel

/-- The poison is reported, and the signal keeps its value. -/
theorem poisonedSignalT_keeps :
    memRead (completeStore 1 (focus poisonedSignalT 0)).mem 0x300000 8 = memRead poisonedSignalT.mem 0x300000 8 := by
  decide +kernel

/-- Refutes O42: the clause on a performed VFENCE_ARR does not ask that its signal be free of poison, and one that is poisoned by then is
reported as a fault and not decremented (log entry 86). -/
theorem not_vectorFencesAndTables : ¬ Obligations.VectorFencesAndTables := by
  unfold Obligations.VectorFencesAndTables
  rintro ⟨-, harr, -⟩
  obtain ⟨hwf, hv, hd, hr, hpos, hloc⟩ := poisonedSignalT_arrives
  obtain ⟨u, he, hm, -⟩ := (harr 0 1 0x300000 4 .pkg arrivalX poisonedSignalT hwf hv rfl rfl rfl rfl hd hr).1 hloc hpos
  have hu : focus (completeStore 1 (focus poisonedSignalT 0)) poisonedSignalT.core.id = focus u poisonedSignalT.core.id :=
    Host.Outcome.next.inj he
  have hmem : u.mem = (completeStore 1 (focus poisonedSignalT 0)).mem := by
    rw [← focus_mem u poisonedSignalT.core.id, ← hu, focus_mem]
  rw [hmem, poisonedSignalT_keeps] at hm
  omega

end Sys2Proof.Proofs
end

section
/-! What a translation answers, case by case (R94, R102, R103), and the form of memory at reset. -/

namespace Sys2Proof.Proofs

open Sys2Proof.Machine Sys2Proof.Safety

/-! ### The checks on a leaf -/

/-- The R, W and X bits that an access asks of its leaf (R102): a read-and-write asks for both. -/
def leafPermits (l : Leaf) : Acc → Bool
  | .r => bitAt l.attr 1
  | .w => bitAt l.attr 2
  | .rw => bitAt l.attr 1 && bitAt l.attr 2
  | .x => bitAt l.attr 3

section
variable {s : State} {l : Leaf} {p : Path} {a : Acc} {reach : Reach} {pa : Nat}

/-- Step 4 of R103 comes first: nothing else is looked at where the permission is missing. -/
theorem leafChecks_of_not_permits (h : leafPermits l a = false) : leafChecks s l p a reach pa = some 0x23 :=
  if_pos (congrArg not h)

/-- Step 5 of R103, once step 4 has passed. -/
theorem leafChecks_of_path_bit_clear (h : leafPermits l a = true) (hp : bitAt l.attr (10 + p.code) = false) :
    leafChecks s l p a reach pa = some 0x24 := by
  have hperm : ¬(!leafPermits l a) = true := by simp [h]
  refine (if_neg hperm).trans (if_pos ?_)
  simp [hp]

end

/-! ### The answers of a translation -/

theorem inWindow_iff {v : Nat} : inWindow v = true ↔ windowBase ≤ v ∧ v < 2 ^ 57 := by
  simp only [inWindow, Bool.and_eq_true, decide_eq_true_eq]

section
variable {site : TlbSite} {core : Option Nat} {c : Nat} {eff : Region} {p : Path} {a : Acc} {reach : Reach} {va : Word} {s s1 : State} {l : Leaf}

/-- Bits 63:57 are looked at before anything else (R94, step 1 of R103). -/
theorem translateFor_out_of_range (h : 2 ^ 57 ≤ va.toNat) : translateFor site core eff p a reach va s = (.error 0x20, s) :=
  if_pos h

/-- The window ends with the share (R94). -/
theorem translateFor_beyond_share (h57 : va.toNat < 2 ^ 57) (h : windowBase + eff.spsize * 1024 ≤ va.toNat) :
    translateFor site (some c) eff p a reach va s = (.error 0x27, s) := by
  have hw : inWindow va.toNat = true := by
    rw [inWindow_iff]
    omega
  simp only [translateFor]
  rw [if_neg (by omega), if_pos hw, if_pos (by omega)]

/-- The physical address that a leaf gives: the page's frame, and the offset in the page. -/
def leafAddr (l : Leaf) (v : Nat) : Nat := (l.frame + (v / 4096 - l.vpage)) * 4096 + v % 4096

theorem leafAddr_mod_page (l : Leaf) (v : Nat) : leafAddr l v % 4096 = v % 4096 := by
  unfold leafAddr
  omega

/-- Below the window the leaf that is found decides; its checks give the cause or let the address through (R103). -/
theorem translateFor_of_leaf (hw : va.toNat < windowBase) (hl : findLeaf site eff.root eff.asn (va.toNat / 4096) s = (.ok l, s1)) :
    translateFor site core eff p a reach va s =
      (((leafChecks s1 l p a reach (leafAddr l va.toNat)).elim
        (.ok { pa := leafAddr l va.toNat, hs := bitAt l.attr 5, ni := bitAt l.attr 6, pageEnd := (l.vpage + l.pages) * 4096 }) .error), s1) := by
  have h57 : ¬2 ^ 57 ≤ va.toNat := by
    unfold windowBase at hw
    omega
  have hout : ¬inWindow va.toNat = true := by
    rw [inWindow_iff]
    omega
  simp only [translateFor]
  rw [if_neg h57, if_neg hout, hl]
  change (match leafChecks s1 l p a reach (leafAddr l va.toNat) with | some c => _ | none => _) = _
  cases leafChecks s1 l p a reach (leafAddr l va.toNat) <;> rfl

end

/-- Settles O19: an address out of range or past the share stops at once, one in the share needs no leaf, and below the window the checks on
the leaf decide. -/
theorem translationChecks : Obligations.TranslationChecks := by
  unfold Obligations.TranslationChecks
  intro site eff p a reach va s
  refine ⟨fun h => ?_, fun hlo hshare h57 => ?_, fun hbeyond h57 => ?_, fun l s1 hw hl => ?_⟩
  · rw [translateFor_out_of_range h]
  · have hin : inWindow va.toNat = true := inWindow_iff.mpr ⟨hlo, h57⟩
    exact ⟨_, translateFor_window h57 hin (by omega), rfl⟩
  · rw [translateFor_beyond_share h57 hbeyond]
  · rw [translateFor_of_leaf hw hl]
    refine ⟨fun hno => ?_, fun hmay hpath => ?_, fun hpass => ?_⟩
    · rw [leafChecks_of_not_permits hno]; rfl
    · rw [leafChecks_of_path_bit_clear hmay hpath]; rfl
    · have hnone : leafChecks s1 l p a reach (leafAddr l va.toNat) = none := hpass
      rw [hnone]
      exact ⟨_, rfl, rfl, leafAddr_mod_page l va.toNat⟩

/-- Settles O8: at reset memory lists nothing (log entry 5), and the empty list is canonical. -/
theorem resetMemoryCanonical : Obligations.ResetMemoryCanonical := memWf_nil

end Sys2Proof.Proofs
end

section
/-! States that the statements on packets and on fabric events leave out of account: an evaluation of signals left before address 0
(R118, R326), and a collective that is lost with its port (R316). -/

namespace Sys2Proof.Proofs

open Sys2Proof.Machine Sys2Proof.Safety

/-- Queue 0 is HELD on a BARRIER, and its evaluation has still to read the signal at address 0, whose granule is poisoned. -/
def leftAtPoisonedZero : State :=
  setQ { q := 0, st := .held, hold := some .barrier, pass := some ([0], true) } { State.reset with poison := [0] }

/-- The evaluation meets the poison, and the queue skips (R326). -/
theorem leftAtPoisonedZero_skips : (getQ (heldBarrier 0 leftAtPoisonedZero) 0).st = .skip := by
  decide +kernel

/-- Refutes O56: the clause on a HELD BARRIER asks only that the signals at addresses other than 0 be free of poison, and an evaluation
left before address 0 then meets the poison there: the queue skips, where the clause has it go on (R326). -/
theorem not_packets : ¬ Obligations.Packets := by
  unfold Obligations.Packets
  rintro ⟨hqueue, -⟩
  obtain ⟨-, -, -, -, -, -, -, hheld, -⟩ := hqueue 0 leftAtPoisonedZero
  have hclean : ∀ a ∈ packetSignal (getQ leftAtPoisonedZero 0).pkt :: [0], a ≠ 0 → isPoisoned leftAtPoisonedZero a 64 = false := by
    decide +kernel
  obtain ⟨t, he, hsat, -⟩ := (hheld [0] true rfl rfl rfl hclean).1 (by decide)
  have ht : t = heldBarrier 0 leftAtPoisonedZero := (Host.Outcome.next.inj he).symm
  obtain ⟨-, hst⟩ := hsat (by decide +kernel) rfl
  rw [ht, leftAtPoisonedZero_skips] at hst
  revert hst
  decide +kernel

/-- A COLL that has been lost with its port, and whose loss has still to show (R316). -/
def lostColl : FabOp := { id := 0, core := 0, tid := 0, instr := .collAllreduce 1 2 3 0 .f32, num := 0, tag := 0, n := 0, lost := true }

/-- The lost COLL is the one operation in the fabric queue. -/
def lostCollT : State := { State.reset with fab := { ops := [lostColl] } }

theorem lostCollT_ready : fabReady lostCollT lostColl = true := by
  decide +kernel

/-- Refutes O53: the clauses on arriving chunks do not ask that the COLL be still alive, and one that is lost takes no neighbour's check:
its status word does not become 2 (R316). -/
theorem not_fabricEvents : ¬ Obligations.FabricEvents := by
  unfold Obligations.FabricEvents
  rintro ⟨-, hchunk, -⟩
  obtain ⟨t, he, hstatus, -⟩ :=
    (hchunk 0 0 lostColl [] false 0 lostCollT rfl lostCollT_ready rfl).1 memWf_nil (by decide) rfl (by decide) (by decide) (by decide)
  have ht : t = lostCollT := (Host.Outcome.next.inj he).symm
  rw [ht] at hstatus
  revert hstatus
  decide +kernel

end Sys2Proof.Proofs
end

section
/-! ST (R108, R165, R343): to plain bytes, to a launch window, and the traps that it raises. -/

namespace Sys2Proof.Proofs

open Sys2Proof.Machine Sys2Proof.Safety

section

variable {ty : ETy} {a b : SReg} {disp : BitVec 22} {s s1 : State} {p : Phys} {va : Word} {n : Nat}

theorem transStore_transitOnly (h : transStore n va s = (.ok p, s1)) : TransitOnly s s1 := by
  have ht : TlbOnly s (transStore n va s).2 := tlbOnly_translateFor _ _ _ _ _ _ _ _
  rw [h] at ht
  exact .of_tlbOnly ht

theorem farShut_local {vc pa : Nat} (h : isRemote pa = false) (s : State) : farShut vc pa s = none := by
  simp [farShut, h]

theorem execSt_misaligned (h : (getS s b + disp.signExtend 64).toNat % (ty.width / 8) ≠ 0) :
    exec (.st ty a b disp) s = trapHere 9 (getS s b + disp.signExtend 64) s := if_pos h

/-- A store whose address does not translate traps with the cause (R103). -/
theorem execSt_untranslated {c : Nat} (hal : (getS s b + disp.signExtend 64).toNat % (ty.width / 8) = 0) (hs : MaySend s)
    (ht : transStore (ty.width / 8) (getS s b + disp.signExtend 64) s = (.error c, s1)) :
    exec (.st ty a b disp) s = trapHere c (getS s b + disp.signExtend 64) s1 := by
  obtain ⟨hf, hw⟩ := hs
  show execSt ty a b disp s = _
  unfold execSt
  simp only [hal, reach1_fresh hf, hw, ht]
  rfl

/-- A store that translates to plain bytes is performed on them (R165). -/
theorem execSt_plain (hal : (getS s b + disp.signExtend 64).toNat % (ty.width / 8) = 0) (hs : MaySend s)
    (ht : transStore (ty.width / 8) (getS s b + disp.signExtend 64) s = (.ok p, s1)) (hp : PlainPlace p.pa) (ha : AtOnce s1 p.pa)
    (hm : memOk s1 s1.core.seq.eff p.pa = true) :
    exec (.st ty a b disp) s = done (bumpNum (dcUpdate p.pa ((crossed p.pa (ty.width / 8) s1).wr p.pa (ty.width / 8) (getS s a).toNat))) := by
  obtain ⟨hf, hw⟩ := hs
  have hr := isRemote_of_plainPlace hp
  have hnw : ∀ q off, place p.pa ≠ .window q off := by
    rcases hp with h | ⟨c, h⟩ | ⟨c, o, h⟩ <;> simp [h]
  show execSt ty a b disp s = _
  unfold execSt
  simp only [hal, reach1_fresh hf, hw, ht, farShut_local hr]
  refine (crossTo_atOnce hm ha).trans ?_
  simp [storeHome, hr]

/-- An 8-byte store to a launch window is the doorbell write there (R343). -/
theorem execSt_window {q off : Nat} (hal : (getS s b + disp.signExtend 64).toNat % 8 = 0) (hs : MaySend s)
    (ht : transStore 8 (getS s b + disp.signExtend 64) s = (.ok p, s1)) (hp : place p.pa = .window q off) :
    exec (.st .z64 a b disp) s = done (bumpNum (doorbell q off (getS s a) s1)) := by
  obtain ⟨hf, hw⟩ := hs
  have hr : isRemote p.pa = false := by simp [isRemote, hp]
  have harb (t : State) : memArbiter t p.pa = none := by simp [memArbiter, hp]
  have hn : ETy.z64.width / 8 = 8 := rfl
  show execSt .z64 a b disp s = _
  unfold execSt
  simp only [hn, hal, reach1_fresh hf, hw, ht, farShut_local hr]
  refine (crossTo_near (by simp [memOk, harb]) (by simp [hp])).trans ?_
  simp [hp, chargeMem, harb]

/-- A store of another width does not reach a launch window: its range is unbacked (R103, R343). -/
theorem transStore_window_unbacked {l : Leaf} {q off : Nat} (hn : n ≠ 8) (hv : va.toNat < windowBase)
    (hl : findLeaf (.scalar s.core.id) s.core.seq.eff.root s.core.seq.eff.asn (va.toNat / 4096) s = (.ok l, s1))
    (hp : place (leafAddr l va.toNat) = .window q off) (hw : bitAt l.attr 2 = true) (hs : bitAt l.attr (10 + Path.code .s) = true) :
    transStore n va s = (.error 0x25, s1) := by
  have hc : leafChecks s1 l .s .w { window := decide (n = 8) } (leafAddr l va.toNat) = some 0x25 := by
    simp [leafChecks, hp, hw, hs, pathReaches, backed, hn]
  refine (translateFor_of_leaf hv hl).trans ?_
  rw [hc]
  rfl

/-- What the write of a store leaves as it was. -/
theorem memoryFrame_storeDone (t : State) (pa x : Nat) : MemoryFrame t (bumpNum (dcUpdate pa (t.wr pa n x))) :=
  memoryFrame_of_coreFrame (coreFrame_trans (coreFrame_wr t pa n x) (coreFrame_trans (coreFrame_dcUpdate pa _) (coreFrame_bumpNum _)))
    rfl rfl rfl

/-- ST to plain bytes writes the low bytes of its register there, and no other byte (R165). -/
theorem st_stores (hwf : MemWf s.mem) (hal : (getS s b + disp.signExtend 64).toNat % (ty.width / 8) = 0) (hs : MaySend s)
    (ht : transStore (ty.width / 8) (getS s b + disp.signExtend 64) s = (.ok p, s1)) (hp : PlainPlace p.pa) (ha : AtOnce s1 p.pa)
    (hm : memOk s1 s1.core.seq.eff p.pa = true) :
    Stores (.st ty a b disp) s [] p.pa (ty.width / 8) fun t =>
      memRead t.mem p.pa (ty.width / 8) = (getS s a).toNat % 2 ^ (8 * (ty.width / 8)) := by
  have he := execSt_plain (a := a) hal hs ht hp ha hm
  generalize ty.width / 8 = n at *
  have htr : TransitOnly s (crossed p.pa n s1) := (transStore_transitOnly ht).trans (transitOnly_crossed p.pa n s1)
  generalize crossed p.pa n s1 = u at htr he
  have hu : MemWf u.mem := by rwa [htr.mem]
  refine stores_of_done he ?_ ?_ ?_ ?_ ?_
  · rw [SameHead, ← htr.core]
    exact ⟨rfl, rfl, rfl⟩
  · have hregs : u.core.seq.regs = s.core.seq.regs := by rw [htr.core]
    exact regsKept_of_regs [] hregs
  · intro y hy
    exact (memGet_wr_outside hu _ hy).trans (by unfold byteAt; rw [htr.mem])
  · exact htr.memoryFrame_of (memoryFrame_storeDone u p.pa _)
  · rw [pow_atomicBits]
    exact rd_wr hu p.pa n _

end

/-- Settles O21: a store is performed on plain bytes (`st_stores`), is the doorbell write of a window (`execSt_window`), or raises: off its
alignment, or where a window is no target of its width (`transStore_window_unbacked`). -/
theorem scalarStores : Obligations.ScalarStores := by
  unfold Obligations.ScalarStores
  refine ⟨?_, ?_⟩
  · intro ty a b disp s s1 p _ va n
    exact ⟨st_stores, fun hmis hc => enters_of_raise hc (execSt_misaligned hmis)⟩
  · intro ty a b disp s s1 p l q off va n hs
    refine ⟨fun hal ht hp => ⟨_, execSt_window hal hs ht hp, rfl, rfl⟩, fun _ hn hal hv hl hp hw hb hc => ?_⟩
    have ht : transStore n va s = (.error 0x25, s1) := transStore_window_unbacked hn hv hl hp hw hb
    have htlb : TlbOnly s s1 := by
      have := tlbOnly_findLeaf (.scalar s.core.id) s.core.seq.eff.root s.core.seq.eff.asn (va.toNat / 4096) s
      rwa [hl] at this
    exact enters_of_transit hc (.of_tlbOnly htlb) (execSt_untranslated hal hs ht)

end Sys2Proof.Proofs
end

section
/-! Lists of bytes in memory (R25), and a range of memory that is cleared: what is read back. -/

namespace Sys2Proof.Proofs

open Sys2Proof.Machine Sys2Proof.Safety

theorem bytesNat_lt (bs : List Byte) : bytesNat bs < 256 ^ bs.length := by
  induction bs with
  | nil => decide
  | cons b r ih =>
    have hb : b.toNat < 256 := b.isLt
    rw [bytesNat, List.length_cons, Nat.pow_succ']
    omega

/-- Bytes are read back from the number they make. -/
theorem natBytes_bytesNat (bs : List Byte) : natBytes bs.length (bytesNat bs) = bs := by
  induction bs with
  | nil => rfl
  | cons b r ih =>
    have hb : b.toNat < 256 := b.isLt
    have hdiv : (b.toNat + 256 * bytesNat r) / 256 = bytesNat r := by omega
    have hlow : BitVec.ofNat 8 (b.toNat + 256 * bytesNat r) = b := by
      apply BitVec.eq_of_toNat_eq
      simp only [BitVec.toNat_ofNat]
      omega
    rw [List.length_cons, natBytes, bytesNat, hdiv, ih, hlow]

/-- Bytes that have been written are read back. -/
theorem rdBytes_wrBytes {s : State} (h : MemWf s.mem) (pa : Nat) (bs : List Byte) : (s.wrBytes pa bs).rdBytes pa bs.length = bs := by
  rw [State.rdBytes, State.wrBytes, rd_wr h, Nat.mod_eq_of_lt (bytesNat_lt bs), natBytes_bytesNat]

theorem memKeptOutside_wrBytes {s : State} (h : MemWf s.mem) (pa : Nat) (bs : List Byte) :
    MemKeptOutside pa bs.length s (s.wrBytes pa bs) := fun _ ha => memGet_wr_outside h _ ha

/-- The bytes of memory that a filter of addresses leaves. -/
theorem memGet_filter {m : List Host.Cell} (h : MemWf m) (p : Nat → Bool) (a : Nat) :
    memGet (m.filter fun c => p c.1) a = if p a then memGet m a else 0 := by
  induction m with
  | nil => simp [memGet]
  | cons c r ih =>
    obtain ⟨k, v⟩ := c
    obtain ⟨habove, -, hr⟩ := memWf_cons.mp h
    have hbelow : a < k → memGet r a = 0 := fun ha => memGet_below fun c hc => Nat.lt_trans ha (habove c hc)
    by_cases hk : p k = true
    · have hcons : ((k, v) :: r).filter (fun c => p c.1) = (k, v) :: r.filter fun c => p c.1 := List.filter_cons_of_pos hk
      rw [hcons]
      simp only [memGet, ih hr]
      by_cases hak : a = k
      · simp [hak, hk]
      · by_cases hlt : a < k <;> simp [hak, hlt]
    · have hcons : ((k, v) :: r).filter (fun c => p c.1) = r.filter fun c => p c.1 := List.filter_cons_of_neg hk
      rw [hcons, ih hr]
      simp only [memGet]
      by_cases hak : a = k
      · simp [hak, hk]
      · by_cases hlt : a < k <;> simp [hak, hlt, hbelow]

/-- A cleared range reads 0, and every byte outside it as before. -/
theorem byteAt_zeroMem {s : State} (h : MemWf s.mem) (lo n a : Nat) :
    byteAt (zeroMem lo n s) a = if lo ≤ a ∧ a < lo + n then 0 else byteAt s a := by
  have hf := memGet_filter h (fun x => !(decide (lo ≤ x) && decide (x < lo + n))) a
  refine hf.trans ?_
  by_cases ha : lo ≤ a ∧ a < lo + n
  · simp [ha]
  · have hkeep : (!(decide (lo ≤ a) && decide (a < lo + n))) = true := by simp only [← Bool.decide_and, ha]; rfl
    rw [if_neg ha, if_pos hkeep]
    rfl

end Sys2Proof.Proofs
end

section
/-! Configuration space, attestation, power and the management port (R132, R144, R335 to R341): what each write leaves. -/

namespace Sys2Proof.Proofs

open Sys2Proof.Machine Sys2Proof.Safety

/-- An event that completes with the cores and the memory as they were. -/
theorem happens_kept {i : Instr} {s t : State} {post : State → Prop} (he : exec i s = .next t) (hc : t.core = s.core)
    (ho : t.others = s.others) (hm : t.mem = s.mem) (hp : post t) :
    Happens i s fun t => CoresKept s t ∧ MemKept s t ∧ post t := ⟨t, he, ⟨hc, ho⟩, memKept_of_mem hm, hp⟩

/-! ### Registers with a behaviour (R336) -/

/-- Writing 1 to bits of DEAD clears them (R336). -/
theorem dead_bits {k : Nat} (hk : k < 4) (v : Word) (s : State) {d : Nat} (hd : d < 256) :
    (doDead k v s).cfg.dead.getLsbD d = (s.cfg.dead.getLsbD d && !(decide (d / 64 = k) && v.getLsbD (d % 64))) := by
  have hsel : (v.toNat * 2 ^ (64 * k)).testBit d = (decide (d / 64 = k) && v.getLsbD (d % 64)) := by
    rw [Nat.mul_comm, Nat.testBit_two_pow_mul, ← BitVec.testBit_toNat]
    by_cases hin : d / 64 = k
    · have h1 : 64 * k ≤ d := by omega
      have h2 : d - 64 * k = d % 64 := by omega
      simp [hin, h1, h2]
    · by_cases hlow : 64 * k ≤ d
      · have hhigh : v.toNat.testBit (d - 64 * k) = false :=
          Nat.testBit_lt_two_pow (lt_of_lt_of_le v.isLt (Nat.pow_le_pow_right (by decide) (by omega)))
        simp [hin, hhigh]
      · simp [hin, hlow]
  have he : (doDead k v s).cfg.dead = s.cfg.dead &&& ~~~(BitVec.ofNat 256 (v.toNat * 2 ^ (64 * k))) := by
    unfold doDead
    rw [if_pos hk]
    rfl
  rw [he]
  simp only [BitVec.getLsbD_and, BitVec.getLsbD_not, BitVec.getLsbD_ofNat, hd, hsel, decide_true, Bool.true_and]

/-- A SWAP to what is no region fails (R144, R336). -/
theorem partitionSwap_noRegion {v : Word} {s : State} (hs : s.cfg.swap ≠ 1) (hr : region s (bits v.toNat 8 44 * 256) = none) :
    doPartitionSwap v s = setCfg s { s.cfg with swap := 3, swapRcb := bits v.toNat 8 44 * 256 } := by
  unfold doPartitionSwap
  simp [hs, hr]

theorem filter_cores_none {s : State} {a : Nat} (h : ∀ x ∈ allCores s, x.seq.eff.part ≠ a) :
    (allCores s).filter (fun k => decide (k.seq.mode = .running ∧ k.seq.eff.part = a)) = [] := by
  rw [List.filter_eq_nil_iff]
  intro x hx
  simp [h x hx]

/-- A SWAP to a partition that no core runs a task of is done at once (R144, R336). -/
theorem partitionSwap_unused {v : Word} {s : State} {r : Region} (hs : s.cfg.swap ≠ 1)
    (hr : region s (bits v.toNat 8 44 * 256) = some r) (hp : r.part = bits v.toNat 8 44 * 256)
    (hc : ∀ x ∈ allCores s, x.seq.eff.part ≠ bits v.toNat 8 44 * 256) :
    doPartitionSwap v s = setCfg s { s.cfg with swap := 2, swapRcb := bits v.toNat 8 44 * 256 } := by
  have hall : ((allCores s).all fun k => decide (k.seq.mode = .idle) || decide (k.seq.eff.part ≠ bits v.toNat 8 44 * 256)) = true := by
    rw [List.all_eq_true]
    intro x hx
    simp [hc x hx]
  have hcores (c : Cfg) := filter_cores_none (s := setCfg s c) hc
  unfold doPartitionSwap
  simp only [hs, hr, hp, hcores, if_false, decide_true, Bool.not_true, Bool.false_eq_true, List.map_nil, List.foldl_nil]
  unfold noteSwap
  rw [if_pos ⟨rfl, hall⟩]
  rfl

/-- A new firmware takes its interpreter out of service (R132). -/
theorem fwcmd_begins {v : Word} {s : State} (hs : s.cfg.fwcmd ≠ 1) (hv : v.getLsbD 8 = true) :
    (doFwcmd v s).cfg.fwcmd = 1 ∧ (doFwcmd v s).cfg.fwItp = v.toNat % 64 ∧ v.toNat % 64 ∈ (doFwcmd v s).fe.itpBusy ∧
      (doFwcmd v s).core = s.core ∧ (doFwcmd v s).others = s.others ∧ (doFwcmd v s).mem = s.mem := by
  have hi : bits v.toNat 0 6 = v.toNat % 64 := by simp [bits]
  unfold doFwcmd
  rw [if_neg (by simp [hs, hv])]
  simp [hi, setFe, setCfg]

/-- The state once an interpreter returns to service, its image accepted or not (R132). -/
def backInService (itp : Nat) (good : Bool) (s : State) : State :=
  setFe (setCfg s { s.cfg with fwcmd := if good then 2 else 3 }) { s.fe with itpBusy := s.fe.itpBusy.filter fun j => decide (j ≠ itp) }

theorem firmwareReplacementDone_eq {itp : Nat} {img : FwImage} {s : State} (hc : s.cfg.fwcmd = 1) (hi : s.cfg.fwItp = itp)
    (hq : ∀ x ∈ s.fe.queues, x.st = .disabled ∨ x.interp ≠ itp) :
    exec (.firmwareReplacementDone itp img) s = .next (if staged s img && imageGood img
      then extendMeas 0 img.digest (backInService itp true s) else backInService itp false s) := by
  have hnone : (s.fe.queues.any fun x => decide (x.st ≠ .disabled ∧ x.interp = itp)) = false := by
    rw [List.any_eq_false]
    intro x hx
    rcases hq x hx with h | h <;> simp [h]
  show execFirmwareReplacementDone itp img s = _
  unfold execFirmwareReplacementDone
  rw [if_neg (by rw [hc, hi, hnone]; simp)]
  cases staged s img && imageGood img <;> rfl

theorem backInService_frees (itp : Nat) (good : Bool) (s : State) : itp ∉ (backInService itp good s).fe.itpBusy := by
  simp [backInService]

/-- PWRCAP takes what lies between 1,600 and 3,200 (R339). -/
theorem pwrcap_value (v : Word) (s : State) :
    (doPwrcap v s).cfg.pwrcap.toNat = if 1600 ≤ v.toNat % 4096 ∧ v.toNat % 4096 ≤ 3200 then v.toNat % 4096 else s.cfg.pwrcap.toNat := by
  unfold doPwrcap
  split <;> simp [setCfg]

theorem doPwrcap_frame (v : Word) (s : State) :
    (doPwrcap v s).core = s.core ∧ (doPwrcap v s).others = s.others ∧ (doPwrcap v s).mem = s.mem := by
  unfold doPwrcap
  split <;> exact ⟨rfl, rfl, rfl⟩

/-! ### Attestation (R338) -/

/-- A report is asked for, or the one in the making is kept and status says so. -/
theorem attest_request (s : State) :
    (s.att.req = none → (doAttest 0 1 s).att.status = 1 ∧ (doAttest 0 1 s).att.req = some (s.att.addr, s.att.nonce)) ∧
      (s.att.req ≠ none → (doAttest 0 1 s).att.status = 3 ∧ (doAttest 0 1 s).att.req = s.att.req) := by
  unfold doAttest
  rw [if_pos rfl, if_neg (not_not.mpr rfl)]
  cases s.att.req with
  | none => exact ⟨fun _ => ⟨rfl, rfl⟩, fun hn => absurd rfl hn⟩
  | some r => exact ⟨fun hn => (by cases hn), fun _ => ⟨rfl, rfl⟩⟩

theorem doAttest_frame (off : Nat) (v : Word) (s : State) :
    (doAttest off v s).core = s.core ∧ (doAttest off v s).others = s.others ∧ (doAttest off v s).mem = s.mem := by
  unfold doAttest
  dsimp only
  repeat' split
  all_goals exact ⟨rfl, rfl, rfl⟩

/-- The report with its signature and the certificate. -/
def report (nonce : BitVec 256) (s : State) : List Byte :=
  reportBody nonce s ++ Config.mlDsaSign (Config.sha3 (reportBody nonce s)) ++ Config.certificate

theorem attestReportDone_eq {s : State} {a : Word} {nonce : BitVec 256} (h : s.att.req = some (a, nonce)) :
    exec .attestReportDone s = .next (putAtt { s.att with status := 2, req := none }
      (if inHbm (bits a.toNat 12 40 * 4096) (report nonce s).length then s.wrBytes (bits a.toNat 12 40 * 4096) (report nonce s) else s)) := by
  show execAttestReportDone s = _
  unfold execAttestReportDone report
  rw [h]
  dsimp only
  split <;> rfl

/-! ### Apertures (R309, R336) -/

theorem half_putHalf_same (x : BitVec 128) (hi : Bool) {v : Nat} (hv : v < 2 ^ 64) : half (putHalf x hi v) hi = v := by
  have hlt : putBits x.toNat (if hi then 64 else 0) 64 v < 2 ^ 128 := putBits_lt x.isLt (by cases hi <;> decide)
  rw [half, putHalf, BitVec.toNat_ofNat, Nat.mod_eq_of_lt hlt, bits_putBits_self, Nat.mod_eq_of_lt hv]

theorem half_putHalf_other (x : BitVec 128) (v : Nat) : half (putHalf x false v) true = half x true := by
  have hlt : putBits x.toNat 0 64 v < 2 ^ 128 := putBits_lt x.isLt (by decide)
  show bits (BitVec.ofNat 128 (putBits x.toNat 0 64 v)).toNat 64 64 = _
  rw [BitVec.toNat_ofNat, Nat.mod_eq_of_lt hlt, bits_putBits_disjoint (by decide)]
  rfl

/-- The two words of an aperture stand side by side (R309). -/
def apertureOff (j : Fin 64) (hi : Bool) : Nat := 0x11000 + 16 * j + if hi then 8 else 0

theorem apertureOff_facts (j : Fin 64) (hi : Bool) : 0x11000 ≤ apertureOff j hi ∧ apertureOff j hi < 0x11400 ∧
    (apertureOff j hi - 0x11000) / 16 = j.val ∧ decide (apertureOff j hi % 16 = 8) = hi ∧ apertureOff j hi % 8 = 0 := by
  have hj := j.isLt
  unfold apertureOff
  cases hi
  · simp
    omega
  · simp
    omega

theorem cfgRead_aperture (s : State) (j : Fin 64) (hi : Bool) : cfgRead s (apertureOff j hi) = half s.cfg.aperture[j] hi := by
  obtain ⟨hlo, hhi, hidx, hword, -⟩ := apertureOff_facts j hi
  unfold cfgRead
  generalize apertureOff j hi = off at *
  repeat rw [if_neg (by omega)]
  rw [if_pos ⟨hlo, hhi⟩, hidx, hword]
  simp

theorem cfgWrite_aperture (s : State) (j : Fin 64) (v : Word) :
    cfgWrite (apertureOff j false) v s = setCfg s { s.cfg with
      aperture := s.cfg.aperture.set j (putHalf s.cfg.aperture[j] false (v &&& 0xC00FFFFFFFFFF000).toNat) } := by
  obtain ⟨hlo, hhi, hidx, hword, -⟩ := apertureOff_facts j false
  unfold cfgWrite
  generalize apertureOff j false = off at *
  repeat rw [if_neg (by omega)]
  rw [if_pos ⟨hlo, hhi⟩, hidx, hword, putAperture, dif_pos j.isLt]
  simp [apertureMask]

/-! ### Power (R339, R340) -/

theorem power_at {s : State} {k : Nat} (h : k < 96) : s.power[k]?.getD .active = s.power[k] := by
  simp [h]

theorem clusterGate_eq {s : State} {k : Nat} (hk : k < 96) (hu : clusterUp s k = true) (ha : clusterActive s k = false)
    (hg : s.cfg.clgate.getLsbD k = true) (hl : ∀ r ∈ liveRegions s, bitAt r.clusters k = false) :
    exec (.clusterGate k) s = .next (putPower k .gated (loseSram k s)) := by
  have hnone : ((liveRegions s).any fun r => bitAt r.clusters k) = false := by
    rw [List.any_eq_false]
    intro r hr
    simp [hl r hr]
  show execClusterGate k s = _
  unfold execClusterGate
  rw [if_pos (by simp [hk, hu, ha, hg, hnone])]

theorem putPower_self {k : Nat} (hk : k < 96) (p : Power) (s : State) : (putPower k p s).power[k] = p := by
  simp [putPower, hk]

@[simp] theorem putPower_core (k : Nat) (p : Power) (s : State) : (putPower k p s).core = s.core := by unfold putPower; split <;> rfl
@[simp] theorem putPower_others (k : Nat) (p : Power) (s : State) : (putPower k p s).others = s.others := by unfold putPower; split <;> rfl

/-- The scratchpads of a gated cluster read 0 (log entry 49), and every other byte as before. -/
theorem byteAt_loseSram {s : State} (h : MemWf s.mem) (k a : Nat) :
    byteAt (putPower k .gated (loseSram k s)) a =
      if padBase + 16 * k * 0x100000 ≤ a ∧ a < padBase + 16 * (k + 1) * 0x100000 then 0 else byteAt s a := by
  have hend : padBase + 16 * k * 0x100000 + 16 * 0x100000 = padBase + 16 * (k + 1) * 0x100000 := by omega
  unfold byteAt
  rw [putPower_mem]
  unfold loseSram
  extract_lets fresh t
  have hz := byteAt_zeroMem (s := t) h (padBase + 16 * k * 0x100000) (16 * 0x100000) a
  rw [hend] at hz
  exact hz

theorem clusterWake_eq {s : State} {k : Nat} (hk : k < 96) (hp : s.power[k] = .gated) (hg : s.cfg.clgate.getLsbD k = false) :
    exec (.clusterWake k) s = .next (putPower k .waking s) := by
  show execClusterWake k s = _
  unfold execClusterWake
  rw [if_pos ⟨(power_at hk).trans hp, .inl (by simp [hg])⟩]

theorem clusterWakeDone_eq {s : State} {k : Nat} (hk : k < 96) (hp : s.power[k] = .waking) :
    exec (.clusterWakeDone k) s = .next (putPower k .idle s) := by
  show execClusterWakeDone k s = _
  unfold execClusterWakeDone
  rw [if_pos ((power_at hk).trans hp)]

end Sys2Proof.Proofs
end

section
/-! Boot, cold reset and the settling of device control (R333 to R335, R337, R341). -/

namespace Sys2Proof.Proofs

open Sys2Proof.Machine Sys2Proof.Safety

/-! ### Training the chips (R337) -/

/-- The chip mask after the training of `n` chips from chip `c` on. -/
def trainedMask : Nat → Nat → List Bool → BitVec 16 → BitVec 16
  | 0, _, _, m => m
  | n + 1, c, l, m => trainedMask n (c + 1) l.tail (if l.headD false then BitVec.ofNat 16 (putBits m.toNat c 1 0) else m)

/-- The training takes choices, and changes the chip mask alone. -/
theorem trainChips_eq (n : Nat) : ∀ (c : Nat) (s : State),
    ∃ l, trainChips n c s = { s with choices := l, caps := { s.caps with chips := trainedMask n c s.choices s.caps.chips } } := by
  induction n with
  | zero => exact fun c s => ⟨s.choices, rfl⟩
  | succ n ih =>
    intro c s
    unfold trainChips popChoice
    rcases hc : s.choices with _ | ⟨b, r⟩
    · obtain ⟨l, hl⟩ := ih (c + 1) s
      refine ⟨l, ?_⟩
      simp only [Bool.false_eq_true, if_false, hl, hc]
      rfl
    · cases b with
      | false =>
        obtain ⟨l, hl⟩ := ih (c + 1) { s with choices := r }
        exact ⟨l, hl⟩
      | true =>
        obtain ⟨l, hl⟩ := ih (c + 1) (putChip c false { s with choices := r })
        exact ⟨l, hl⟩

theorem getLsbD_clearChip (m : BitVec 16) (c : Nat) {j : Nat} (hj : j < 16) :
    (BitVec.ofNat 16 (putBits m.toNat c 1 0)).getLsbD j = (m.getLsbD j && !decide (j = c)) := by
  rw [BitVec.getLsbD_ofNat, testBit_putBits, BitVec.testBit_toNat]
  rcases Nat.lt_trichotomy j c with h | h | h
  · rw [if_pos h]
    simp [hj, Nat.ne_of_lt h]
  · rw [if_neg (by omega), if_pos (by omega)]
    simp [h]
  · rw [if_neg (by omega), if_neg (by omega)]
    simp [hj, Nat.ne_of_gt h]

/-- Training leaves a chip below the first as it was. -/
theorem trainedMask_below (n : Nat) : ∀ (c : Nat) (l : List Bool) (m : BitVec 16) {j : Nat}, j < 16 → j < c →
    (trainedMask n c l m).getLsbD j = m.getLsbD j := by
  induction n with
  | zero => exact fun _ _ _ _ _ _ => rfl
  | succ n ih =>
    intro c l m j hj hc
    rw [trainedMask, ih _ _ _ hj (by omega)]
    split
    · simp [getLsbD_clearChip m c hj, Nat.ne_of_lt hc]
    · rfl

/-- A chip's bit stands after its training unless the choice for it says that it failed. -/
theorem trainedMask_bit (n : Nat) : ∀ (c : Nat) (l : List Bool) (m : BitVec 16) {j : Nat}, j < 16 → c ≤ j → j < c + n →
    (trainedMask n c l m).getLsbD j = (m.getLsbD j && !l.getD (j - c) false) := by
  induction n with
  | zero => intro c l m j _ h1 h2; omega
  | succ n ih =>
    intro c l m j hj hlo hhi
    rw [trainedMask]
    by_cases hjc : j = c
    · subst hjc
      rw [trainedMask_below n _ _ _ hj (by omega), Nat.sub_self]
      cases l with
      | nil => simp
      | cons b r => cases b <;> simp [getLsbD_clearChip m j hj]
    · have hm : (if l.headD false = true then BitVec.ofNat 16 (putBits m.toNat c 1 0) else m).getLsbD j = m.getLsbD j := by
        split
        · simp [getLsbD_clearChip m c hj, hjc]
        · rfl
      have hl : l.tail.getD (j - (c + 1)) false = l.getD (j - c) false := by
        rw [show j - c = j - (c + 1) + 1 by omega]
        cases l <;> simp
      rw [ih _ _ _ hj (by omega) (by omega), hm, hl]

/-! ### The images (R334) -/

/-- The image that boot takes for number `k`: copy A's where it is accepted, else copy B's. -/
def Boots (a b : List FwImage) (k : Nat) (i : FwImage) : Prop :=
  imageGood i = true ∧ (a[k]? = some i ∨ ((∀ j, a[k]? = some j → imageGood j = false) ∧ b[k]? = some i))

theorem filter_good_of_bad {l : List FwImage} {k : Nat} (h : ∀ j, l[k]? = some j → imageGood j = false) : (l[k]?).filter imageGood = none := by
  cases hl : l[k]? with
  | none => rfl
  | some j => simp [Option.filter, h j hl]

theorem filter_good_of_good {l : List FwImage} {k : Nat} {i : FwImage} (h : l[k]? = some i) (hg : imageGood i = true) :
    (l[k]?).filter imageGood = some i := by
  simp [h, Option.filter, hg]

theorem bootFrom_accepts {a b : List FwImage} {k : Nat} {i : FwImage} (h : Boots a b k i) (n : Nat) (s : State) :
    bootFrom a b (n + 1) k s = bootFrom a b n (k + 1) (extendMeas k i.digest s) := by
  obtain ⟨hg, ha | ⟨ha, hb⟩⟩ := h
  · rw [bootFrom]
    simp only [filter_good_of_good ha hg]
  · rw [bootFrom]
    simp only [filter_good_of_bad ha, filter_good_of_good hb hg]

theorem bootFrom_fails {a b : List FwImage} {k : Nat} (ha : ∀ i, a[k]? = some i → imageGood i = false)
    (hb : ∀ i, b[k]? = some i → imageGood i = false) (n : Nat) (s : State) : bootFrom a b (n + 1) k s = { s with boot := .fail k } := by
  rw [bootFrom]
  simp only [filter_good_of_bad ha, filter_good_of_bad hb]

/-- The measurements once all four images have been accepted (R335). -/
def measured (is : Fin 4 → FwImage) (s : State) : State :=
  extendMeas 3 (is 3).digest (extendMeas 2 (is 2).digest (extendMeas 1 (is 1).digest (extendMeas 0 (is 0).digest s)))

theorem bootFrom_all {a b : List FwImage} {is : Fin 4 → FwImage} (h : ∀ j : Fin 4, Boots a b j.val (is j)) (s : State) :
    bootFrom a b 4 0 s = bootUp (measured is s) := by
  rw [bootFrom_accepts (k := 0) (h 0) 3, bootFrom_accepts (k := 1) (h 1) 2, bootFrom_accepts (k := 2) (h 2) 1,
    bootFrom_accepts (k := 3) (h 3) 0]
  rfl

/-- Taking in a digest changes one measurement, and nothing else. -/
theorem extendMeas_eq {k : Nat} (hk : k < 8) (d : BitVec 256) (s : State) :
    extendMeas k d s = { s with meas := s.meas.set k (Config.sha3 (natBytes 32 s.meas[k].toNat ++ natBytes 32 d.toNat)) } := dif_pos hk

theorem measured_eq (is : Fin 4 → FwImage) (s : State) : measured is s = { s with meas := (measured is s).meas } := by
  unfold measured
  rw [extendMeas_eq (by decide), extendMeas_eq (by decide), extendMeas_eq (by decide), extendMeas_eq (by decide)]

theorem measured_meas (is : Fin 4 → FwImage) (s : State) (j : Fin 8) : (measured is s).meas[j] =
    if h : j.val < 4 then Config.sha3 (natBytes 32 s.meas[j].toNat ++ natBytes 32 (is ⟨j.val, h⟩).digest.toNat) else s.meas[j] := by
  unfold measured
  rw [extendMeas_eq (by decide), extendMeas_eq (by decide), extendMeas_eq (by decide), extendMeas_eq (by decide)]
  fin_cases j <;> simp

/-- What the device is once it is up (R335). -/
theorem bootUp_eq (s : State) : ∃ l, bootUp s = { State.reset with
    mem := s.mem, poison := s.poison, meas := s.meas, eth := s.eth, boot := .up
    caps := { chips := trainedMask 16 0 s.choices 0xFFFF, node := s.caps.node }
    ras := { State.reset.ras with retired := s.ras.retired, remapped := s.ras.remapped }
    agenda := s.agenda, choices := l, freeCtr := s.freeCtr, out := s.out } := by
  obtain ⟨l, hl⟩ := trainChips_eq 16 0 { State.reset with
    mem := s.mem, poison := s.poison, meas := s.meas, eth := s.eth, boot := .up
    caps := { State.reset.caps with node := s.caps.node }
    ras := { State.reset.ras with retired := s.ras.retired, remapped := s.ras.remapped }
    agenda := s.agenda, choices := s.choices, freeCtr := s.freeCtr, out := s.out }
  exact ⟨l, hl⟩

/-- The bit of a chip once the device is up (R337). -/
theorem bootUp_chips (l : List Bool) (j : Fin 16) : (trainedMask 16 0 l 0xFFFF).getLsbD j = !l.getD j false := by
  rw [trainedMask_bit 16 0 l 0xFFFF j.isLt (Nat.zero_le _) (by omega)]
  have hone : (0xFFFF : BitVec 16).getLsbD j = true := by
    revert j
    decide
  rw [hone, Bool.true_and, Nat.sub_zero]

/-- With no core that has run, every core is as at reset. -/
theorem getCore_fresh {s : State} (hc : s.core = { id := 0 }) (ho : s.others = []) (j : Nat) : getCore s j = { id := j } := by
  unfold getCore
  rw [hc, ho]
  split
  · next h => rw [← h]
  · rfl

theorem getQ_fresh {s : State} (h : s.fe = {}) (q : Nat) : getQ s q = { q := q } := by
  unfold getQ
  rw [h]
  rfl

theorem bootFrom_mem {a b : List FwImage} {n k : Nat} {s : State} : (bootFrom a b n k s).mem = s.mem := by
  fun_induction bootFrom a b n k s <;> simp_all

theorem putAtt_rdBytes (x : Attest) (s : State) (pa n : Nat) : (putAtt x s).rdBytes pa n = s.rdBytes pa n := rfl

theorem memKeptOutside_putAtt {s t : State} {pa n : Nat} (x : Attest) (h : MemKeptOutside pa n s t) :
    MemKeptOutside pa n s (putAtt x t) := h

/-- RESUME_CORE lets a halted core go on where it stands (R160). -/
theorem resumeCore_eq {c : Nat} {s : State} (h : (focus s c).core.seq.mode = .halted) :
    let f := fun t : State => if t.core.seq.mode = .halted then setSeq t { t.core.seq with mode := .running, stall := false } else t
    (focus (onCore c f s) c).core = { (focus s c).core with seq := { (focus s c).core.seq with mode := .running, stall := false } } ∧
      (onCore c f s).mem = s.mem := by
  intro f
  have hf : f (focus s c) = setSeq (focus s c) { (focus s c).core.seq with mode := .running, stall := false } := if_pos h
  have hid : (f (focus s c)).core.id = c := by
    rw [hf]
    exact focus_id s c
  refine ⟨?_, ?_⟩
  · rw [focus_onCore_core hid, hf]
    rfl
  · rw [onCore_mem, hf, setSeq_mem, focus_mem]

/-! ### The statement -/

/-- Settles O60: a write or an end of device control is an update of a few fields, given by the equation of its case; boot takes each
image in turn (`bootFrom_all`) and leaves what `bootUp_eq` says. -/
theorem deviceControl : Obligations.DeviceControl := by
  unfold Obligations.DeviceControl
  intro v k c itp id img as bs down sense s gives extend
  refine ⟨fun hk => ?dead, fun hs a ha => ?swap, fun hs hv => ?fwcmd, fun hc hi hq => ?fwdone, ?attest, ?attestAddr, fun a nonce hwf hr => ?report,
    ?pwrcap, ?qdbase, ?logrel, fun j => ?aperture, ?throttle, ?critical, fun hk hwf hu ha hg hl => ?gate, fun hk => ?wake,
    fun is hb hi => ?boot, fun hb ha hb' => ?bootFail, ?cold, ?bootB, ?temperature, fun j => ?measurement, fun hf => ?failing, fun hh => ?resume,
    ?node⟩
  case dead =>
    refine happens_kept rfl ?_ ?_ ?_ fun d hd => dead_bits hk v s hd
    all_goals rw [doDead, if_pos hk]; rfl
  case swap =>
    subst ha
    refine ⟨fun hr => ?_, fun r hr hp hc => ?_⟩
    · exact happens_kept (congrArg Host.Outcome.next (partitionSwap_noRegion hs hr)) rfl rfl rfl rfl
    · exact happens_kept (congrArg Host.Outcome.next (partitionSwap_unused hs hr hp hc)) rfl rfl rfl ⟨rfl, rfl⟩
  case fwcmd =>
    obtain ⟨hcmd, hitp, hbusy, hcore, hothers, hmem⟩ := fwcmd_begins hs hv
    exact happens_kept rfl hcore hothers hmem ⟨hcmd, hitp, hbusy⟩
  case fwdone =>
    have he := firmwareReplacementDone_eq (img := img) hc hi hq
    by_cases hgood : (staged s img && imageGood img) = true
    · rw [if_pos hgood, extendMeas_eq (by decide)] at he
      obtain ⟨hst, hig⟩ := Bool.and_eq_true_iff.mp hgood
      refine happens_kept he rfl rfl rfl ⟨backInService_frees itp true s, fun _ _ => ⟨rfl, ?_⟩, fun h => ?_⟩
      · exact Vector.getElem_set_self _
      · simp [hst, hig] at h
    · rw [if_neg hgood] at he
      refine happens_kept he rfl rfl rfl ⟨backInService_frees itp false s, fun hst hig => ?_, fun _ => ⟨rfl, rfl⟩⟩
      simp [hst, hig] at hgood
  case attest =>
    obtain ⟨hcore, hothers, hmem⟩ := doAttest_frame 0 1 s
    exact happens_kept rfl hcore hothers hmem (attest_request s)
  case attestAddr => exact happens_kept rfl rfl rfl rfl ⟨rfl, rfl⟩
  case report =>
    refine ⟨_, attestReportDone_eq hr, ?_, rfl, rfl, fun rep hrep hin => ?_⟩
    · split <;> exact ⟨rfl, rfl⟩
    · have hrep' : rep = report nonce s := hrep
      subst hrep'
      rw [if_pos hin, putAtt_rdBytes, rdBytes_wrBytes hwf]
      exact ⟨rfl, memKeptOutside_putAtt _ (memKeptOutside_wrBytes hwf _ _)⟩
  case pwrcap =>
    obtain ⟨hcore, hothers, hmem⟩ := doPwrcap_frame v s
    exact happens_kept rfl hcore hothers hmem (pwrcap_value v s)
  case qdbase => exact happens_kept rfl rfl rfl rfl ⟨rfl, rfl⟩
  case logrel =>
    refine happens_kept rfl rfl rfl rfl ⟨?_, rfl⟩
    exact BitVec.toNat_setWidth 32 v
  case aperture =>
    have hfalse : 0x11000 + 16 * j.val = apertureOff j false := rfl
    have htrue : 0x11008 + 16 * j.val = apertureOff j true := by
      show _ = 0x11000 + 16 * j.val + 8
      omega
    obtain ⟨-, -, -, -, hal⟩ := apertureOff_facts j false
    have he : exec (.configWrite (apertureOff j false) v) s = .next (cfgWrite (apertureOff j false) v s) := by
      show execConfigWrite _ v s = _
      rw [execConfigWrite, if_pos hal]
    rw [cfgWrite_aperture] at he
    rw [hfalse, htrue]
    refine happens_kept he rfl rfl rfl ?_
    rw [cfgRead_aperture, cfgRead_aperture, cfgRead_aperture]
    simp only [setCfg, Fin.getElem_fin, Vector.getElem_set_self]
    exact ⟨half_putHalf_same _ false (v &&& 0xC00FFFFFFFFFF000).isLt, half_putHalf_other _ _⟩
  case throttle =>
    refine happens_kept rfl rfl rfl rfl fun hlo hhi => ?_
    cases down <;> simp <;> omega
  case critical => exact happens_kept rfl rfl rfl rfl rfl
  case gate =>
    refine ⟨_, clusterGate_eq hk hu ha hg hl, putPower_self hk _ _, fun a => ⟨fun h1 h2 => ?_, fun h => ?_⟩⟩
    · rw [byteAt_loseSram hwf, if_pos ⟨h1, h2⟩]
    · rw [byteAt_loseSram hwf, if_neg (by omega)]
  case wake =>
    refine ⟨fun hp hg => ?_, fun hp => ?_⟩
    · exact happens_kept (clusterWake_eq hk hp hg) (putPower_core _ _ _) (putPower_others _ _ _) putPower_mem (putPower_self hk _ _)
    · exact happens_kept (clusterWakeDone_eq hk hp) (putPower_core _ _ _) (putPower_others _ _ _) putPower_mem (putPower_self hk _ _)
  case boot =>
    obtain ⟨l, hl⟩ := bootUp_eq (measured is s)
    have he : exec (.boot as bs) s = .next (bootUp (measured is s)) := by
      show execBoot as bs s = _
      rw [execBoot, if_pos hb, bootFrom_all hi]
    rw [hl] at he
    have hmeas := measured_eq is s
    have hmem : (measured is s).mem = s.mem := by rw [hmeas]
    refine ⟨_, he, rfl, memKept_of_mem hmem, fun j => ?_, fun j hj => ?_, fun j => by rw [getCore_fresh rfl rfl],
      fun j => by rw [getQ_fresh rfl], rfl, rfl, rfl, rfl, rfl, fun j => ?_⟩
    · exact (measured_meas is s ⟨j.val, by omega⟩).trans (dif_pos j.isLt)
    · exact (measured_meas is s j).trans (dif_neg (by omega))
    · rw [bootUp_chips, hmeas]
  case bootFail =>
    refine happens_kept (t := { s with boot := .fail 0 }) ?_ rfl rfl rfl ⟨rfl, rfl⟩
    show execBoot as bs s = _
    rw [execBoot, if_pos hb, bootFrom_fails ha hb']
  case cold =>
    exact ⟨_, rfl, rfl, fun j => by rw [getCore_fresh rfl rfl], fun j => by rw [getQ_fresh rfl], rfl, rfl, rfl⟩
  case bootB =>
    refine ⟨_, rfl, bootFrom_mem, fun hgood => ?_⟩
    choose is his hig using fun j : Fin 4 => hgood j.val j.isLt
    obtain ⟨l, hl⟩ := bootUp_eq (measured is (afterReset s))
    rw [bootFrom_all (is := is) fun j => ⟨hig j, .inr ⟨fun i hi => by simp at hi, his j⟩⟩, hl]
  case temperature => exact happens_kept rfl rfl rfl rfl rfl
  case measurement =>
    refine happens_kept rfl rfl rfl rfl ?_
    simp [send]
  case failing =>
    refine happens_kept rfl rfl rfl rfl ?_
    simp [send, hf]
  case resume =>
    obtain ⟨hcore, hmem⟩ := resumeCore_eq hh
    refine ⟨_, rfl, ?_, ?_, ?_, memKept_of_mem hmem⟩
    · rw [hcore]
    · rw [hcore]
    · exact regsKept_of_regs [] (by rw [hcore])
  case node => exact happens_kept rfl rfl rfl rfl rfl

end Sys2Proof.Proofs
end

section
/-! What the operations of the front end leave as it was: the cores, the dispatchers, and the queues but the one at hand (R107, R116, R117,
R326, R345). -/

namespace Sys2Proof.Proofs

open Sys2Proof.Machine Sys2Proof.Safety

/-- `t` has the cores, the dispatchers and the front end of `s`. -/
def AgentsKept (s t : State) : Prop := CoresKept s t ∧ t.copy = s.copy ∧ t.fe = s.fe

theorem AgentsKept.refl (s : State) : AgentsKept s s := ⟨⟨rfl, rfl⟩, rfl, rfl⟩

theorem agentsKept_of_memOnly {s t : State} (h : MemOnly s t) : AgentsKept s t := ⟨⟨h.core, h.others⟩, h.copy, h.fe⟩

theorem AgentsKept.getQ {s t : State} (h : AgentsKept s t) (q : Nat) : Machine.getQ t q = Machine.getQ s q :=
  getQ_congr (congrArg FrontEnd.queues h.2.2) q

/-! ### Records and signals -/

@[simp] theorem logRecord_core (r : LogRec) (s : State) : (logRecord r s).core = s.core := by
  unfold logRecord
  split
  · rfl
  · simp only [wr_core]

@[simp] theorem logRecord_others (r : LogRec) (s : State) : (logRecord r s).others = s.others := by
  unfold logRecord
  split
  · rfl
  · simp only [wr_others]

@[simp] theorem logRecord_copy (r : LogRec) (s : State) : (logRecord r s).copy = s.copy := by
  unfold logRecord
  split
  · rfl
  · simp only [wr_copy]

@[simp] theorem logRecord_fe (r : LogRec) (s : State) : (logRecord r s).fe = s.fe := by
  unfold logRecord
  split
  · rfl
  · simp only [wr_fe]

theorem agentsKept_logRecord (r : LogRec) (s : State) : AgentsKept s (logRecord r s) :=
  ⟨⟨logRecord_core r s, logRecord_others r s⟩, logRecord_copy r s, logRecord_fe r s⟩

theorem agentsKept_fePoison (q pa : Nat) (s : State) : AgentsKept s (fePoison q pa s) := agentsKept_logRecord _ s

theorem memOnly_putCompletion (sig flags st nf : Nat) (s : State) : MemOnly s (putCompletion sig flags st nf s) := rfl

theorem memOnly_sigAbort (pa code : Nat) (s : State) : MemOnly s (sigAbort pa code s) := by
  unfold sigAbort
  split
  · exact MemOnly.refl s
  · exact memOnly_sigChange _ _ _ s

theorem memOnly_waitOn (q : Nat) (sigs : List Nat) (s : State) : MemOnly s (waitOn q sigs s) :=
  memOnly_foldl (fun u a => memOnly_addWaiter a _ u) sigs s

theorem memOnly_unwait (q : Nat) (sigs : List Nat) (s : State) : MemOnly s (unwait q sigs s) :=
  memOnly_foldl (fun u a => memOnly_delWaiter a _ u) sigs s

theorem memOnly_failSignal (p : List Byte) (st : Nat) (s : State) : MemOnly s (failSignal p st s) := by
  unfold failSignal
  extract_lets a t
  have ht : MemOnly s t := by
    unfold t
    split
    · exact memOnly_putCompletion _ _ _ _ s
    · exact MemOnly.refl s
  split
  · exact MemOnly.refl s
  · exact ht.trans (memOnly_sigAbort _ _ t)

/-! ### A queue put back -/

/-- A state in which the operation at hand has put queue `y` back. -/
theorem getQ_of_put {u t : State} {y : Queue} {q : Nat} (h : MemOnly (setQ y u) t) (hy : y.q = q) : getQ t q = y := by
  rw [h.getQ, ← hy, getQ_setQ]

/-- A write-back leaves bytes outside the descriptor as they were (R107). -/
theorem rdBytes_writeBack {s : State} (h : MemWf s.mem) {q pa n : Nat} (full : Bool)
    (hd : descAddr s q + 64 ≤ pa ∨ pa + n ≤ descAddr s q) : (writeBack q full s).rdBytes pa n = s.rdBytes pa n := by
  have hread : memRead (writeBack q full s).mem pa n = memRead s.mem pa n :=
    memRead_congr n pa fun k hk => memGet_writeBack q full h (by omega)
  unfold State.rdBytes State.rd
  rw [hread]

end Sys2Proof.Proofs
end

section
/-! Writes to a launch window (R107, R108, R110). -/

namespace Sys2Proof.Proofs

open Sys2Proof.Machine Sys2Proof.Safety

/-- What follows a window write changes memory alone. -/
theorem memOnly_afterWindow (q : Nat) (was : QState) (s : State) : MemOnly s (afterWindow q was s) := memOnly_writeBack q _ s

theorem rdBytes_afterWindow {u : State} (h : MemWf u.mem) {q pa n : Nat} (was : QState) (y : Queue)
    (hd : descAddr u q + 64 ≤ pa ∨ pa + n ≤ descAddr u q) : (afterWindow q was (setQ y u)).rdBytes pa n = u.rdBytes pa n :=
  rdBytes_writeBack (s := setQ y u) h _ hd

/-- `i` leaves the cores and the dispatchers, and queue `q` as `post` says. -/
def WindowGives (s : State) (q : Nat) (i : Instr) (post : Queue → Prop) : Prop :=
  Happens i s fun t => CoresKept s t ∧ t.copy = s.copy ∧ post (getQ t q)

/-- `i` leaves queue `q` its error code, and nothing else of it. -/
def WindowWrong (s : State) (q : Nat) (i : Instr) (code : Nat) : Prop :=
  WindowGives s q i fun y => y.errcode = code ∧ y.st = (getQ s q).st ∧ y.tail = (getQ s q).tail ∧ y.head = (getQ s q).head ∧
    y.prog = (getQ s q).prog

/-- A window write that puts queue `y` back. -/
theorem window_gives {i : Instr} {s u : State} {q : Nat} {was : QState} {y : Queue} {post : Queue → Prop}
    (he : exec i s = .next (afterWindow q was (setQ y u))) (hu : AgentsKept s u) (hy : y.q = q) (hp : post y) :
    WindowGives s q i post := by
  have hm := memOnly_afterWindow q was (setQ y u)
  refine ⟨_, he, ⟨hm.core.trans hu.1.1, hm.others.trans hu.1.2⟩, hm.copy.trans hu.2.1, ?_⟩
  rwa [hm.getQ, ← hy, getQ_setQ]

/-- A window write that does not apply leaves its error code, and nothing else. -/
theorem window_wrong {i : Instr} {s u : State} {q code : Nat} (he : exec i s = .next (windowError q code u)) (hu : AgentsKept s u) :
    WindowWrong s q i code := by
  refine window_gives he hu (getQ_q u q) ?_
  rw [hu.getQ]
  exact ⟨rfl, rfl, rfl, rfl, rfl⟩

theorem wake_eq (x : Queue) : wake x = { x with st := if x.st = .idle ∧ x.head ≠ x.tail then .fetch else x.st } := by
  unfold wake
  split <;> rfl

/-! ### Inline packets and TAIL -/

/-- A ring with room for a packet is not full after it. -/
theorem head_ne_tail_of_room {x : Queue} (hr : ringRoom x 1 = true) (hl : x.lsize ≤ 20) : x.head ≠ x.tail + 1 := by
  have hsize : 2 ^ x.lsize ≤ 2 ^ 20 := Nat.pow_le_pow_right (by decide) hl
  have hroom : (x.tail - x.head).toNat + 1 ≤ 2 ^ x.lsize := of_decide_eq_true hr
  have hsmall : (x.tail - x.head).toNat < 2 ^ 20 := by omega
  intro he
  rw [he] at hsmall
  bv_omega

section

variable {q : Nat} {bs : List Byte} {s : State}

/-- The queue after an inline packet that fits: an empty idle queue holds the packet already (R108). -/
def afterInline (x : Queue) (bs : List Byte) : Queue :=
  wake (if decide (x.st = .idle) && decide (x.head = x.tail) then { x with tail := x.tail + 1, pkt := bs } else { x with tail := x.tail + 1 })

theorem afterInline_facts {x : Queue} (hr : ringRoom x 1 = true) (hl : x.lsize ≤ 20) : (afterInline x bs).q = x.q ∧
    (afterInline x bs).tail = x.tail + 1 ∧ (afterInline x bs).head = x.head ∧
    (afterInline x bs).st = if x.st = .idle then .fetch else x.st := by
  have hne := head_ne_tail_of_room hr hl
  unfold afterInline
  split <;> simp only [wake_eq, hne, ne_eq, not_false_eq_true, and_true]

theorem inline_fits (hlen : bs.length = 64) (hp : pLen bs = 1) (hst : (getQ s q).st ≠ .disabled) (hr : ringRoom (getQ s q) 1 = true) :
    exec (.inlinePacket q bs) s = .next (afterWindow q (getQ s q).st
      (setQ (afterInline (getQ s q) bs) (s.wrBytes (slotPa (getQ s q) (getQ s q).tail) bs))) := by
  show execInlinePacket q bs s = _
  unfold execInlinePacket inlineWrite
  rw [if_pos hlen]
  simp only [hst, hp, hr, if_false, ne_eq, not_true_eq_false, Bool.not_true, Bool.false_eq_true]
  rfl

/-- An inline packet that fits stands in the slot at the tail, which moves on (R108). -/
theorem inline_placed (hwf : MemWf s.mem) (hlen : bs.length = 64) (hp : pLen bs = 1) (hst : (getQ s q).st ≠ .disabled)
    (hr : ringRoom (getQ s q) 1 = true) (hl : (getQ s q).lsize ≤ 20)
    (hd : descAddr s q + 64 ≤ slotPa (getQ s q) (getQ s q).tail ∨ slotPa (getQ s q) (getQ s q).tail + 64 ≤ descAddr s q) :
    Happens (.inlinePacket q bs) s fun t => CoresKept s t ∧ (getQ t q).tail = (getQ s q).tail + 1 ∧ (getQ t q).head = (getQ s q).head ∧
      (getQ t q).st = (if (getQ s q).st = .idle then .fetch else (getQ s q).st) ∧
      t.rdBytes (slotPa (getQ s q) (getQ s q).tail) 64 = bs := by
  obtain ⟨hq, htail, hhead, hstate⟩ := afterInline_facts (bs := bs) hr hl
  have hwr : AgentsKept s (s.wrBytes (slotPa (getQ s q) (getQ s q).tail) bs) := AgentsKept.refl s
  obtain ⟨t, he, hc, -, hx⟩ := window_gives (post := fun y => y = afterInline (getQ s q) bs) (inline_fits hlen hp hst hr) hwr
    (hq.trans (getQ_q s q)) rfl
  refine ⟨t, he, hc, by rw [hx, htail], by rw [hx, hhead], by rw [hx, hstate], ?_⟩
  have ht := Host.Outcome.next.inj (he.symm.trans (inline_fits hlen hp hst hr))
  have hbytes := rdBytes_wrBytes hwf (slotPa (getQ s q) (getQ s q).tail) bs
  rw [hlen] at hbytes
  rw [ht, rdBytes_afterWindow (memWf_wrBytes _ _ hwf) _ _ hd, hbytes]

theorem inline_disabled (hlen : bs.length = 64) (hst : (getQ s q).st = .disabled) :
    exec (.inlinePacket q bs) s = .next (afterWindow q (getQ s q).st (setQ { countDrop (getQ s q) with errcode := 7 } s)) := by
  show execInlinePacket q bs s = _
  unfold execInlinePacket inlineWrite
  rw [if_pos hlen]
  simp only [hst, if_true]

theorem inline_malformed (hlen : bs.length = 64) (hst : (getQ s q).st ≠ .disabled) (hp : pLen bs ≠ 1) :
    exec (.inlinePacket q bs) s = .next (afterWindow q (getQ s q).st (setQ { countDrop (getQ s q) with errcode := 1 } s)) := by
  show execInlinePacket q bs s = _
  unfold execInlinePacket inlineWrite
  rw [if_pos hlen]
  simp only [hst, hp, if_false, ne_eq, not_false_eq_true, if_true]

theorem inline_full (hlen : bs.length = 64) (hst : (getQ s q).st ≠ .disabled) (hp : pLen bs = 1) (hr : ringRoom (getQ s q) 1 = false) :
    exec (.inlinePacket q bs) s = .next (afterWindow q (getQ s q).st (setQ { countDrop (getQ s q) with errcode := 2 } s)) := by
  show execInlinePacket q bs s = _
  unfold execInlinePacket inlineWrite
  rw [if_pos hlen]
  simp only [hst, hp, hr, if_false, ne_eq, not_true_eq_false, Bool.not_false, if_true]

theorem inline_wrong_length (hlen : bs.length ≠ 64) : exec (.inlinePacket q bs) s = .next (windowError q 1 s) := by
  show execInlinePacket q bs s = _
  unfold execInlinePacket
  rw [if_neg hlen]

end

section

variable {q : Nat} {arg : Word} {s : State}

theorem tail_disabled (h : (getQ s q).st = .disabled) : exec (.tail q arg) s = .next (windowError q 7 s) := by
  show Host.Outcome.next (doTail q arg s) = _
  unfold doTail
  rw [if_pos h]

theorem tail_fits (h : (getQ s q).st ≠ .disabled) (hf : (arg.extractLsb' 0 32 - (getQ s q).head).toNat ≤ 2 ^ (getQ s q).lsize ∧
    (arg.extractLsb' 0 32 - (getQ s q).tail).toNat ≤ 2 ^ (getQ s q).lsize) :
    exec (.tail q arg) s = .next (afterWindow q (getQ s q).st (setQ (wake { getQ s q with tail := arg.extractLsb' 0 32 }) s)) := by
  show Host.Outcome.next (doTail q arg s) = _
  unfold doTail
  rw [if_neg h, if_pos hf]

theorem tail_beyond (h : (getQ s q).st ≠ .disabled) (hf : 2 ^ (getQ s q).lsize < (arg.extractLsb' 0 32 - (getQ s q).head).toNat) :
    exec (.tail q arg) s = .next (windowError q 3 s) := by
  show Host.Outcome.next (doTail q arg s) = _
  unfold doTail
  rw [if_neg h, if_neg fun hle => absurd hle.1 (by omega)]

/-! ### ENABLE -/

/-- The checks of the descriptor at `a` whose words are `w` (R107). -/
def descOk (a : Nat) (w : Nat → Nat) : Bool :=
  inHbm a 64 && decide (bits (w 0) 52 12 = 0) && decide (bits (w 0) 0 5 ≤ 20) && decide (bits (w 2) 52 12 = 0) &&
    decide (bits (w 2) 4 2 = 0) && decide (bits (w 3) 52 12 = 0) && decide (w 4 < 2 ^ 32) && decide (bits (w 5) 8 8 = 0) &&
    decide (bits (w 5) 3 4 = 0) && decide (w 6 = 0) && decide (bits (w 0) 6 46 * 64 ≠ 0) &&
    inHbm (bits (w 0) 6 46 * 64) (64 * 2 ^ bits (w 0) 0 5) && decide (bits (w 2) 6 46 * 64 ≠ 0) &&
    decide (bits (w 2) 6 46 * 64 % 256 = 0) && inHbm (bits (w 2) 6 46 * 64) 256

/-- The queue whose descriptor has the words `w` (R107). -/
def descQueue (q : Nat) (w : Nat → Nat) : Queue :=
  { q := q, ringbase := bits (w 0) 6 46 * 64, ing := bitAt (w 0) 5, lsize := bits (w 0) 0 5, tail := BitVec.ofNat 32 (bits (w 1) 32 32),
    head := BitVec.ofNat 32 (bits (w 1) 0 32), rcb := bits (w 2) 6 46 * 64, qprio := bits (w 2) 0 4, interp := bits (w 3) 0 6,
    seq := BitVec.ofNat 32 (w 4), drops := bits (w 5) 32 32, errcode := bits (w 5) 24 8, refetch := bits (w 5) 16 8,
    port := bits (w 5) 7 1, pword := BitVec.ofNat 64 (w 7), prog := 0, code := [], manifest := [], st := .idle }

/-- The words of the descriptor of queue `q`. -/
def descWord (s : State) (q k : Nat) : Nat := memRead s.mem (descAddr s q + 8 * k) 8

/-- What makes the descriptor at `a` with the words `w` a sound one of a queue without a program (R107). -/
structure SoundDesc (a : Nat) (w : Nat → Nat) (base lsize head tail rcb prio itp sq pword : Nat) : Prop where
  place : inHbm a 64 = true
  baseAligned : base % 64 = 0
  basePos : base ≠ 0
  size : lsize ≤ 20
  ring : inHbm base (64 * 2 ^ lsize) = true
  word0 : w 0 = base + lsize
  headLt : head < 2 ^ 32
  tailLt : tail < 2 ^ 32
  word1 : w 1 = head + tail * 2 ^ 32
  rcbAligned : rcb % 256 = 0
  rcbPos : rcb ≠ 0
  control : inHbm rcb 256 = true
  prioLt : prio < 16
  word2 : w 2 = rcb + prio
  itpLt : itp < 64
  word3 : w 3 = itp
  sqLt : sq < 2 ^ 32
  word4 : w 4 = sq
  word5 : w 5 = 0
  word6 : w 6 = 0
  pwordLt : pword < 2 ^ 64
  word7 : w 7 = pword

theorem le_hbmEnd_of_inHbm {a n : Nat} (h : inHbm a n = true) : a + n ≤ 0x00C000000000 := of_decide_eq_true h

section

variable {a base lsize head tail rcb prio itp sq pword : Nat} {w : Nat → Nat}

theorem SoundDesc.word0_fields (h : SoundDesc a w base lsize head tail rcb prio itp sq pword) :
    bits (w 0) 52 12 = 0 ∧ bits (w 0) 0 5 = lsize ∧ bits (w 0) 6 46 * 64 = base := by
  have hbase := le_hbmEnd_of_inHbm h.ring
  have hsize := h.size
  have halign := h.baseAligned
  rw [h.word0]
  unfold bits
  norm_num
  omega

theorem SoundDesc.word1_fields (h : SoundDesc a w base lsize head tail rcb prio itp sq pword) :
    bits (w 1) 0 32 = head ∧ bits (w 1) 32 32 = tail := by
  have hhead := h.headLt
  have htail := h.tailLt
  rw [h.word1]
  unfold bits
  norm_num at *
  omega

theorem SoundDesc.word2_fields (h : SoundDesc a w base lsize head tail rcb prio itp sq pword) :
    bits (w 2) 52 12 = 0 ∧ bits (w 2) 4 2 = 0 ∧ bits (w 2) 6 46 * 64 = rcb ∧ bits (w 2) 0 4 = prio := by
  have hrcb := le_hbmEnd_of_inHbm h.control
  have hprio := h.prioLt
  have halign := h.rcbAligned
  rw [h.word2]
  unfold bits
  norm_num
  omega

theorem SoundDesc.word3_fields (h : SoundDesc a w base lsize head tail rcb prio itp sq pword) :
    bits (w 3) 52 12 = 0 ∧ bits (w 3) 6 46 = 0 ∧ bits (w 3) 0 6 = itp := by
  have hitp := h.itpLt
  rw [h.word3]
  unfold bits
  norm_num
  omega

theorem SoundDesc.ok (h : SoundDesc a w base lsize head tail rcb prio itp sq pword) : descOk a w = true := by
  obtain ⟨h0, hsize, hbase⟩ := h.word0_fields
  obtain ⟨h2, h2', hrcb, -⟩ := h.word2_fields
  obtain ⟨h3, -, -⟩ := h.word3_fields
  unfold descOk
  rw [h0, hsize, hbase, h2, h2', hrcb, h3, h.word4, h.word5, h.word6, h.place, h.ring, h.control]
  rw [decide_eq_true h.sqLt]
  simp [h.size, h.basePos, h.rcbPos, h.rcbAligned, bits]

/-- The queue that a sound descriptor gives (R107, R110). -/
theorem SoundDesc.queue (h : SoundDesc a w base lsize head tail rcb prio itp sq pword) (q : Nat) (y : Queue)
    (hy : y = wake (descQueue q w)) : y.st = (if head = tail then .idle else .fetch) ∧ y.ringbase = base ∧ y.lsize = lsize ∧
      y.head.toNat = head ∧ y.tail.toNat = tail ∧ y.rcb = rcb ∧ y.qprio = prio ∧ y.interp = itp ∧ y.seq.toNat = sq ∧
      y.pword.toNat = pword ∧ y.prog = 0 := by
  obtain ⟨-, hsize, hbase⟩ := h.word0_fields
  obtain ⟨hhead, htail⟩ := h.word1_fields
  obtain ⟨-, -, hrcb, hprio⟩ := h.word2_fields
  obtain ⟨-, -, hitp⟩ := h.word3_fields
  have hne : BitVec.ofNat 32 head = BitVec.ofNat 32 tail ↔ head = tail := by
    rw [← BitVec.toNat_inj, BitVec.toNat_ofNat, BitVec.toNat_ofNat, Nat.mod_eq_of_lt h.headLt, Nat.mod_eq_of_lt h.tailLt]
  subst hy
  rw [wake_eq, descQueue, hsize, hbase, hhead, htail, hrcb, hprio, hitp, h.word4, h.word7]
  refine ⟨?_, rfl, rfl, ?_, ?_, rfl, rfl, rfl, ?_, ?_, rfl⟩
  · by_cases he : head = tail <;> simp [hne, he]
  · exact Nat.mod_eq_of_lt h.headLt
  · exact Nat.mod_eq_of_lt h.tailLt
  · exact Nat.mod_eq_of_lt h.sqLt
  · exact Nat.mod_eq_of_lt h.pwordLt

end

/-- ENABLE of a sound descriptor without a program starts the queue of its words (R107, R110). -/
theorem enable_sound (h : (getQ s q).st = .disabled) (hp : isPoisoned s (descAddr s q) 64 = false)
    (hok : descOk (descAddr s q) (descWord s q) = true) (h0 : bits (descWord s q 3) 6 46 = 0) :
    exec (.enable q) s = .next (afterWindow q .idle (setQ (wake (descQueue q (descWord s q))) s)) := by
  have hprog : progPoison s (bits (descWord s q 3) 6 46 * 64) = none := by
    rw [h0]
    unfold progPoison
    rw [if_neg (by simp)]
  have hload : loadProg s (bits (descWord s q 3) 6 46 * 64) = some (0, [], []) := by
    rw [h0]
    exact if_pos rfl
  show Host.Outcome.next (doEnable q s) = _
  unfold doEnable
  extract_lets x a w base rcb ok y
  have hw : w = descWord s q := rfl
  have hokt : ok = true := hok
  rw [if_neg (not_not_intro h), if_neg (by rw [Bool.and_eq_true, hp]; simp), hokt]
  simp only [hw, hprog, hload, Bool.not_true, Bool.false_eq_true, if_false]
  rfl

theorem enable_enabled (h : (getQ s q).st ≠ .disabled) : exec (.enable q) s = .next (windowError q 8 s) := by
  show Host.Outcome.next (doEnable q s) = _
  unfold doEnable
  rw [if_pos h]

/-- A descriptor whose ring is too large starts nothing; one that is poisoned as well leaves its record first (R107). -/
theorem enable_too_large (h : (getQ s q).st = .disabled) (hl : 20 < memRead s.mem (descAddr s q) 8 % 32) :
    ∃ u, AgentsKept s u ∧ exec (.enable q) s = .next (windowError q 5 u) := by
  show ∃ u, AgentsKept s u ∧ Host.Outcome.next (doEnable q s) = _
  unfold doEnable
  extract_lets x a w base rcb ok y
  have hsize : ¬ bits (w 0) 0 5 ≤ 20 := by
    have hb : bits (w 0) 0 5 = memRead s.mem (descAddr s q) 8 % 32 := by
      unfold bits
      rw [pow_zero, Nat.div_one]
      rfl
    omega
  have hok : ok = false := by
    unfold ok
    rw [decide_eq_false hsize]
    simp
  rw [if_neg (not_not_intro h), hok]
  by_cases hp : (inHbm a 64 && isPoisoned s a 64) = true
  · rw [if_pos hp]
    exact ⟨_, agentsKept_fePoison q a s, rfl⟩
  · rw [if_neg hp]
    exact ⟨s, AgentsKept.refl s, rfl⟩

end

/-! ### DISABLE, RESUME and SWAP -/

section

variable {q : Nat} {arg : Word} {s : State}

theorem disable_process (h : (getQ s q).st = .process) :
    exec (.disable q) s = .next (afterWindow q (getQ s q).st (setQ { getQ s q with disabling := true } s)) := by
  show Host.Outcome.next (doDisable q s) = _
  unfold doDisable
  simp only [h]

/-- A queue that is between packets stops at once (R110). -/
theorem disable_between (h : (getQ s q).st = .idle ∨ (getQ s q).st = .fetch ∨ (getQ s q).st = .skip ∨ (getQ s q).st = .integrity) :
    exec (.disable q) s = .next (afterWindow q (getQ s q).st
      (setQ { getQ s q with st := .disabled, hold := none, pkt := [], tries := 0 } s)) := by
  show Host.Outcome.next (doDisable q s) = _
  unfold doDisable
  obtain h | h | h | h := h <;> simp only [h]

/-- A held queue without its packet. -/
def dropHold (x : Queue) : Queue := { x with st := .disabled, hold := none, pkt := [], ctx := none, last := none, pass := none }

/-- What a stop in a BARRIER's hold does to the packet's own signal. -/
def abortOfHold (q : Nat) (s : State) : State :=
  if pType (getQ s q).pkt = 3 then sigAbort (packetSignal (getQ s q).pkt) 3 s else s

theorem memOnly_abortOfHold (q : Nat) (s : State) : MemOnly s (abortOfHold q s) := by
  unfold abortOfHold
  split
  · exact memOnly_sigAbort _ _ s
  · exact MemOnly.refl s

theorem disable_held (h : (getQ s q).st = .held) (hw : ∀ d m, (getQ s q).hold ≠ some (.waitb d m)) :
    exec (.disable q) s = .next (afterWindow q (getQ s q).st
      (setQ (dropHold (getQ s q)) (unwait q (barrierSignals (getQ s q).pkt) (abortOfHold q s)))) := by
  show Host.Outcome.next (doDisable q s) = _
  unfold doDisable
  match hk : (getQ s q).hold with
  | none | some .barrier | some (.launch _) | some (.copy _) =>
    simp only [h, hk]
    rfl
  | some (.waitb d m) => exact absurd hk (hw d m)

theorem disable_waitb {d : BitVec 4} {m : Nat} (h : (getQ s q).st = .held) (hw : (getQ s q).hold = some (.waitb d m)) :
    exec (.disable q) s = .next (afterWindow q (getQ s q).st
      (setQ { dropHold (getQ s q) with head := (getQ s q).head + BitVec.ofNat 32 (pLen (getQ s q).pkt) }
        (unwait q (maskSignals (fun j => (manifestSignal (getQ s q) j).getD 0) m) (abortOfHold q s)))) := by
  show Host.Outcome.next (doDisable q s) = _
  unfold doDisable
  simp only [h, hw]
  rfl

theorem resume_integrity (h : (getQ s q).st = .integrity) :
    exec (.resume q) s = .next (afterWindow q (getQ s q).st (setQ { getQ s q with st := .fetch, tries := 0 } s)) := by
  show Host.Outcome.next (doResume q s) = _
  unfold doResume
  simp only [h]

theorem resume_disabled (h : (getQ s q).st = .disabled) : exec (.resume q) s = .next (windowError q 7 s) := by
  show Host.Outcome.next (doResume q s) = _
  unfold doResume
  simp only [h]

theorem resume_running (h : (getQ s q).st ≠ .disabled) (hi : (getQ s q).st ≠ .integrity) :
    exec (.resume q) s = .next (windowError q 8 s) := by
  show Host.Outcome.next (doResume q s) = _
  unfold doResume
  simp only []

theorem swap_disabled (h : (getQ s q).st = .disabled) : exec (.swap q arg) s = .next (windowError q 7 s) := by
  show Host.Outcome.next (doSwap q arg s) = _
  unfold doSwap
  rw [if_pos h]

/-- A program that does not verify is not taken; one that is poisoned leaves its record first (R110). -/
theorem swap_unsound (h : (getQ s q).st ≠ .disabled) (hl : loadProg s (bits arg.toNat 6 46 * 64) = none) :
    ∃ u, AgentsKept s u ∧ exec (.swap q arg) s = .next (windowError q 4 u) := by
  show ∃ u, AgentsKept s u ∧ Host.Outcome.next (doSwap q arg s) = _
  unfold doSwap
  rw [if_neg h, hl]
  cases progPoison s (bits arg.toNat 6 46 * 64) with
  | some pa => exact ⟨_, agentsKept_fePoison q pa s, rfl⟩
  | none => exact ⟨s, AgentsKept.refl s, rfl⟩

/-- The queue that SWAP leaves: between packets it serves the program at once (R110). -/
def swapped (x : Queue) (p : Nat) (code m : List Nat) : Queue :=
  if x.st = .process ∨ x.st = .held ∧ x.ctx.isSome then { x with swap := some (p, code, m) }
  else { x with prog := p, code := code, manifest := m }

theorem swap_sound {p : Nat} {code m : List Nat} (h : (getQ s q).st ≠ .disabled) (hp : progPoison s (bits arg.toNat 6 46 * 64) = none)
    (hl : loadProg s (bits arg.toNat 6 46 * 64) = some (p, code, m)) :
    exec (.swap q arg) s = .next (afterWindow q (getQ s q).st (setQ (swapped (getQ s q) p code m) s)) := by
  show Host.Outcome.next (doSwap q arg s) = _
  unfold doSwap
  rw [if_neg h, hp, hl]
  rfl

theorem swapped_facts (x : Queue) (p : Nat) (code m : List Nat) : (swapped x p code m).q = x.q ∧ (swapped x p code m).st = x.st ∧
    (x.st = .process → (swapped x p code m).prog = x.prog ∧ (swapped x p code m).swap = some (p, code, m)) ∧
    (x.st ≠ .process → x.st ≠ .held → (swapped x p code m).prog = p ∧ (swapped x p code m).code = code ∧
      (swapped x p code m).manifest = m) := by
  unfold swapped
  split
  · rename_i hs
    exact ⟨rfl, rfl, fun _ => ⟨rfl, rfl⟩, fun hn hh => absurd hs (by simp [hn, hh])⟩
  · rename_i hs
    exact ⟨rfl, rfl, fun hy => absurd (.inl hy) hs, fun _ _ => ⟨rfl, rfl, rfl⟩⟩

end

/-- Settles O55: a case per window write, each with the queue it puts back. -/
theorem launchWindow : Obligations.LaunchWindow := by
  unfold Obligations.LaunchWindow
  intro q arg bs s x gives wrong at32
  have hgives : gives = WindowGives s q := rfl
  have hwrong : wrong = WindowWrong s q := rfl
  clear_value gives wrong
  subst hgives hwrong
  have keep := AgentsKept.refl s
  refine ⟨inline_placed, fun h => window_wrong (inline_wrong_length h) keep, fun h hs => ?_, fun h hs hp => ?_, fun h hs hp hr => ⟨?_, ?_⟩,
    fun hs hh ht => ?_, fun hs hf => window_wrong (tail_beyond hs hf) keep, fun hs => window_wrong (tail_disabled hs) keep,
    fun hs => window_wrong (enable_enabled hs) keep, ?_, ?_, fun hs => ?_, fun hs => ?_, fun d m hs hw => ?_, fun hs => ?_,
    fun hs => window_wrong (resume_disabled hs) keep, fun hs hi => window_wrong (resume_running hs hi) keep,
    fun hs => window_wrong (swap_disabled hs) keep, fun hs hl => ?_, fun p code m hs hp hl => ?_, window_wrong rfl keep⟩
  · exact window_gives (inline_disabled h hs) keep (getQ_q s q) ⟨rfl, rfl, rfl, rfl, rfl⟩
  · exact window_gives (inline_malformed h hs hp) keep (getQ_q s q) ⟨rfl, rfl, rfl, rfl, rfl⟩
  · exact window_gives (inline_full h hs hp hr) keep (getQ_q s q) ⟨rfl, rfl, rfl, rfl, rfl⟩
  · exact window_gives (inline_full h hs hp hr) keep (getQ_q s q) rfl
  · exact window_gives (tail_fits hs ⟨hh, ht⟩) keep (by rw [wake_eq]; exact getQ_q s q) (by rw [wake_eq]; exact ⟨rfl, rfl, rfl⟩)
  · intro base lsize head tail rcb prio itp sq pword hs a w hin hp hb hb0 hl hr h0 hh ht h1 hc hc0 hcb hpr h2 hi h3 hq h4 h5 h6 h7
    have hd : SoundDesc a w base lsize head tail rcb prio itp sq pword :=
      ⟨hin, hb, hb0, hl, hr, h0, hh, ht, h1, hc, hc0, hcb, hpr, h2, hi, h3, hq, h4, h5, h6, h7 ▸ memRead_lt s.mem 8 _, h7⟩
    exact window_gives (enable_sound hs hp hd.ok hd.word3_fields.2.1) keep (by rw [wake_eq]; rfl) (hd.queue q _ rfl)
  · intro hs hl
    obtain ⟨u, hu, he⟩ := enable_too_large hs hl
    exact window_wrong he hu
  · exact window_gives (disable_process hs) keep (getQ_q s q) ⟨rfl, hs, rfl⟩
  · obtain hs | hs | hs | hs | ⟨hs, hw⟩ := hs
    · exact window_gives (disable_between (.inl hs)) keep (getQ_q s q) ⟨rfl, rfl, rfl⟩
    · exact window_gives (disable_between (.inr (.inl hs))) keep (getQ_q s q) ⟨rfl, rfl, rfl⟩
    · exact window_gives (disable_between (.inr (.inr (.inl hs)))) keep (getQ_q s q) ⟨rfl, rfl, rfl⟩
    · exact window_gives (disable_between (.inr (.inr (.inr hs)))) keep (getQ_q s q) ⟨rfl, rfl, rfl⟩
    · exact window_gives (disable_held hs hw) (agentsKept_of_memOnly ((memOnly_abortOfHold q s).trans (memOnly_unwait _ _ _)))
        (getQ_q s q) ⟨rfl, rfl, rfl⟩
  · exact window_gives (disable_waitb hs hw) (agentsKept_of_memOnly ((memOnly_abortOfHold q s).trans (memOnly_unwait _ _ _)))
      (getQ_q s q) ⟨rfl, rfl, rfl⟩
  · exact window_gives (resume_integrity hs) keep (getQ_q s q) ⟨rfl, rfl⟩
  · obtain ⟨u, hu, he⟩ := swap_unsound hs hl
    exact window_wrong he hu
  · obtain ⟨hq, hst, hrun, hidle⟩ := swapped_facts (getQ s q) p code m
    exact window_gives (swap_sound hs hp hl) keep (hq.trans (getQ_q s q)) ⟨hst, hrun, hidle⟩

end Sys2Proof.Proofs
end

section
/-! What placing, a packet's end and FWDB leave as it was: the cores, the queue whose program moves, and the queues but the one at hand
(R110, R113, R124, R129). -/

namespace Sys2Proof.Proofs

open Sys2Proof.Machine Sys2Proof.Safety

/-- `t` has the cores and the queues of `s`, and the same queue moves. -/
structure QueuesKept (s t : State) : Prop where
  cores : CoresKept s t
  cur : t.fe.cur = s.fe.cur
  queues : t.fe.queues = s.fe.queues

theorem QueuesKept.refl (s : State) : QueuesKept s s := ⟨⟨rfl, rfl⟩, rfl, rfl⟩

theorem QueuesKept.trans {s t u : State} (h1 : QueuesKept s t) (h2 : QueuesKept t u) : QueuesKept s u :=
  ⟨⟨h2.cores.1.trans h1.cores.1, h2.cores.2.trans h1.cores.2⟩, h2.cur.trans h1.cur, h2.queues.trans h1.queues⟩

theorem QueuesKept.getQ {s t : State} (h : QueuesKept s t) (q : Nat) : Machine.getQ t q = Machine.getQ s q := getQ_congr h.queues q

theorem AgentsKept.queuesKept {s t : State} (h : AgentsKept s t) : QueuesKept s t :=
  ⟨h.1, congrArg FrontEnd.cur h.2.2, congrArg FrontEnd.queues h.2.2⟩

theorem queuesKept_of_memOnly {s t : State} (h : MemOnly s t) : QueuesKept s t := (agentsKept_of_memOnly h).queuesKept

theorem queuesKept_of_tlbOnly {s t : State} (h : TlbOnly s t) : QueuesKept s t :=
  ⟨⟨h.core, h.others⟩, congrArg FrontEnd.cur h.fe, congrArg FrontEnd.queues h.fe⟩

/-! ### Placing (R124) -/

theorem giveHandle_kept {s t : State} {rcb i : Nat} (h : giveHandle s rcb = some (i, t)) : QueuesKept s t ∧ t.mem = s.mem := by
  unfold giveHandle at h
  split at h
  · cases h
    exact ⟨QueuesKept.refl s, rfl⟩
  · split at h
    · cases h
    · cases h
      exact ⟨⟨⟨rfl, rfl⟩, rfl, rfl⟩, rfl⟩

theorem memOnly_rqPushBack (s : State) (r : Region) (e rec_ : Nat) : MemOnly s (rqPushBack s r e rec_) := by
  unfold rqPushBack
  extract_lets q
  split
  · exact memOnly_rqWrite _ _ _ _
  · exact memOnly_rqWrite _ _ _ _

theorem queuesKept_placeLaunch {r : LaunchReq} {s t : State} {x : PlaceRes} (h : placeLaunch r s = (x, t)) : QueuesKept s t := by
  obtain rfl : (placeLaunch r s).2 = t := congrArg Prod.snd h
  clear h
  unfold placeLaunch
  split
  · exact QueuesKept.refl s
  split
  · exact QueuesKept.refl s
  split
  · exact QueuesKept.refl s
  split
  · exact QueuesKept.refl s
  split
  · exact QueuesKept.refl s
  next hg =>
    have hk := (giveHandle_kept hg).1
    split
    · exact QueuesKept.refl s
    split
    · exact QueuesKept.refl s
    · exact hk.trans (queuesKept_of_memOnly
        (((memOnly_wr _ _ _ _).trans (memOnly_wr _ _ _ _)).trans (memOnly_rqPushBack _ _ _ _)))

theorem queuesKept_transC (t : Stream) (a : Acc) (va : Word) (s : State) : QueuesKept s (transC t a va s).2 :=
  queuesKept_of_tlbOnly (tlbOnly_translateFor _ _ _ _ _ _ _ _)

theorem queuesKept_startCopy {desc tag sig rcb : Nat} {s t : State} {x : PlaceRes} (h : startCopy desc tag sig rcb s = (x, t)) :
    QueuesKept s t := by
  obtain rfl : (startCopy desc tag sig rcb s).2 = t := congrArg Prod.snd h
  clear h
  unfold startCopy
  split
  · exact QueuesKept.refl s
  split
  · exact QueuesKept.refl s
  split
  · exact QueuesKept.refl s
  next hg =>
    have ht : ∀ t0 va, QueuesKept s (transC t0 .r va _).2 := fun t0 va => (giveHandle_kept hg).1.trans (queuesKept_transC t0 .r va _)
    exact ⟨⟨(ht _ _).cores.1, (ht _ _).cores.2⟩, (ht _ _).cur, (ht _ _).queues⟩

/-- A COPY that has to wait for an RCB index changes nothing. -/
theorem startCopy_wait {desc tag sig rcb : Nat} {s t : State} (h : startCopy desc tag sig rcb s = (.wait, t)) : t = s := by
  unfold startCopy at h
  split at h
  · cases h
  split at h
  · cases h
  split at h
  · exact (Prod.mk.inj h).2.symm
  · exact absurd (Prod.mk.inj h).1 (by simp)

/-! ### A packet's end (R110) -/

/-- The queue a packet's end leaves. -/
def packetEnded (x : Queue) (ok : Bool) (hold : Option QHold) : Queue :=
  let x1 := { x with head := x.head + BitVec.ofNat 32 (pLen x.pkt), pkt := [], ctx := none, blocked := false, last := none, pass := none }
  let x2 := match x1.swap with
    | some (a, c, m) => { x1 with prog := a, code := c, manifest := m, swap := none }
    | none => x1
  if x2.disabling then { x2 with st := .disabled, disabling := false, hold := none }
  else if !ok then { x2 with st := .skip, hold := none }
  else match hold with
    | some h => { x2 with st := .held, hold := some h }
    | none => Queue.rest x2

theorem endPacket_eq (q : Nat) (ok : Bool) (hold : Option QHold) (s : State) :
    endPacket q ok hold s = writeBack q true (setQ (packetEnded (getQ s q) ok hold) s) := rfl

/-- The state in which a packet's end leaves its queue, where no DISABLE waits. -/
def endState (s : State) (q : Nat) (ok : Bool) (hold : Option QHold) : QState :=
  if ok then (match hold with
    | some _ => .held
    | none => restState s q) else .skip

theorem packetEnded_facts (s : State) (q : Nat) (ok : Bool) (hold : Option QHold) :
    let y := packetEnded (getQ s q) ok hold
    y.q = q ∧ y.head = (getQ s q).head + BitVec.ofNat 32 (pLen (getQ s q).pkt) ∧ y.ctx = none ∧
      y.st = if (getQ s q).disabling then .disabled else endState s q ok hold := by
  have hq := getQ_q s q
  unfold endState restState packetEnded Queue.rest
  generalize getQ s q = x at hq
  subst hq
  cases hsw : x.swap <;> cases hd : x.disabling <;> cases ok <;> cases hold <;> simp

/-- The packet's end is past the packet in the state `endState`, from whatever leaves the queue as it was. -/
theorem packetEnds_endPacket {s u : State} {q : Nat} {ok : Bool} {hold : Option QHold} (hu : getQ u q = getQ s q) :
    PacketEnds s (endPacket q ok hold u) q (endState s q ok hold) := by
  obtain ⟨hq, hhead, hctx, hst⟩ := packetEnded_facts s q ok hold
  have hget : getQ (endPacket q ok hold u) q = packetEnded (getQ s q) ok hold := by
    rw [endPacket_eq, hu]
    exact getQ_of_put (memOnly_writeBack q true _) hq
  exact ⟨by rw [hget, hhead], by rw [hget, hctx], by rw [hget, hst]⟩

theorem coresKept_endPacket {s u : State} (hu : CoresKept s u) (q : Nat) (ok : Bool) (hold : Option QHold) :
    CoresKept s (endPacket q ok hold u) := by
  have hm := memOnly_writeBack q true (setQ (packetEnded (getQ u q) ok hold) u)
  exact ⟨hm.core.trans hu.1, hm.others.trans hu.2⟩

theorem packetEnds_failPacket (q st : Nat) (s : State) : CoresKept s (failPacket q st s) ∧ PacketEnds s (failPacket q st s) q .skip := by
  have hm := memOnly_failSignal (getQ s q).pkt st s
  exact ⟨coresKept_endPacket ⟨hm.core, hm.others⟩ _ _ _, packetEnds_endPacket (hm.getQ q)⟩

/-! ### FWDB (R129) -/

theorem memOnly_foldWrBytes {β : Type} (at_ : β → Nat) (bs : β → List Byte) (l : List β) (s : State) :
    MemOnly s (l.foldl (fun t k => t.wrBytes (at_ k) (bs k)) s) :=
  memOnly_foldl (f := fun t k => t.wrBytes (at_ k) (bs k)) (fun u _ => memOnly_wr u _ _ _) l s

theorem coresKept_appendPacket (q : Nat) (p : List Byte) (s : State) : CoresKept s (appendPacket q p s) ∧ (appendPacket q p s).fe.cur = s.fe.cur := by
  unfold appendPacket
  extract_lets x p1 p2 s1 x1 s2
  have h1 : MemOnly s s1 := memOnly_foldWrBytes _ _ _ s
  have hs1 : CoresKept s s1 ∧ s1.fe.cur = s.fe.cur := ⟨⟨h1.core, h1.others⟩, congrArg FrontEnd.cur h1.fe⟩
  split
  · exact ⟨⟨rfl, rfl⟩, rfl⟩
  · split
    · exact hs1
    · exact hs1

/-- FWDB drops at a queue that is disabled or full, and counts the drop (R129). -/
theorem getQ_appendPacket_full {q : Nat} {p : List Byte} {s : State} (h : (getQ s q).st = .disabled ∨ ringRoom (getQ s q) (pLen p) = false) :
    getQ (appendPacket q p s) q = countDrop (getQ s q) := by
  have hc : (getQ s q).st = .disabled ∨ (!ringRoom (getQ s q) (pLen p)) = true := by rwa [Bool.not_eq_true']
  have he : appendPacket q p s = setQ (countDrop (getQ s q)) s := if_pos hc
  rw [he]
  exact getQ_of_put (MemOnly.refl _) (getQ_q s q)

/-- FWDB to a queue with room moves its tail (R129). -/
theorem getQ_appendPacket_room {q : Nat} {p : List Byte} {s : State} (hd : (getQ s q).st ≠ .disabled) (hr : ringRoom (getQ s q) (pLen p) = true) :
    getQ (appendPacket q p s) q = wake { getQ s q with tail := (getQ s q).tail + BitVec.ofNat 32 (pLen p) } := by
  have hc : ¬((getQ s q).st = .disabled ∨ (!ringRoom (getQ s q) (pLen p)) = true) := by simp [hd, hr]
  unfold appendPacket
  extract_lets x p1 p2 s1 x1 s2
  have hput : getQ s2 q = wake x1 := getQ_of_put (MemOnly.refl _) (by rw [wake_eq]; exact getQ_q s q)
  rw [if_neg hc]
  split
  · exact hput
  · exact hput

end Sys2Proof.Proofs
end

section
/-! The Beret instructions (R128, R129). -/

namespace Sys2Proof.Proofs

open Sys2Proof.Machine Sys2Proof.Safety

/-! ### A step of the program -/

/-- The context with the step counted. -/
def tick (c : Beret) : Beret := { c with steps := c.steps + 1 }

theorem bGet_tick (c : Beret) (r : BitVec 4) : bGet (tick c) r = bGet c r := rfl

theorem beretNext_tick (c : Beret) : BeretNext c (beretNext (tick c)) := fun h => beretAt_of_noLoops (c := tick c) _ h

theorem beretNext_tick_bSet (c : Beret) (d : BitVec 4) (v : Word) : BeretNext c (beretNext (bSet (tick c) d v)) :=
  fun h => beretAt_of_noLoops (c := bSet (tick c) d v) _ h

section

variable {i : Instr} {s u : State} {x y : Queue} {c c' : Beret} {ws : List (BitVec 4)} {post : Beret → State → Prop}

/-- A step that puts the queue back with the context `c'`. -/
theorem beretRuns_setQ (he : exec i s = .next (setQ y u)) (hu : CoresKept s u ∧ u.fe.cur = s.fe.cur) (hy : y.q = s.fe.cur)
    (hc : y.ctx = some c') (hs : c'.steps = c.steps + 1) (hr : ∀ r, r ∉ ws → bGet c' r = bGet c r) (hp : post c' (setQ y u)) :
    BeretRuns i s c ws post := by
  have hg : getQ (setQ y u) s.fe.cur = y := getQ_of_put (MemOnly.refl _) hy
  exact ⟨_, c', he, hu.2, by rw [hg, hc], hs, hr, hp, hu.1⟩

theorem putCtx_eq (c : Beret) (s : State) : putCtx c s = setQ { getQ s s.fe.cur with ctx := some c } s := rfl

theorem getQ_putCtx_full (c : Beret) (s : State) : getQ (putCtx c s) s.fe.cur = { getQ s s.fe.cur with ctx := some c } :=
  getQ_of_put (MemOnly.refl _) (getQ_q s s.fe.cur)

/-- A step that puts the context back. -/
theorem beretRuns_putCtx (he : exec i s = .next (putCtx c' u)) (hu : CoresKept s u ∧ u.fe.cur = s.fe.cur) (hs : c'.steps = c.steps + 1)
    (hr : ∀ r, r ∉ ws → bGet c' r = bGet c r) (hp : post c' (putCtx c' u)) : BeretRuns i s c ws post :=
  beretRuns_setQ he hu ((getQ_q u _).trans hu.2) rfl hs hr hp

/-- A step that goes on at the next instruction without writing a register. -/
theorem beretRuns_next {post : State → Prop} (he : exec i s = .next (putCtx (beretNext (tick c)) u)) (hu : CoresKept s u ∧ u.fe.cur = s.fe.cur)
    (hp : post (putCtx (beretNext (tick c)) u)) : BeretRuns i s c [] fun c' t => BeretNext c c' ∧ post t :=
  beretRuns_putCtx he hu rfl (fun _ _ => rfl) ⟨beretNext_tick c, hp⟩

/-- A step that writes one register. -/
theorem beretPuts_of {d : BitVec 4} {v : Word} (h : InBeret s x c) (hu : TlbOnly s u)
    (he : exec i s = .next (putCtx (beretNext (bSet (tick c) d v)) u)) : BeretPuts i s c d v := by
  obtain ⟨hq, -, hst, -, -, -⟩ := h
  have hk := queuesKept_of_tlbOnly hu
  refine beretRuns_putCtx he ⟨hk.cores, hk.cur⟩ rfl (fun r hr => ?_) ⟨?_, beretNext_tick_bSet c d v, hu.mem, ?_⟩
  · rw [bGet_beretNext, bGet_bSet_ne (by simpa using hr), bGet_tick]
  · rw [bGet_beretNext, bGet_bSet]
  · rw [← hk.cur, getQ_putCtx_full, hk.getQ, hk.cur, hq]
    exact hst

/-- A program that may take a step takes it, on the context with the step counted. -/
theorem beretStep_tick {f : Queue → Beret → State → Out} (h : InBeret s x c) : beretStep f s = f x (tick c) s := beretStep_eq h

theorem beretPut_eq {d : BitVec 4} {f : Beret → Word} (h : InBeret s x c) :
    beretPut d f s = .next (putCtx (beretNext (bSet (tick c) d (f (tick c)))) s) := beretStep_eq h

/-- A step that fails the packet in hand. -/
theorem beretFail_happens {st : Nat} (he : exec i s = beretFail st s) : Happens i s fun t => PacketEnds s t s.fe.cur .skip :=
  ⟨_, he, (packetEnds_failPacket s.fe.cur st s).2⟩

end

/-! ### Registers, the packet and the descriptor -/

section

variable {s : State} {x : Queue} {c : Beret} {d a b : BitVec 4} {imm : BitVec 15}

theorem execLdpb_within (h : InBeret s x c) (hl : imm.toNat + 8 ≤ 64 * pLen x.pkt) :
    exec (.ldpb d imm) s = .next (putCtx (beretNext (bSet (tick c) d (BitVec.ofNat 64 (field x.pkt imm.toNat 8)))) s) := by
  show execLdpb d imm s = _
  unfold execLdpb
  rw [beretStep_tick h]
  exact if_neg (Nat.not_lt.mpr hl)

theorem execLdpb_beyond (h : InBeret s x c) (hl : 64 * pLen x.pkt < imm.toNat + 8) : exec (.ldpb d imm) s = beretFail 1 s := by
  show execLdpb d imm s = _
  unfold execLdpb
  rw [beretStep_tick h]
  exact if_pos hl

theorem execStqb_eq (h : InBeret s x c) :
    exec (.stqb a) s = .next (setQ { x with pword := bGet c a, ctx := some (beretNext (tick c)) } s) := by
  show execStqb a s = _
  unfold execStqb
  rw [beretStep_tick h]
  rfl

theorem execLdqb_eq (h : InBeret s x c) : exec (.ldqb d imm) s =
    .next (putCtx (beretNext (bSet (tick c) d (BitVec.ofNat 64 (bits (descImage x) (8 * imm.toNat) 64)))) s) := by
  show execLdqb d imm s = _
  unfold execLdqb
  rw [beretStep_tick h]

/-- STQB writes the queue's word, and nothing of memory. -/
theorem execStqb_runs (h : InBeret s x c) : BeretRuns (.stqb a) s c [] fun c' t => BeretNext c c' ∧ t.mem = s.mem ∧
    (getQ t s.fe.cur).pword = bGet c a := by
  have hq := h.2.1
  refine beretRuns_setQ (execStqb_eq h) ⟨⟨rfl, rfl⟩, rfl⟩ hq rfl rfl (fun _ _ => rfl) ⟨beretNext_tick c, rfl, ?_⟩
  exact congrArg Queue.pword (getQ_of_put (y := { x with pword := bGet c a, ctx := some (beretNext (tick c)) }) (MemOnly.refl _) hq)

/-! ### Branches and LOOPB -/

/-- A branch goes where its condition sends it. -/
theorem beretBranch_runs {i : Instr} {cond : Word → Word → Bool} {P : Prop} (h : InBeret s x c) (he : exec i s = beretBranch cond a b imm s)
    (hc : cond (bGet c a) (bGet c b) = true ↔ P) : BeretRuns i s c [] fun c' t => t.mem = s.mem ∧
      (c.loops = [] → (P → c'.at_ = c.at_ + 1 + imm.toNat) ∧ (¬P → c'.at_ = c.at_ + 1)) := by
  have he' : exec i s = .next (putCtx (if cond (bGet c a) (bGet c b) then beretAt (tick c) (c.at_ + 1 + imm.toNat) else beretNext (tick c)) s) :=
    he.trans (beretStep_tick h)
  by_cases hp : P
  · rw [if_pos (hc.mpr hp)] at he'
    exact beretRuns_putCtx he' ⟨⟨rfl, rfl⟩, rfl⟩ rfl (fun _ _ => rfl)
      ⟨rfl, fun hl => ⟨fun _ => (beretAt_of_noLoops (c := tick c) _ hl).1, fun hn => absurd hp hn⟩⟩
  · rw [if_neg (fun ht => hp (hc.mp ht))] at he'
    exact beretRuns_putCtx he' ⟨⟨rfl, rfl⟩, rfl⟩ rfl (fun _ _ => rfl)
      ⟨rfl, fun hl => ⟨fun ht => absurd ht hp, fun _ => (beretNext_tick c hl).1⟩⟩

theorem execLoopb_eq {len count : BitVec 7} (h : InBeret s x c) : exec (.loopb len count) s = .next (putCtx
    { tick c with loops := (c.at_ + 1, c.at_ + 1 + len.toNat, count.toNat) :: c.loops, at_ := c.at_ + 1 } s) := by
  show execLoopb len count s = _
  unfold execLoopb
  rw [beretStep_tick h]
  rfl

theorem execLoopb_runs {len count : BitVec 7} (h : InBeret s x c) : BeretRuns (.loopb len count) s c [] fun c' t => t.mem = s.mem ∧
    c'.at_ = c.at_ + 1 ∧ c'.loops = (c.at_ + 1, c.at_ + 1 + len.toNat, count.toNat) :: c.loops :=
  beretRuns_putCtx (execLoopb_eq h) ⟨⟨rfl, rfl⟩, rfl⟩ rfl (fun _ _ => rfl) ⟨rfl, rfl, rfl⟩

/-! ### Signals of the manifest (R116) -/

theorem onSignal_eq {j p : Nat} {f : Nat → Beret → State → Out} (h : InBeret s x c) (hm : manifestSignal x j = some p) (h0 : p ≠ 0)
    (hok : sigOk p = true) (hp : isPoisoned s p 64 = false) : onSignal j f s = f p (tick c) s := by
  unfold onSignal
  rw [beretStep_tick h]
  simp only [hm, h0, hok, hp, false_or, Bool.not_true, Bool.false_eq_true, if_false]

theorem memKeptOutside_sigChange {u : State} (hw : MemWf s.mem) (hu : u.mem = s.mem) (pa : Nat) (f : Int → Int) (k : Nat) (c' : Beret) :
    MemKeptOutside pa 12 s (putCtx c' (sigChange pa f k u)) := by
  have hw' : MemWf u.mem := hu ▸ hw
  intro m hm
  show memGet (sigChange pa f k u).mem m = memGet s.mem m
  rw [memGet_sigChange pa f k hw' hm, hu]

theorem sigValue_congr {u : State} (hu : u.mem = s.mem) (pa : Nat) : sigValue u pa = sigValue s pa := by
  unfold sigValue State.rd
  rw [hu]

theorem sigValue_putCtx (c' : Beret) (u : State) (pa : Nat) : sigValue (putCtx c' u) pa = sigValue u pa := sigValue_congr rfl pa

theorem curKept_sigChange {u : State} (hu : QueuesKept s u) (pa : Nat) (f : Int → Int) (k : Nat) :
    CoresKept s (sigChange pa f k u) ∧ (sigChange pa f k u).fe.cur = s.fe.cur := by
  have hk := hu.trans (queuesKept_of_memOnly (memOnly_sigChange pa f k u))
  exact ⟨hk.cores, hk.cur⟩

theorem execSdecb_eq {p : Nat} (h : InBeret s x c) (hm : manifestSignal x imm.toNat = some p) (h0 : p ≠ 0) (hok : sigOk p = true)
    (hp : isPoisoned s p 64 = false) :
    exec (.sdecb a imm) s = .next (putCtx (beretNext (tick c)) (sigChange p (fun v => v - (bGet c a).toInt) 4 s)) := by
  show execSdecb a imm s = _
  unfold execSdecb
  rw [onSignal_eq h hm h0 hok hp]
  rfl

theorem execSsetb_eq {p : Nat} (h : InBeret s x c) (hm : manifestSignal x imm.toNat = some p) (h0 : p ≠ 0) (hok : sigOk p = true)
    (hp : isPoisoned s p 64 = false) : exec (.ssetb a imm) s = .next (putCtx (beretNext (tick c))
      (sigChange p (fun _ => (bGet c a).toInt) (bytesNat (freeBytes s 4).1) (freeBytes s 4).2)) := by
  show execSsetb a imm s = _
  unfold execSsetb
  rw [onSignal_eq h hm h0 hok hp]
  rfl

theorem execSrdb_eq {p : Nat} (h : InBeret s x c) (hm : manifestSignal x imm.toNat = some p) (h0 : p ≠ 0) (hok : sigOk p = true)
    (hp : isPoisoned s p 64 = false) :
    exec (.srdb d imm) s = .next (putCtx (beretNext (bSet (tick c) d (BitVec.ofNat 64 (memRead s.mem p 8)))) s) := by
  show execSrdb d imm s = _
  unfold execSrdb
  rw [onSignal_eq h hm h0 hok hp]
  rfl

/-- SDECB: the value falls, within 64 bits, and no other byte but the abort code changes. -/
theorem execSdecb_runs {p : Nat} (h : InBeret s x c) (hw : MemWf s.mem) (hm : manifestSignal x imm.toNat = some p) (h0 : p ≠ 0)
    (hok : sigOk p = true) (hp : isPoisoned s p 64 = false) : BeretRuns (.sdecb a imm) s c [] fun c' t => BeretNext c c' ∧
      sigValue t p = max (-(2 ^ 63)) (min (2 ^ 63 - 1) (sigValue s p - (bGet c a).toInt)) ∧ MemKeptOutside p 12 s t :=
  beretRuns_next (execSdecb_eq h hm h0 hok hp) (curKept_sigChange (QueuesKept.refl s) _ _ _)
    ⟨(sigValue_putCtx _ _ p).trans (sigValue_sigChange p _ _ hw), memKeptOutside_sigChange hw rfl _ _ _ _⟩

theorem queuesKept_freeBytes (s : State) (n : Nat) : QueuesKept s (freeBytes s n).2 := ⟨⟨rfl, rfl⟩, rfl, rfl⟩

/-- SSETB: the value is the register's. -/
theorem execSsetb_runs {p : Nat} (h : InBeret s x c) (hw : MemWf s.mem) (hm : manifestSignal x imm.toNat = some p) (h0 : p ≠ 0)
    (hok : sigOk p = true) (hp : isPoisoned s p 64 = false) : BeretRuns (.ssetb a imm) s c [] fun c' t => BeretNext c c' ∧
      sigValue t p = (bGet c a).toInt ∧ MemKeptOutside p 12 s t := by
  have hv : max (-(2 ^ 63)) (min (2 ^ 63 - 1) (bGet c a).toInt) = (bGet c a).toInt := by
    have hlo := BitVec.le_toInt (bGet c a)
    have hhi := BitVec.toInt_lt (x := bGet c a)
    norm_num at hlo hhi ⊢
    omega
  refine beretRuns_next (execSsetb_eq h hm h0 hok hp) (curKept_sigChange (queuesKept_freeBytes s 4) _ _ _)
    ⟨?_, memKeptOutside_sigChange hw (show (freeBytes s 4).2.mem = s.mem from rfl) _ _ _ _⟩
  rw [sigValue_putCtx, sigValue_sigChange p _ _ (show MemWf (freeBytes s 4).2.mem from hw), hv]

/-! ### WAITB (R118, R119) -/

/-- The signals of a mask are sound ones of the manifest. -/
def MaskSound (s : State) (x : Queue) (mask : Nat) : Prop :=
  ∀ j, j < 16 → bitAt mask j = true → ∃ p, manifestSignal x j = some p ∧ p ≠ 0 ∧ sigOk p = true ∧ isPoisoned s p 64 = false

theorem MaskSound.signal {mask p : Nat} (h : MaskSound s x mask) (hp : p ∈ maskSignals (fun j => (manifestSignal x j).getD 0) mask) :
    p ≠ 0 ∧ sigOk p = true ∧ isPoisoned s p 64 = false := by
  obtain ⟨j, hj, rfl⟩ := List.mem_map.mp hp
  obtain ⟨hr, hb⟩ := List.mem_filter.mp hj
  obtain ⟨p, hm, hs⟩ := h j (List.mem_range.mp hr) hb
  simpa only [hm, Option.getD_some] using hs

/-- WAITB leaves the queue held on its signals. -/
def waitbHeld (d : BitVec 4) (mask : Nat) (pass : Option (List Nat × Bool)) (x : Queue) (c : Beret) (u : State) : State :=
  setQ { x with st := .held, hold := some (.waitb d mask), pass := pass, ctx := some (beretNext c) }
    (waitOn u.fe.cur (maskSignals (fun j => (manifestSignal x j).getD 0) mask) u)

/-- What WAITB does once its evaluation has ended or been left. -/
def waitbEnd (d : BitVec 4) (mask : Nat) (x : Queue) (c : Beret) : Pass × State → State
  | (.poison p, u) => feFault u.fe.cur p u
  | (.sat, u) => putCtx (beretNext (bSet c d 0)) u
  | (.abort, u) => putCtx (beretNext (bSet c d 1)) u
  | (.wait, u) => waitbHeld d mask none x c u
  | (.more left zero, u) => waitbHeld d mask (some (left, zero)) x c u

theorem execWaitb_eq (h : InBeret s x c) (hs : MaskSound s x ((bGet c a).toNat % 65536)) : exec (.waitb d a) s =
    .next (waitbEnd d ((bGet c a).toNat % 65536) x (tick c)
      (readSignals (maskSignals (fun j => (manifestSignal x j).getD 0) ((bGet c a).toNat % 65536)) true s)) := by
  have hknown : (((List.range 16).filter fun j => bitAt ((bGet c a).toNat % 65536) j).any fun j => (manifestSignal x j).isNone) = false := by
    rw [List.any_eq_false]
    intro j hj
    obtain ⟨hr, hb⟩ := List.mem_filter.mp hj
    obtain ⟨p, hm, -⟩ := hs j (List.mem_range.mp hr) hb
    simp [hm]
  have hsound : ((maskSignals (fun j => (manifestSignal x j).getD 0) ((bGet c a).toNat % 65536)).any fun p =>
      decide (p = 0) || !sigOk p) = false := by
    rw [List.any_eq_false]
    intro p hp
    obtain ⟨h0, hok, -⟩ := hs.signal hp
    simp [h0, hok]
  show execWaitb d a s = _
  unfold execWaitb
  rw [beretStep_tick h]
  extract_lets mask idx sigs wait
  rw [if_neg (by rw [show idx.any _ = false from hknown]; decide), if_neg (by rw [show sigs.any _ = false from hsound]; decide)]
  rfl

theorem waitbHeld_runs {i : Instr} {u : State} {mask : Nat} {pass : Option (List Nat × Bool)} (h : InBeret s x c) (hu : TlbOnly s u)
    (he : exec i s = .next (waitbHeld d mask pass x (tick c) u)) : BeretRuns i s c [] fun c' t => BeretNext c c' ∧
      ((getQ t s.fe.cur).st = .held ∧ (getQ t s.fe.cur).hold = some (.waitb d mask)) ∧ (getQ t s.fe.cur).pass = pass := by
  have hk := (queuesKept_of_tlbOnly hu).trans (queuesKept_of_memOnly (memOnly_waitOn u.fe.cur
    (maskSignals (fun j => (manifestSignal x j).getD 0) mask) u))
  have hq := h.2.1
  refine beretRuns_setQ he ⟨hk.cores, hk.cur⟩ hq rfl rfl (fun _ _ => rfl) ⟨beretNext_tick c, ?_⟩
  have hg : getQ (waitbHeld d mask pass x (tick c) u) s.fe.cur =
      { x with st := .held, hold := some (.waitb d mask), pass := pass, ctx := some (beretNext (tick c)) } := getQ_of_put (MemOnly.refl _) hq
  exact ⟨⟨congrArg Queue.st hg, congrArg Queue.hold hg⟩, congrArg Queue.pass hg⟩

/-- An evaluation that no choice interrupts. -/
theorem execWaitb_whole (h : InBeret s x c) (hs : MaskSound s x ((bGet c a).toNat % 65536)) (hc : ∀ b ∈ s.choices, b = false) :
    let sigs := maskSignals (fun j => (manifestSignal x j).getD 0) ((bGet c a).toNat % 65536)
    (evalSignals s sigs = 1 → BeretPuts (.waitb d a) s c d 0) ∧ (evalSignals s sigs = 2 → BeretPuts (.waitb d a) s c d 1) ∧
    (evalSignals s sigs = 0 → BeretRuns (.waitb d a) s c [] fun c' t => BeretNext c c' ∧
      ((getQ t s.fe.cur).st = .held ∧ (getQ t s.fe.cur).hold = some (.waitb d ((bGet c a).toNat % 65536))) ∧
      (getQ t s.fe.cur).pass = none) := by
  intro sigs
  obtain ⟨l, hl, -⟩ := readSignals_whole sigs true s hc fun p hp => (hs.signal hp).2.2
  have he := execWaitb_eq (d := d) h hs
  rw [hl] at he
  have hu : TlbOnly s { s with choices := l } := rfl
  refine ⟨fun hv => beretPuts_of h hu ?_, fun hv => beretPuts_of h hu ?_, fun hv => waitbHeld_runs h hu ?_⟩
  all_goals rw [hv] at he; exact he

/-- An evaluation left after its first read. -/
theorem execWaitb_left {p : Nat} {l : List Nat} {r : List Bool} (h : InBeret s x c) (hs : MaskSound s x ((bGet c a).toNat % 65536))
    (hsigs : maskSignals (fun j => (manifestSignal x j).getD 0) ((bGet c a).toNat % 65536) = p :: l) (hl : l ≠ []) (hv : 0 ≤ sigValue s p)
    (hc : s.choices = true :: r) : BeretRuns (.waitb d a) s c [] fun c' t => BeretNext c c' ∧
      ((getQ t s.fe.cur).st = .held ∧ (getQ t s.fe.cur).hold = some (.waitb d ((bGet c a).toNat % 65536))) ∧
      (getQ t s.fe.cur).pass = some (l, decide (sigValue s p = 0)) := by
  have he := execWaitb_eq (d := d) h hs
  have hp := (hs.signal (p := p) (by rw [hsigs]; exact List.mem_cons_self)).2.2
  rw [hsigs, readSignals_left hl hp hv hc, Bool.true_and] at he
  exact waitbHeld_runs h (show TlbOnly s { s with choices := r } from rfl) he

/-! ### Placing (R113, R124) -/

/-- The queue with what a placing instruction leaves of it. -/
def placedLast (hold : QHold) (c : Beret) (u : State) : State :=
  setQ { getQ u u.fe.cur with last := some hold, ctx := some (beretNext c) } u

theorem placedLast_runs {i : Instr} {u : State} {hold : QHold} {post : State → Prop} (hu : QueuesKept s u)
    (he : exec i s = .next (placedLast hold (tick c) u)) (hp : post (placedLast hold (tick c) u)) :
    BeretRuns i s c [] fun c' t => BeretNext c c' ∧ post t ∧ (getQ t s.fe.cur).last = some hold := by
  have hq : (getQ u u.fe.cur).q = s.fe.cur := (getQ_q u _).trans hu.cur
  have hg : getQ (placedLast hold (tick c) u) s.fe.cur =
      { getQ u u.fe.cur with last := some hold, ctx := some (beretNext (tick c)) } := getQ_of_put (MemOnly.refl _) hq
  exact beretRuns_setQ he ⟨hu.cores, hu.cur⟩ hq rfl rfl (fun _ _ => rfl) ⟨beretNext_tick c, hp, congrArg Queue.last hg⟩

theorem beretSig_none (h : 16 ≤ (bGet c 14).toNat) : beretSig x (tick c) = .ok 0 := if_pos h

theorem beretRcb_own (h : bGet c 13 = 0) : beretRcb x (tick c) = .ok x.rcb := if_pos (by rw [bGet_tick, h]; rfl)

theorem placeFor_placed {q blk : Nat} {r : LaunchReq} {ok : Nat → State → State} {s1 : State} (hp : isPoisoned s r.rcb 256 = false)
    (h : placeLaunch r s = (.placed blk, s1)) : placeFor q r ok s = .next (ok blk s1) := by
  unfold placeFor
  rw [if_neg (by simp [hp]), h]

theorem placeImage_placed {q blk : Nat} {r : LaunchReq} {g : Region} {ok : Nat → State → State} {s1 : State} (hg : region s r.rcb = some g)
    (hc : isPoisoned s r.code 0x2000 = false) (hi : imageOk s r.code g = true) (hp : isPoisoned s r.rcb 256 = false)
    (h : placeLaunch r s = (.placed blk, s1)) : placeImage q r ok s = .next (ok blk s1) := by
  unfold placeImage
  rw [hg]
  simp only [hc, hi, Bool.not_true, Bool.false_eq_true, if_false]
  exact placeFor_placed hp h

/-- A placing instruction whose request is sound. -/
theorem beretPlace_request {f : Queue → Beret → Nat → Nat → Except Nat LaunchReq} {r : LaunchReq} (h : InBeret s x c)
    (hs : 16 ≤ (bGet c 14).toNat) (hr : bGet c 13 = 0) (hf : f x (tick c) 0 x.rcb = .ok r) : beretPlace f s =
      if r.image then placeImage s.fe.cur r (fun b u => placedLast (.launch b) (tick c) u) s
      else placeFor s.fe.cur r (fun b u => placedLast (.launch b) (tick c) u) s := by
  unfold beretPlace
  rw [beretStep_tick h]
  simp only [beretSig_none hs, beretRcb_own hr, hf]
  rfl

theorem execPlaceb_placed {res : Bool} {blk : Nat} {s1 : State} (h : InBeret s x c) (hs : 16 ≤ (bGet c 14).toNat) (hr : bGet c 13 = 0)
    (hp : isPoisoned s x.rcb 256 = false) (h1 : 1 ≤ (bGet c 12).toNat) (h2 : (bGet c 12).toNat ≤ 2 ^ 24) (h3 : (bGet c 11).toNat < 2 ^ 32)
    (h4 : (bGet c 11).toNat % 64 = 0)
    (hpl : placeLaunch ⟨(bGet c 8).toNat, (bGet c 9).toNat, (bGet c 10).toNat, (bGet c 11).toNat, (bGet c 12).toNat, 0, x.rcb, res, false, 0⟩ s =
      (.placed blk, s1)) : exec (.placeb res) s = .next (placedLast (.launch blk) (tick c) s1) := by
  have hn : ¬((bGet c 12).toNat = 0 ∨ 2 ^ 24 < (bGet c 12).toNat ∨ 2 ^ 32 ≤ (bGet c 11).toNat ∨ (bGet c 11).toNat % 64 ≠ 0) := by omega
  show execPlaceb res s = _
  unfold execPlaceb
  rw [beretPlace_request h hs hr (if_neg hn), if_neg Bool.false_ne_true]
  exact placeFor_placed hp hpl

theorem execImgb_placed {g : Region} {blk : Nat} {s1 : State} (h : InBeret s x c) (hs : 16 ≤ (bGet c 14).toNat) (hr : bGet c 13 = 0)
    (hp : isPoisoned s x.rcb 256 = false) (h1 : (bGet c 8).toNat ≠ 0) (h2 : (bGet c 8).toNat % 65536 = 0)
    (h3 : inHbm (bGet c 8).toNat 0x78000 = true) (h4 : (bGet c 10).toNat < 2 ^ 56) (hg : region s x.rcb = some g)
    (hc : isPoisoned s (bGet c 8).toNat 0x2000 = false) (hi : imageOk s (bGet c 8).toNat g = true)
    (hpl : placeLaunch { code := (bGet c 8).toNat, rcb := x.rcb, image := true, extra := (bGet c 9).toNat + (bGet c 10).toNat * 2 ^ 64 } s =
      (.placed blk, s1)) : exec .imgb s = .next (placedLast (.launch blk) (tick c) s1) := by
  have hn : ¬((bGet c 8).toNat = 0 ∨ (bGet c 8).toNat % 65536 ≠ 0 ∨ (!inHbm (bGet c 8).toNat 0x78000) = true ∨ 2 ^ 56 ≤ (bGet c 10).toNat) := by
    simp only [h3, Bool.not_true, Bool.false_eq_true, false_or]
    omega
  show execImgb s = _
  unfold execImgb
  rw [beretPlace_request h hs hr (if_neg hn), if_pos rfl]
  exact placeImage_placed hg hc hi hp hpl

/-- What COPYB does once its attempt has ended. -/
def copybEnd (c : Beret) : PlaceRes × State → Out
  | (.placed job, u) => .next (placedLast (.copy job) c u)
  | (.fail st, u) => beretFail st u
  | (_, u) => .next (setQ { getQ u u.fe.cur with blocked := true } u)

theorem execCopyb_eq (h : InBeret s x c) (hs : 16 ≤ (bGet c 14).toNat) (hr : bGet c 13 = 0) (hp : isPoisoned s x.rcb 256 = false) :
    exec .copyb s = copybEnd (tick c) (startCopy (bGet c 8).toNat ((bGet c 9).toNat % 256) 0 x.rcb s) := by
  show execCopyb s = _
  unfold execCopyb
  rw [beretStep_tick h]
  simp only [beretSig_none hs, beretRcb_own hr, hp, Bool.false_eq_true, if_false]
  rfl

/-- A COPYB that has to wait keeps its packet in PROCESS. -/
theorem execCopyb_waits {s1 : State} (h : InBeret s x c) (hs : 16 ≤ (bGet c 14).toNat) (hr : bGet c 13 = 0)
    (hp : isPoisoned s x.rcb 256 = false) (hw : startCopy (bGet c 8).toNat ((bGet c 9).toNat % 256) 0 x.rcb s = (.wait, s1)) :
    Happens .copyb s fun t => (getQ t s.fe.cur).blocked = true ∧ (getQ t s.fe.cur).st = .process := by
  have he := execCopyb_eq h hs hr hp
  rw [hw, startCopy_wait hw] at he
  have hg : getQ (setQ { getQ s s.fe.cur with blocked := true } s) s.fe.cur = { getQ s s.fe.cur with blocked := true } :=
    getQ_of_put (MemOnly.refl _) (getQ_q s _)
  refine ⟨_, he, congrArg Queue.blocked hg, (congrArg Queue.st hg).trans ?_⟩
  obtain ⟨hq, -, hst, -⟩ := h
  rw [← hst, ← hq]

/-! ### FWDB, DONEB and the step limit -/

theorem execFwdb_eq {e : Nat} (h : InBeret s x c) (he : x.manifest[(bGet c a).toNat]? = some e) (hk : manifestKind e = 2) :
    exec (.fwdb a) s = .next (putCtx (beretNext (tick c)) (appendPacket (e % 2 ^ 16) x.pkt s)) := by
  show execFwdb a s = _
  unfold execFwdb
  rw [beretStep_tick h]
  simp only [bGet_tick, he, hk, if_true]

theorem getQ_putCtx_tail_drops (c' : Beret) (u : State) (q : Nat) :
    (getQ (putCtx c' u) q).tail = (getQ u q).tail ∧ (getQ (putCtx c' u) q).drops = (getQ u q).drops := by
  by_cases hq : q = u.fe.cur
  · rw [hq, getQ_putCtx_full]
    exact ⟨rfl, rfl⟩
  · rw [putCtx_eq, getQ_setQ_ne (x := { getQ u u.fe.cur with ctx := some c' }) (fun h => hq (h.trans (getQ_q u _)))]
    exact ⟨rfl, rfl⟩

theorem execFwdb_runs {e : Nat} (h : InBeret s x c) (he : x.manifest[(bGet c a).toNat]? = some e) (hk : manifestKind e = 2) :
    BeretRuns (.fwdb a) s c [] fun c' t => BeretNext c c' ∧
      (((getQ s (e % 2 ^ 16)).st ≠ .disabled → ringRoom (getQ s (e % 2 ^ 16)) (pLen x.pkt) = true →
        (getQ t (e % 2 ^ 16)).tail = (getQ s (e % 2 ^ 16)).tail + BitVec.ofNat 32 (pLen x.pkt) ∧
        (getQ t (e % 2 ^ 16)).drops = (getQ s (e % 2 ^ 16)).drops) ∧
      ((getQ s (e % 2 ^ 16)).st = .disabled ∨ ringRoom (getQ s (e % 2 ^ 16)) (pLen x.pkt) = false →
        (getQ t (e % 2 ^ 16)).tail = (getQ s (e % 2 ^ 16)).tail ∧
        (getQ t (e % 2 ^ 16)).drops = min (2 ^ 32 - 1) ((getQ s (e % 2 ^ 16)).drops + 1))) := by
  refine beretRuns_next (execFwdb_eq h he hk) (coresKept_appendPacket _ _ s) ⟨fun hd hr => ?_, fun hn => ?_⟩
  · obtain ⟨htail, hdrops⟩ := getQ_putCtx_tail_drops (beretNext (tick c)) (appendPacket (e % 2 ^ 16) x.pkt s) (e % 2 ^ 16)
    rw [htail, hdrops, getQ_appendPacket_room hd hr, wake_eq]
    exact ⟨rfl, rfl⟩
  · obtain ⟨htail, hdrops⟩ := getQ_putCtx_tail_drops (beretNext (tick c)) (appendPacket (e % 2 ^ 16) x.pkt s) (e % 2 ^ 16)
    rw [htail, hdrops, getQ_appendPacket_full hn]
    exact ⟨rfl, rfl⟩

theorem execDoneb_ok (h : InBeret s x c) (hu : (bGet c a).toNat % 256 = 0) :
    exec (.doneb a) s = .next (endPacket s.fe.cur true (if pBar x.pkt then x.last else none) s) := by
  show execDoneb a s = _
  unfold execDoneb
  rw [beretStep_tick h]
  exact if_pos hu

theorem execDoneb_fails (h : InBeret s x c) (hu : (bGet c a).toNat % 256 ≠ 0) :
    exec (.doneb a) s = .next (failPacket s.fe.cur ((bGet c a).toNat % 256) s) := by
  show execDoneb a s = _
  unfold execDoneb
  rw [beretStep_tick h]
  exact if_neg hu

theorem endState_doneb (q : Nat) : endState s q true (if pBar x.pkt then x.last else none) =
    match pBar x.pkt, x.last with
    | true, some _ => .held
    | _, _ => restState s q := by
  cases pBar x.pkt <;> cases x.last <;> rfl

theorem beretStepLimit_fails {q : Nat} (hst : (getQ s q).st = .process) (hc : (getQ s q).ctx = some c) (hs : 512 ≤ c.steps) :
    exec (.beretStepLimit q) s = .next (failPacket q 2 s) := by
  show execBeretStepLimit q s = _
  unfold execBeretStepLimit
  simp only [hst, hc, if_pos hs]

end

/-- Settles O54: a case per Beret instruction, each with the queue it puts back. -/
theorem beretInstructions : Obligations.BeretInstructions := by
  unfold Obligations.BeretInstructions
  refine ⟨?_, fun q c s hst hc hs => ⟨_, beretStepLimit_fails hst hc hs, packetEnds_failPacket q 2 s⟩⟩
  intro d a b imm sh lo wm1 len count res s x c q u w goes branch h
  have puts {i : Instr} (f : Beret → Word) (he : exec i s = beretPut d f s) : BeretPuts i s c d (f (tick c)) :=
    beretPuts_of h (TlbOnly.refl s) (he.trans (beretPut_eq h))
  refine ⟨puts (fun _ => imm.signExtend 64) rfl, puts (fun k => bGet k a + bGet k b) rfl, puts (fun k => bGet k a + imm.signExtend 64) rfl,
    puts (fun k => bGet k a &&& bGet k b) rfl, puts (fun k => bGet k a ||| bGet k b) rfl, puts (fun k => bGet k a <<< sh.toNat) rfl,
    puts (fun k => bGet k a >>> sh.toNat) rfl, puts (fun k => BitVec.ofNat 64 (bits (bGet k a).toNat lo.toNat (wm1.toNat + 1))) rfl,
    fun hl => beretPuts_of h (TlbOnly.refl s) (execLdpb_within h hl), fun hl => beretFail_happens (execLdpb_beyond h hl),
    beretPuts_of h (TlbOnly.refl s) (execLdqb_eq h), execStqb_runs h, fun p hw hm h0 hok hp => ⟨?_, ?_, ?_⟩, ?_, ?_,
    beretBranch_runs (cond := fun x y => decide (x = y)) h rfl decide_eq_true_iff,
    beretBranch_runs (cond := fun x y => decide (x ≠ y)) h rfl decide_eq_true_iff,
    beretBranch_runs (cond := fun x y => decide (x.toInt < y.toInt)) h rfl decide_eq_true_iff,
    execLoopb_runs h, fun e he hk => execFwdb_runs h he hk, fun hu => ?_, fun hu => ⟨_, execDoneb_fails h hu, packetEnds_failPacket _ _ s⟩⟩
  · exact beretPuts_of h (TlbOnly.refl s) (execSrdb_eq h hm h0 hok hp)
  · exact execSdecb_runs h hw hm h0 hok hp
  · exact execSsetb_runs h hw hm h0 hok hp
  · rintro mask rfl hs
    exact ⟨fun hc => execWaitb_whole h hs hc, fun p l r hsigs hl hv hc => execWaitb_left h hs hsigs hl hv hc⟩
  · intro hs hr hp
    refine ⟨fun blk s1 h1 h2 h3 h4 hpl => ?_, fun g blk s1 h1 h2 h3 h4 hg hc hi hpl => ?_, fun job s1 hst => ?_,
      fun s1 hw => execCopyb_waits h hs hr hp hw⟩
    · exact placedLast_runs (queuesKept_placeLaunch hpl) (execPlaceb_placed h hs hr hp h1 h2 h3 h4 hpl) rfl
    · exact placedLast_runs (queuesKept_placeLaunch hpl) (execImgb_placed h hs hr hp h1 h2 h3 h4 hg hc hi hpl) rfl
    · have he := execCopyb_eq h hs hr hp
      rw [hst] at he
      obtain ⟨t, c', h1, h2, h3, h4, h5, ⟨h6, ⟨h7, h8⟩, h9⟩, h10⟩ := placedLast_runs
        (post := fun t => t.mem = s1.mem ∧ t.copy = s1.copy) (queuesKept_startCopy hst) he ⟨rfl, rfl⟩
      exact ⟨t, c', h1, h2, h3, h4, h5, ⟨h6, h7, h8, h9⟩, h10⟩
  · have hp : PacketEnds s (endPacket s.fe.cur true (if pBar x.pkt then x.last else none) s) s.fe.cur _ := packetEnds_endPacket rfl
    rw [endState_doneb] at hp
    exact ⟨_, execDoneb_ok h hu, coresKept_endPacket ⟨rfl, rfl⟩ _ _ _, hp⟩

end Sys2Proof.Proofs
end

section
/-! The dispatchers (R248 to R254, R262, R263): one element, a stream's end, and what neither touches. -/

namespace Sys2Proof.Proofs

open Sys2Proof.Machine Sys2Proof.Safety

/-! ### What accesses of a stream leave as it was -/

theorem transC_tlbOnly {t : Stream} {a : Acc} {va : Word} {s s1 : State} {x : Except Nat Phys} (h : transC t a va s = (x, s1)) : TlbOnly s s1 := by
  have ht : TlbOnly s (transC t a va s).2 := tlbOnly_translateFor _ _ _ _ _ _ _ _
  rwa [h] at ht

/-- `t` has the cores and the dispatchers of `s`. -/
def CopyKept (s t : State) : Prop := CoresKept s t ∧ t.copy = s.copy

theorem CopyKept.refl (s : State) : CopyKept s s := ⟨⟨rfl, rfl⟩, rfl⟩

theorem CopyKept.trans {s t u : State} (h1 : CopyKept s t) (h2 : CopyKept t u) : CopyKept s u :=
  ⟨⟨h2.1.1.trans h1.1.1, h2.1.2.trans h1.1.2⟩, h2.2.trans h1.2⟩

theorem copyKept_of_tlbOnly {s t : State} (h : TlbOnly s t) : CopyKept s t := ⟨⟨h.core, h.others⟩, h.copy⟩

theorem copyKept_chargeMem (r : Region) (pa n : Nat) (s : State) : CopyKept s (chargeMem r pa n s) := by
  rw [chargeMem_eq]
  exact CopyKept.refl s

theorem copyKept_chargeBudget (r : Region) (a : Activity) (arb n : Nat) (s : State) : CopyKept s (chargeBudget r a arb n s) := by
  rw [chargeBudget_eq]
  exact CopyKept.refl s

theorem copyKept_answer (n : Nat) (s : State) : CopyKept s (answer n s).2 := by
  obtain ⟨hc, hcopy⟩ := copyKept_of_tlbOnly (tlbOnly_popChoice (freeBytes s n).2)
  exact ⟨hc, hcopy⟩

theorem copyKept_homeRead (pa n : Nat) (s : State) : CopyKept s (homeRead pa n s).2 := by
  unfold homeRead
  split
  · exact copyKept_answer n _
  · exact CopyKept.refl s

theorem copyKept_homeWrite (pa n x : Nat) (s : State) : CopyKept s (homeWrite pa n x s) := by
  unfold homeWrite
  split
  · exact CopyKept.refl s
  · exact CopyKept.refl s

theorem copyKept_writeC (t : Stream) (va : Word) (n x : Nat) (s : State) : CopyKept s (writeC t va n x s) := by
  unfold writeC
  split
  next ht => exact ((copyKept_of_tlbOnly (transC_tlbOnly ht)).trans (copyKept_chargeMem _ _ _ _)).trans (copyKept_homeWrite _ _ _ _)
  next ht => exact copyKept_of_tlbOnly (transC_tlbOnly ht)

theorem copyKept_putStatus (t : Stream) (done cause st : Nat) (s : State) : CopyKept s (putStatus t done cause st s) :=
  copyKept_writeC _ _ _ _ _

theorem copyKept_putRing (t : Stream) (r : Ring) (s : State) : CopyKept s (putRing t r s) := copyKept_writeC _ _ _ _ _

/-! ### One element (R248, R249, R251) -/

/-- The stream `u` is `t` further on. -/
structure SameStream (t u : Stream) : Prop where
  id : u.id = t.id
  core : u.core = t.core
  tid : u.tid = t.tid
  launch : u.launch = t.launch

theorem SameStream.refl (t : Stream) : SameStream t t := ⟨rfl, rfl, rfl, rfl⟩

theorem SameStream.trans {t u v : Stream} (h1 : SameStream t u) (h2 : SameStream u v) : SameStream t v :=
  ⟨h2.id.trans h1.id, h2.core.trans h1.core, h2.tid.trans h1.tid, h2.launch.trans h1.launch⟩

theorem onCore_copy_of {f : State → State} (hf : ∀ u, (f u).copy = u.copy) (c : Nat) (s : State) : (onCore c f s).copy = s.copy := by
  unfold onCore
  rw [focus_copy, hf, focus_copy]

/-- An element moved leaves the list of streams, and is of the same stream. -/
def MovesOn (t : Stream) (s : State) : Moved → Prop
  | .ok u s1 => SameStream t u ∧ s1.copy = s.copy
  | _ => True

theorem movesOn_deliverElem (t : Stream) (d : Delivery) (n : Nat) (x : Got) (s : State) : MovesOn t s (deliverElem t d n x s) := by
  unfold deliverElem
  split
  · exact ⟨SameStream.refl t, rfl⟩
  · refine ⟨⟨rfl, rfl, rfl, rfl⟩, onCore_copy_of (fun u => ?_) _ _⟩
    dsimp only
    split <;> rfl

theorem movesOn_writeElem (t : Stream) (pa e : Nat) (x : Got) (s : State) : MovesOn t s (writeElem t pa e x s) := by
  have hc := (copyKept_chargeMem t.eff pa e s).2
  unfold writeElem
  extract_lets s1 s2
  split
  · exact ⟨⟨rfl, rfl, rfl, rfl⟩, hc⟩
  · split
    · exact ⟨SameStream.refl t, hc⟩
    · exact ⟨SameStream.refl t, hc⟩

theorem MovesOn.of_copy {t : Stream} {s u : State} {m : Moved} (h : MovesOn t u m) (hu : u.copy = s.copy) : MovesOn t s m := by
  cases m with
  | ok v s1 => exact ⟨h.1, h.2.trans hu⟩
  | bad c va => trivial
  | wait => trivial

theorem movesOn_moveElem (t : Stream) (n : Nat) (s : State) : MovesOn t s (moveElem t n s) := by
  have hread : ∀ pa e u, u.copy = s.copy → (homeRead pa e (chargeMem t.eff pa e u)).2.copy = s.copy := fun pa e u hu =>
    ((copyKept_homeRead pa e _).2.trans (copyKept_chargeMem t.eff pa e u).2).trans hu
  unfold moveElem
  extract_lets ds e
  split
  · split
    · split
      · refine ⟨SameStream.refl t, onCore_copy_of (fun u => ?_) _ _⟩
        rfl
      · exact ⟨SameStream.refl t, rfl⟩
    · exact ⟨SameStream.refl t, rfl⟩
  · split
    split
    · trivial
    next p s1 h1 =>
      have hs1 := (transC_tlbOnly h1).copy
      extract_lets ka
      split
      · trivial
      split
      · split
        · trivial
        · exact (movesOn_deliverElem _ _ _ _ _).of_copy (hread _ _ _ hs1)
      · split
        · trivial
        next q s2 h2 =>
          have hs2 := (transC_tlbOnly h2).copy.trans hs1
          split
          · trivial
          split
          · trivial
          · exact (movesOn_writeElem _ _ _ _ _).of_copy (hread _ _ _ hs2)

theorem moveElems_kept : ∀ (k : Nat) (t : Stream) (s : State), SameStream t (moveElems k t s).2.1 ∧ (moveElems k t s).1.copy = s.copy
  | 0, t, s => ⟨SameStream.refl t, rfl⟩
  | k + 1, t, s => by
    have hm := movesOn_moveElem t t.landed s
    unfold moveElems
    split
    · exact ⟨SameStream.refl t, rfl⟩
    · exact ⟨SameStream.refl t, rfl⟩
    next u s1 he =>
      rw [he] at hm
      obtain ⟨hu, hs1⟩ := hm
      obtain ⟨hv, hs2⟩ := moveElems_kept k { u with landed := t.landed + 1 } s1
      exact ⟨hu.trans ⟨hv.id, hv.core, hv.tid, hv.launch⟩, hs2.trans hs1⟩

theorem coverPoison_copy (ws : List (Nat × Nat × Bool)) (s : State) : (coverPoison ws s).copy = s.copy := by
  unfold coverPoison
  exact (memOnly_foldl (f := fun t (w : Nat × Nat × Bool) => markPoison t w.1 w.2.1) (fun u w => memOnly_markPoison u w.1 w.2.1) _ _).copy

theorem runStream_kept {t t1 : Stream} {s s1 : State} {r : Option (Nat × Word)} (h : runStream t s = (s1, t1, r)) :
    SameStream t t1 ∧ s1.copy = s.copy := by
  obtain ⟨ht, hs⟩ := moveElems_kept (descCount t.image - t.landed) t s
  unfold runStream at h
  extract_lets n at h
  obtain ⟨h1, h2, -⟩ : _ ∧ _ ∧ _ := ⟨congrArg Prod.fst h, congrArg (fun x => x.2.1) h, congrArg (fun x => x.2.2) h⟩
  subst h1 h2
  refine ⟨ht, (copyKept_chargeBudget _ _ _ _ _).2.trans ?_⟩
  split
  · exact hs
  · exact (coverPoison_copy _ _).trans hs

section

variable {t : Stream} {n : Nat} {p q : Phys} {s s1 s2 : State}

theorem moveElem_outside (hd : t.deliver = none) (hr : inRange (descDims t.image) (elemIdx (descDims t.image) n) = false) :
    moveElem t n s = .ok t s := by
  unfold moveElem
  simp only [hr, hd, Bool.not_false, if_true]

theorem moveElem_untranslated (hr : inRange (descDims t.image) (elemIdx (descDims t.image) n) = true) {c : Nat}
    (h : transC t .r (streamAddrs s t n).1 s = (.error c, s1)) : moveElem t n s = .bad c (streamAddrs s t n).1 := by
  unfold moveElem
  simp only [hr, h, Bool.not_true, Bool.false_eq_true, if_false]

theorem homeRead_plain {u : State} {pa e : Nat} (hp : PlainPlace pa) : homeRead pa e u = (⟨u.rd pa e, isPoisoned u pa e⟩, u) := by
  unfold homeRead
  rcases hp with h | ⟨c, h⟩ | ⟨c, o, h⟩ <;> rw [h]

/-- An element whose source and destination translate, its source open to the stream: what the endpoints say of it. -/
theorem moveElem_inside (hd : t.deliver = none) (hr : inRange (descDims t.image) (elemIdx (descDims t.image) n) = true)
    (h1 : transC t .r (streamAddrs s t n).1 s = (.ok p, s1)) (ho : streamOk t s1 p.pa = true)
    (h2 : transC t .w (streamAddrs s t n).2 s1 = (.ok q, s2)) : moveElem t n s =
      if !endsFit t.port (endKind (streamAddrs s t n).1.toNat p.pa) (endKind (streamAddrs s t n).2.toNat q.pa) then
        .bad 0x24 (if sourceFits t.port (endKind (streamAddrs s t n).1.toNat p.pa) then (streamAddrs s t n).2 else (streamAddrs s t n).1)
      else if !streamOk t s2 q.pa then .wait
      else writeElem t q.pa (descEsize t.image) (homeRead p.pa (descEsize t.image) (chargeMem t.eff p.pa (descEsize t.image) s2)).1
        (homeRead p.pa (descEsize t.image) (chargeMem t.eff p.pa (descEsize t.image) s2)).2 := by
  unfold moveElem
  simp only [hr, hd, h1, ho, h2, Bool.not_true, Bool.false_eq_true, if_false]

/-- An element between plain places is copied, and nothing else is written (R248). -/
theorem writeElem_plain {e : Nat} (hw : MemWf s.mem) (h1 : TlbOnly s s2) (hp : PlainAccess s p.pa e) (hq : PlainPlace q.pa) :
    ∃ u, writeElem t q.pa e (homeRead p.pa e (chargeMem t.eff p.pa e s2)).1 (homeRead p.pa e (chargeMem t.eff p.pa e s2)).2 = .ok t u ∧
      memRead u.mem q.pa e = memRead s.mem p.pa e ∧ MemKeptOutside q.pa e s u ∧ u.core = s.core := by
  obtain ⟨hplain, hclean⟩ := hp
  have hpois : isPoisoned (chargeMem t.eff p.pa e s2) p.pa e = false := by
    unfold isPoisoned at hclean ⊢
    rw [chargeMem_poison, h1.poison]
    exact hclean
  have hrd : (chargeMem t.eff p.pa e s2).rd p.pa e = memRead s.mem p.pa e := by
    unfold State.rd
    rw [chargeMem_mem, h1.mem]
  have hmem : (chargeMem t.eff q.pa e (chargeMem t.eff p.pa e s2)).mem = s.mem := by rw [chargeMem_mem, chargeMem_mem, h1.mem]
  rw [homeRead_plain hplain, hpois, hrd]
  refine ⟨(chargeMem t.eff q.pa e (chargeMem t.eff p.pa e s2)).wr q.pa e (memRead s.mem p.pa e), ?_, ?_, ?_, ?_⟩
  · unfold writeElem
    simp [isRemote_of_plainPlace hq]
  · have hr := rd_wr (s := chargeMem t.eff q.pa e (chargeMem t.eff p.pa e s2)) (hmem ▸ hw) q.pa e (memRead s.mem p.pa e)
    exact hr.trans (Nat.mod_eq_of_lt (memRead_lt _ _ _))
  · exact memKeptOutside_of_mem hw (by rw [← hmem]; rfl)
  · rw [wr_core, chargeMem_core, chargeMem_core, h1.core]

end

/-! ### The end of a stream (R254, R262, R263) -/

theorem getStream_id {s : State} {id : Nat} {t : Stream} (h : getStream s id = some t) : t.id = id := by
  simpa using List.find?_some h

theorem getStream_congr {s u : State} (h : u.copy.streams = s.copy.streams) (id : Nat) : getStream u id = getStream s id := by
  unfold getStream
  rw [h]

/-- A stream put back is found as it was put. -/
theorem getStream_setStream {s : State} {id : Nat} {t : Stream} (h : (getStream s id).isSome) (ht : t.id = id) :
    getStream (setStream s t) id = some t := by
  unfold getStream setStream at *
  generalize s.copy.streams = l at *
  induction l with
  | nil => simp at h
  | cons x l ih =>
    by_cases hx : x.id = id
    · simp [hx, ht]
    · have hl : (l.find? fun y => decide (y.id = id)).isSome := by simpa [hx] using h
      have hne : x.id ≠ t.id := by rw [ht]; exact hx
      simpa [hx, hne] using ih hl

theorem getStream_dropStream (s : State) (id : Nat) : getStream (dropStream id s) id = none := by
  simp [getStream, dropStream]

/-- No stream of `s` has the number `id`. -/
theorem getStream_none {s : State} {id : Nat} : getStream s id = none ↔ ∀ x ∈ s.copy.streams, x.id ≠ id := by
  simp [getStream]

/-- A stream put back brings no new number. -/
theorem getStream_setStream_none {s : State} {id : Nat} (t : Stream) (h : getStream s id = none) : getStream (setStream s t) id = none := by
  rw [getStream_none] at *
  intro x hx
  obtain ⟨y, hy, rfl⟩ := List.mem_map.mp hx
  split
  next hyt => rw [← hyt]; exact h y hy
  · exact h y hy

theorem getStream_dropStream_none {s : State} {id : Nat} (i : Nat) (h : getStream s id = none) : getStream (dropStream i s) id = none := by
  rw [getStream_none] at *
  exact fun x hx => h x (List.mem_filter.mp hx).1

theorem unreserve_streams (t : Stream) (s : State) : (unreserve t s).copy.streams = s.copy.streams := by
  unfold unreserve
  split
  · rfl
  · split
    · rfl
    · split
      · rfl
      · rfl

theorem dropFollow_copy (t : Stream) (s : State) : (dropFollow t s).copy = s.copy := rfl

theorem endDelivery_copy (t : Stream) (s : State) : (endDelivery t s).copy = s.copy := by
  unfold endDelivery
  split
  · refine onCore_copy_of (fun u => ?_) _ _
    split <;> rfl
  · rfl

/-- A cancelled stream is gone (R262). -/
theorem cancelOne_gone (id : Nat) (s : State) : getStream (cancelOne id s) id = none := by
  unfold cancelOne
  split
  · assumption
  next t ht =>
    extract_lets s1
    rw [getStream_congr (congrArg Copy.streams (endDelivery_copy t _)), getStream_congr (congrArg Copy.streams (dropFollow_copy t _))]
    exact getStream_dropStream _ id

theorem cancelOne_none {s : State} {id : Nat} (i : Nat) (h : getStream s id = none) : getStream (cancelOne i s) id = none := by
  unfold cancelOne
  split
  · exact h
  next t ht =>
    extract_lets s1
    rw [getStream_congr (congrArg Copy.streams (endDelivery_copy t _)), getStream_congr (congrArg Copy.streams (dropFollow_copy t _))]
    refine getStream_dropStream_none i ?_
    rw [getStream_congr (unreserve_streams t s1), getStream_congr (congrArg Copy.streams (copyKept_putStatus t t.landed 0 3 s).2)]
    exact h

theorem cancelSoon_none {s : State} {id : Nat} (by_ : Word) (i : Nat) (h : getStream s id = none) : getStream (cancelSoon by_ i s) id = none := by
  unfold cancelSoon
  split
  · exact h
  next t ht =>
    split
    · exact cancelOne_none i h
    · refine getStream_setStream_none _ ?_
      rw [getStream_congr (congrArg Copy.streams (dropFollow_copy t _)), getStream_congr (unreserve_streams t s)]
      exact h

theorem foldl_cancelSoon_none {id : Nat} (by_ : Word) : ∀ (l : List Nat) (s : State), getStream s id = none →
    getStream (l.foldl (fun u i => cancelSoon by_ i u) s) id = none
  | [], _, h => h
  | i :: l, s, h => foldl_cancelSoon_none by_ l (cancelSoon by_ i s) (cancelSoon_none by_ i h)

theorem copyError_streams (t : Stream) (cause : Nat) (va : Word) (s : State) : (copyError t cause va s).copy.streams = s.copy.streams := by
  unfold copyError
  split <;> rfl

/-- A stream that stops is gone, and its cause is left for its task (R263). -/
theorem stopStream_gone {t : Stream} {n cause : Nat} {va : Word} {readable : Bool} {s : State} (hl : t.launch = 0) :
    getStream (stopStream t n cause va readable s) t.id = none ∧
      ⟨t.core, t.tid, cause, va⟩ ∈ (stopStream t n cause va readable s).copy.errors := by
  unfold stopStream
  extract_lets s1 later s2
  have h2 : getStream s2 t.id = none := by
    unfold s2
    rw [getStream_congr (congrArg Copy.streams (endDelivery_copy t _)), getStream_congr (congrArg Copy.streams (dropFollow_copy t _))]
    exact getStream_dropStream _ t.id
  refine ⟨(getStream_congr (copyError_streams _ _ _ _) _).trans (foldl_cancelSoon_none 0 later s2 h2), ?_⟩
  unfold copyError
  rw [if_neg (not_not_intro hl)]
  exact List.mem_append_right _ List.mem_cons_self

/-! ### Completion (R254) -/

/-- An operation on some core that leaves what its sequencer holds leaves the current core's sequencer. -/
theorem onCore_seq {f : State → State} (hid : ∀ u, (f u).core.id = u.core.id) (hseq : ∀ u, (f u).core.seq = u.core.seq)
    (ho : ∀ u, (f u).others = u.others) (c : Nat) (s : State) : (onCore c f s).core.seq = s.core.seq := by
  have hcore : (onCore c f s).core = getCore (f (focus s c)) s.core.id := by
    unfold onCore
    exact focus_core _ _
  have hgc : getCore (focus s c) s.core.id = s.core := by
    rw [getCore_focus, getCore, if_pos rfl]
  rw [hcore, getCore, hid]
  rw [getCore] at hgc
  by_cases hc : (focus s c).core.id = s.core.id
  · rw [if_pos hc] at hgc ⊢
    rw [hseq, hgc]
  · rw [if_neg hc] at hgc ⊢
    rw [ho, hgc]

theorem landDelivery_seq (t : Stream) (s : State) : (landDelivery t s).core.seq = s.core.seq := by
  unfold landDelivery
  split
  · rfl
  · refine onCore_seq (fun u => ?_) (fun u => ?_) (fun u => ?_) _ _
    · rfl
    · rfl
    · rfl

theorem freeFollow_seq (t : Stream) (s : State) : (freeFollow t s).core.seq = s.core.seq := rfl

theorem fillSlot_seq (t : Stream) (s : State) : (fillSlot t s).core.seq = s.core.seq := by
  unfold fillSlot
  split
  · rfl
  · split
    · rfl
    · extract_lets r1 s1
      split
      · rfl
      · exact congrArg Core.seq (copyKept_putRing t r1 s1).1.1

/-- A completed stream is gone, and the current core's registers are as they were. -/
theorem endStream_gone {t : Stream} {s : State} (hl : t.launch = 0) :
    getStream (endStream t s) t.id = none ∧ (endStream t s).core.seq = s.core.seq := by
  unfold endStream
  rw [if_pos hl]
  refine ⟨getStream_dropStream _ t.id, ?_⟩
  rw [freeFollow_seq]
  show (fillSlot t _).core.seq = _
  rw [fillSlot_seq, (copyKept_putStatus _ _ _ _ _).1.1, landDelivery_seq]

theorem lossRecord_of_task {t : Stream} {s : State} (hl : t.launch = 0) : lossRecord t s = s := by
  unfold lossRecord
  simp [hl]

theorem settleStream_complete {t : Stream} {s : State} (hl : t.launch = 0) (he : t.ends = none) : settleStream t s = endStream t s := by
  unfold settleStream
  rw [he, lossRecord_of_task hl]

theorem settleStream_cancelled {t : Stream} {s : State} {va : Word} (hl : t.launch = 0) (he : t.ends = some (0, va)) :
    settleStream t s = cancelOne t.id s := by
  unfold settleStream
  rw [he, lossRecord_of_task hl]
  rfl

theorem settleStream_failed {t : Stream} {s : State} {c : Nat} {va : Word} (hl : t.launch = 0) (he : t.ends = some (c + 1, va)) :
    settleStream t s = stopStream t t.landed (c + 1) va true s := by
  unfold settleStream
  rw [he, lossRecord_of_task hl]
  unfold failStream
  simp [hl]

/-- A stream that failed is gone once it settles, and its cause is left for its task; one that was cancelled is gone (R262, R263). -/
theorem settleStream_ended {t : Stream} {s : State} {c : Nat} {va : Word} (hl : t.launch = 0) (he : t.ends = some (c, va)) :
    getStream (settleStream t s) t.id = none ∧ (c ≠ 0 → ⟨t.core, t.tid, c, va⟩ ∈ (settleStream t s).copy.errors) := by
  cases c with
  | zero =>
    rw [settleStream_cancelled hl he]
    exact ⟨cancelOne_gone t.id s, fun h => absurd rfl h⟩
  | succ c =>
    rw [settleStream_failed hl he]
    obtain ⟨hgone, herr⟩ := stopStream_gone (n := t.landed) (cause := c + 1) (va := va) (readable := true) (s := s) hl
    exact ⟨hgone, fun _ => herr⟩

/-! ### The start (R252) -/

/-- Reading a descriptor changes no core and no stream. -/
theorem readDesc_kept (t : Stream) (s : State) : CopyKept s (readDesc t s).2 := by
  have step : ∀ (l : List Nat) (f : Except (Nat × Bool) (List Byte) × State → Nat → Except (Nat × Bool) (List Byte) × State),
      (∀ acc j, CopyKept acc.2 (f acc j).2) → ∀ acc, CopyKept acc.2 (l.foldl f acc).2 := by
    intro l f hf
    induction l with
    | nil => exact fun acc => CopyKept.refl _
    | cons j l ih => exact fun acc => (hf acc j).trans (ih (f acc j))
  have hread : ∀ pa u, CopyKept u (homeRead pa 64 (chargeMem t.eff pa 64 u)).2 := fun pa u =>
    (copyKept_chargeMem t.eff pa 64 u).trans (copyKept_homeRead pa 64 _)
  unfold readDesc
  refine step _ _ (fun acc j => ?_) _
  dsimp only
  split
  · exact CopyKept.refl _
  · split
    next ht => exact copyKept_of_tlbOnly (transC_tlbOnly ht)
    next ht =>
      have hk := copyKept_of_tlbOnly (transC_tlbOnly ht)
      split
      · exact hk.trans (hread _ _)
      · exact hk.trans (hread _ _)

theorem openDesc_kept {t : Stream} {s s1 : State} {bs : List Byte} (h : openDesc t s = (.ok bs, s1)) : CopyKept s s1 := by
  have hk := readDesc_kept t s
  unfold openDesc at h
  split at h
  · cases h
  next hr =>
    rw [hr] at hk
    split at h
    · cases h
    · cases h
      exact hk

theorem streamStart_eq {t : Stream} {id : Nat} {bs : List Byte} {s s1 : State} (h : getStream s id = some t) (hm : mayStart s t = true)
    (hd : t.deliver = none) (ho : openDesc t s = (.ok bs, s1)) : exec (.streamStart id) s =
      .next (putStatus { t with running := true, image := bs } 0 0 1 (setStream s1 { t with running := true, image := bs })) := by
  show execStreamStart id s = _
  unfold execStreamStart
  simp only [h, hm, hd, ho, Bool.not_true, Bool.false_eq_true, if_false]

/-! ### Completion and error events -/

section

variable {id : Nat} {t now t1 : Stream} {s s1 : State}

theorem accepted_iff : accepted s t = true ↔ ∀ p ∈ t.ports, chanOpen s p 0 = true := by
  simp [accepted]

theorem acceptStream_eq (hq : (∀ p ∈ t.ports, chanOpen s p 0 = true) → now = { t with ports := [] })
    (hn : ¬(∀ p ∈ t.ports, chanOpen s p 0 = true) → now = t) : acceptStream t s = now := by
  unfold acceptStream
  by_cases h : ∀ p ∈ t.ports, chanOpen s p 0 = true
  · rw [if_pos (accepted_iff.mpr h), hq h]
  · rw [if_neg (fun ha => h (accepted_iff.mp ha)), hn h]

theorem sameStream_acceptStream : SameStream t (acceptStream t s) := by
  unfold acceptStream
  split
  · exact ⟨rfl, rfl, rfl, rfl⟩
  · exact SameStream.refl t

/-- A running stream whose last byte has moved. -/
theorem streamCompletion_running (h : getStream s id = some t) (hr : t.running = true) (hs : t.sent = false) (he : t.ends = none)
    (hm : runStream (acceptStream t s) s = (s1, t1, none)) : exec (.streamCompletion id) s =
      .next (if t1.ports.isEmpty && statusOk t1 s1 then endStream t1 s1 else setStream s1 { t1 with sent := true }) := by
  show execStreamCompletion id s = _
  unfold execStreamCompletion
  simp only [h, hr, hs, he, hm, Option.isSome_none, Bool.or_self, Bool.not_true, Bool.false_eq_true, if_false]

/-- A stream that moves no more. -/
theorem streamCompletion_moved (h : getStream s id = some t) (hs : t.sent = true ∨ t.ends ≠ none) : exec (.streamCompletion id) s =
    .next (if accepted s t && statusOk t s then settleStream t s else s) := by
  have hc : (t.sent || t.ends.isSome) = true := by
    rcases hs with hs | hs
    · rw [hs, Bool.true_or]
    · rw [Option.isSome_iff_ne_none.mpr hs, Bool.or_true]
  show execStreamCompletion id s = _
  unfold execStreamCompletion
  simp only [h, hc, if_true]

theorem streamError_running {c : Nat} {va : Word} (h : getStream s id = some t) (hr : t.running = true) (hs : t.sent = false)
    (he : t.ends = none) (hc : c ≠ 0) (hm : runStream (acceptStream t s) s = (s1, t1, some (c, va))) : exec (.streamError id) s =
      .next (if t1.ports.isEmpty && statusOk t1 s1 then settleStream { t1 with ends := some (c, va) } s1
        else setStream s1 { t1 with ends := some (c, va) }) := by
  show execStreamError id s = _
  unfold execStreamError
  simp only [h, hr, hs, he, hm, hc, Option.isSome_none, Bool.or_self, Bool.false_eq_true, if_false, if_true]

end

/-- Settles O50: the start, one element, and a case per way in which a stream ends. -/
theorem streams : Obligations.Streams := by
  unfold Obligations.Streams
  refine ⟨fun id t bs s s1 h hm hd ho => ?_, fun t n p q s s1 s2 => ?_, fun id t now t1 s s1 h hid hl => ?_⟩
  · obtain ⟨hc, hcopy⟩ := openDesc_kept ho
    obtain ⟨hpc, hpcopy⟩ := copyKept_putStatus { t with running := true, image := bs } 0 0 1 (setStream s1 { t with running := true, image := bs })
    refine ⟨_, streamStart_eq h hm hd ho, hpc.1.trans hc.1, ?_⟩
    rw [getStream_congr (congrArg Copy.streams hpcopy)]
    refine getStream_setStream ?_ (show t.id = id from getStream_id h)
    rw [getStream_congr (congrArg Copy.streams hcopy), h]
    rfl
  · intro e sa da hw hd
    refine ⟨moveElem_outside hd, fun hr h1 hp ho h2 hq => ?_, fun hr c h => moveElem_untranslated hr h⟩
    have hm := moveElem_inside hd hr h1 ho h2
    refine ⟨fun hf => ?_, fun hf hn => ?_, fun hf hok => ?_⟩
    · rw [hm]
      exact if_pos (by rw [hf]; rfl)
    · rw [hm, if_neg (by rw [hf]; decide)]
      exact if_pos (by rw [hn]; rfl)
    · rw [hm, if_neg (by rw [hf]; decide), if_neg (by rw [hok]; decide)]
      exact writeElem_plain hw ((transC_tlbOnly h1).trans (transC_tlbOnly h2)) hp hq
  · intro quiet hq hn
    have hnow : acceptStream t s = now := acceptStream_eq hq hn
    have hsame : SameStream t now := hnow ▸ sameStream_acceptStream
    refine ⟨fun hr hs he hm => ?_, fun hs he ha hok => ?_, fun hs hwait => ?_, fun c va hr hs he hc hm => ?_, fun c va he ha hok => ?_⟩
    · obtain ⟨hsame1, hcopy⟩ := runStream_kept hm
      obtain ⟨hid1, -, -, hl1⟩ := hsame.trans hsame1
      have hx := streamCompletion_running h hr hs he (hnow ▸ hm)
      refine ⟨fun hp hok => ?_, fun hn => ⟨_, hx.trans (congrArg _ (if_neg ?_)), getStream_setStream ?_ (hid1.trans hid)⟩⟩
      · obtain ⟨hgone, hseq⟩ := endStream_gone (s := s1) (hl1.trans hl)
        refine ⟨_, hx.trans (congrArg _ (if_pos ?_)), ?_, congrArg Seq.regs hseq⟩
        · simp [hp, hok]
        · rw [← hid, ← hid1]
          exact hgone
      · rcases hn with hn | hn <;> simp [hn]
      · rw [getStream_congr (congrArg Copy.streams hcopy), h]
        rfl
    · refine ⟨_, (streamCompletion_moved h (.inl hs)).trans (congrArg _ (if_pos ?_)), ?_⟩
      · rw [accepted_iff.mpr ha, hok]
        rfl
      · rw [settleStream_complete hl he, ← hid]
        exact (endStream_gone hl).1
    · refine (streamCompletion_moved h hs).trans (congrArg _ (if_neg ?_))
      rw [Bool.and_eq_true, accepted_iff]
      rintro ⟨ha, hok⟩
      rcases hwait with hw | hw
      · exact hw ha
      · rw [hok] at hw
        cases hw
    · obtain ⟨hsame1, hcopy⟩ := runStream_kept hm
      obtain ⟨hid1, hcore1, htid1, hl1⟩ := hsame.trans hsame1
      have hx := streamError_running h hr hs he hc (hnow ▸ hm)
      refine ⟨fun hp hok => ?_, fun hn => ⟨_, hx.trans (congrArg _ (if_neg ?_)), getStream_setStream ?_ (hid1.trans hid), rfl⟩⟩
      · obtain ⟨hgone, herr⟩ := settleStream_ended (t := { t1 with ends := some (c, va) }) (s := s1) (hl1.trans hl) rfl
        refine ⟨_, hx.trans (congrArg _ (if_pos ?_)), ?_, ?_⟩
        · simp [hp, hok]
        · rw [← hid, ← hid1]
          exact hgone
        · rw [← hcore1, ← htid1]
          exact herr hc
      · rcases hn with hn | hn <;> simp [hn]
      · rw [getStream_congr (congrArg Copy.streams hcopy), h]
        rfl
    · obtain ⟨hgone, herr⟩ := settleStream_ended (s := s) hl he
      refine ⟨_, (streamCompletion_moved h (.inr (by rw [he]; simp))).trans (congrArg _ (if_pos ?_)), ?_, herr⟩
      · rw [accepted_iff.mpr ha, hok]
        rfl
      · rw [← hid]
        exact hgone

end Sys2Proof.Proofs
end

section
/-! Every operation but a placing one goes on: what it answers is a next state (R126 names the one that may not). -/

namespace Sys2Proof.Proofs

open Sys2Proof.Machine Sys2Proof.Safety

/-- The outcome is a next state. -/
def Goes (o : Out) : Prop := ∃ t, o = .next t

@[simp] theorem goes_next (t : State) : Goes (.next t) := ⟨t, rfl⟩
@[simp] theorem goes_done (s : State) : Goes (done s) := ⟨_, rfl⟩
@[simp] theorem goes_stall (p : Bool) (s : State) : Goes (stall p s) := ⟨_, rfl⟩
@[simp] theorem goes_trapHere (c : Nat) (v : Word) (s : State) : Goes (trapHere c v s) := ⟨_, rfl⟩
@[simp] theorem goes_illegal (s : State) : Goes (illegal s) := ⟨_, rfl⟩
@[simp] theorem goes_illegalVal (v : Word) (s : State) : Goes (illegalVal v s) := ⟨_, rfl⟩
@[simp] theorem goes_privilegeTrap (s : State) : Goes (privilegeTrap s) := ⟨_, rfl⟩
@[simp] theorem goes_putS (d : SReg) (v : Word) (s : State) : Goes (putS d v s) := ⟨_, rfl⟩
@[simp] theorem goes_beretFail (st : Nat) (s : State) : Goes (beretFail st s) := ⟨_, rfl⟩

/-- A choice of two outcomes goes on where both do. -/
@[simp] theorem goes_ite {c : Prop} [Decidable c] {a b : Out} : Goes (if c then a else b) ↔ (c → Goes a) ∧ (¬c → Goes b) := by
  split <;> simp [*]

/-! ### Control, dispatch and the shared ways to memory -/

section

variable {s : State} {f : State → Out}

@[simp] theorem goes_dispatchMat (i : Instr) : Goes (dispatchMat i s) := by
  simp only [dispatchMat]
  split <;> simp

theorem goes_withCopyError (hf : ∀ t, Goes (f t)) : Goes (withCopyError f s) := by
  simp only [withCopyError]
  split
  · simp
  · exact hf s

theorem goes_placed {mx : Bool} (hf : ∀ t, Goes (f t)) : Goes (placed mx f s) := by
  simp only [placed]
  split
  · simp
  · exact hf s

@[simp] theorem goes_dispatchStream (p : Option Nat) (desc src dst : Word) (tag : Nat) (rg : SReg) (mx : Bool) :
    Goes (dispatchStream p desc src dst tag rg mx s) := by
  unfold dispatchStream
  extract_lets obj ring
  split
  · simp
  · split
    · simp
    · split
      · simp
      · split <;> simp

@[simp] theorem goes_takeTo (s1 : State) (p : Word) : Goes (takeTo s s1 p) := by
  simp only [takeTo]
  split
  · simp
  · split <;> simp

@[simp] theorem goes_takeAfter (s1 : State) (p : Word) : Goes (takeAfter s s1 p) := by
  simp only [takeAfter]
  split
  · simp
  · split <;> simp

theorem goes_settleOver {c : Cover} {point : Bool} (hf : ∀ t, Goes (f t)) : Goes (settleOver c point f s) := by
  simp [settleOver, hf]

theorem goes_marked (hf : ∀ t, Goes (f t)) : Goes (marked f s) := by
  simp [marked, hf]

@[simp] theorem goes_askFar (d : SReg) (ty : ETy) (va : Word) (pa vc : Nat) (commits : Bool) (m : OutMsg) :
    Goes (askFar d ty va pa vc commits m s) := by
  simp only [askFar]
  split <;> simp

theorem goes_crossTo {p : Phys} {n : Nat} {held : Option Bool} (hf : ∀ t, Goes (f t)) : Goes (crossTo p n held f s) := by
  simp only [crossTo]
  split
  · simp
  · split
    · simp
    · split
      · split <;> simp [hf]
      · exact hf _

@[simp] theorem goes_lostTrap (va : Word) : Goes (lostTrap va s) := by
  simp [lostTrap]

theorem goes_reachS {a : Acc} {va : Word} {n : Nat} {held : Nat → State → Option Bool} {f : Phys → State → Out} (hf : ∀ p t, Goes (f p t)) :
    Goes (reachS a va n held f s) := by
  unfold reachS
  split
  · simp
  · exact hf _ _
  · split
    · simp
    · split
      · simp
      · exact goes_crossTo (hf _)

theorem goes_reachPoint {a : Acc} {va : Word} {n : Nat} {held : Nat → State → Option Bool} {f : Phys → State → Out}
    (hf : ∀ p t, Goes (f p t)) : Goes (reachPoint a va n held f s) := by
  simp [reachPoint, goes_reachS hf]

theorem goes_reach {wait : Bool} {a : Acc} {va : Word} {n : Nat} {held : Nat → State → Option Bool} {f : Phys → State → Out}
    (hf : ∀ p t, Goes (f p t)) : Goes ((if wait then reachPoint else reachS) a va n held f s) := by
  split
  · exact goes_reachPoint hf
  · exact goes_reachS hf

@[simp] theorem goes_readHere (ty : ETy) (d : SReg) (a : Word) (p : Phys) : Goes (readHere ty d a p s) := by
  simp only [readHere]
  split
  · simp
  · split <;> simp

@[simp] theorem goes_storeHome (va : Word) (p : Phys) (n x : Nat) (g : State → State) : Goes (storeHome va p n x g s) := by
  simp [storeHome]

@[simp] theorem goes_vDispatch (i : Instr) : Goes (vDispatch i s) := by
  simp only [vDispatch]
  split
  · simp
  · split <;> simp

theorem goes_withRead {va : Word} {n : Nat} {f : Nat → State → Out} (hf : ∀ x t, Goes (f x t)) : Goes (withRead va n f s) := by
  unfold withRead
  refine goes_reachS fun p t => ?_
  split
  · simp [hf]
  · simp [hf]

theorem goes_aligned64 {r : SReg} (hf : ∀ t, Goes (f t)) : Goes (aligned64 r f s) := by
  simp [aligned64, hf]

theorem goes_withRing {rg : SReg} {f : Ring → State → Out} (hf : ∀ r t, Goes (f r t)) : Goes (withRing rg f s) := by
  unfold withRing
  refine goes_withCopyError fun t => goes_aligned64 fun u => ?_
  split
  · simp
  · exact hf _ _

theorem goes_withRecord {a : SReg} {f : Word → Nat → State → Out} (hf : ∀ v pa t, Goes (f v pa t)) : Goes (withRecord a f s) := by
  simp only [withRecord, goes_ite]
  refine ⟨fun _ => goes_trapHere _ _ _, fun _ => ⟨fun _ => goes_stall _ _, fun _ => goes_reachS fun p t => ?_⟩⟩
  simp [hf]

theorem goes_withSignal {wait : Bool} {a : SReg} {held : Nat → State → Option Bool} {f : Nat → State → Out} (hf : ∀ pa t, Goes (f pa t)) :
    Goes (withSignal wait a held f s) := by
  simp only [withSignal, goes_ite]
  refine ⟨fun _ => goes_trapHere _ _ _, fun _ => goes_reach fun p t => ?_⟩
  simp [hf]

theorem goes_withLatch {acq : Bool} {a : SReg} {ask : State → LatchView → Option AtomicOp} {f : Nat → LatchView → State → Out}
    (hf : ∀ pa l t, Goes (f pa l t)) : Goes (withLatch acq a ask f s) := by
  unfold withLatch
  extract_lets va asked held
  split
  · simp
  · refine goes_reach fun p t => ?_
    simp [hf]

theorem goes_beretStep {f : Queue → Beret → State → Out} (hf : ∀ x c t, Goes (f x c t)) : Goes (beretStep f s) := by
  simp only [beretStep]
  split
  · simp [hf]
  · simp

theorem goes_onSignal {j : Nat} {f : Nat → Beret → State → Out} (hf : ∀ a c t, Goes (f a c t)) : Goes (onSignal j f s) := by
  unfold onSignal
  refine goes_beretStep fun x c t => ?_
  split
  · simp
  · simp [hf]

end

/-! ### Scalar instructions -/

section

variable {s : State} {d a b : SReg}

@[simp] theorem goes_execLd (ty : ETy) (disp : BitVec 22) : Goes (execLd ty d b disp s) := by
  unfold execLd
  extract_lets va n
  split
  · simp
  · split
    · simp
    · simp
    · split
      · simp
      · split
        · simp
        · split
          · simp
          · refine goes_crossTo fun t => ?_
            simp

@[simp] theorem goes_execSt (ty : ETy) (disp : BitVec 22) : Goes (execSt ty a b disp s) := by
  unfold execSt
  extract_lets va n x put
  have hput : ∀ p t, Goes (put p t) := by
    intro p t
    unfold put
    split <;> simp
  split
  · simp
  · split
    · simp
    · exact hput _ _
    · split
      · simp
      · split
        · simp
        · exact goes_crossTo (hput _)

@[simp] theorem goes_atomicAt (w64 : Bool) (va : Word) (op : AtomicOp) : Goes (atomicAt d w64 va op s) := by
  simp only [atomicAt, goes_ite]
  refine ⟨fun _ => goes_trapHere _ _ _, fun _ => goes_reachS fun p t => ?_⟩
  simp

@[simp] theorem goes_vDispatchArr (sc : Scope) : Goes (vDispatchArr b sc s) := by
  unfold vDispatchArr
  extract_lets i f
  split
  split
  · simp
  · split
    · simp
    · split <;> simp

@[simp] theorem goes_execAcq (sc : Scope) : Goes (execAcq a sc s) := by
  unfold execAcq
  extract_lets va
  refine goes_withLatch fun pa l t => ?_
  split <;> simp

@[simp] theorem goes_execTryacq (sc : Scope) : Goes (execTryacq d a sc s) := by
  unfold execTryacq
  extract_lets va
  refine goes_withLatch fun pa l t => ?_
  simp

@[simp] theorem goes_execRel (sc : Scope) : Goes (execRel a sc s) := by
  unfold execRel
  extract_lets va
  refine goes_withLatch fun pa l t => ?_
  simp

@[simp] theorem goes_execXfence (p q : Path) : Goes (execXfence p q s) := by
  unfold execXfence
  split
  · simp
  · extract_lets go
    have hgo : ∀ t, Goes (go t) := fun t => goes_done _
    split
    · exact goes_withCopyError hgo
    · exact hgo s

@[simp] theorem goes_execWaitc (l st c t : BitVec 4) : Goes (execWaitc l st c t s) := by
  unfold execWaitc
  extract_lets low go
  have hgo : ∀ u, Goes (go u) := fun u => by simp [go]
  split
  · exact goes_withCopyError hgo
  · exact hgo s

@[simp] theorem goes_execSpawn : Goes (execSpawn a s) := by
  unfold execSpawn
  refine goes_withRecord fun va pa t => ?_
  simp

@[simp] theorem goes_execJoin : Goes (execJoin a s) := by
  unfold execJoin
  refine goes_withRecord fun va pa t => ?_
  simp

@[simp] theorem goes_execYield : Goes (execYield s) := by
  simp [execYield]

@[simp] theorem goes_execWmpub (w : BitVec 3) : Goes (execWmpub w a s) := by
  unfold execWmpub
  split
  · simp
  · simp

@[simp] theorem goes_execSigdec (sc : Scope) (count : BitVec 24) : Goes (execSigdec a sc count s) := by
  unfold execSigdec
  refine goes_withSignal fun pa t => ?_
  simp

@[simp] theorem goes_execSigwait (sc : Scope) : Goes (execSigwait a sc s) := by
  unfold execSigwait
  refine goes_withSignal fun pa t => ?_
  simp

@[simp] theorem goes_execEndTask : Goes (execEndTask s) := by
  unfold execEndTask
  extract_lets leave
  have hleave : ∀ b u, Goes (leave b u) := fun b u => goes_next _
  refine goes_withCopyError fun t => ?_
  split
  · exact hleave true t
  · refine goes_settleOver fun u => ?_
    split
    · exact hleave false u
    · simp

@[simp] theorem goes_execSysrd (num : BitVec 12) : Goes (execSysrd d num s) := by
  simp only [execSysrd]
  split <;> simp

@[simp] theorem goes_execSyswr (num : BitVec 12) : Goes (execSyswr a num s) := by
  simp only [execSyswr]
  split <;> simp

@[simp] theorem goes_execVrestore : Goes (execVrestore a s) := by
  simp only [execVrestore]
  split
  · simp
  · split <;> simp

@[simp] theorem goes_execTlbinv : Goes (execTlbinv a s) := by
  simp only [execTlbinv]
  split
  · simp
  · split
    · simp
    · split <;> simp

@[simp] theorem goes_enterLoop (tgt : BitVec 24) (entry : Word → Word → LoopEntry) (slip : Nat) : Goes (enterLoop a tgt entry slip s) := by
  simp only [enterLoop]
  split
  · simp
  · split <;> simp

@[simp] theorem goes_execLeave : Goes (execLeave s) := by
  unfold execLeave
  split
  · simp
  · exact goes_takeAfter _ _

@[simp] theorem goes_execEret : Goes (execEret s) := by
  simp [execEret]

@[simp] theorem goes_execSettle (x y w : VDst) : Goes (execSettle x y w s) := goes_marked fun _ => goes_settleOver fun _ => goes_done _

@[simp] theorem goes_execSettleAll : Goes (execSettleAll s) := goes_marked fun _ => goes_settleOver fun _ => goes_done _

/-! ### Copy streams, near memory and the fabric -/

@[simp] theorem goes_execCbind (p : BitVec 4) : Goes (execCbind p d s) := by
  unfold execCbind
  split
  · simp
  · exact goes_aligned64 fun t => goes_withRead fun x u => goes_done _

@[simp] theorem goes_goPort (p : BitVec 4) (tag : BitVec 8) (mx : Bool) : Goes (goPort p tag a mx s) := by
  unfold goPort
  refine goes_withCopyError fun t => goes_placed fun u => ?_
  split
  · simp
  · split
    · simp
    · exact goes_aligned64 fun v => goes_dispatchStream _ _ _ _ _ _ _

@[simp] theorem goes_goAuto (tag : BitVec 8) (mx : Bool) : Goes (goAuto d tag a mx s) := by
  unfold goAuto
  refine goes_withCopyError fun t => goes_placed fun u => goes_aligned64 fun v => goes_aligned64 fun w => ?_
  dsimp only
  split
  · simp
  · exact goes_withRead fun x y => goes_dispatchStream _ _ _ _ _ _ _

@[simp] theorem goes_execCvld (vd : VDst) (md : MReg) (x : SReg) (tag : BitVec 8) (ty : ETy) : Goes (execCvld vd md d x tag ty s) := by
  unfold execCvld
  refine goes_withCopyError fun t => goes_aligned64 fun u => ?_
  dsimp only
  split <;> simp

@[simp] theorem goes_execRinit (rg z n : SReg) : Goes (execRinit rg b z n s) := by
  unfold execRinit
  refine goes_withCopyError fun t => goes_aligned64 fun u => ?_
  dsimp only
  split
  · simp
  · split
    · simp
    · exact goes_reachS fun p t => goes_storeHome _ _ _ _ _

@[simp] theorem goes_execAwait (rg n : SReg) : Goes (execAwait rg n s) := by
  unfold execAwait
  refine goes_withRing fun r t => ?_
  simp

@[simp] theorem goes_execRels (rg : SReg) : Goes (execRels rg s) := by
  unfold execRels
  refine goes_withRing fun r t => ?_
  simp

@[simp] theorem goes_execCcancel (p : BitVec 4) : Goes (execCcancel p s) := by
  unfold execCcancel
  refine goes_withCopyError fun t => ?_
  simp

@[simp] theorem goes_execNlookup (o : SReg) (tag : BitVec 8) : Goes (execNlookup d o tag s) := by
  simp only [execNlookup, goes_ite, goes_trapHere, goes_stall, implies_true, true_and]
  intro _ _ _ _
  split
  · simp
  · simp only [goes_ite, goes_illegalVal, implies_true, true_and]
    intro _
    split
    · simp
    · simp only [goes_ite, goes_stall, implies_true, true_and]
      intro _
      split <;> simp

@[simp] theorem goes_sendUpdate (i : Instr) (tag : BitVec 8) : Goes (sendUpdate i a tag s) := by
  simp only [sendUpdate, goes_ite, goes_trapHere, goes_stall, goes_done, implies_true, true_and]
  intro _ _ _ _
  split <;> simp

@[simp] theorem goes_fabCopy (put : Bool) (i : Instr) (r l n : SReg) (tag : BitVec 8) : Goes (fabCopy put i r l n tag s) := by
  simp only [fabCopy, goes_ite, goes_trapHere, goes_illegalVal, goes_stall, goes_done, implies_true, true_and]
  intro _ _ _ _ _ _
  split
  · simp
  · split <;> simp

@[simp] theorem goes_execFsig (r : SReg) (count : BitVec 24) : Goes (execFsig r count s) := by
  simp only [execFsig, goes_ite, goes_trapHere, goes_illegal, goes_stall, implies_true, true_and]
  intro _ _ _
  split <;> simp

@[simp] theorem goes_sendColl (i : Instr) (g sr : SReg) (tag : BitVec 8) : Goes (sendColl i g sr d tag s) := by
  unfold sendColl
  split
  simp only [goes_ite, goes_trapHere, goes_stall, implies_true, true_and]
  intro _ _ _ _
  split
  · simp
  · simp only [goes_ite, goes_trapHere, goes_illegalVal, goes_stall, implies_true, true_and]
    intro _ _ _
    split
    · simp
    · split
      · simp
      · split <;> simp

/-! ### Beret instructions that place nothing -/

theorem goes_beretPut {d : BitVec 4} {f : Beret → Word} : Goes (beretPut d f s) := goes_beretStep fun _ _ _ => goes_next _

theorem goes_beretBranch {cond : Word → Word → Bool} {a b : BitVec 4} {imm : BitVec 15} : Goes (beretBranch cond a b imm s) :=
  goes_beretStep fun _ _ _ => goes_next _

theorem goes_execLdpb {d : BitVec 4} {imm : BitVec 15} : Goes (execLdpb d imm s) := by
  refine goes_beretStep fun x c t => ?_
  simp

theorem goes_execWaitb {d a : BitVec 4} : Goes (execWaitb d a s) := by
  refine goes_beretStep fun x c t => ?_
  simp

theorem goes_execCopyb : Goes (execCopyb s) := by
  refine goes_beretStep fun x c t => ?_
  split
  · simp
  · simp
  · split
    · simp
    · split <;> simp

theorem goes_execFwdb {a : BitVec 4} : Goes (execFwdb a s) := by
  refine goes_beretStep fun x c t => ?_
  split
  · simp
  · simp

theorem goes_beretDone {x : Queue} {st : Nat} : Goes (beretDone x st s) := by
  simp [beretDone]

end

end Sys2Proof.Proofs
end

section
/-! No step is refused; one that stops names a ready queue outside HBM (R126). -/

namespace Sys2Proof.Proofs

open Sys2Proof.Machine Sys2Proof.Safety

/-! ### Instructions and events that place nothing -/

section

variable {s : State} {d a b : SReg}

theorem goes_execBrCc {cc : Cc} {tgt : BitVec 24} : Goes (execBrCc cc a b tgt s) := by simp [execBrCc]

theorem goes_execIcinv : Goes (execIcinv a s) := by simp [execIcinv]

theorem goes_execHalt : Goes (execHalt s) := by simp [execHalt]

theorem goes_execBext {lo wm1 : BitVec 6} : Goes (execBext d a lo wm1 s) := by simp [execBext]

theorem goes_execBins {lo wm1 : BitVec 6} : Goes (execBins d a lo wm1 s) := by simp [execBins]

theorem goes_execFence {sc : Scope} : Goes (execFence sc s) := by simp [execFence]

theorem goes_execNaddr {op : NOp} {vd : VDst} {src : VSrc} {tag : BitVec 8} : Goes (execNaddr op vd a src tag s) := by simp [execNaddr]

theorem goes_execNfence {sc : Scope} : Goes (execNfence sc s) := by simp [execNfence]

theorem goes_execNfenceTag {sc : Scope} {tag : BitVec 8} : Goes (execNfenceTag sc tag s) := by simp [execNfenceTag]

theorem goes_execFfence : Goes (execFfence s) := by simp [execFfence]

theorem goes_execFstat : Goes (execFstat d a s) := by simp [execFstat]

end

section

variable {s : State} {d a b : BitVec 4} {imm : BitVec 15} {sh wm1 : BitVec 6} {len count : BitVec 7}

theorem goes_execMovb : Goes (execMovb d imm s) := goes_beretPut

theorem goes_execAddb : Goes (execAddb d a b s) := goes_beretPut

theorem goes_execAddib : Goes (execAddib d a imm s) := goes_beretPut

theorem goes_execAndb : Goes (execAndb d a b s) := goes_beretPut

theorem goes_execOrb : Goes (execOrb d a b s) := goes_beretPut

theorem goes_execShlib : Goes (execShlib d a sh s) := goes_beretPut

theorem goes_execShrib : Goes (execShrib d a sh s) := goes_beretPut

theorem goes_execBfxb : Goes (execBfxb d a sh wm1 s) := goes_beretPut

theorem goes_execBeqb : Goes (execBeqb a b imm s) := goes_beretBranch

theorem goes_execBneb : Goes (execBneb a b imm s) := goes_beretBranch

theorem goes_execBltb : Goes (execBltb a b imm s) := goes_beretBranch

theorem goes_execLdqb : Goes (execLdqb d imm s) := goes_beretStep fun _ _ _ => goes_next _

theorem goes_execStqb : Goes (execStqb a s) := goes_beretStep fun _ _ _ => goes_next _

theorem goes_execLoopb : Goes (execLoopb len count s) := goes_beretStep fun _ _ _ => goes_next _

theorem goes_execDoneb : Goes (execDoneb a s) := goes_beretStep fun _ _ _ => goes_beretDone

theorem goes_execSrdb : Goes (execSrdb d imm s) := goes_onSignal fun _ _ _ => goes_next _

theorem goes_execSdecb : Goes (execSdecb a imm s) := goes_onSignal fun _ _ _ => goes_next _

theorem goes_execSsetb : Goes (execSsetb a imm s) := goes_onSignal fun _ _ _ => goes_next _

end

/-- The instructions and the events that can place a launch. -/
def places : Instr → Bool
  | .placeb _ | .imgb | .launch _ | .image _ | .frame _ | .placementResume _ => true
  | _ => false

theorem goes_exec {i : Instr} (h : places i = false) (s : State) : Goes (exec i s) := by
  cases i with
  | nop | trap | brkpt | add | sub | and | or | xor | andn | shl | shr | sra | mul | mulh | mulhz | div | divz | rem | remz
  | min | max | minz | maxz | slt | sltz | seq | sel | clz | popc | addi | andi | ori | xori | shli | shri | srai | slti | li
  | lih | commit | beretStepLimit | inlinePacket | tail | enable | disable | resume | swap | malformedWindowWrite
  | packetFetch | packetRefetch | barrier | signal | copy | nopPacket | barrierEvaluation | readyQueueArbitration
  | preemptionRequest | taskSave | contextSpill | budgetPeriod | queueMigration | sigwaitWake | latchGrant | watermarkRecheck
  | invalidationRequest | invalidationAck | lineRefetch | endCompletion | vectorIssue | vectorLoadCompletion | mittFill
  | streamStart | streamCompletion | streamError | matrixIssue | matrixCompletion | nmePerformed | inboundRead | inboundWrite
  | inboundAtomic | inboundSignalDecrement | fabricAcceptance | linkReplay | linkAckTimeout | collChunk | frameIngress
  | ppsEdge | tctl | correctedError | uncorrectableError | rowSpareSwitch | spareAbort | spare | glink | retrainDone
  | partitionSwap | fwcmd | dead | attest | attestReportDone | pwrcap | configWrite | clockThrottle | criticalTemperature
  | clusterGate | clusterWake | clusterWakeDone | boot | coldReset | bootFromB | managementRead | resumeCore
  | vectorStoreCompletion | scalarDataReturn | fabricLinkTrained | nodeIdAssignment | virtualChannelPause
  | firmwareReplacementDone
    => exact goes_next _
  | vadd | vsub | vmul | vmulh | vmulhz | vmadd | vmin | vmax | vminz | vmaxz | vabs | vadds | vsubs | vpopc | vclz | vfadd
  | vfsub | vfmul | vfma | vfms | vfnma | vfdiv | vfrcp | vfsqrt | vfrsq | vfexp2 | vflog2 | vfsin | vfcos | vftanh | vfmin
  | vfmax | vfabs | vfneg | vfclass | vscacc | vcvt | vnarrow | vwiden | vdeq | vand | vor | vxor | vandn | vshl | vshr
  | vsra | vshlw | vshrw | vfunl | vfunr | vrndb | vcmp | vfcmp | vsel | vpres | vred | vfred | vscan | vfscan | vthr | vmvs
  | vsplat | vld | vldW | vlds | vldff | vst | vsts | vgath | vscat | vscadd | vtld | vtst | vsell | vslideu | vslided
  | vperm | vxchg | vcomp | vexp | vfib
    => exact goes_vDispatch _
  | mma | mmaq | mmas | mmac | mscale | mld | mst | mdrain | pdrain | padj | pstat | pfix | prld | prst
    => exact goes_dispatchMat _
  | jmp | jmpr | call | ret => exact goes_takeTo _ _
  | amo | cas => exact goes_atomicAt _ _ _
  | setvl | setvt | vslip => exact goes_marked fun _ => goes_done _
  | cgo | cgoMx => exact goes_goPort _ _ _
  | cgoAuto | cgoAutoMx => exact goes_goAuto _ _
  | fput | fget => exact goes_fabCopy _ _ _ _ _ _
  | mand d a b => exact (goes_vDispatch _ : Goes (execMand d a b s))
  | mor d a b => exact (goes_vDispatch _ : Goes (execMor d a b s))
  | mxor d a b => exact (goes_vDispatch _ : Goes (execMxor d a b s))
  | mnot d a => exact (goes_vDispatch _ : Goes (execMnot d a s))
  | mcnt d a => exact (goes_vDispatch _ : Goes (execMcnt d a s))
  | mfirst d a => exact (goes_vDispatch _ : Goes (execMfirst d a s))
  | mclr d => exact (goes_vDispatch _ : Goes (execMclr d s))
  | vfence => exact (goes_vDispatch _ : Goes (execVfence s))
  | mzero f l => exact (goes_dispatchMat _ : Goes (execMzero f l s))
  | loop c tgt => exact (goes_enterLoop _ _ _ : Goes (execLoop c tgt s))
  | loopr c slip rstep tgt => exact (goes_enterLoop _ _ _ : Goes (execLoopr c slip rstep tgt s))
  | collAllreduce g sr d tag ty => exact (goes_sendColl _ _ _ _ : Goes (execCollAllreduce g sr d tag ty s))
  | collRedscat g sr d tag ty => exact (goes_sendColl _ _ _ _ : Goes (execCollRedscat g sr d tag ty s))
  | collAllgather g sr d tag ty => exact (goes_sendColl _ _ _ _ : Goes (execCollAllgather g sr d tag ty s))
  | collBcast g sr d tag ty => exact (goes_sendColl _ _ _ _ : Goes (execCollBcast g sr d tag ty s))
  | movb => exact goes_execMovb
  | addb => exact goes_execAddb
  | addib => exact goes_execAddib
  | andb => exact goes_execAndb
  | orb => exact goes_execOrb
  | shlib => exact goes_execShlib
  | shrib => exact goes_execShrib
  | bfxb => exact goes_execBfxb
  | beqb => exact goes_execBeqb
  | bneb => exact goes_execBneb
  | bltb => exact goes_execBltb
  | ldqb => exact goes_execLdqb
  | stqb => exact goes_execStqb
  | loopb => exact goes_execLoopb
  | doneb => exact goes_execDoneb
  | srdb => exact goes_execSrdb
  | sdecb => exact goes_execSdecb
  | ssetb => exact goes_execSsetb
  | nadd => exact goes_sendUpdate _ _
  | leave => exact goes_execLeave
  | eret => exact goes_execEret
  | sysrd => exact goes_execSysrd _
  | syswr => exact goes_execSyswr _
  | vrestore => exact goes_execVrestore
  | tlbinv => exact goes_execTlbinv
  | ld => exact goes_execLd _ _
  | st => exact goes_execSt _ _
  | acq a sc => exact goes_execAcq sc
  | tryacq d a sc => exact goes_execTryacq sc
  | rel a sc => exact goes_execRel sc
  | xfence => exact goes_execXfence _ _
  | waitc => exact goes_execWaitc _ _ _ _
  | spawn => exact goes_execSpawn
  | join => exact goes_execJoin
  | vfenceArr => exact goes_vDispatchArr _
  | endTask => exact goes_execEndTask
  | yield => exact goes_execYield
  | wmpub => exact goes_execWmpub _
  | sigdec a sc count => exact goes_execSigdec sc count
  | sigwait a sc => exact goes_execSigwait sc
  | settle => exact goes_execSettle _ _ _
  | settleAll => exact goes_execSettleAll
  | cbind => exact goes_execCbind _
  | cvld => exact goes_execCvld _ _ _ _ _
  | rinit => exact goes_execRinit _ _ _
  | await => exact goes_execAwait _ _
  | rels => exact goes_execRels _
  | ccancel => exact goes_execCcancel _
  | nlookup => exact goes_execNlookup _ _
  | fsig => exact goes_execFsig _ _
  | ldpb => exact goes_execLdpb
  | waitb => exact goes_execWaitb
  | copyb => exact goes_execCopyb
  | fwdb => exact goes_execFwdb
  | brCc => exact goes_execBrCc
  | icinv a => exact goes_execIcinv (a := a)
  | halt => exact goes_execHalt
  | bext => exact goes_execBext
  | bins => exact goes_execBins
  | fence sc => exact goes_execFence (sc := sc)
  | naddr => exact goes_execNaddr
  | nfence sc => exact goes_execNfence (sc := sc)
  | nfenceTag sc tag => exact goes_execNfenceTag (sc := sc) (tag := tag)
  | ffence => exact goes_execFfence
  | fstat => exact goes_execFstat
  | signalPoll => exact goes_next _
  | placeb | imgb | launch | image | frame | placementResume => cases h

/-- A Wirath instruction places nothing. -/
theorem places_of_wirath {i : Instr} {h t : Nat} (he : encode i = .wirath h t) : places i = false := by
  cases i with
  | placeb | imgb | launch | image | frame | placementResume => cases he
  | _ => rfl

/-! ### Placing (R124, R126) -/

/-- The outcome is a next state, or it names the ready queue of a region of `s`, which does not lie in HBM. -/
def Settles (s : State) (o : Out) : Prop :=
  Goes o ∨ ∃ rcb r, region s rcb = some r ∧ o = .fault (.noSuchAddress r.readyq) ∧ inHbm r.readyq (64 + 160 * 2 ^ r.rqsize) = false

theorem Settles.next (s t : State) : Settles s (.next t) := .inl (goes_next t)

/-- Regions are what memory holds: a state with the same ones stops at the same ready queues. -/
theorem Settles.of_region {s t : State} {o : Out} (h : Settles t o) (hr : ∀ rcb, region t rcb = region s rcb) : Settles s o := by
  rcases h with h | ⟨rcb, r, hg, ho⟩
  · exact .inl h
  · exact .inr ⟨rcb, r, (hr rcb).symm.trans hg, ho⟩

theorem settles_ite {s : State} {c : Prop} [Decidable c] {x y : Out} (hx : Settles s x) (hy : Settles s y) : Settles s (if c then x else y) := by
  split
  · exact hx
  · exact hy

/-- An attempt to place that names an address names the ready queue of the launch's region. -/
theorem placeLaunch_fault {q : LaunchReq} {s t : State} {pa : Nat} (h : placeLaunch q s = (.fault pa, t)) :
    ∃ r, region s q.rcb = some r ∧ pa = r.readyq ∧ inHbm r.readyq (64 + 160 * 2 ^ r.rqsize) = false := by
  unfold placeLaunch at h
  split at h
  · cases h
  next r hr =>
    split at h
    · cases h
    split at h
    · cases h
    split at h
    next hin =>
      cases h
      exact ⟨r, hr, rfl, by simpa using hin⟩
    · split at h
      · cases h
      · split at h
        · cases h
        · split at h
          · cases h
          · cases h

section

variable {s : State} {q : Nat} {r : LaunchReq} {ok : Nat → State → State}

theorem settles_placeFor : Settles s (placeFor q r ok s) := by
  unfold placeFor
  split
  · exact .next s _
  · split
    · exact .next s _
    · exact .next s _
    · exact .next s _
    next pa t h =>
      obtain ⟨g, hg, rfl, hout⟩ := placeLaunch_fault h
      exact .inr ⟨r.rcb, g, hg, rfl, hout⟩

theorem settles_placeImage : Settles s (placeImage q r ok s) := by
  unfold placeImage
  split
  · exact .next s _
  · exact settles_ite (.next s _) (settles_ite (.next s _) settles_placeFor)

theorem settles_stockFrame : Settles s (stockFrame q s) := by
  unfold stockFrame
  extract_lets x
  split
  · exact .next s _
  · exact settles_ite (.next s _) (settles_ite (.next s _) settles_placeFor)

theorem settles_placementResume : Settles s (execPlacementResume q s) := by
  unfold execPlacementResume
  extract_lets x t
  have ht : ∀ rcb, region t rcb = region s rcb := fun _ => rfl
  split
  · split
    · exact .next s _
    · split
      · exact settles_placeFor.of_region ht
      · exact settles_placeImage.of_region ht
      · exact .next s _
      · exact settles_stockFrame.of_region ht
      · exact .next s _
  · exact .next s _

theorem settles_beretPlace {f : Queue → Beret → Nat → Nat → Except Nat LaunchReq} : Settles s (beretPlace f s) := by
  unfold beretPlace
  simp only [beretStep]
  split
  · refine settles_ite (.next s _) ?_
    split
    · exact .next s _
    · exact .next s _
    · split
      · exact .next s _
      · exact settles_ite settles_placeImage settles_placeFor
  · exact .next s _

end

/-- Whatever runs, the outcome is a next state or names such a ready queue. -/
theorem settles_exec (i : Instr) (s : State) : Settles s (exec i s) := by
  cases h : places i with
  | false => exact .inl (goes_exec h s)
  | true =>
    cases i with
    | placeb res => exact (settles_beretPlace : Settles s (execPlaceb res s))
    | imgb => exact (settles_beretPlace : Settles s (execImgb s))
    | launch => exact settles_ite settles_placeFor (.next s _)
    | image => exact settles_ite settles_placeImage (.next s _)
    | frame => exact settles_ite settles_stockFrame (.next s _)
    | placementResume => exact settles_placementResume
    | _ => cases h

/-! ### One step -/

theorem encode_of_decodeSlot {l k : Nat} {i : Instr} (h : decodeSlot l k = .ok i) : ∃ head tail, encode i = .wirath head tail := by
  have ht : lineTail l k < 2 ^ (16 * bits (lineHead l k) 14 2) := by
    have he : 8 * tailLen l k = 16 * bits (lineHead l k) 14 2 := by
      unfold tailLen
      omega
    unfold lineTail
    rw [he]
    exact bits_lt _ _ _
  exact ⟨_, _, encodeOfDecode _ _ i (bits_lt l (16 * k) 16) ht h⟩

/-- What a core's turn runs, if anything, is an instruction of a line. -/
def RunsWirath : Prep → Prop
  | .done _ => True
  | .run i _ => ∃ head tail, encode i = .wirath head tail

theorem runsWirath_issueHead (l : Nat) (s : State) : RunsWirath (issueHead l s) := by
  unfold issueHead
  split
  · trivial
  next i h =>
    split
    · trivial
    · split
      · trivial
      · exact encode_of_decodeSlot h

theorem runsWirath_prepare (s : State) : RunsWirath (prepare s) := by
  unfold prepare
  split
  · split
    · exact runsWirath_issueHead _ _
    · extract_lets p
      split
      · split
        · exact runsWirath_issueHead _ _
        · trivial
      · trivial
      · trivial
      · trivial
  · trivial

theorem runsWirath_turn (s : State) : RunsWirath (turn s) := by
  unfold turn
  extract_lets q
  split
  · trivial
  split
  · exact runsWirath_prepare s
  split
  · trivial
  split
  · exact runsWirath_prepare s
  split
  · trivial
  split
  · trivial
  · exact runsWirath_prepare s

theorem goes_coreTurn (s : State) : Goes (coreTurn s) := by
  have h := runsWirath_turn s
  unfold coreTurn
  split
  · exact goes_next _
  next i t ht =>
    rw [ht] at h
    obtain ⟨head, tail, he⟩ := h
    exact goes_exec (places_of_wirath he) t

theorem settles_beretAtWord (w : Option Nat) (s : State) : Settles s (beretAtWord w s) := by
  unfold beretAtWord
  split
  · exact .inl (goes_beretStep fun x c t => goes_beretDone)
  · split
    · exact settles_exec _ s
    · exact .next s _

theorem settles_beretTurn (q : Nat) (s : State) : Settles s (beretTurn q s) := by
  unfold beretTurn
  extract_lets x fe t
  split
  · exact settles_ite (.next s _) ((settles_beretAtWord _ t).of_region fun _ => rfl)
  · exact .next s _

theorem settles_runTurn (m : Turn) (s : State) : Settles s (runTurn m s) := by
  cases m with
  | event i => exact settles_ite (settles_exec i s) (.next s _)
  | core c => exact .inl (goes_coreTurn _)
  | beret q => exact settles_beretTurn q s

/-- A move that answers a next state or names such a ready queue. -/
def MoveSettles (f : State → Out) : Prop := ∀ s, Settles s (f s)

theorem moveSettles_exec (i : Instr) : MoveSettles (exec i) := settles_exec i

theorem moveSettles_coreMoves {k : Core} : ∀ f ∈ coreMoves k, MoveSettles f := by
  unfold coreMoves
  simp only [List.forall_mem_append, List.forall_mem_cons, List.forall_mem_map]
  refine ⟨⟨⟨⟨⟨fun s => .next s _, fun s => .next s _, fun s => .next s _, List.forall_mem_nil _⟩, fun l _ s => .next s _⟩,
    fun n _ s => .next s _⟩, fun s => .next s _, fun s => .next s _, fun s => .next s _, fun s => .next s _, fun s => .next s _,
    fun s => .next s _, fun s => .next s _, fun s => .next s _, List.forall_mem_nil _⟩, ?_⟩
  split
  · split
    · exact List.forall_mem_singleton.mpr fun s => .next s _
    · exact List.forall_mem_nil _
  · exact List.forall_mem_nil _

theorem moveSettles_queueMoves {x : Queue} : ∀ f ∈ queueMoves x, MoveSettles f := by
  unfold queueMoves
  simp only [List.forall_mem_cons]
  exact ⟨fun s => .next s _, fun s => .next s _, moveSettles_exec (.launch x.q), moveSettles_exec (.image x.q), fun s => .next s _,
    fun s => .next s _, fun s => .next s _, fun s => .next s _, moveSettles_exec (.frame x.q), fun s => .next s _,
    moveSettles_exec (.placementResume x.q), List.forall_mem_nil _⟩

theorem moveSettles_ownMoves {s : State} : ∀ f ∈ ownMoves s, MoveSettles f := by
  unfold ownMoves
  simp only [List.forall_mem_append, List.forall_mem_map, List.forall_mem_flatMap, List.forall_mem_cons]
  exact ⟨⟨⟨⟨⟨⟨⟨⟨fun _ _ => moveSettles_coreMoves, fun t _ => ⟨fun s => .next s _, fun s => .next s _, fun s => .next s _,
      List.forall_mem_nil _⟩⟩, fun c _ s => .next s _⟩, fun o _ s => .next s _⟩, fun w _ s => .next s _⟩,
    fun _ _ => ⟨fun t _ s => .next s _, fun t _ s => .next s _⟩⟩, fun _ _ => moveSettles_queueMoves⟩, fun c _ s => .next s _⟩,
    fun k _ s => .next s _⟩

theorem settles_tryMoves {l : List (State → Out)} {s : State} {o : Out} (hl : ∀ f ∈ l, MoveSettles f) (h : tryMoves l s = some o) :
    Settles s o := by
  induction l with
  | nil => cases h
  | cons f r ih =>
    obtain ⟨hf, hr⟩ := List.forall_mem_cons.mp hl
    have hfs : Settles s (f s) := hf s
    unfold tryMoves at h
    split at h
    · split at h
      · exact ih hr h
      · exact Option.some.inj h ▸ .next s _
    · exact Option.some.inj h ▸ hfs

theorem settles_ownMove (s : State) : Settles s (ownMove s) := by
  unfold ownMove
  split
  · exact .inl (goes_coreTurn s)
  · split
    · exact .next s _
    next h => exact settles_tryMoves moveSettles_ownMoves h
    · split
      · exact settles_beretTurn _ s
      · split
        · exact .inl (goes_coreTurn _)
        · exact .next s _

theorem settles_move (s : State) : Settles s (move s) := by
  unfold move
  split
  · exact settles_ite (.next s _) (settles_ownMove s)
  · extract_lets t
    have ht : ∀ rcb, region t rcb = region s rcb := fun _ => rfl
    split
    · split
      · exact settles_ite ((settles_exec _ t).of_region ht) (.next s _)
      · exact .next s _
    · exact (settles_runTurn _ t).of_region ht

/-- Settles O5: every operation but a placing one answers a next state (`goes_exec`), a core runs none of those (`runsWirath_turn`), and
one that places stops only at its region's ready queue (`placeLaunch_fault`). -/
theorem neverRefused : Obligations.NeverRefused := by
  unfold Obligations.NeverRefused
  exact settles_move

end Sys2Proof.Proofs
end

section
/-! NOP, COMMIT and YIELD (R142, R160, R173), TRAP and BRKPT (R152 to R154). -/

namespace Sys2Proof.Proofs

open Sys2Proof.Machine Sys2Proof.Safety

/-! ### NOP, COMMIT and YIELD -/

theorem commit_finishes (s : State) : ∃ t, exec .commit s = .next t ∧ t.core.seq.cmt = true ∧ RegsKept [] s t ∧ FlowsOn s t ∧
    VectorKept s t ∧ TilesKept s t ∧ StatusKept s t ∧ MemKept s t ∧ DeviceKept s t ∧ OthersKept s t := by
  obtain ⟨hvec, htiles, hstatus, hdevice, -⟩ := coreFrame_advance (coreFrame_commitTask s)
  exact ⟨advance (commitTask s), rfl, rfl, fun _ _ => rfl, flowsOn_advance ⟨rfl, rfl, rfl⟩, hvec, htiles, hstatus, fun _ => rfl, hdevice,
    rfl, rfl, rfl⟩

/-- The effective priority of the running task, where its handle says one (R122). -/
def ownPrio (s : State) : Nat :=
  match handleOf s s.core.seq.eff.rcb with
  | some h => effPrio (clusterOf s.core.id) h s.core.seq.eff
  | none => s.core.seq.eff.prio

/-- A ready task that a YIELD of the running task gives way to: of another RCB, and of at least its priority (R173). -/
def YieldsTo (s : State) (x : RcbHandle × Region × ItemLoc × Nat) : Prop :=
  x.2.1.rcb ≠ s.core.seq.eff.rcb ∧ ownPrio s ≤ effPrio (clusterOf s.core.id) x.1 x.2.1

/-- The state in which a committed task has asked to be saved, past its YIELD. -/
def yielded (s : State) : State :=
  setSeq (advance s) { (advance s).core.seq with preempt := true, yielding := true, atPoint := true, stall := true }

theorem any_yieldsTo (s : State) : ((candidates s s.core).any fun p => decide (p.2.1.rcb ≠ s.core.seq.eff.rcb ∧
    ((handleOf s s.core.seq.eff.rcb).map fun h => effPrio (clusterOf s.core.id) h s.core.seq.eff).getD s.core.seq.eff.prio ≤
      effPrio (clusterOf s.core.id) p.1 p.2.1)) = true ↔ ∃ x ∈ candidates s s.core, YieldsTo s x := by
  have ho : ((handleOf s s.core.seq.eff.rcb).map fun h => effPrio (clusterOf s.core.id) h s.core.seq.eff).getD s.core.seq.eff.prio =
      ownPrio s := by
    unfold ownPrio
    cases handleOf s s.core.seq.eff.rcb <;> rfl
  rw [ho]
  simp only [List.any_eq_true, decide_eq_true_eq, YieldsTo]

theorem exec_yield_alone {s : State} (h : ∀ x ∈ candidates s s.core, ¬YieldsTo s x) : exec .yield s = done s :=
  if_neg fun ha => by
    obtain ⟨x, hx, hy⟩ := (any_yieldsTo s).mp ha
    exact h x hx hy

theorem exec_yield_committed {s : State} (h : ∃ x ∈ candidates s s.core, YieldsTo s x) (hc : s.core.seq.cmt = true) :
    exec .yield s = .next (yielded s) :=
  (if_pos ((any_yieldsTo s).mpr h)).trans (if_pos hc)

theorem yielded_saves (s : State) : (yielded s).core.seq.preempt = true ∧ (yielded s).core.seq.atPoint = true ∧ RegsKept [] s (yielded s) ∧
    FlowsOn s (yielded s) ∧ MemKept s (yielded s) ∧ CoreFrame s (yielded s) :=
  ⟨rfl, rfl, fun _ _ => rfl, advance_pc s, fun _ => rfl, coreFrame_refl s⟩

/-- Settles O14: NOP and COMMIT are sequential flow; YIELD looks for a ready task that it gives way to (`any_yieldsTo`), and asks to be
saved past itself where it finds one. -/
theorem nopCommitYield : Obligations.NopCommitYield := by
  unfold Obligations.NopCommitYield
  refine ⟨fun s => ⟨continues_of_done rfl, commit_finishes s⟩, fun s => ⟨fun h => continues_of_done (exec_yield_alone h), fun h hc => ?_⟩⟩
  exact ⟨yielded s, exec_yield_committed h hc, yielded_saves s⟩

/-! ### TRAP and BRKPT -/

/-- The code of a TRAP or BRKPT as the `tval` it gives. -/
theorem zeroExtend_code (code : BitVec 12) : code.zeroExtend 64 = BitVec.ofNat 64 code.toNat := by
  apply BitVec.eq_of_toNat_eq
  simp

theorem exec_trap (code : BitVec 12) (s : State) : exec (.trap code) s = .next (raise 0x0A (nextPc s) (BitVec.ofNat 64 code.toNat) s) := by
  rw [← zeroExtend_code]
  rfl

theorem exec_brkpt (code : BitVec 12) (s : State) :
    exec (.brkpt code) s = .next (raise 0x0B s.core.seq.pc (BitVec.ofNat 64 code.toNat) s) := by
  rw [← zeroExtend_code]
  rfl

/-- A trap that the task has no handler for ends it (R154). -/
theorem raise_ends {cause : Nat} {epc tval : Word} {s : State} (hw : trapWaits s = false)
    (h : s.core.seq.inh = true ∨ s.core.seq.eff.trap = 0) : raise cause epc tval s = endWithFault cause epc tval s := by
  rw [raise, if_neg (by simp [hw]), enterTrap, if_pos (by simpa using h)]

/-- Settles O15: both raise, TRAP at the next head and BRKPT at its own; a trap that finds INH set, or no vector, ends the task. -/
theorem softwareTraps : Obligations.SoftwareTraps := by
  unfold Obligations.SoftwareTraps
  refine fun code s => ⟨fun hc => ⟨enters_of_raise hc (exec_trap code s), enters_of_raise hc (exec_brkpt code s)⟩, fun hw h => ?_⟩
  refine ⟨_, exec_trap code s, ?_⟩
  rw [raise_ends hw h]
  exact ⟨rfl, fun _ _ => rfl, rfl⟩

end Sys2Proof.Proofs
end

section
/-! SPAWN and JOIN on a record that is reached (R138, R139, R142, R173). -/

namespace Sys2Proof.Proofs

open Sys2Proof.Machine Sys2Proof.Safety

/-! ### The join count of a record -/

/-- The join count is the fifth word of a record (R138). -/
theorem recJoin_memRead (m : List Host.Cell) (pa : Nat) : recJoin (memRead m pa 32) = sgn 32 (memRead m (pa + 16) 4) := by
  have h4 : memRead m (pa + 16) 4 < 2 ^ 32 := memRead_lt m 4 (pa + 16)
  have hi : bits (memRead m pa 32) 128 32 = bits (memRead m (pa + 16) 16) 0 32 := by
    rw [memRead_add m 16 16 pa, show 256 ^ 16 = 2 ^ 128 by norm_num]
    exact bits_of_high (w := 128) (memRead_lt m 16 pa) _ (by omega)
  have lo : bits (memRead m (pa + 16) 16) 0 32 = memRead m (pa + 16) 4 := by
    rw [memRead_add m 4 12 (pa + 16), show 256 ^ 4 = 2 ^ 32 by norm_num, bits_of_low _ (by omega), bits, pow_zero, Nat.div_one, Nat.mod_eq_of_lt h4]
  rw [recJoin, hi, lo]

/-- A positive count of 32 bits is its own number, and one less is written as one less. -/
theorem ofInt_sgn_pred {n : Nat} (hn : n < 2 ^ 32) (h : 0 < sgn 32 n) : ofInt 32 (sgn 32 n - 1) + 1 = n := by
  have hs : sgn 32 n = if 2 * n < 2 ^ 32 then (n : Int) else (n : Int) - 2 ^ 32 := by
    rw [sgn, BitVec.toInt_eq_toNat_cond, BitVec.toNat_ofNat, Nat.mod_eq_of_lt hn]
    rfl
  rw [hs] at h ⊢
  unfold ofInt
  split at h <;> split <;> omega

/-! ### Reaching a record -/

section Record

variable {a : SReg} {s s1 : State} {p : Phys}

/-- A record in HBM that is reached is operated on as its home holds it. -/
theorem withRecord_reached (h : Reached s .rw (getS s a) 32 s1 p) (hr : s.core.seq.returns = []) (hb : p.pa + 32 ≤ hbmEnd)
    (f : Word → Nat → State → Out) : withRecord a f s = f (getS s a) p.pa (crossed p.pa 32 s1) := by
  have hpoison := reached_notPoisoned h (reached_crossed h 32)
  have halign := h.1
  have hhbm : inHbm p.pa 32 = true := decide_eq_true hb
  unfold withRecord
  simp only [halign, hr, List.isEmpty_nil, Bool.not_true, ne_eq, not_true_eq_false, if_false, Bool.false_eq_true,
    reached_reachS_eq h 32 (held := fun _ _ => none) rfl, hhbm, hpoison]

end Record

/-- The work on a record that takes `s` to `v` ends with its line put into the cache, and control goes on. -/
theorem done_keeps {s v : State} (h : SyncOnly s v) (pa : Nat) :
    let t := advance (bumpNum (dcUpdate pa v))
    t.mem = v.mem ∧ t.fe = v.fe ∧ t.core.seq.cmt = v.core.seq.cmt ∧ RegsKept [] s t ∧ FlowsOn s t ∧ VectorKept s t ∧ TilesKept s t ∧
      StatusKept s t := by
  have hs := (h.trans (syncOnly_dcUpdate pa v)).trans (syncOnly_bumpNum _)
  obtain ⟨hvec, htiles, hstatus, -⟩ := coreFrame_advance hs.coreFrame
  exact ⟨by simp [bumpNum, dcUpdate], by simp [bumpNum, dcUpdate], by simp [bumpNum, dcUpdate], regsKept_of_regs [] hs.regs,
    flowsOn_advance hs.sameHead, hvec, htiles, hstatus⟩

/-! ### SPAWN -/

/-- The state in which SPAWN has marked the record at `pa` and counted it in its launch. -/
def spawned (pa : Nat) (t : State) : State :=
  let b := t.core.seq.launch
  let t1 := (commitTask t).wr (pa + 20) 4 (t.core.seq.eff.prio * 2 ^ 12 + t.core.seq.rcbx.toNat * 2 ^ 16)
  let t2 := t1.wr (b + 36) 4 (t1.rd (b + 36) 4 + 1)
  { t2 with fe := { t2.fe with spawned := ⟨pa, b⟩ :: t2.fe.spawned } }

/-- The state in which the record stands on its ready queue, if `ready` says so. -/
def queuedIf (ready : Prop) [Decidable ready] (r : Region) (pa : Nat) (u : State) : State := if ready then pushRecord r pa u else u

theorem queuedIf_pos {ready : Prop} [Decidable ready] (h : ready) (r : Region) (pa : Nat) (u : State) :
    queuedIf ready r pa u = pushRecord r pa u := if_pos h

theorem queuedIf_neg {ready : Prop} [Decidable ready] (h : ¬ready) (r : Region) (pa : Nat) (u : State) : queuedIf ready r pa u = u := if_neg h

theorem memOnly_queuedIf (ready : Prop) [Decidable ready] (r : Region) (pa : Nat) (u : State) : MemOnly u (queuedIf ready r pa u) := by
  unfold queuedIf
  split
  · exact memOnly_rqPushBack u r _ pa
  · exact MemOnly.refl u

theorem syncOnly_spawned (pa : Nat) (t : State) : SyncOnly t (spawned pa t) := rfl

section Spawned

variable {pa : Nat} {t : State} (hm : MemWf t.mem)
include hm

theorem memKeptOff_spawned : MemKeptOff [(pa + 20, 4), (t.core.seq.launch + 36, 4)] t (spawned pa t) := fun x hx => by
  have h1 := hx (pa + 20, 4) (by simp)
  have h2 := hx (t.core.seq.launch + 36, 4) (by simp)
  exact (memGet_wr_outside (s := (commitTask t).wr (pa + 20) 4 _) (memWf_wr (s := commitTask t) _ _ _ hm) _ h2).trans
    (memGet_wr_outside (s := commitTask t) hm _ h1)

variable (hd : t.core.seq.launch + 40 ≤ pa ∨ pa + 32 ≤ t.core.seq.launch)
include hd

/-- The word of the record that names its priority and its RCB (R138). -/
theorem memRead_spawned_record : memRead (spawned pa t).mem (pa + 20) 4 =
    (t.core.seq.eff.prio * 2 ^ 12 + t.core.seq.rcbx.toNat * 2 ^ 16) % 2 ^ 32 :=
  (memRead_memWrite_outside (memWf_wr (s := commitTask t) _ _ _ hm) _ (by omega)).trans (memRead_memWrite 4 _ _ _ hm)

/-- The launch counts one task more (R127). -/
theorem memRead_spawned_launch : memRead (spawned pa t).mem (t.core.seq.launch + 36) 4 =
    (memRead t.mem (t.core.seq.launch + 36) 4 + 1) % 2 ^ 32 := by
  refine (memRead_memWrite 4 _ _ _ (memWf_wr (s := commitTask t) _ _ _ hm)).trans ?_
  have h : memRead (memWrite t.mem (pa + 20) 4 (t.core.seq.eff.prio * 2 ^ 12 + t.core.seq.rcbx.toNat * 2 ^ 16)) (t.core.seq.launch + 36) 4 =
      memRead t.mem (t.core.seq.launch + 36) 4 := memRead_memWrite_outside hm _ (by omega)
  rw [← h]
  rfl

theorem recJoin_spawned : recJoin (memRead (spawned pa t).mem pa 32) = recJoin (memRead t.mem pa 32) := by
  have h := memWf_wr (s := commitTask t) (pa + 20) 4 (t.core.seq.eff.prio * 2 ^ 12 + t.core.seq.rcbx.toNat * 2 ^ 16) hm
  rw [recJoin_memRead, recJoin_memRead]
  exact congrArg (sgn 32) ((memRead_memWrite_outside h _ (by omega)).trans (memRead_memWrite_outside hm _ (by omega)))

end Spawned

/-- The state in which SPAWN has done its work on the record. -/
def spawnDone (pa : Nat) (t : State) : State :=
  queuedIf (recJoin (memRead (spawned pa t).mem pa 32) ≤ 0) t.core.seq.eff pa (spawned pa t)

theorem exec_spawn {a : SReg} {s s1 : State} {p : Phys} (h : Reached s .rw (getS s a) 32 s1 p) (hr : s.core.seq.returns = [])
    (hb : p.pa + 32 ≤ hbmEnd) (hbad : recordBad (memRead s.mem p.pa 32) = false)
    (hnew : ∀ x ∈ s.fe.spawned, x.rec_ = p.pa → x.launch ≠ s.core.seq.launch) :
    exec (.spawn a) s = done (bumpNum (dcUpdate p.pa (spawnDone p.pa (crossed p.pa 32 s1)))) := by
  have ht := reached_crossed h 32
  have hok : ¬(recordBad ((crossed p.pa 32 s1).rd p.pa 32) = true ∨ ((crossed p.pa 32 s1).fe.spawned.any fun x =>
      decide (x.rec_ = p.pa ∧ x.launch = (crossed p.pa 32 s1).core.seq.launch)) = true) := by
    rw [State.rd, ht.mem, ht.fe, ht.core, hbad]
    simp only [Bool.false_eq_true, false_or, List.any_eq_true, decide_eq_true_eq, not_exists, not_and]
    exact hnew
  show execSpawn a s = _
  rw [execSpawn, withRecord_reached h hr hb]
  exact if_neg hok

/-! ### JOIN -/

/-- The state in which JOIN has taken 1 off the join count of the record at `pa`. -/
def joined (pa : Nat) (t : State) : State := (commitTask t).wr (pa + 16) 4 (ofInt 32 (recJoin (t.rd pa 32) - 1))

theorem syncOnly_joined (pa : Nat) (t : State) : SyncOnly t (joined pa t) := rfl

theorem memRead_joined {pa : Nat} {t : State} (hm : MemWf t.mem) (hj : 0 < recJoin (memRead t.mem pa 32)) :
    memRead (joined pa t).mem (pa + 16) 4 + 1 = memRead t.mem (pa + 16) 4 := by
  rw [recJoin_memRead] at hj
  have hlt : memRead t.mem (pa + 16) 4 < 2 ^ 32 := memRead_lt t.mem 4 (pa + 16)
  have hpred := ofInt_sgn_pred hlt hj
  have hw : memRead (joined pa t).mem (pa + 16) 4 = ofInt 32 (recJoin (memRead t.mem pa 32) - 1) % 2 ^ 32 := memRead_memWrite 4 _ _ _ hm
  rw [hw, recJoin_memRead, Nat.mod_eq_of_lt (by omega), hpred]

/-- The state in which JOIN has done its work on the record. -/
def joinDone (pa : Nat) (t : State) : State :=
  queuedIf (recJoin (t.rd pa 32) = 1 ∧ ((joined pa t).fe.spawned.any fun x => decide (x.rec_ = pa)) = true) (recordRegion (joined pa t) pa) pa
    (joined pa t)

section Join

variable {a : SReg} {s s1 : State} {p : Phys} (h : Reached s .rw (getS s a) 32 s1 p) (hr : s.core.seq.returns = [])
  (hb : p.pa + 32 ≤ hbmEnd)
include h hr hb

theorem exec_join (hj : 0 < recJoin (memRead s.mem p.pa 32)) :
    exec (.join a) s = done (bumpNum (dcUpdate p.pa (joinDone p.pa (crossed p.pa 32 s1)))) := by
  have hok : ¬recJoin ((crossed p.pa 32 s1).rd p.pa 32) ≤ 0 := by
    rw [State.rd, (reached_crossed h 32).mem]
    exact not_le.mpr hj
  show execJoin a s = _
  rw [execJoin, withRecord_reached h hr hb]
  exact if_neg hok

theorem exec_join_spent (hj : recJoin (memRead s.mem p.pa 32) ≤ 0) :
    exec (.join a) s = trapHere 0x0C (getS s a) (crossed p.pa 32 s1) := by
  have hbad : recJoin ((crossed p.pa 32 s1).rd p.pa 32) ≤ 0 := by rwa [State.rd, (reached_crossed h 32).mem]
  show execJoin a s = _
  rw [execJoin, withRecord_reached h hr hb]
  exact if_pos hbad

end Join

/-- Settles O27: both reach their record (`withRecord_reached`), write the words that `spawned` and `joined` name, and hand the record to
its ready queue where its join count says so. -/
theorem spawnAndJoin : Obligations.SpawnAndJoin := by
  unfold Obligations.SpawnAndJoin
  intro a s s1 p q va b hm hr h hb
  have ht := reached_crossed h 32
  have hmt : MemWf (crossed p.pa 32 s1).mem := ht.mem.symm ▸ hm
  refine ⟨fun hbad hnew hd => ?spawn, fun hj => ?join, fun hj hc => enters_of_transit hc ht (exec_join_spent h hr hb hj)⟩
  case spawn =>
    have he := exec_spawn h hr hb hbad hnew
    generalize crossed p.pa 32 s1 = t at ht hmt he
    have hdt : t.core.seq.launch + 40 ≤ p.pa ∨ p.pa + 32 ≤ t.core.seq.launch := by rwa [ht.core]
    have hrec := memRead_spawned_record hmt hdt
    have hlaunch := memRead_spawned_launch hmt hdt
    have hkept := memKeptOff_spawned (pa := p.pa) hmt
    have hjoin := recJoin_spawned hmt hdt
    rw [ht.core] at hrec hlaunch hkept
    rw [ht.mem] at hlaunch hjoin
    have hdone : MemOnly (spawned p.pa t) (spawnDone p.pa t) := memOnly_queuedIf _ _ _ _
    obtain ⟨hmem, hfe, hcmt, hkeeps⟩ := done_keeps (ht.syncOnly.trans ((syncOnly_spawned p.pa t).trans (syncOnly_of_memOnly hdone))) p.pa
    refine ⟨_, spawned p.pa t, he, hrec, hlaunch, memKeptOff_congr ht.mem.symm rfl hkept, fun hpos => ?_, fun hneg => ?_, ?_, ?_, hkeeps⟩
    · rw [hmem, spawnDone, queuedIf_neg (by rwa [hjoin, not_le])]
    · rw [hmem, spawnDone, queuedIf_pos (by rwa [hjoin]), ht.core]
    · rw [hfe, hdone.fe, show b = t.core.seq.launch from ht.core ▸ rfl]
      exact List.mem_cons_self
    · rw [hcmt, hdone.core]
      rfl
  case join =>
    have he := exec_join h hr hb hj
    generalize crossed p.pa 32 s1 = t at ht hmt he
    have hjt : recJoin (t.rd p.pa 32) = recJoin (memRead s.mem p.pa 32) := by rw [State.rd, ht.mem]
    have hcount := memRead_joined hmt (pa := p.pa) (by rwa [ht.mem])
    rw [ht.mem] at hcount
    have hdone : MemOnly (joined p.pa t) (joinDone p.pa t) := memOnly_queuedIf _ _ _ _
    obtain ⟨hmem, -, hcmt, hkeeps⟩ := done_keeps (ht.syncOnly.trans ((syncOnly_joined p.pa t).trans (syncOnly_of_memOnly hdone))) p.pa
    refine ⟨_, joined p.pa t, he, hcount, memKeptOff_congr ht.mem.symm rfl (memKeptOff_wr (s := commitTask t) hmt _ _ _), fun hne => ?_,
      fun hone hex => ?_, ?_, hkeeps⟩
    · rw [hmem, joinDone, queuedIf_neg fun hc => hne (hjt ▸ hc.1)]
    · have hspawned : ((joined p.pa t).fe.spawned.any fun x => decide (x.rec_ = p.pa)) = true := by
        rw [show (joined p.pa t).fe = s.fe from ht.fe]
        simpa using hex
      rw [hmem, joinDone, queuedIf_pos ⟨hjt.trans hone, hspawned⟩]
    · rw [hcmt, hdone.core]
      rfl

end Sys2Proof.Proofs
end

section
/-! END and its completion (R80, R117, R150, R154, R203, R293). -/

namespace Sys2Proof.Proofs

open Sys2Proof.Machine Sys2Proof.Safety

/-! ### Frame slots (R203) -/

/-- A slot that is freed goes with its engine state; besides that only memory changes. -/
theorem memOnly_dropSlotAt (r : Region) (pa : Nat) (s : State) : MemOnly (dropKept pa s) (dropSlotAt r pa s) := by
  unfold dropSlotAt
  extract_lets t
  split
  · exact memOnly_slotSet r _ false t
  · exact MemOnly.refl t

/-- `t` differs from `s` at most in memory, in what `MemOnly` lets change with it, and in the spilled contexts and near-memory commands. -/
def SlotsOnly (s t : State) : Prop :=
  t = { s with mem := t.mem, poison := t.poison, frameSlots := t.frameSlots, slots := t.slots, near := t.near }

theorem SlotsOnly.trans {s t u : State} (h1 : SlotsOnly s t) (h2 : SlotsOnly t u) : SlotsOnly s u := by
  unfold SlotsOnly at *
  rw [h2, h1]

theorem slotsOnly_dropSlotAt (r : Region) (pa : Nat) (s : State) : SlotsOnly s (dropSlotAt r pa s) := by
  rw [memOnly_dropSlotAt r pa s]
  rfl

theorem mem_slots_dropSlotAt {r : Region} {pa : Nat} {s : State} {e : SavedEngine} (h : e ∈ (dropSlotAt r pa s).slots) :
    e ∈ s.slots ∧ e.slot ≠ pa := by
  rw [slots_of_memOnly (memOnly_dropSlotAt r pa s)] at h
  simpa [dropKept] using h

theorem slotsOnly_dropSlotsOf (r : Region) (l : List SavedEngine) : ∀ s, SlotsOnly s (l.foldl (fun u e => dropSlotAt r e.slot u) s) := by
  induction l with
  | nil => exact fun _ => rfl
  | cons d l ih => exact fun s => (slotsOnly_dropSlotAt r d.slot s).trans (ih _)

theorem mem_slots_dropSlotsOf (r : Region) (l : List SavedEngine) {e : SavedEngine} :
    ∀ s, e ∈ (l.foldl (fun u d => dropSlotAt r d.slot u) s).slots → e ∈ s.slots ∧ ∀ d ∈ l, e.slot ≠ d.slot := by
  induction l with
  | nil => exact fun s h => ⟨h, by simp⟩
  | cons d l ih =>
    intro s h
    obtain ⟨hd, hl⟩ := ih _ h
    obtain ⟨hs, hne⟩ := mem_slots_dropSlotAt hd
    exact ⟨hs, List.forall_mem_cons.mpr ⟨hne, hl⟩⟩

theorem slotsOnly_dropSlots (tid : BitVec 31) (r : Region) (s : State) : SlotsOnly s (dropSlots tid r s) :=
  SlotsOnly.trans (t := { s with near := s.near.filter fun c => !(decide (c.tid = tid) && frameHolds s c) }) rfl (slotsOnly_dropSlotsOf r _ _)

/-- No frame slot is left to the task. -/
theorem tid_ne_of_mem_dropSlots {tid : BitVec 31} {r : Region} {s : State} : ∀ e ∈ (dropSlots tid r s).slots, e.tid ≠ tid := by
  intro e he ht
  obtain ⟨hmem, hne⟩ := mem_slots_dropSlotsOf r _ _ he
  exact hne e (List.mem_filter.mpr ⟨hmem, decide_eq_true ht⟩) rfl

/-- A task without a frame slot frees none. -/
theorem dropSlots_of_none {tid : BitVec 31} {s : State} (h : ¬∃ e ∈ s.slots, e.tid = tid) (r : Region) :
    (dropSlots tid r s).mem = s.mem ∧ (dropSlots tid r s).slots = s.slots := by
  have hnil : (s.slots.filter fun e => decide (e.tid = tid)) = [] := by
    rw [List.filter_eq_nil_iff]
    exact fun e he ht => h ⟨e, he, of_decide_eq_true ht⟩
  unfold dropSlots
  simp only [hnil, List.foldl_nil, and_self]

/-! ### END -/

/-- The state in which END has begun the drains of the task. -/
def ending (fault : Bool) (s : State) : State :=
  let u := dropSlots s.core.seq.tid s.core.seq.eff s
  setSeq u { u.core.seq with mode := .ending fault, ended := true, stall := true, atPoint := false }

theorem exec_endTask_inhibited {s : State} (he : takeError s = none) (hi : s.core.seq.inh = true) :
    exec .endTask s = .next (ending true s) := by
  show execEndTask s = _
  rw [execEndTask, withCopyError_of_none he, if_pos hi]
  rfl

theorem exec_endTask_settled {s : State} (he : takeError s = none) (hi : s.core.seq.inh = false) (hh : s.core.vec.holes = [])
    (hw : settleWaits s none = false) (ho : settleWaitsOutside s none = false) (hc : cntCp s s.core = 0) :
    exec .endTask s = .next (ending false s) := by
  show execEndTask s = _
  rw [execEndTask, withCopyError_of_none he, if_neg (by simp [hi]), settleOver_goes hh hw ho, if_pos hc]
  rfl

theorem ending_core (fault : Bool) (s : State) : (ending fault s).core =
    { s.core with seq := { s.core.seq with mode := .ending fault, ended := true, stall := true, atPoint := false } } := by
  unfold ending
  simp only [setSeq]
  rw [slotsOnly_dropSlots]

theorem ending_keeps (fault : Bool) (s : State) :
    let t := ending fault s
    t.core.seq.mode = .ending fault ∧ t.core.seq.pc = s.core.seq.pc ∧ RegsKept [] s t ∧ VectorKept s t ∧ TilesKept s t ∧
      (∀ e ∈ t.slots, e.tid ≠ s.core.seq.tid) ∧ ((¬∃ e ∈ s.slots, e.tid = s.core.seq.tid) → MemKept s t ∧ OthersKept s t) := by
  have h := slotsOnly_dropSlots s.core.seq.tid s.core.seq.eff s
  refine ⟨rfl, by rw [ending_core], regsKept_of_regs [] (by rw [ending_core]), ?_, by rw [TilesKept, ending_core], tid_ne_of_mem_dropSlots,
    fun hn => ?_⟩
  · simp [VectorKept, ending_core]
  · obtain ⟨hmem, hslots⟩ := dropSlots_of_none hn s.core.seq.eff
    have hfe : (dropSlots s.core.seq.tid s.core.seq.eff s).fe = s.fe := by rw [h]
    have hothers : (dropSlots s.core.seq.tid s.core.seq.eff s).others = s.others := by rw [h]
    exact ⟨memKept_of_mem hmem, hfe, hothers, hslots⟩

/-! ### What the completion leaves as it was -/

/-- `t` has the current core and the dispatchers of `s`. -/
def EngineKept (s t : State) : Prop := t.core = s.core ∧ t.copy = s.copy

theorem EngineKept.refl (s : State) : EngineKept s s := ⟨rfl, rfl⟩

theorem EngineKept.trans {s t u : State} (h1 : EngineKept s t) (h2 : EngineKept t u) : EngineKept s u :=
  ⟨h2.1.trans h1.1, h2.2.trans h1.2⟩

theorem engineKept_of_memOnly {s t : State} (h : MemOnly s t) : EngineKept s t := ⟨h.core, h.copy⟩

theorem AgentsKept.engineKept {s t : State} (h : AgentsKept s t) : EngineKept s t := ⟨h.1.1, h.2.1⟩

theorem engineKept_foldl {β : Type} {f : State → β → State} (h : ∀ u x, EngineKept u (f u x)) (l : List β) :
    ∀ s, EngineKept s (l.foldl f s) := by
  induction l with
  | nil => exact EngineKept.refl
  | cons x l ih => exact fun s => (h s x).trans (ih (f s x))

theorem engineKept_ite {c : Prop} [Decidable c] {s t u : State} (ht : EngineKept s t) (hu : EngineKept s u) :
    EngineKept s (if c then t else u) := by
  split
  · exact ht
  · exact hu

/-! ### Latches (R80, R150) -/

theorem engineKept_postAtomic (pa : Nat) (op : AtomicOp) (s : State) : EngineKept s (postAtomic pa op s) := by
  have hsent : EngineKept s (remoteAtomic pa 8 op s).2 := by
    unfold remoteAtomic
    rw [answer_eq]
    exact ⟨rfl, rfl⟩
  unfold postAtomic
  exact engineKept_ite hsent (engineKept_ite ⟨rfl, rfl⟩ (.refl s))

theorem engineKept_freeLatch (pa : Nat) (bump : Bool) (s : State) : EngineKept s (freeLatch pa bump s) := by
  unfold freeLatch
  exact engineKept_ite (engineKept_postAtomic _ _ s) ⟨rfl, rfl⟩

theorem engineKept_dropWait (w : LatchWait) (bump : Bool) (s : State) : EngineKept s (dropWait w bump s) := by
  unfold dropWait
  exact engineKept_ite (engineKept_freeLatch _ _ s) (engineKept_ite (engineKept_postAtomic _ _ s) (.refl s))

theorem engineKept_dropWaits (tid : BitVec 31) (bump : Bool) (s : State) : EngineKept s (dropWaits tid bump s) :=
  EngineKept.trans (engineKept_foldl (fun u w => engineKept_dropWait w bump u) (s.fe.waits.filter fun w => decide (w.tid = tid)) s) ⟨rfl, rfl⟩

theorem freeLatches_engine (bump : Bool) (s : State) :
    (freeLatches bump s).core = { s.core with seq := { s.core.seq with latches := [] } } ∧ (freeLatches bump s).copy = s.copy := by
  obtain ⟨hcore, hcopy⟩ := engineKept_foldl (fun u h => engineKept_freeLatch (HeldLatch.pa h) bump u) s.core.seq.latches s
  refine ⟨?_, hcopy⟩
  unfold freeLatches
  simp only [setSeq, hcore]

/-! ### The task's launch (R117, R149) -/

theorem memOnly_spillImage (s : State) : MemOnly s (spillImage s) := by
  unfold spillImage
  extract_lets q b pa mv mo v reg fs kept masks t
  have ht : MemOnly s t := (memOnly_writeFields pa fs s).trans ((memOnly_carryRegs pa kept [] _).trans (memOnly_carryPar pa q.eff masks _))
  split
  · exact MemOnly.refl s
  · exact ht.trans (memOnly_wr _ _ _ _)

theorem memOnly_setBlkStatus (b st : Nat) (s : State) : MemOnly s (setBlkStatus b st s) := by
  unfold setBlkStatus
  split <;> rfl

theorem engineKept_releaseHeld (h : QHold) (s : State) : EngineKept s (releaseHeld h s) :=
  engineKept_foldl (fun u _ => ⟨setQ_core _ u, setQ_copy _ u⟩) _ s

theorem engineKept_readPoison (r : Region) (pa : Nat) (s : State) : EngineKept s (readPoison r pa s) := (agentsKept_logRecord _ s).engineKept

theorem engineKept_reportLaunch (r : Region) (sig flags st nf : Nat) (s : State) : EngineKept s (reportLaunch r sig flags st nf s) := by
  unfold reportLaunch
  extract_lets bad u st' t
  have hu : EngineKept s u := engineKept_ite (engineKept_readPoison r sig s) (.refl s)
  have ht : EngineKept s t := hu.trans (engineKept_of_memOnly (memOnly_putCompletion _ _ _ _ u))
  exact engineKept_ite (.refl s) (engineKept_ite (ht.trans (engineKept_of_memOnly (memOnly_sigAbort _ _ t)))
    (ht.trans (engineKept_of_memOnly (memOnly_sigChange _ _ _ t))))

theorem engineKept_completeLaunch (b : Nat) (r : Region) (s : State) : EngineKept s (completeLaunch b r s) := by
  unfold completeLaunch
  extract_lets s1 s2 s3
  have h1 : EngineKept s s1 := engineKept_reportLaunch _ _ _ _ _ s
  have h2 : EngineKept s s2 := h1.trans (engineKept_of_memOnly ((memOnly_wr s1 _ _ _).trans (memOnly_wr _ _ _ _)))
  have h3 : EngineKept s s3 := h2.trans (engineKept_releaseHeld _ s2)
  clear_value s3
  exact h3.trans ⟨rfl, rfl⟩

theorem engineKept_finishTask (b : Nat) (r : Region) (flags : Nat) (fault : Bool) (s : State) :
    EngineKept s (finishTask b r flags fault s) := by
  unfold finishTask
  extract_lets u s1 s2 n s3
  have hu : EngineKept s u :=
    engineKept_ite ((engineKept_readPoison r b s).trans (engineKept_of_memOnly (memOnly_setBlkStatus _ _ _))) (.refl s)
  have h1 : EngineKept s s1 := hu.trans ⟨rfl, rfl⟩
  have h2 : EngineKept s s2 := engineKept_ite (h1.trans (engineKept_of_memOnly
    ((memOnly_wr s1 _ _ _).trans (memOnly_setBlkStatus _ _ _)))) h1
  have h3 : EngineKept s s3 := h2.trans ⟨rfl, rfl⟩
  exact engineKept_ite (.refl s) (engineKept_ite (h3.trans (engineKept_completeLaunch b r s3)) h3)

theorem engineKept_endLosses (s : State) : EngineKept s (endLosses s) := by
  unfold endLosses
  extract_lets q lost s1 fab s2
  have h1 : EngineKept s s1 := engineKept_ite ((agentsKept_logRecord _ s).engineKept.trans (engineKept_of_memOnly (memOnly_setBlkStatus _ _ _)))
    (.refl s)
  have h2 : EngineKept s s2 := h1.trans ⟨rfl, rfl⟩
  exact h2.trans (engineKept_foldl (fun u p => engineKept_of_memOnly (memOnly_setBlkStatus _ _ u)) _ s2)

theorem engineKept_dropLosses (b : Nat) (s : State) : EngineKept s (dropLosses b s) := by
  unfold dropLosses
  exact engineKept_ite (.refl s) ⟨rfl, rfl⟩

/-! ### The core falls idle (R293) -/

theorem noteSwap_copy (s : State) : (noteSwap s).copy = s.copy := by
  unfold noteSwap
  split <;> rfl

/-- A task that leaves its core leaves its registers there, and no task behind. -/
theorem leaveCore_keeps (s : State) : (leaveCore s).core.seq.mode = .idle ∧ (leaveCore s).core.seq.latches = s.core.seq.latches ∧
    (leaveCore s).core.seq.regs = s.core.seq.regs ∧ VectorKept s (leaveCore s) ∧ TilesKept s (leaveCore s) ∧ (leaveCore s).copy = s.copy := by
  unfold leaveCore goIdle VectorKept TilesKept
  simp only [noteSwap_core, noteSwap_copy]
  exact ⟨rfl, rfl, rfl, by simp, rfl, rfl⟩

/-- Before the task leaves its core its latches have been freed, and the dispatchers have forgotten it (R150). -/
theorem endDone_leaves (fault : Bool) (s : State) : ∃ v, endDone fault s = dropHandles (leaveCore v) ∧
    v.core = { s.core with seq := { s.core.seq with latches := [] } } ∧ v.copy = (dropPorts s.core.seq.tid s).copy := by
  unfold endDone
  extract_lets q s1 s2 s3
  have h1 : s1.core = { s.core with seq := { s.core.seq with latches := [] } } ∧ s1.copy = s.copy := by
    obtain ⟨hcore, hcopy⟩ := engineKept_dropWaits q.tid true (freeLatches true s)
    obtain ⟨hfree, hfreeCopy⟩ := freeLatches_engine true s
    exact ⟨hcore.trans hfree, hcopy.trans hfreeCopy⟩
  have h2 : EngineKept s1 s2 :=
    (engineKept_ite (engineKept_of_memOnly (memOnly_spillImage s1)) (.refl s1)).trans (engineKept_endLosses _)
  have h3 : EngineKept (dropPorts q.tid s2) s3 := by
    rw [show s3 = dropSlots q.tid q.eff (dropPorts q.tid s2) from rfl, slotsOnly_dropSlots]
    exact ⟨rfl, rfl⟩
  obtain ⟨hcore, hcopy⟩ :=
    (h3.trans (engineKept_finishTask q.launch q.eff s3.core.vec.vstat.toNat fault s3)).trans (engineKept_dropLosses q.launch _)
  have hports : (dropPorts q.tid s2).copy = (dropPorts q.tid s).copy := by
    unfold dropPorts
    simp only [setCopy_copy, h2.2.trans h1.2]
  exact ⟨_, rfl, hcore.trans (h2.1.trans h1.1), hcopy.trans hports⟩

/-- What END_COMPLETION leaves behind (R150). -/
theorem endDone_keeps (fault : Bool) (s : State) :
    let u := endDone fault s
    u.core.seq.mode = .idle ∧ u.core.seq.latches = [] ∧ VectorKept s u ∧ TilesKept s u ∧ RegsKept [] s u ∧
      (∀ x ∈ u.copy.rings, x.tid ≠ s.core.seq.tid) ∧ ∀ x ∈ u.copy.binds, x.tid ≠ s.core.seq.tid := by
  obtain ⟨v, hv, hcore, hcopy⟩ := endDone_leaves fault s
  obtain ⟨hmode, hlatches, hregs, hvec, htiles, hports⟩ := leaveCore_keeps v
  have hkept : EngineKept (leaveCore v) (endDone fault s) := hv ▸ ⟨rfl, rfl⟩
  simp only [hkept.1, hkept.2, VectorKept, TilesKept, hmode, hlatches, hports, hcore, hcopy] at hvec htiles ⊢
  refine ⟨trivial, trivial, hvec, htiles, regsKept_of_regs [] (by rw [hkept.1, hregs, hcore]), ?_, ?_⟩ <;> simp [dropPorts]

/-! ### Fault holes (R154) -/

/-- `q` differs from `p` at most in the registers that are awaited. -/
def BusyOnly (p q : Seq) : Prop := q = { p with busy := q.busy }

theorem BusyOnly.trans {p q r : Seq} (h1 : BusyOnly p q) (h2 : BusyOnly q r) : BusyOnly p r := by
  unfold BusyOnly at *
  rw [h2, h1]

theorem busyOnly_foldl {β : Type} {f : Seq → β → Seq} (h : ∀ q x, BusyOnly q (f q x)) (l : List β) : ∀ q, BusyOnly q (l.foldl f q) := by
  induction l with
  | nil => exact fun _ => rfl
  | cons x l ih => exact fun q => (h q x).trans (ih (f q x))

theorem busyOnly_clearBusy (q : Seq) (r : SReg) : BusyOnly q (clearBusy r q) := rfl

/-- Fault holes that are discarded take registers off the scoreboard; the task and its registers stay. -/
theorem discardFaults_keeps (s : State) : BusyOnly s.core.seq (discardFaults s).core.seq ∧ TilesKept s (discardFaults s) :=
  ⟨busyOnly_foldl (fun q _ => busyOnly_foldl busyOnly_clearBusy _ q) _ _, rfl⟩

/-- The state in which the drains of a task that ends are looked at: with FAULT, what depends on fault holes has been discarded. -/
def drainView (fault : Bool) (s : State) : State := if fault then discardFaults s else s

theorem drainView_keeps (fault : Bool) (s : State) : BusyOnly s.core.seq (drainView fault s).core.seq ∧ TilesKept s (drainView fault s) := by
  cases fault with
  | true => exact discardFaults_keeps s
  | false => exact ⟨rfl, rfl⟩

theorem exec_endCompletion {c : Nat} {fault : Bool} {s : State} (hm : (focus s c).core.seq.mode = .ending fault)
    (hf : (drainView fault (focus s c)).core.vec.faults = []) (hd : drained (drainView fault (focus s c)) = true) :
    exec (.endCompletion c) s = .next (focus (endDone fault (drainView fault (focus s c))) s.core.id) := by
  have hmode : (drainView fault (focus s c)).core.seq.mode = .ending fault := by rw [(drainView_keeps fault (focus s c)).1, hm]
  show execEndCompletion c s = _
  unfold execEndCompletion onCore
  cases fault <;>
    simp only [drainView, Bool.false_eq_true, if_false, if_true] at hf hd hmode ⊢ <;>
    simp only [hm, hmode, hf, hd, List.isEmpty_nil, Bool.not_true, Bool.false_and, Bool.false_eq_true, if_false, if_true]

/-- Settles O29: END frees the task's frame slots and begins the drains (`ending_keeps`); its completion takes the task off the core and
the dispatchers, and leaves the registers to the core (`endDone_keeps`). -/
theorem endOfTask : Obligations.EndOfTask := by
  unfold Obligations.EndOfTask
  refine ⟨fun s he => ⟨fun hi => ?inhibited, fun hi hh hw ho hc => ?settled⟩, fun c fault s => ?completion⟩
  case inhibited =>
    obtain ⟨hmode, -, hregs, -, -, hslots, hkept⟩ := ending_keeps true s
    exact ⟨_, exec_endTask_inhibited he hi, hmode, hregs, hslots, fun hn => (hkept hn).1⟩
  case settled => exact ⟨_, exec_endTask_settled he hi hh hw ho hc, ending_keeps false s⟩
  case completion =>
    intro v hm hf hd
    obtain ⟨hbusy, htiles⟩ := drainView_keeps fault (focus s c)
    have htid : v.core.seq.tid = (focus s c).core.seq.tid := by rw [show v.core.seq = _ from hbusy]
    have hregs : v.core.seq.regs = (focus s c).core.seq.regs := by rw [show v.core.seq = _ from hbusy]
    obtain ⟨hidle, hlatches, hvec, hu, hkept, hrings, hbinds⟩ := endDone_keeps fault v
    rw [htid] at hrings hbinds
    exact ⟨_, exec_endCompletion hm hf hd, hidle, hlatches, hvec, hu.trans htiles,
      fun r hr => (hkept r hr).trans (regsKept_of_regs [] hregs r hr), hrings, hbinds⟩

end Sys2Proof.Proofs
end

section
/-! Reads through the data cache of lines that agree with memory (R73, R103): what is read, and that nothing of the task changes. -/

namespace Sys2Proof.Proofs

open Sys2Proof.Machine Sys2Proof.Safety

/-! ### Parts of a wider read -/

/-- Bytes of a wider read are what a read of them alone gives. -/
theorem bits_memRead (m : List Host.Cell) (b : Nat) {j n k : Nat} (h : j + n ≤ k) :
    bits (memRead m b k) (8 * j) (8 * n) = memRead m (b + j) n := by
  obtain ⟨d, rfl⟩ := Nat.exists_eq_add_of_le h
  have hn : memRead m (b + j) n < 2 ^ (8 * n) := by
    rw [Nat.pow_mul]
    exact memRead_lt m n (b + j)
  have hj : memRead m b j < 2 ^ (8 * j) := by
    rw [Nat.pow_mul]
    exact memRead_lt m j b
  have p (i : Nat) : 256 ^ i = 2 ^ (8 * i) := by rw [Nat.pow_mul]
  rw [add_assoc, memRead_add, memRead_add m n d, p, p, bits_of_high hj _ (Nat.le_refl _), Nat.sub_self,
    bits_of_low _ (Nat.le_of_eq (Nat.zero_add _)), bits, pow_zero, Nat.div_one, Nat.mod_eq_of_lt hn]

/-! ### Alignment of what a translation gives -/

/-- Below the window a page that no leaf maps stops with the cause of the walk (R103). -/
theorem translateFor_of_no_leaf {site : TlbSite} {core : Option Nat} {eff : Region} {path : Path} {a : Acc} {reach : Reach} {va : Word}
    {s s1 : State} {c : Nat} (hw : va.toNat < windowBase) (hl : findLeaf site eff.root eff.asn (va.toNat / 4096) s = (.error c, s1)) :
    translateFor site core eff path a reach va s = (.error c, s1) := by
  have h57 : ¬2 ^ 57 ≤ va.toNat := by
    unfold windowBase at hw
    omega
  have hout : ¬inWindow va.toNat = true := by
    rw [inWindow_iff]
    omega
  simp only [translateFor]
  rw [if_neg h57, if_neg hout, hl]

/-- A translation keeps the place in the line: pages, the window and shares of it begin at lines (R94, R103). -/
theorem translateFor_mod_line {site : TlbSite} {k : Nat} {eff : Region} {path : Path} {a : Acc} {reach : Reach} {va : Word} {s s1 : State}
    {ph : Phys} (h : translateFor site (some k) eff path a reach va s = (.ok ph, s1)) : ph.pa % 64 = va.toNat % 64 := by
  by_cases h57 : 2 ^ 57 ≤ va.toNat
  · rw [translateFor_out_of_range h57] at h
    cases h
  by_cases hlo : windowBase ≤ va.toNat
  · by_cases hs : va.toNat - windowBase < eff.spsize * 1024
    · rw [translateFor_window (by omega) (inWindow_iff.mpr ⟨hlo, by omega⟩) hs] at h
      obtain ⟨hph, -⟩ := Prod.mk.inj h
      rw [← Except.ok.inj hph]
      simp only [padAddr, padBase, windowBase] at hlo ⊢
      omega
    · rw [translateFor_beyond_share (by omega) (by omega)] at h
      cases h
  · rcases hl : findLeaf site eff.root eff.asn (va.toNat / 4096) s with ⟨_ | l, s2⟩
    · rw [translateFor_of_no_leaf (by omega) hl] at h
      cases h
    · rw [translateFor_of_leaf (by omega) hl] at h
      have hpage := leafAddr_mod_page l va.toNat
      cases hc : leafChecks s2 l path a reach (leafAddr l va.toNat) <;> rw [hc] at h <;> cases h
      show leafAddr l va.toNat % 64 = _
      omega

theorem transS_mod_line {a : Acc} {va : Word} {s s1 : State} {ph : Phys} (h : transS a va s = (.ok ph, s1)) :
    ph.pa % 64 = va.toNat % 64 := by
  unfold transS Machine.translate at h
  exact translateFor_mod_line h

/-! ### Reads -/

/-- `t` differs from `s` at most in what the way to a home uses up and in the cached lines. -/
def ReadOnly (s t : State) : Prop :=
  t = { s with tlb := t.tlb, choices := t.choices, budgets := t.budgets
               core := { s.core with seq := { s.core.seq with dcache := t.core.seq.dcache } } }

theorem ReadOnly.refl (s : State) : ReadOnly s s := rfl

section

variable {s u : State} (h : ReadOnly s u)
include h

theorem ReadOnly.mem : u.mem = s.mem := by rw [h]
theorem ReadOnly.copy : u.copy = s.copy := by rw [h]
theorem ReadOnly.id : u.core.id = s.core.id := by rw [h]
theorem ReadOnly.vec : u.core.vec = s.core.vec := by rw [h]
theorem ReadOnly.mat : u.core.mat = s.core.mat := by rw [h]
theorem ReadOnly.seq : u.core.seq = { s.core.seq with dcache := u.core.seq.dcache } := by rw [h]
theorem ReadOnly.tid : u.core.seq.tid = s.core.seq.tid := by rw [h.seq]
theorem ReadOnly.eff : u.core.seq.eff = s.core.seq.eff := by rw [h.seq]
theorem ReadOnly.cmt : u.core.seq.cmt = s.core.seq.cmt := by rw [h.seq]
theorem ReadOnly.regs : u.core.seq.regs = s.core.seq.regs := by rw [h.seq]

theorem ReadOnly.sameHead : SameHead s u := by
  rw [h]
  exact ⟨rfl, rfl, rfl⟩

end

theorem TransitOnly.readOnly_trans {s t u : State} (h1 : TransitOnly s t) (h2 : ReadOnly t u) : ReadOnly s u := by
  rw [h1] at h2
  exact h2

theorem readOnly_fillRead (p : Phys) (n : Nat) (s : State) : ReadOnly s (fillRead p n s).2 := by
  unfold fillRead
  split <;> rfl

/-- Every cached copy of the line of `pa` is what memory holds: the cache gives the bytes of memory, or leaves the read to the home. -/
theorem cacheRead_fresh {ph : Phys} {n : Nat} {s : State} (hf : FreshLine s ph.pa) (hp : isPoisoned s ph.pa n = false)
    (hn : ph.pa % 64 + n ≤ 64) : cacheRead ph n s = (none, s) ∨ cacheRead ph n s = (some (memRead s.mem ph.pa n), s) := by
  unfold cacheRead
  extract_lets b
  split
  next => exact .inl rfl
  next e he =>
    have hfind : (s.core.seq.dcache.find? fun e => decide (e.1 = b)) = some e := by
      split at he
      · cases he
      · exact he
    have hb : e.1 = b := by simpa using List.find?_some hfind
    have hline : e.2 = s.rd b 64 := by
      rw [hf e (List.mem_of_find?_eq_some hfind) hb, hb]
      rfl
    have hbytes : bits (s.rd b 64) (8 * (ph.pa - b)) (8 * n) = memRead s.mem ph.pa n := by
      refine (bits_memRead s.mem b (by omega)).trans ?_
      rw [show b + (ph.pa - b) = ph.pa by omega]
    extract_lets x
    rw [if_pos ⟨hline, by simp [hp]⟩]
    exact .inr (by rw [← hbytes, ← hline])

theorem readCached_fresh {ph : Phys} {n : Nat} {s : State} (hf : FreshLine s ph.pa) (hp : isPoisoned s ph.pa n = false)
    (hn : ph.pa % 64 + n ≤ 64) : (readCached ph n s).1 = memRead s.mem ph.pa n ∧ ReadOnly s (readCached ph n s).2 := by
  have hfill : (fillRead ph n s).1 = memRead s.mem ph.pa n := by
    unfold fillRead
    split <;> rfl
  unfold readCached
  rcases cacheRead_fresh hf hp hn with h | h <;> rw [h]
  · exact ⟨hfill, readOnly_fillRead ph n s⟩
  · exact ⟨rfl, .refl s⟩

/-- What an instruction has read, and the state after it, for a read that reaches plain bytes of a line that agrees with memory. -/
theorem withRead_reached {va : Word} {n : Nat} {s s1 : State} {ph : Phys} (h : Reached s .r va n s1 ph) (hf : FreshLine s ph.pa)
    (hn : va.toNat % 64 + n ≤ 64) : ∃ u, u = (readCached ph n (crossed ph.pa n s1)).2 ∧ ReadOnly s u ∧
      ∀ f : Nat → State → Out, withRead va n f s = f (memRead s.mem ph.pa n) u := by
  have ht := reached_crossed h n
  have hp := reached_notPoisoned h ht
  have hr := reached_isRemote h
  have hfresh : FreshLine (crossed ph.pa n s1) ph.pa := by
    unfold FreshLine
    rw [ht.core, ht.mem]
    exact hf
  have hmod : ph.pa % 64 = va.toNat % 64 := by
    obtain ⟨-, -, htrans, -⟩ := h
    exact transS_mod_line htrans
  obtain ⟨hval, honly⟩ := readCached_fresh hfresh hp (by omega)
  refine ⟨_, rfl, ht.readOnly_trans honly, fun f => ?_⟩
  unfold withRead
  rw [reached_reachS_eq h n (reached_farHeld h 0 s1)]
  simp only [hr, hp, Bool.false_eq_true, if_false]
  rw [hval, ht.mem]

end Sys2Proof.Proofs
end

section
/-! A stream joins the queued streams (R142, R256 to R258). -/

namespace Sys2Proof.Proofs

open Sys2Proof.Machine Sys2Proof.Safety

/-! ### The port that `.auto` takes (R256) -/

/-- Going through ports in order, and changing only for a less loaded one, ends at the lowest of the least loaded. -/
theorem foldl_least (load : Nat → Nat) : ∀ (l : List Nat) (b : Nat), (b :: l).Pairwise (· ≤ ·) →
    let r := l.foldl (fun best p => if load p < load best then p else best) b
    r ∈ b :: l ∧ ∀ q ∈ b :: l, load r < load q ∨ (load r = load q ∧ r ≤ q)
  | [], b, _ => by simp
  | p :: l, b, h => by
    obtain ⟨hb, hp, hl⟩ := by simpa only [List.pairwise_cons] using h
    have hbp : b ≤ p := hb p (by simp)
    by_cases hlt : load p < load b
    · obtain ⟨hmem, hmin⟩ := foldl_least load l p (List.pairwise_cons.mpr ⟨hp, hl⟩)
      simp only [List.foldl_cons, if_pos hlt]
      refine ⟨List.mem_cons_of_mem _ hmem, List.forall_mem_cons.mpr ⟨.inl ?_, hmin⟩⟩
      have := hmin p (by simp)
      omega
    · obtain ⟨hmem, hmin⟩ := foldl_least load l b (List.pairwise_cons.mpr ⟨fun q hq => hb q (List.mem_cons_of_mem _ hq), hl⟩)
      simp only [List.foldl_cons, if_neg hlt]
      have hmine := hmin b (by simp)
      refine ⟨?_, List.forall_mem_cons.mpr ⟨hmine, List.forall_mem_cons.mpr ⟨?_, fun q hq => hmin q (List.mem_cons_of_mem _ hq)⟩⟩⟩
      · rcases List.mem_cons.mp hmem with hr | hr
        · exact List.mem_cons.mpr (.inl hr)
        · exact List.mem_cons_of_mem _ (List.mem_cons_of_mem _ hr)
      · omega

/-- A class has ports, and they are listed in order (R248). -/
theorem portsFor_sorted (a b : EndKind) : ∃ p l, portsFor a b = p :: l ∧ (p :: l).Pairwise (· ≤ ·) := by
  unfold portsFor
  split
  · exact ⟨_, _, rfl, by decide⟩
  · split
    · exact ⟨_, _, rfl, by decide⟩
    · extract_lets pad
      split <;> exact ⟨_, _, rfl, by decide⟩

theorem autoPort_eq (t : Stream) (src dst : Word) (s : State) : autoPort t src dst s =
    (portsFor (autoKind t src s) (autoKind t dst s)).foldl (fun best p => if (s.copy.streams.filter fun x =>
      decide (x.core = t.core ∧ x.port = p) && decide ((x.launch = 0) = (t.launch = 0)) &&
        (x.running || decide (x.launch ≠ 0) || decide (x.tid = t.tid))).length < (s.copy.streams.filter fun x =>
      decide (x.core = t.core ∧ x.port = best) && decide ((x.launch = 0) = (t.launch = 0)) &&
        (x.running || decide (x.launch ≠ 0) || decide (x.tid = t.tid))).length then p else best)
      ((portsFor (autoKind t src s) (autoKind t dst s)).headD 0) := rfl

/-- The streams that load a port for a stream of the running task are those of R256. -/
theorem load_eq_portLoad {t : Stream} {s : State} (hc : t.core = s.core.id) (ht : t.tid = s.core.seq.tid) (hl : t.launch = 0) (p : Nat) :
    (s.copy.streams.filter fun x => decide (x.core = t.core ∧ x.port = p) && decide ((x.launch = 0) = (t.launch = 0)) &&
      (x.running || decide (x.launch ≠ 0) || decide (x.tid = t.tid))).length = portLoad s p := by
  unfold portLoad
  refine congrArg (fun f => (s.copy.streams.filter f).length) (funext fun x => ?_)
  rw [hc, ht, hl]
  by_cases h0 : x.launch = 0 <;> simp [h0]

theorem autoPort_least {t : Stream} {s : State} (hc : t.core = s.core.id) (ht : t.tid = s.core.seq.tid) (hl : t.launch = 0)
    (src dst : Word) : AutoPort s (autoKind t src s) (autoKind t dst s) (autoPort t src dst s) := by
  obtain ⟨p, l, hports, hsorted⟩ := portsFor_sorted (autoKind t src s) (autoKind t dst s)
  rw [autoPort_eq]
  simp only [load_eq_portLoad hc ht hl]
  unfold AutoPort
  rw [hports, List.headD_cons, List.foldl_cons, if_neg (Nat.lt_irrefl _)]
  exact foldl_least (portLoad s) l p hsorted

/-- What an address is for the choice of a port depends on whose stream it is, not on which. -/
theorem autoKind_congr {t x : Stream} (hc : t.core = x.core) (hl : t.launch = x.launch) (he : t.eff = x.eff) (va : Word) (s : State) :
    autoKind t va s = autoKind x va s := by
  have h (a : Acc) : transC { t with port := 13 } a va s = transC { x with port := 13 } a va s := by
    simp only [transC, streamReach, hc, hl, he]
  unfold autoKind
  simp only [h]

/-! ### Rings (R257) -/

theorem getRing_key {s : State} {c : Nat} {tid : BitVec 31} {obj : Word} {r : Ring} (h : getRing s c tid obj = some r) :
    r.core = c ∧ r.tid = tid ∧ r.obj = obj := by
  simpa using List.find?_some h

theorem getRing_congr {s t : State} (h : t.copy.rings = s.copy.rings) : getRing t = getRing s := by
  funext c tid obj
  rw [getRing, h, getRing]

/-- A ring that is put back is found under its key. -/
theorem getRing_setRing {s : State} {c : Nat} {tid : BitVec 31} {obj : Word} {r x : Ring} (h : getRing s c tid obj = some r)
    (hx : x.core = c ∧ x.tid = tid ∧ x.obj = obj) : getRing (setRing s x) c tid obj = some x := by
  obtain ⟨hc, ht, ho⟩ := hx
  subst hc ht ho
  unfold getRing at h
  unfold getRing setRing
  dsimp only
  generalize s.copy.rings = l at h
  induction l with
  | nil => cases h
  | cons y l ih =>
    by_cases hy : y.core = x.core ∧ y.tid = x.tid ∧ y.obj = x.obj
    · simp [hy]
    · rw [List.find?_cons_of_neg (by simpa using hy)] at h
      rw [List.map_cons, if_neg hy, List.find?_cons_of_neg (by simpa using hy)]
      exact ih h

/-! ### Joining the queued streams -/

/-- Where a stream writes: the slots of its ring, or the destination given (R257). -/
def streamTarget (ro : Option Ring) (dst : Word) : Word :=
  match ro with
  | some r => r.base
  | none => dst

/-- The stream that a CGO dispatches, before it has a port. -/
def unplacedStream (desc : Word) (tag : Nat) (obj : Word) (ro : Option Ring) (mx : Bool) (s : State) : Stream :=
  { id := s.copy.nextId, core := s.core.id, tid := s.core.seq.tid, port := 0, desc := desc, tag := tag, num := s.core.vec.num + 1,
    ring := ro.map fun r => (obj, r.resv), follow := mx, eff := s.core.seq.eff }

/-- The stream that a CGO dispatches, `p` its port, or none for the port that `.auto` takes. -/
def cgoStream (p : Option Nat) (desc src dst : Word) (tag : Nat) (obj : Word) (ro : Option Ring) (mx : Bool) (s : State) : Stream :=
  { unplacedStream desc tag obj ro mx s with port := p.getD (autoPort (unplacedStream desc tag obj ro mx s) src (streamTarget ro dst) s) }

/-- The state in which `st` has joined the queued streams, with the next slot of its ring, and the task committed where it writes outside
its frame (R142, R257). -/
def streamQueued (st : Stream) (target : Word) (ro : Option Ring) (s : State) : State :=
  let s1 := if inTaskFrame s target then s else commitTask s
  let s2 := { s1 with copy := { s1.copy with streams := s1.copy.streams ++ [st], nextId := s.copy.nextId + 1 } }
  match ro with
  | some r => setRing s2 { r with resv := r.resv + 1 }
  | none => s2

section Queued

variable (st : Stream) (target : Word) (ro : Option Ring) (s : State)

theorem commitTask_copy : (commitTask s).copy = s.copy := rfl

theorem streamQueued_core : (streamQueued st target ro s).core =
    { s.core with seq := { s.core.seq with cmt := s.core.seq.cmt || !inTaskFrame s target } } := by
  unfold streamQueued
  cases ro <;> by_cases h : inTaskFrame s target = true <;> simp [h, setRing, commitTask, setSeq]

theorem streamQueued_mem : (streamQueued st target ro s).mem = s.mem := by
  unfold streamQueued
  cases ro <;> by_cases h : inTaskFrame s target = true <;> simp [h, setRing, commitTask]

theorem streamQueued_streams : (streamQueued st target ro s).copy.streams = s.copy.streams ++ [st] ∧
    (streamQueued st target ro s).copy.nextId = s.copy.nextId + 1 := by
  unfold streamQueued
  cases ro <;> by_cases h : inTaskFrame s target = true <;> simp [h, setRing, commitTask]

end Queued

/-- The ring has one more slot reserved, and its pointers stand where they stood (R257). -/
def Reserves (s : State) (obj : Word) (r : Ring) (t : State) : Prop :=
  ∃ r', getRing t s.core.id s.core.seq.tid obj = some r' ∧ r'.resv = r.resv + 1 ∧ r'.wptr = r.wptr ∧ r'.rptr = r.rptr

theorem streamQueued_reserves {st : Stream} {target obj : Word} {r : Ring} {s : State} (h : getRing s s.core.id s.core.seq.tid obj = some r) :
    Reserves s obj r (streamQueued st target (some r) s) := by
  have hkey := getRing_key h
  refine ⟨{ r with resv := r.resv + 1 }, getRing_setRing (r := r) ((congrFun (congrFun (congrFun (getRing_congr ?_) _) _) _).trans h) hkey,
    rfl, rfl, rfl⟩
  dsimp only
  split
  · rfl
  · rw [commitTask_copy]

/-- `v` is `s` with `st` a stream of the running task at the end of the queued ones; control stands at the same head. -/
structure JoinsQueue (s v : State) (st : Stream) : Prop where
  streams : v.copy.streams = s.copy.streams ++ [st]
  nextId : v.copy.nextId = s.copy.nextId + 1
  own : st.id = s.copy.nextId ∧ st.core = s.core.id ∧ st.tid = s.core.seq.tid ∧ st.running = false ∧ st.launch = 0
  head : SameHead s v
  regs : v.core.seq.regs = s.core.seq.regs
  mem : v.mem = s.mem
  vec : VectorKept s v
  tiles : TilesKept s v
  status : StatusKept s v

/-- An instruction after whose work a stream has joined the queued ones, and whose flow comes to `p`. -/
theorem JoinsQueue.queuesStream {i : Instr} {s v t : State} {st : Stream} {p : Word} {x : Stream → Prop} {post : State → Prop}
    (h : JoinsQueue s v st) (he : exec i s = .next t) (ht : ScalarOnly v t) (hr : t.core.seq.regs = v.core.seq.regs)
    (hp : s.core.seq.loops = [] → t.core.seq.pc = p) (hx : x st) (hpost : post t) : QueuesStream i s p x post := by
  obtain ⟨hid, hcore, htid, hrun, hlaunch⟩ := h.own
  have hvec : VectorKept v t := by
    rw [ht]
    simp [VectorKept]
  have htiles : TilesKept v t := by
    rw [ht]
    rfl
  have hstatus : StatusKept v t := by
    rw [ht]
    simp [StatusKept]
  have hcopy : t.copy = v.copy := by rw [ht]
  have hmem : t.mem = v.mem := by rw [ht]
  refine ⟨t, st, he, hcopy ▸ h.streams, hid, hcopy ▸ h.nextId, hcore, htid, hrun, hlaunch, hx, hpost, hp, regsKept_of_regs [] (hr.trans h.regs),
    memKept_of_mem (hmem.trans h.mem), ?_, htiles.trans h.tiles, ?_⟩
  · have := h.vec
    unfold VectorKept at *
    simp_all
  · have := h.status
    unfold StatusKept at *
    simp_all

theorem scalarOnly_trans {s t u : State} (h1 : ScalarOnly s t) (h2 : ScalarOnly t u) : ScalarOnly s u := by
  unfold ScalarOnly at *
  rw [h2, h1]

theorem scalarOnly_advance (v : State) : ScalarOnly v (advance v) := rfl

theorem JoinsQueue.queuesStream_done {i : Instr} {s v : State} {st : Stream} {x : Stream → Prop} {post : State → Prop}
    (h : JoinsQueue s v st) (he : exec i s = done v) (hx : x st) (hpost : post (advance v)) : QueuesStream i s (nextPc s) x post :=
  h.queuesStream he (scalarOnly_advance v) rfl (fun hl => (flowsOn_advance h.head hl).1) hx hpost

/-! ### Past the follow-on (R53) -/

theorem nextPc_within {s : State} (h : slotOf s.core.seq.pc < curN s) : nextPc s = BitVec.ofNat 64 (s.core.seq.pc.toNat + 2) := if_pos h

theorem nextPc_at_end {s : State} (h : ¬slotOf s.core.seq.pc < curN s) :
    nextPc s = BitVec.ofNat 64 (s.core.seq.pc.toNat / 64 * 64 + 66) := if_neg h

/-- Sequential flow that stays in its line goes to the next slot. -/
theorem slot_lt_of_same_line {s : State} (hl : lineBase (nextPc s) = lineBase s.core.seq.pc) : slotOf s.core.seq.pc < curN s := by
  by_contra h
  have hpc : s.core.seq.pc.toNat < 2 ^ 64 := s.core.seq.pc.isLt
  rw [nextPc_at_end h, lineBase, lineBase, BitVec.toNat_ofNat] at hl
  omega

/-- Control stands at the next head. -/
def atNext (s : State) : State := setSeq s { s.core.seq with pc := nextPc s }

/-- The head after the next one, in a line that holds both. -/
theorem nextPc_twice {s : State} (hn : slotOf (nextPc s) < curN s) (hl : lineBase (nextPc s) = lineBase s.core.seq.pc) :
    nextPc (atNext s) = s.core.seq.pc + 4 := by
  have hpc := nextPc_within (slot_lt_of_same_line hl)
  have h4 : (4 : Word).toNat = 4 := rfl
  refine (nextPc_within (s := atNext s) hn).trans ?_
  show BitVec.ofNat 64 ((nextPc s).toNat + 2) = _
  rw [hpc]
  apply BitVec.eq_of_toNat_eq
  simp only [BitVec.toNat_ofNat, BitVec.toNat_add, h4]
  omega

/-- Where a CGO `.mx` outside a loop goes on. -/
theorem advanceMx_flat {v : State} (hl : v.core.seq.loops = []) : advanceMx v = advance (atNext v) := by
  unfold advanceMx
  rw [hl]
  rfl

theorem scalarOnly_advanceMx (v : State) : ScalarOnly v (advanceMx v) ∧ (advanceMx v).core.seq.regs = v.core.seq.regs := by
  unfold advanceMx
  extract_lets ends t
  have ht : ScalarOnly v t := scalarOnly_advance v
  have hr : t.core.seq.regs = v.core.seq.regs := rfl
  clear_value t
  split
  · split
    · exact ⟨scalarOnly_trans ht (scalarOnly_advance t), hr⟩
    · exact ⟨ht, hr⟩
  · exact ⟨scalarOnly_trans (t := atNext v) rfl (scalarOnly_advance (atNext v)), rfl⟩

theorem JoinsQueue.queuesStream_follow {i : Instr} {s v : State} {st : Stream} {x : Stream → Prop} {post : State → Prop}
    (h : JoinsQueue s v st) (he : exec i s = .next (advanceMx v)) (hn : slotOf (nextPc s) < curN s)
    (hl : lineBase (nextPc s) = lineBase s.core.seq.pc) (hx : x st) (hpost : post (advanceMx v)) :
    QueuesStream i s (s.core.seq.pc + 4) x post := by
  obtain ⟨hscalar, hregs⟩ := scalarOnly_advanceMx v
  refine h.queuesStream he hscalar hregs (fun hloops => ?_) hx hpost
  obtain ⟨hpc, hline, hkept⟩ := h.head
  have hnext := h.head.nextPc
  have hv : v.core.seq.loops = [] := hkept.trans hloops
  have hcur : curN v = curN s := by
    unfold curN
    rw [hline]
  rw [advanceMx_flat hv, (advance_pc (atNext v) hv).1, nextPc_twice (by rwa [hnext, hcur]) (by rwa [hnext, hpc]), hpc]

end Sys2Proof.Proofs
end

section
/-! CBIND, CGO and CVLD (R142, R255 to R258, R261). -/

namespace Sys2Proof.Proofs

open Sys2Proof.Machine Sys2Proof.Safety

/-! ### The way to the dispatcher -/

theorem aligned64_of_aligned {r : SReg} {f : State → Out} {s : State} (h : (getS s r).toNat % 64 = 0) : aligned64 r f s = f s :=
  if_neg (not_not.mpr h)

theorem placed_of_placed {mx : Bool} {f : State → Out} {s : State} (h : misplaced mx s = none) : placed mx f s = f s := by
  rw [placed, h]

theorem misplaced_false (s : State) : misplaced false s = none := rfl

/-- The ring that a CGO names is registered, or it names none (R257). -/
def NamesRing (s : State) (rg : SReg) (ro : Option Ring) : Prop :=
  (rg = 0 ∧ ro = none) ∨
    (rg ≠ 0 ∧ (getS s rg).toNat % 64 = 0 ∧ ∃ r, ro = some r ∧ getRing s s.core.id s.core.seq.tid (getS s rg) = some r)

theorem namesRing_zero (s : State) : NamesRing s 0 none := .inl ⟨rfl, rfl⟩

theorem NamesRing.aligned {s : State} {rg : SReg} {ro : Option Ring} (h : NamesRing s rg ro) : (getS s rg).toNat % 64 = 0 := by
  rcases h with ⟨rfl, -⟩ | ⟨-, h, -⟩
  · rw [getS_zero]
    rfl
  · exact h

theorem getS_readOnly {s u : State} (h : ReadOnly s u) (r : SReg) : getS u r = getS s r := by rw [h]; rfl

theorem NamesRing.of_readOnly {s u : State} {rg : SReg} {ro : Option Ring} (h : NamesRing s rg ro) (hu : ReadOnly s u) :
    NamesRing u rg ro := by
  unfold NamesRing at *
  rw [getS_readOnly hu]
  rw [hu]
  exact h

/-- Whatever a CGO names as its ring, it is found. -/
theorem NamesRing.found {s : State} {rg : SReg} {ro : Option Ring} (h : NamesRing s rg ro) :
    (if rg = 0 then none else getRing s s.core.id s.core.seq.tid (getS s rg)) = ro ∧ ¬(rg ≠ 0 ∧ ro = none) := by
  rcases h with ⟨rfl, rfl⟩ | ⟨h0, -, r, rfl, hr⟩
  · exact ⟨if_pos rfl, fun hc => hc.1 rfl⟩
  · exact ⟨(if_neg h0).trans hr, fun hc => by cases hc.2⟩

theorem dispatchStream_plain {p : Option Nat} {desc src dst : Word} {tag : Nat} {rg : SReg} {ro : Option Ring} {s : State}
    (hro : NamesRing s rg ro) (hf : queueFull false s = false) : dispatchStream p desc src dst tag rg false s =
      done (bumpNum (streamQueued (cgoStream p desc src dst tag (getS s rg) ro false s) (streamTarget ro dst) ro s)) := by
  obtain ⟨hfound, hnamed⟩ := hro.found
  unfold dispatchStream
  simp only [hfound, hf]
  rw [if_neg hnamed]
  rfl

theorem dispatchStream_follow {p : Option Nat} {desc src dst : Word} {tag : Nat} {rg : SReg} {ro : Option Ring} {s : State} {e : MEntry}
    (hro : NamesRing s rg ro) (he : followOn s = .ok e) (hf : queueFull true s = false) : dispatchStream p desc src dst tag rg true s =
      .next (advanceMx (pushMat { e with stream := some s.copy.nextId, follow := true }
        (streamQueued (cgoStream p desc src dst tag (getS s rg) ro true s) (streamTarget ro dst) ro s))) := by
  obtain ⟨hfound, hnamed⟩ := hro.found
  unfold dispatchStream
  simp only [hfound, he, hf]
  rw [if_neg hnamed]
  rfl

/-! ### What has joined -/

section Joined

variable {s u : State} (hu : ReadOnly s u)
include hu

theorem inTaskFrame_readOnly (a : Word) : inTaskFrame u a = inTaskFrame s a := by
  rw [hu]
  rfl

/-- The stream of a CGO joins the queued ones. -/
theorem joinsQueue_streamQueued (p : Option Nat) (desc src dst : Word) (tag : Nat) (obj target : Word) (ro : Option Ring) (mx : Bool) :
    let st := cgoStream p desc src dst tag obj ro mx u
    JoinsQueue s (streamQueued st target ro u) st := by
  intro st
  obtain ⟨hstreams, hnext⟩ := streamQueued_streams st target ro u
  have hv := streamQueued_core st target ro u
  have hseq := hu.seq
  constructor
  case streams => rw [hstreams, hu.copy]
  case nextId => rw [hnext, hu.copy]
  case own => exact ⟨congrArg Copy.nextId hu.copy, hu.id, hu.tid, rfl, rfl⟩
  case mem => rw [streamQueued_mem, hu.mem]
  case head => rw [SameHead, hv]; exact hu.sameHead
  case regs => rw [hv]; exact hu.regs
  case vec => simp [VectorKept, hv, hu.vec]
  case tiles => rw [TilesKept, hv]; exact congrArg Mat.a hu.mat
  case status =>
    rw [StatusKept, hv, hseq]
    simp

end Joined

/-- A program-order number taken, or a command placed in the matrix queue, changes nothing that joining names. -/
theorem JoinsQueue.bumpNum {s v : State} {st : Stream} (h : JoinsQueue s v st) : JoinsQueue s (Machine.bumpNum v) st :=
  ⟨h.streams, h.nextId, h.own, h.head, h.regs, h.mem, h.vec, h.tiles, h.status⟩

theorem JoinsQueue.pushMat {s v : State} {st : Stream} (h : JoinsQueue s v st) (e : MEntry) : JoinsQueue s (Machine.pushMat e v) st :=
  ⟨h.streams, h.nextId, h.own, h.head, h.regs, h.mem, h.vec, h.tiles, h.status⟩

/-- Taking a number and going on leaves the commit mark and the dispatchers alone. -/
theorem advance_bumpNum_keeps (v : State) :
    (advance (bumpNum v)).core.seq.cmt = v.core.seq.cmt ∧ (advance (bumpNum v)).copy = v.copy := ⟨rfl, rfl⟩

theorem reserves_congr {s t u : State} {obj : Word} {r : Ring} (h : u.copy = t.copy) : Reserves s obj r u ↔ Reserves s obj r t := by
  unfold Reserves
  rw [getRing_congr (congrArg Copy.rings h)]

/-- A CGO without a follow-on that comes to the dispatcher queues its stream, reserves the slot of its ring, and commits the task where it
writes outside its frame (R142, R257). -/
theorem queues_of_dispatch {i : Instr} {p : Option Nat} {desc src dst : Word} {tag : Nat} {rg : SReg} {ro : Option Ring} {s u : State}
    {x : Stream → Prop} {post : State → Prop} (hu : ReadOnly s u) (he : exec i s = dispatchStream p desc src dst tag rg false u)
    (hro : NamesRing s rg ro) (hf : queueFull false u = false) (hx : x (cgoStream p desc src dst tag (getS s rg) ro false u))
    (hpost : ∀ t, t.core.seq.cmt = (s.core.seq.cmt || !inTaskFrame s (streamTarget ro dst)) →
      (∀ r, ro = some r → Reserves s (getS s rg) r t) → post t) : QueuesStream i s (nextPc s) x post := by
  have hrou := hro.of_readOnly hu
  rw [dispatchStream_plain hrou hf, getS_readOnly hu] at he
  have hjoins := joinsQueue_streamQueued hu p desc src dst tag (getS s rg) (streamTarget ro dst) ro false
  obtain ⟨hcmt, hcopy⟩ := advance_bumpNum_keeps
    (streamQueued (cgoStream p desc src dst tag (getS s rg) ro false u) (streamTarget ro dst) ro u)
  refine hjoins.bumpNum.queuesStream_done he hx (hpost _ ?_ fun r hr => ?_)
  · rw [hcmt, streamQueued_core, inTaskFrame_readOnly hu, ← hu.cmt]
  · subst hr
    rcases hrou with ⟨-, h⟩ | ⟨-, -, r', hr', hring⟩
    · cases h
    cases hr'
    have hres := streamQueued_reserves
      (st := cgoStream p desc src dst tag (getS s rg) (some r) false u) (target := streamTarget (some r) dst) hring
    rw [getS_readOnly hu, Reserves, hu.id, hu.tid] at hres
    exact (reserves_congr hcopy).mpr hres

/-- A CGO `.mx` that comes to the dispatcher queues its stream, and its follow-on in the matrix order (R258). -/
theorem queues_of_follow {i : Instr} {p : Option Nat} {desc src dst : Word} {tag : Nat} {s u : State} {e : MEntry}
    {x : Stream → Prop} (hu : ReadOnly s u) (he : exec i s = dispatchStream p desc src dst tag 0 true u)
    (hfollow : followOn u = .ok e) (hf : queueFull true u = false) (hn : slotOf (nextPc s) < curN s)
    (hl : lineBase (nextPc s) = lineBase s.core.seq.pc) (hx : x (cgoStream p desc src dst tag (getS s 0) none true u)) :
    QueuesStream i s (s.core.seq.pc + 4) x fun t =>
      t.core.mat.queue = s.core.mat.queue ++ [{ e with stream := some s.copy.nextId, follow := true }] := by
  rw [dispatchStream_follow (namesRing_zero u) hfollow hf, getS_readOnly hu] at he
  refine ((joinsQueue_streamQueued hu p desc src dst tag (getS s 0) dst none true).pushMat _).queuesStream_follow he hn hl hx ?_
  rw [(scalarOnly_advanceMx _).1]
  show (streamQueued _ _ _ _).core.mat.queue ++ _ = _
  rw [streamQueued_core, hu.copy, hu.mat]

/-! ### CBIND (R256) -/

theorem getBind_setBind_self {b : PortBind} {s : State} {p : Nat} (hc : b.core = s.core.id) (ht : b.tid = s.core.seq.tid) (hp : b.port = p) :
    getBind (setBind b s) p = some b := by
  simp [getBind, setBind, hc, ht, hp]

theorem getBind_setBind_other {b : PortBind} {s : State} {p : Nat} (hp : p ≠ b.port) : getBind (setBind b s) p = getBind s p := by
  unfold getBind setBind
  rw [List.find?_cons_of_neg (by simp [hp.symm])]
  refine find_filter_of_imp _ _ _ fun x _ hx => ?_
  obtain ⟨-, -, hxp⟩ := of_decide_eq_true hx
  simp [hxp, hp]

/-- The state in which CBIND has bound its port. -/
def bound (p : BitVec 4) (a dst : Word) (s : State) : State := bumpNum (setBind ⟨s.core.id, s.core.seq.tid, p.toNat, a, dst⟩ s)

theorem cbind_binds {p : BitVec 4} {d : SReg} {s s1 : State} {ph : Phys} (hp : p ≠ 12) (ha : (getS s d).toNat % 64 = 0)
    (h : Reached s .r (getS s d + 8) 8 s1 ph) (hf : FreshLine s ph.pa) :
    ∃ t, exec (.cbind p d) s = .next t ∧
      getBind t p.toNat = some ⟨s.core.id, s.core.seq.tid, p.toNat, getS s d, BitVec.ofNat 64 (memRead s.mem ph.pa 8)⟩ ∧
      (∀ q, q ≠ p.toNat → getBind t q = getBind s q) ∧ t.copy.streams = s.copy.streams ∧ RegsKept [] s t ∧ FlowsOn s t ∧ MemKept s t := by
  have h8 : (getS s d + 8).toNat % 64 + 8 ≤ 64 := by
    have : (8 : Word).toNat = 8 := rfl
    rw [BitVec.toNat_add]
    omega
  obtain ⟨u, -, hu, hread⟩ := withRead_reached h hf h8
  have hbind (q : Nat) : getBind u q = getBind s q := by
    unfold getBind
    rw [hu.id, hu.tid, hu.copy]
  have he : exec (.cbind p d) s = done (bound p (getS s d) (BitVec.ofNat 64 (memRead s.mem ph.pa 8)) u) :=
    (if_neg hp).trans ((aligned64_of_aligned ha).trans (hread _))
  have hstreams : u.copy.streams = s.copy.streams := congrArg Copy.streams hu.copy
  refine ⟨_, he, ?_, fun q hq => ?_, hstreams, regsKept_of_regs [] hu.regs, flowsOn_advance (u := bound _ _ _ u) hu.sameHead,
    memKept_of_mem hu.mem⟩
  · rw [← hu.id, ← hu.tid]
    exact getBind_setBind_self (s := u) rfl rfl rfl
  · exact (getBind_setBind_other (s := u) hq).trans (hbind q)

/-! ### CGO on a port (R257) -/

theorem goPort_bound {p : BitVec 4} {tag : BitVec 8} {rg : SReg} {mx : Bool} {b : PortBind} {s : State} (he : takeError s = none)
    (hm : misplaced mx s = none) (hb : getBind s p.toNat = some b) (hp : p ≠ 12) (ha : (getS s rg).toNat % 64 = 0) :
    goPort p tag rg mx s = dispatchStream (some p.toNat) b.desc 0 b.dst tag.toNat rg mx s := by
  rw [goPort, withCopyError_of_none he, placed_of_placed hm, hb]
  exact (if_neg hp).trans (aligned64_of_aligned ha)

/-- There is room for another queued stream, and for a follow-on where there is one (R7, R258). -/
theorem queueFull_of_room {mx : Bool} {s : State} (h : (queuedStreams s s.core).length < 32)
    (hm : mx = true → (s.core.mat.queue.filter fun o => o.follow && !o.issued).length < 4) : queueFull mx s = false := by
  unfold queueFull
  cases mx with
  | false => simpa using h
  | true => simpa using ⟨h, hm rfl⟩

theorem queueFull_readOnly {s u : State} (hu : ReadOnly s u) (mx : Bool) : queueFull mx u = queueFull mx s := by
  rw [hu]
  rfl

/-! ### CGO `.auto` (R256) -/

theorem goAuto_dispatches {d rg : SReg} {tag : BitVec 8} {mx : Bool} {s s1 : State} {ph : Phys} (he : takeError s = none)
    (hm : misplaced mx s = none) (ha : (getS s d).toNat % 64 = 0) (hg : (getS s rg).toNat % 64 = 0) (hf : queueFull mx s = false)
    (h : Reached s .r (getS s d) 16 s1 ph) (hfresh : FreshLine s ph.pa) :
    ∃ u, u = (readCached ph 16 (crossed ph.pa 16 s1)).2 ∧ ReadOnly s u ∧ goAuto d tag rg mx s =
      dispatchStream none (getS s d) (BitVec.ofNat 64 (memRead s.mem ph.pa 8)) (BitVec.ofNat 64 (memRead s.mem (ph.pa + 8) 8)) tag.toNat rg mx
        u := by
  obtain ⟨u, hread, hu, hr⟩ := withRead_reached h hfresh (by omega)
  have hwords : memRead s.mem ph.pa 16 = memRead s.mem ph.pa 8 + 2 ^ 64 * memRead s.mem (ph.pa + 8) 8 := memRead_add s.mem 8 8 ph.pa
  have hlow : memRead s.mem ph.pa 8 < 2 ^ 64 := memRead_lt s.mem 8 ph.pa
  have hsrc : BitVec.ofNat 64 (memRead s.mem ph.pa 16) = BitVec.ofNat 64 (memRead s.mem ph.pa 8) := by
    apply BitVec.eq_of_toNat_eq
    rw [BitVec.toNat_ofNat, BitVec.toNat_ofNat, hwords, Nat.add_mul_mod_self_left]
  have hdst : memRead s.mem ph.pa 16 / 2 ^ 64 = memRead s.mem (ph.pa + 8) 8 := by
    rw [hwords, Nat.add_mul_div_left _ _ (by decide), Nat.div_eq_of_lt hlow, Nat.zero_add]
  refine ⟨u, hread, hu, ?_⟩
  rw [goAuto, withCopyError_of_none he, placed_of_placed hm, aligned64_of_aligned ha, aligned64_of_aligned hg]
  simp only [hf, Bool.false_and, Bool.false_eq_true, if_false, hr, hsrc, hdst]

/-- The port of a stream dispatched with `.auto` is the one R256 names for its endpoints. -/
theorem autoPort_of_cgoStream {s u : State} (hu : ReadOnly s u) (desc src dst : Word) (tag : Nat) (obj : Word) (ro : Option Ring) (mx : Bool) :
    AutoPort s (autoKind (taskStream s) src u) (autoKind (taskStream s) (streamTarget ro dst) u)
      (cgoStream none desc src dst tag obj ro mx u).port := by
  have hload : portLoad u = portLoad s := by
    funext q
    rw [portLoad, hu.copy, hu.id, hu.tid, portLoad]
  have hkind (va : Word) : autoKind (unplacedStream desc tag obj ro mx u) va u = autoKind (taskStream s) va u :=
    autoKind_congr (t := unplacedStream desc tag obj ro mx u) (x := taskStream s) hu.id rfl hu.eff va u
  have hleast := autoPort_least (t := unplacedStream desc tag obj ro mx u) (s := u) rfl rfl rfl src (streamTarget ro dst)
  rw [hkind, hkind] at hleast
  unfold AutoPort at *
  rw [hload] at hleast
  exact hleast

/-! ### CVLD (R261) -/

/-- The rotation base of the innermost LOOPR, that a destination is named under (R158, R182). -/
def cvldRot (s : State) : Nat := ((s.core.seq.loops.find? fun e => e.loopr).map LoopEntry.rot).getD 0

theorem dstSlot_of_ne_nil {vd : VDst} (h : vd ≠ .nil) (rot : Nat) : ∃ slot, dstSlot rot vd = some slot := by
  cases vd with
  | v r => exact ⟨_, rfl⟩
  | o r => exact ⟨_, rfl⟩
  | nil => exact absurd rfl h

/-- The stream of a CVLD: on port 12, with the register that it delivers to. -/
def cvldStream (slot : Nat) (md : MReg) (d : SReg) (tag : BitVec 8) (ty : ETy) (s : State) : Stream :=
  { id := s.copy.nextId, core := s.core.id, tid := s.core.seq.tid, port := 12, desc := getS s d, tag := tag.toNat,
    num := s.core.vec.num + 1, ring := none, deliver := some ⟨slot, md, ty, s.core.vec.vl.toNat, []⟩, eff := s.core.seq.eff }

/-- The state in which the delivery is queued, and later vector instructions are held (R261). -/
def cvldQueued (st : Stream) (x : SReg) (s : State) : State :=
  let t1 := setCopy s { s.copy with streams := s.copy.streams ++ [st], nextId := s.copy.nextId + 1 }
  let t2 := setVec t1 { s.core.vec with block := some ⟨0, [x]⟩ }
  bumpNum (setSeq t2 { t2.core.seq with busy := if x = 0 then t2.core.seq.busy else x :: t2.core.seq.busy })

section Cvld

variable {vd : VDst} {md : MReg} {d x : SReg} {tag : BitVec 8} {ty : ETy} {s : State} (he : takeError s = none)
  (ha : (getS s d).toNat % 64 = 0) (hvd : vd ≠ .nil)
include he ha hvd

theorem cvld_waits (hb : s.core.vec.block.isSome = true) : Waits (.cvld vd md d x tag ty) s := by
  obtain ⟨slot, hslot⟩ := dstSlot_of_ne_nil hvd (cvldRot s)
  refine waits_of_stall (point := false) ?_
  show execCvld vd md d x tag ty s = _
  rw [execCvld, withCopyError_of_none he, aligned64_of_aligned ha]
  rw [cvldRot] at hslot
  simp only [hslot, hb, if_true]

theorem exec_cvld (hvl : s.core.vec.vl.toNat ≤ ty.vlmax) (hb : s.core.vec.block = none) (hroom : (queuedStreams s s.core).length < 32) :
    ∃ slot, exec (.cvld vd md d x tag ty) s = done (cvldQueued (cvldStream slot md d tag ty s) x s) := by
  obtain ⟨slot, hslot⟩ := dstSlot_of_ne_nil hvd (cvldRot s)
  refine ⟨slot, ?_⟩
  show execCvld vd md d x tag ty s = _
  rw [execCvld, withCopyError_of_none he, aligned64_of_aligned ha]
  rw [cvldRot] at hslot
  simp only [hslot, hb, Option.isSome_none, Bool.false_eq_true, if_false, if_neg (not_lt.mpr hvl), if_neg (not_le.mpr hroom)]
  rfl

theorem cvld_queues (hvl : s.core.vec.vl.toNat ≤ ty.vlmax) (hb : s.core.vec.block = none) (hroom : (queuedStreams s s.core).length < 32) :
    QueuesStream (.cvld vd md d x tag ty) s (nextPc s)
      (fun y => y.port = 12 ∧ y.desc = getS s d ∧ ∃ dv, y.deliver = some dv ∧ dv.m = md ∧ dv.ty = ty ∧ dv.vl = s.core.vec.vl.toNat)
      (fun t => t.core.vec.block.isSome = true ∧ (x ≠ 0 → x ∈ t.core.seq.busy)) := by
  obtain ⟨slot, hx⟩ := exec_cvld (md := md) (x := x) (tag := tag) he ha hvd hvl hb hroom
  have hjoins : JoinsQueue s (cvldQueued (cvldStream slot md d tag ty s) x s) (cvldStream slot md d tag ty s) := by
    constructor
    case vec => simp [VectorKept, cvldQueued, bumpNum]
    case status => simp [StatusKept, cvldQueued, bumpNum]
    case own => exact ⟨rfl, rfl, rfl, rfl, rfl⟩
    case head => exact ⟨rfl, rfl, rfl⟩
    all_goals rfl
  refine hjoins.queuesStream_done hx ⟨rfl, rfl, _, rfl, rfl, rfl, rfl⟩ ⟨rfl, fun h0 => ?_⟩
  show x ∈ if x = 0 then _ else _
  rw [if_neg h0]
  exact List.mem_cons_self

end Cvld

/-- Settles O48: CBIND is a read and a table entry; a CGO comes to the dispatcher with its port bound (`goPort_bound`) or to be chosen
(`goAuto_dispatches`, `autoPort_of_cgoStream`), which queues the stream (`queues_of_dispatch`, `queues_of_follow`); CVLD queues its own. -/
theorem copyDispatch : Obligations.CopyDispatch := by
  unfold Obligations.CopyDispatch
  intro p tag d rg x vd md ty ph s s1 a obj room follow read src dst fits commits reserves
  refine ⟨fun hp ha h hf => cbind_binds hp ha h hf, fun b he hb hp hroom => ?port, fun he ha h hf hroom => ?auto,
    fun he ha hvd hblock => cvld_waits he ha hvd hblock, fun he ha hvd hvl hblock hroom => cvld_queues he ha hvd hvl hblock hroom⟩
  case port =>
    have hfull : queueFull false s = false := queueFull_of_room hroom (by simp)
    refine ⟨?_, fun r h0 hobj hr => ?_, fun e hm hfollow hmroom hn hl => ?_⟩
    · exact queues_of_dispatch (.refl s) (goPort_bound he (misplaced_false s) hb hp (namesRing_zero s).aligned) (namesRing_zero s) hfull
        ⟨rfl, rfl, rfl, rfl⟩ fun t hc _ => hc
    · have hro : NamesRing s rg (some r) := .inr ⟨h0, hobj, r, rfl, hr⟩
      exact queues_of_dispatch (.refl s) (goPort_bound he (misplaced_false s) hb hp hro.aligned) hro hfull ⟨rfl, rfl, rfl⟩
        fun t hc hres => ⟨hres r rfl, hc⟩
    · exact queues_of_follow (.refl s) (goPort_bound he hm hb hp (namesRing_zero s).aligned) hfollow
        (queueFull_of_room hroom fun _ => hmroom) hn hl ⟨rfl, rfl, rfl⟩
  case auto =>
    have hfull : queueFull false s = false := queueFull_of_room hroom (by simp)
    refine ⟨?_, fun r h0 hobj hr => ?_, fun e u hm hfollow hmroom hqueue hn hl => ?_⟩
    · obtain ⟨v, rfl, hv, hgo⟩ := goAuto_dispatches (tag := tag) he (misplaced_false s) ha (namesRing_zero s).aligned hfull h hf
      exact queues_of_dispatch hv hgo (namesRing_zero s) ((queueFull_readOnly hv _).trans hfull)
        ⟨rfl, rfl, rfl, autoPort_of_cgoStream hv a src dst tag.toNat _ none false⟩ fun t hc _ => hc
    · have hro : NamesRing s rg (some r) := .inr ⟨h0, hobj, r, rfl, hr⟩
      obtain ⟨v, rfl, hv, hgo⟩ := goAuto_dispatches (tag := tag) he (misplaced_false s) ha hro.aligned hfull h hf
      exact queues_of_dispatch hv hgo hro ((queueFull_readOnly hv _).trans hfull)
        ⟨rfl, rfl, autoPort_of_cgoStream hv a src dst tag.toNat _ (some r) false⟩ fun t hc hres => ⟨hres r rfl, hc⟩
    · have hfullMx : queueFull true s = false := queueFull_of_room hroom fun _ => hmroom
      obtain ⟨v, rfl, hv, hgo⟩ := goAuto_dispatches (tag := tag) he hm ha (namesRing_zero s).aligned hfullMx h hf
      subst hqueue
      exact queues_of_follow hv hgo hfollow ((queueFull_readOnly hv _).trans hfullMx) hn hl
        ⟨rfl, rfl, autoPort_of_cgoStream hv a src dst tag.toNat _ none true⟩

end Sys2Proof.Proofs
end
